-- ==== Sys2Proof/Word.lean ====
section
/-!
DEFINITION. The word types of the Burior core: 64-bit words, 4-bit tags (03 R99) and tagged words (03 R95).
-/

namespace Sys2Proof

/-- A 64-bit word. -/
abbrev W64 := BitVec 64

/-- A 32-bit word: an instruction, or a register of the management chain. -/
abbrev W32 := BitVec 32

/-- A tag. Software reads it as four bits (TAGGET), and reserved values can arrive from outside (R102). -/
abbrev Tag := BitVec 4

/-- A physical address: 52 bits (R107). -/
abbrev PAddr := BitVec 52

/-- The number of a hardware context, C0 to C3. -/
abbrev CtxId := BitVec 2

/-- The address of a core on its chain and in I/O space: 12 bits (R79, R107). -/
abbrev CoreId := BitVec 12

namespace Tag
/-- R99: untyped bits. -/
abbrev raw : Tag := 0
/-- R99: integer. -/
abbrev int : Tag := 1
/-- R99: FP64 value or boxed FP32 value. -/
abbrev flt : Tag := 2
/-- R99: data-space address. -/
abbrev dptr : Tag := 3
/-- R99: instruction-space address. -/
abbrev cptr : Tag := 4
/-- R99: I/O-space address. -/
abbrev ioptr : Tag := 5
/-- R99: capability, high word (protected). -/
abbrev caph : Tag := 6
/-- R99: capability, low word (protected). -/
abbrev capl : Tag := 7
/-- R99: shape descriptor image. -/
abbrev shape : Tag := 8
/-- R99: work-counter claim (protected). -/
abbrev epoch : Tag := 9
/-- R99: sealed value (protected). -/
abbrev sealed : Tag := 14
/-- R99: uninitialized or poisoned. -/
abbrev poison : Tag := 15
end Tag

/-- A tagged word (R95): 64 bits and a tag. -/
structure TWord where
  val : W64
  tag : Tag
  deriving DecidableEq, Repr, Inhabited

/-- The word every register starts with (R91): 0 tagged POISON. -/
abbrev TWord.poison : TWord := ⟨0, Tag.poison⟩

/-- 0 tagged RAW. -/
abbrev TWord.zero : TWord := ⟨0, Tag.raw⟩

/-- A line of 64 bytes: eight tagged words (R315). -/
abbrev Line := Vector TWord 8

/-- A line of zero words tagged RAW. -/
abbrev Line.zero : Line := Vector.replicate 8 TWord.zero

end Sys2Proof
end

