-- ==== Sys2Proof/Syntax.lean ====
section
/-!
DEFINITION. The commands of the block: one constructor of `Instr` per row of spec/opcode_table.json, with the
operands its step needs. The table gives no row any bits, so the operands are the model's (log 8): a scalar or tile
instruction carries the fields of its 32-bit word that its row does not fix; a packet, a frame or a result carries what
arrives with it; an event of a pin carries the new value.
-/

namespace Sys2Proof

/-- An error that the storage read of a step meets (R314, R322, R487): the structure as R482 numbers it, the place, and
what is found. `loc` is a scratchpad word; for a cache a word of a line (physical address / 8); for tile registers
16 × register row + 64-bit unit, unit 8 the scale; a Fold pair of elements; a frame slot (32 × window + slot, from 256 the
escalation slots, from 288 the fast slots); or the place of a translation entry. -/
structure EccEvent where
  str : BitVec 3
  loc : Nat
  way : BitVec 4
  uncorrectable : Bool
  /-- caches only: the error is of the address tag, not of the data -/
  addrTag : Bool
  deriving DecidableEq, Repr

/-- A frame of the management chain (R30) less its CMD, which the row fixes. `ahead`: the frames in the slots just before it that no row
stands for, IDLE, RESP and reserved ones (R31, R33). -/
structure ChainFrame where
  addr : CoreId
  reg : BitVec 7
  data : W32
  crc : BitVec 8
  tk : Bool
  ahead : List W64
  deriving DecidableEq, Repr

/-- An I/O request that arrives from the mesh (R423) less its OPC, which the row fixes. -/
structure IoReq where
  addr : W32
  sup : Bool
  sealed : Bool
  src : CoreId
  ctx : CtxId
  txid : BitVec 8
  deriving DecidableEq, Repr

/-- An I/O response (R423). -/
structure IoResp where
  sts : BitVec 2
  txid : BitVec 8
  src : CoreId
  data : TWord
  deriving DecidableEq, Repr

/-- The header of a post (R438). -/
structure PostHdr where
  doff : BitVec 20
  core : CoreId
  lc : BitVec 4
  src : CoreId
  wm1 : BitVec 10
  tags : Bool
  sealed : Bool
  deriving DecidableEq, Repr

/-- The watch registers that WATCH_ARM writes (R408). -/
inductive WatchReg where
  | wland | wmov | wdl
  deriving DecidableEq, Repr

/-- The registers that MTS_TRANSLATION writes (R343). -/
inductive XlateReg where
  | tcr | ttb1 | ttb2
  deriving DecidableEq, Repr

/-- The commands, one for each row of spec/opcode_table.json, in its order but for the first twelve, which have no operands and stand at the
end. -/
inductive Instr where
  /-- TAMPER_EVENT (R45). ALARM_IN is sampled high twice after being low twice, and one tamper event is counted in SVCNT.TM. -/
  | tamperEvent
  /-- REFCLK_LOSS (R55). No REFCLK edge arrives for about 16 ns: REFLOSS is set, a machine check is raised and the tick counter holds. -/
  | refclkLoss
  /-- REFCLK_RETURN (R55). REFCLK edges return and the tick counter goes on counting from its held value. -/
  | refclkReturn
  /-- PACE_HW_CHANGE (R49). A new PACE_HW value is taken up within 16 ticks and the applied pace level is recomputed. -/
  | paceHwChange (v : BitVec 4)
  /-- CUR_HI_RISE (R50). CUR_HI rises and the core applies pace level 15 within 20 ticks. -/
  | curHiRise
  /-- CUR_HI_FALL (R50). CUR_HI falls and the core returns to the governor's level within 16 ticks. -/
  | curHiFall
  /-- STALL_WATCHDOG (R64). A stall count reaches STALL_LIM × 1,024 ticks: STALL is set, a machine check is raised and a Wayside record is written. -/
  | stallWatchdog (src : BitVec 2)
  /-- IO_TIMEOUT (R153). An I/O request on the mesh receives no response within 1,048,576 ticks and completes with the I/O timeout fault. -/
  | ioTimeout (c : CtxId)
  /-- TIMER_INTERRUPT (R403). The tick counter reaches TCMP while TEN is 1 and IPEND bit 32 is set. -/
  | timerInterrupt
  /-- TIME_EVENT (R407). The tick counter reaches WDL and the TIME event of the context is set. -/
  | timeEvent (c : CtxId)
  /-- DROVER_QUANTUM (R404). The running context has run for QUANT × 256 ticks and the Drover may switch to an equal-ranked READY context. -/
  | droverQuantum
  /-- DROVER_SWITCH (R405). The Drover switches the pipeline to the top-ranked context at an instruction boundary. -/
  | droverSwitch
  /-- FC_WINDOW_END (R485). A fault-counting window of WIN ms ends and every CNT is cleared. -/
  | fcWindowEnd
  /-- DUMP_DUE (R469). TSTAMP reaches a multiple of the dump interval and a dump is written or counted as skipped. -/
  | dumpDue
  /-- DUMP_COMPLETE (R470). Every line of a dump is acknowledged, DMHEAD advances and DMSTAT.SEQ rises. -/
  | dumpComplete
  /-- TRACE_RECORD_WRITE (R474). A waiting trace record is written to the trace region and TRHEAD advances, wrapping or setting FULL at the end. -/
  | traceRecordWrite
  /-- SNAPSHOT_COPY (R480). With COPY set, the snapshot is written to two dump slots when the mesh takes them. -/
  | snapshotCopy
  /-- WAYSIDE_SEND (R52). A buffered Wayside record is sent as 8 beats on the Wayside path to the black box. -/
  | waysideSend
  /-- TPWR_DRAIN_END (R213). After an off request, every earlier tile instruction has completed and DRAINING becomes 0. -/
  | tpwrDrainEnd
  /-- TPWR_GATE_OPEN (R213). The tile power gate opens within 64 ticks of the drain's end and POWERED becomes 0. -/
  | tpwrGateOpen
  /-- TPWR_POWER_UP (R214). After power is requested, POWERED returns to 1 within 2,048 ticks. -/
  | tpwrPowerUp
  /-- TILE_COMPLETE (R216). The tile unit completes the remaining work of a committed tile instruction. -/
  | tileComplete
  /-- MESH_FLIT_SEND (R21). An offered flit transfers on a mesh egress lane under the lane priority and fence rules. -/
  | meshFlitSend (ready : BitVec 4)
  /-- CREDIT_RETURN (R27). CWCR_VALID returns one credit to a Causeway channel. -/
  | creditReturn (ch : BitVec 4)
  /-- CAUSEWAY_BEAT (R445). A Causeway channel sends its next beat with one credit; after the SEAL beat the channel leaves STATE 1. -/
  | causewayBeat
  /-- MOVER_BLOCK (R334). A Mover channel checks and writes its next block, advances MPROG, or stops and records the cause. -/
  | moverBlock (ch : BitVec 3) (ecc : Option EccEvent)
  /-- DATA_S (R325). A shared data response completes a fill or a PEEK. -/
  | dataS (txid : BitVec 8) (line : Line)
  /-- DATA_X (R325). An exclusive data response completes a fill or a PEEK. -/
  | dataX (txid : BitVec 8) (line : Line)
  /-- ACK (R318). An acknowledgement completes a PROMOTE, LINE_OUT, POKE or DEV_WR and frees its eviction-buffer entry. -/
  | ack (txid : BitVec 8)
  /-- ERR (R503). An ERR response ends a read request with no line allocated, with the per-access effects that R503 gives. -/
  | err (txid : BitVec 8)
  /-- PROBE_S (R324). A sharing snoop is answered, leaving at most a clean shared copy. -/
  | probeS (addr : PAddr) (src : CoreId) (txid : BitVec 8)
  /-- PROBE_K (R324). An invalidating snoop is answered and the line is removed. -/
  | probeK (addr : PAddr) (src : CoreId) (txid : BitVec 8)
  /-- BAD_PACKET (R25). A packet with a reserved or unreceived class or OPC is discarded and counted in MRX_BAD. -/
  | badPacket (cls : BitVec 4) (opc : BitVec 4)
  /-- IO_RESPONSE (R426). An I/O response completes the matching IN, OUT, CLAIM, COMPLETE or entropy read, or raises the I/O protection fault on STS 1 to 3. -/
  | ioResponse (resp : IoResp)
  /-- IO_READ_SERVE (R424). An I/O READ to a port with no behaviour of its own is answered with the port's value or an error status. -/
  | ioReadServe (q : IoReq)
  /-- IPI (R427). A WRITE to the IPI port sets IPEND bit 33 and the IPI event of the routed context. -/
  | ipi (q : IoReq) (w : TWord)
  /-- WCFG_WRITE (R433). A write to WCFG resets the work counter into a new epoch and sends the subscribed notices. -/
  | wcfgWrite (q : IoReq) (w : TWord)
  /-- WSUB (R434). A READ of WSUB subscribes the requester to the next reset, or returns 2 or 0. -/
  | wsub (q : IoReq)
  /-- CLAIM_SERVE (R431). A work counter serves a CLAIM, handing out the next index or an end marker. -/
  | claimServe (q : IoReq)
  /-- COMPLETE_SERVE (R431). A work counter accepts a COMPLETE into DONE or rejects it into REJ. -/
  | completeServe (q : IoReq) (w : TWord)
  /-- NOTICE (R434). A NOTICE sets the CLAIM event of the named context and is answered with STS 0. -/
  | notice (q : IoReq)
  /-- POST_RECEIVE (R439). An arriving post is accepted, written and added to its landing counter, or discarded and counted in PSTAT.DROP. -/
  | postReceive (h : PostHdr) (ws : List TWord)
  /-- CP_RESULT (R173). A coprocessor result arrives and is matched by tag, dropped, or turned into a coprocessor fault or machine check. -/
  | cpResult (tag : BitVec 3) (res : TWord) (bad : Bool) (code : BitVec 8)
  /-- ENUM (R70). An ENUM frame gives an unaddressed core its address, or sets MISMATCH, and is forwarded one slot later with ADDR incremented. -/
  | enum (f : ChainFrame)
  /-- IDENTQ (R74). An addressed or anonymous identity query is taken and answered with IDENT or FEAT0 to FEAT3. -/
  | identq (f : ChainFrame)
  /-- CHAIN_READ (R31). A chain READ addressed to the core is queued with TK = 1 and later answered. -/
  | chainRead (f : ChainFrame)
  /-- CHAIN_WRITE (R9). A chain WRITE to a register with no behaviour of its own is taken and applied under its access code. -/
  | chainWrite (f : ChainFrame)
  /-- BWRITE (R31). A broadcast write is taken by every addressed core of the herd, and TK is cleared by any core that misses it. -/
  | bwrite (f : ChainFrame)
  /-- CORERST (R65). A CORERST frame taken with TK = 1 starts a core reset with the drain. -/
  | corerst (f : ChainFrame)
  /-- RESP_SEND (R32). A ready response replaces the first usable IDLE frame as a RESP frame. -/
  | respSend
  /-- BOOT_GO (R86). A write of 1 to BOOT.GO releases a Held core into Keys or Start. -/
  | bootGo (f : ChainFrame) (bc : Bool)
  /-- ENABLE0_WRITE (R82). A write to ENABLE0 stores only the features that are present, and stores no tile subfeature while TILE is 0. -/
  | enable0Write (f : ChainFrame) (bc : Bool)
  /-- MBIN_WRITE (R60). A chain write to MBIN stores a word; to MBIN3 it sets IN_FULL and raises the mailbox interrupt, or sets IN_OVR. -/
  | mbinWrite (f : ChainFrame) (bc : Bool)
  /-- MBOUT_WRITE (R60). A core write to MBOUT stores a word; to MBOUT3 it sets OUT_FULL, or sets OUT_OVR. -/
  | mboutWrite (k : BitVec 2)
  /-- TSOFFHI_WRITE (R450). A chain write to TSOFFHI applies the staged timestamp offset, which may step TSTAMP. -/
  | tsoffhiWrite (f : ChainFrame) (bc : Bool)
  /-- TLATLO_READ (R478). A chain READ of TLATLO latches TICK and returns its low half. -/
  | tlatloRead (f : ChainFrame)
  /-- TRHEAD_WRITE (R466). A chain write to TRHEAD sets the next trace record offset and clears TRSTAT.FULL. -/
  | trheadWrite (f : ChainFrame) (bc : Bool)
  /-- DMHEAD_WRITE (R466). A chain write to DMHEAD sets the next dump slot and clears DMSTAT.FULL. -/
  | dmheadWrite (f : ChainFrame) (bc : Bool)
  /-- XRSTAT_TRIG (R480). A chain write of 1 to XRSTAT.TRIG triggers a Crossroads snapshot. -/
  | xrstatTrig (f : ChainFrame) (bc : Bool)
  /-- XRDATA_READ (R480). A read of XRDATA returns snapshot word IDX and advances IDX modulo 128. -/
  | xrdataRead (f : ChainFrame)
  /-- FCCFG_WRITE (R485). A chain write to FCCFG sets the window and threshold, clears every CNT and starts a new window. -/
  | fccfgWrite (f : ChainFrame) (bc : Bool)
  /-- ALMCFG_WRITE (R495). A chain write to ALMCFG sets the alarm thresholds and policy, and locks them when LOCK is 1. -/
  | almcfgWrite (f : ChainFrame) (bc : Bool)
  /-- TGRATE_WRITE (R500). A write to TGRATE sets the Tollgate rates within 16 ticks, capping the bucket tokens. -/
  | tgrateWrite (f : ChainFrame) (bc : Bool)
  /-- TGSTAT_WRITE (R498). A chain write to TGSTAT clears every Tollgate status field. -/
  | tgstatWrite (f : ChainFrame) (bc : Bool)
  /-- CCTL_WRITE (R319). A write to CCTL enables or disables the caches for every later access. -/
  | cctlWrite
  /-- MOVER_GO (R332). A write of MCTL.GO captures the context's translation, checks the parameters and starts the channel from MPROG 0. -/
  | moverGo (ch : BitVec 3)
  /-- MOVER_CONT (R338). A write of MCTL.CONT on a stopped channel repeats the checks and resumes at the block MPROG names. -/
  | moverCont (ch : BitVec 3)
  /-- CAUSEWAY_GO (R444). A write of CCTL.GO on a Causeway channel captures the context, checks parameters and source, and starts the contribution. -/
  | causewayGo (ch : BitVec 4)
  /-- LD (R133). Loads a 64-bit word and its tag into A. -/
  | ld (m : BitVec 3) (d : BitVec 22) (ecc : Option EccEvent)
  /-- LDX (R133). Loads a 64-bit word and its tag into X. -/
  | ldx (m : BitVec 3) (d : BitVec 22) (ecc : Option EccEvent)
  /-- LDY (R133). Loads a 64-bit word and its tag into Y. -/
  | ldy (m : BitVec 3) (d : BitVec 22) (ecc : Option EccEvent)
  /-- ST (R133). Stores A and its tag as a 64-bit word. -/
  | st (m : BitVec 3) (d : BitVec 22)
  /-- STX (R133). Stores X and its tag as a 64-bit word. -/
  | stx (m : BitVec 3) (d : BitVec 22)
  /-- STY (R133). Stores Y and its tag as a 64-bit word. -/
  | sty (m : BitVec 3) (d : BitVec 22)
  /-- LD_B (R133). Loads a sign-extended byte into A. -/
  | ldB (m : BitVec 3) (d : BitVec 22) (ecc : Option EccEvent)
  /-- LD_BU (R133). Loads a zero-extended byte into A. -/
  | ldBu (m : BitVec 3) (d : BitVec 22) (ecc : Option EccEvent)
  /-- LD_H (R133). Loads a sign-extended 16-bit value into A. -/
  | ldH (m : BitVec 3) (d : BitVec 22) (ecc : Option EccEvent)
  /-- LD_HU (R133). Loads a zero-extended 16-bit value into A. -/
  | ldHu (m : BitVec 3) (d : BitVec 22) (ecc : Option EccEvent)
  /-- LD_W (R133). Loads a sign-extended 32-bit value into A. -/
  | ldW (m : BitVec 3) (d : BitVec 22) (ecc : Option EccEvent)
  /-- LD_WU (R133). Loads a zero-extended 32-bit value into A. -/
  | ldWu (m : BitVec 3) (d : BitVec 22) (ecc : Option EccEvent)
  /-- ST_B (R104). Stores the low byte of A, with the tag rules of sub-word stores. -/
  | stB (m : BitVec 3) (d : BitVec 22) (ecc : Option EccEvent)
  /-- ST_H (R104). Stores the low 16 bits of A, with the tag rules of sub-word stores. -/
  | stH (m : BitVec 3) (d : BitVec 22) (ecc : Option EccEvent)
  /-- ST_W (R104). Stores the low 32 bits of A, with the tag rules of sub-word stores. -/
  | stW (m : BitVec 3) (d : BitVec 22) (ecc : Option EccEvent)
  /-- LDC (R134). Loads a 32-bit word of instruction space into A, tagged INT. -/
  | ldc (m : BitVec 3) (d : BitVec 22)
  /-- LEA (R135). Writes the effective address into A. -/
  | lea (m : BitVec 3) (d : BitVec 22)
  /-- LEAX (R135). Writes the effective address into X. -/
  | leax (m : BitVec 3) (d : BitVec 22)
  /-- LEAY (R135). Writes the effective address into Y. -/
  | leay (m : BitVec 3) (d : BitVec 22)
  /-- ADD (R137). A := A + operand, setting C, Z, N and V. -/
  | add (m : BitVec 3) (d : BitVec 22)
  /-- ADC (R137). A := A + operand + C, setting C, Z, N and V. -/
  | adc (m : BitVec 3) (d : BitVec 22)
  /-- SUB (R137). A := A − operand, setting C, Z, N and V. -/
  | sub (m : BitVec 3) (d : BitVec 22)
  /-- SBC (R137). A := A − operand − (1 − C), setting C, Z, N and V. -/
  | sbc (m : BitVec 3) (d : BitVec 22)
  /-- CMP (R137). Sets the flags of A − operand and discards the result. -/
  | cmp (m : BitVec 3) (d : BitVec 22)
  /-- AND (R137). Bitwise AND of A with the operand. -/
  | band (m : BitVec 3) (d : BitVec 22)
  /-- OR (R137). Bitwise OR of A with the operand. -/
  | bor (m : BitVec 3) (d : BitVec 22)
  /-- XOR (R137). Bitwise XOR of A with the operand. -/
  | bxor (m : BitVec 3) (d : BitVec 22)
  /-- SHL (R139). Logical left shift of A by operand bits [5:0]. -/
  | shl (m : BitVec 3) (d : BitVec 22)
  /-- SHR (R139). Logical right shift of A by operand bits [5:0]. -/
  | shr (m : BitVec 3) (d : BitVec 22)
  /-- SAR (R139). Arithmetic right shift of A by operand bits [5:0]. -/
  | sar (m : BitVec 3) (d : BitVec 22)
  /-- ROL (R139). Rotates A left by operand bits [5:0]. -/
  | rol (m : BitVec 3) (d : BitVec 22)
  /-- ROR (R139). Rotates A right by operand bits [5:0]. -/
  | ror (m : BitVec 3) (d : BitVec 22)
  /-- PERM (R140). Permutes the bytes of A under the control nibbles. -/
  | perm (m : BitVec 3) (d : BitVec 22)
  /-- BFX (R141). Extracts a bit field of A, zero- or sign-extended. -/
  | bfx (m : BitVec 3) (d : BitVec 22)
  /-- BFI (R141). Inserts X into a bit field of A. -/
  | bfi (m : BitVec 3) (d : BitVec 22)
  /-- MUL (R117). Signed 128-bit product of A and the operand into MH:ML. -/
  | mul (m : BitVec 3) (d : BitVec 22)
  /-- MULU (R117). Unsigned 128-bit product of A and the operand into MH:ML. -/
  | mulu (m : BitVec 3) (d : BitVec 22)
  /-- DIV (R119). Signed division of A by the operand into MQ and MR. -/
  | div (m : BitVec 3) (d : BitVec 22)
  /-- DIVU (R119). Unsigned division of A by the operand into MQ and MR. -/
  | divu (m : BitVec 3) (d : BitVec 22)
  /-- FADD_D (R142). FP64 addition into A. -/
  | faddD (m : BitVec 3) (d : BitVec 22)
  /-- FADD_S (R142). FP32 addition into A. -/
  | faddS (m : BitVec 3) (d : BitVec 22)
  /-- FSUB_D (R142). FP64 subtraction into A. -/
  | fsubD (m : BitVec 3) (d : BitVec 22)
  /-- FSUB_S (R142). FP32 subtraction into A. -/
  | fsubS (m : BitVec 3) (d : BitVec 22)
  /-- FMUL_D (R142). FP64 multiplication into A. -/
  | fmulD (m : BitVec 3) (d : BitVec 22)
  /-- FMUL_S (R142). FP32 multiplication into A. -/
  | fmulS (m : BitVec 3) (d : BitVec 22)
  /-- FDIV_D (R142). FP64 division into A. -/
  | fdivD (m : BitVec 3) (d : BitVec 22)
  /-- FDIV_S (R142). FP32 division into A. -/
  | fdivS (m : BitVec 3) (d : BitVec 22)
  /-- FMAC_D (R120). FP64 fused A := A + X × operand. -/
  | fmacD (m : BitVec 3) (d : BitVec 22)
  /-- FMAC_S (R120). FP32 fused A := A + X × operand. -/
  | fmacS (m : BitVec 3) (d : BitVec 22)
  /-- FMIN_D (R120). FP64 IEEE 754 minimum into A. -/
  | fminD (m : BitVec 3) (d : BitVec 22)
  /-- FMIN_S (R120). FP32 IEEE 754 minimum into A. -/
  | fminS (m : BitVec 3) (d : BitVec 22)
  /-- FMAX_D (R120). FP64 IEEE 754 maximum into A. -/
  | fmaxD (m : BitVec 3) (d : BitVec 22)
  /-- FMAX_S (R120). FP32 IEEE 754 maximum into A. -/
  | fmaxS (m : BitVec 3) (d : BitVec 22)
  /-- FCMP_D (R122). Unordered-quiet FP64 compare setting the flags. -/
  | fcmpD (m : BitVec 3) (d : BitVec 22)
  /-- FCMPO_D (R122). Ordered FP64 compare setting the flags. -/
  | fcmpoD (m : BitVec 3) (d : BitVec 22)
  /-- FCMP_S (R122). Unordered-quiet FP32 compare setting the flags. -/
  | fcmpS (m : BitVec 3) (d : BitVec 22)
  /-- FCMPO_S (R122). Ordered FP32 compare setting the flags. -/
  | fcmpoS (m : BitVec 3) (d : BitVec 22)
  /-- FSQRT_D (R143). FP64 square root of A. -/
  | fsqrtD (r : BitVec 21)
  /-- FSQRT_S (R143). FP32 square root of A. -/
  | fsqrtS (r : BitVec 21)
  /-- FCVT_D_L (R143). Converts a signed integer in A to FP64. -/
  | fcvtDL (r : BitVec 21)
  /-- FCVT_D_LU (R143). Converts an unsigned integer in A to FP64. -/
  | fcvtDLu (r : BitVec 21)
  /-- FCVT_S_L (R143). Converts a signed integer in A to FP32. -/
  | fcvtSL (r : BitVec 21)
  /-- FCVT_S_LU (R143). Converts an unsigned integer in A to FP32. -/
  | fcvtSLu (r : BitVec 21)
  /-- FCVT_L_D (R144). Converts FP64 in A to a signed integer. -/
  | fcvtLD (r : BitVec 21)
  /-- FCVT_LU_D (R144). Converts FP64 in A to an unsigned integer. -/
  | fcvtLuD (r : BitVec 21)
  /-- FCVT_L_S (R144). Converts FP32 in A to a signed integer. -/
  | fcvtLS (r : BitVec 21)
  /-- FCVT_LU_S (R144). Converts FP32 in A to an unsigned integer. -/
  | fcvtLuS (r : BitVec 21)
  /-- FCVT_S_D (R121). Converts FP64 in A to FP32. -/
  | fcvtSD (r : BitVec 21)
  /-- FCVT_D_S (R121). Converts FP32 in A to FP64. -/
  | fcvtDS (r : BitVec 21)
  /-- IN (R152). Reads the word at an I/O address into A. -/
  | ioIn (m : BitVec 3) (d : BitVec 22)
  /-- OUT (R152). Writes A to an I/O address. -/
  | ioOut (m : BitVec 3) (d : BitVec 22)
  /-- CLAIM (R152). Claims an index from a work counter into A, tagged EPOCH. -/
  | claim (m : BitVec 3) (d : BitVec 22)
  /-- COMPLETE (R152). Reports the claim in A to its work counter. -/
  | complete (m : BitVec 3) (d : BitVec 22)
  /-- JMP (R149). Transfers control to the target after the target check. -/
  | jmp (m : BitVec 3) (d : BitVec 22)
  /-- CALL (R149). Pushes the return address, takes a new frame window and transfers control. -/
  | call (m : BitVec 3) (d : BitVec 22)
  /-- JMPX (R149). Transfers control and sets ST.RH from the target page's Rhaha attribute. -/
  | jmpx (m : BitVec 3) (d : BitVec 22)
  /-- MOV (R145). Copies a register or frame slot, with its tag, into another. -/
  | mov (f : BitVec 25)
  /-- NEG (R137). A := 0 − A, setting C, Z, N and V. -/
  | neg (r : BitVec 21)
  /-- NOT (R137). Bitwise complement of A. -/
  | bnot (r : BitVec 21)
  /-- CLZ (R139). Writes the count of leading zero bits of A into A. -/
  | clz (r : BitVec 21)
  /-- TAGGET (R146). Writes the tag of A, X or Y into A, tagged INT. -/
  | tagget (r : BitVec 21)
  /-- TAGSET (R105). Sets the tag of A, X or Y to an allowed value. -/
  | tagset (f : BitVec 25)
  /-- SKIP (R114). Tests a condition and skips the next instruction when it is true. -/
  | skip (f : BitVec 25)
  /-- RET (R150). Pops the return address, restores the caller's window and drops N extra words. -/
  | ret (f : BitVec 25)
  /-- TRAP (R151). Makes a system call through vector 48 + N or 47. -/
  | trap (f : BitVec 25)
  /-- RFE (R384). Returns from an exception through an 8-word frame, with the return checks. -/
  | rfe (r : BitVec 24)
  /-- RFI (R383). Returns from a level-7 interrupt through the fast bank. -/
  | rfi (r : BitVec 24)
  /-- STILE (R387). Crosses from the Open supervisor to the fixed Sealed entry. -/
  | stile (f : BitVec 25)
  /-- FENCE (R154). Orders earlier accesses of the selected classes before later ones, and with all classes refetches. -/
  | fence (f : BitVec 25)
  /-- TLBINV_VA (R155). Removes the leaf entries covering an address for an ASID and VMID. -/
  | tlbinvVa (r : BitVec 23)
  /-- TLBINV_VAW (R155). Removes the leaf and walk-cache entries covering an address. -/
  | tlbinvVaw (r : BitVec 23)
  /-- TLBINV_ASID (R155). Removes every entry of an ASID in a VMID. -/
  | tlbinvAsid (r : BitVec 23)
  /-- TLBINV_ALL (R155). Removes every translation entry, or those of the current VMID. -/
  | tlbinvAll (r : BitVec 23)
  /-- CINV_ALL (R157). Invalidates every line of the selected caches and sets their INV bits. -/
  | cinvAll (r : BitVec 22)
  /-- CWB_ALL (R157). Writes back every dirty line of the selected caches. -/
  | cwbAll (r : BitVec 22)
  /-- CINV_LINE (R157). Invalidates the line that holds A, discarding dirty data. -/
  | cinvLine (r : BitVec 22)
  /-- CWB_LINE (R157). Writes back the line that holds A if it is dirty. -/
  | cwbLine (r : BitVec 22)
  /-- CWBI_LINE (R157). Writes back, then invalidates, the line that holds A. -/
  | cwbiLine (r : BitVec 22)
  /-- MFS (R147). Copies a system register into A. -/
  | mfs (f : BitVec 25)
  /-- MTS (R147). Copies A into a system register with no behaviour of its own. -/
  | mts (f : BitVec 25)
  /-- MTS_TPWR_OFF (R213). An MTS writing TPWR.ON = 0 makes an off request, losing the tile state and starting the drain. -/
  | mtsTpwrOff (r : BitVec 13)
  /-- MTS_TPWR_ON (R214). An MTS writing TPWR.ON = 1 requests tile power once any drain has ended. -/
  | mtsTpwrOn (r : BitVec 13)
  /-- MTS_ACX (R192). An MTS to ACXn writes four exponents and sets FUSE bit n. -/
  | mtsAcx (n : BitVec 5) (r : BitVec 13)
  /-- MTS_RMAX (R193). An MTS to RMAXr stores the value normalized. -/
  | mtsRmax (n : BitVec 5) (r : BitVec 13)
  /-- MTS_TCFG (R195). An MTS to TCFG waits for earlier tile instructions and sets Q-split and flushing, invalidating the latches on a mode change. -/
  | mtsTcfg (r : BitVec 13)
  /-- MTS_FCFG (R189). An MTS to FCFG waits for earlier tile instructions and sets the number of twin tiles. -/
  | mtsFcfg (r : BitVec 13)
  /-- MTS_TOWN (R419). An MTS to TOWN transfers tile ownership and clears XFER. -/
  | mtsTown (r : BitVec 13)
  /-- WADDR_ARM (R409). An MTS to WADDR translates the line, arms the address watch and clears the ADDR event. -/
  | waddrArm (r : BitVec 13)
  /-- WATCH_ARM (R408). An MTS to WLAND, WMOV or WDL arms its event kind anew and clears its EVPEND bit. -/
  | watchArm (k : WatchReg) (r : BitVec 13)
  /-- MTS_TIMER (R403). An MTS to TCMP or TCTL re-arms the timer. -/
  | mtsTimer (ctl : Bool) (r : BitVec 13)
  /-- MTS_PAM (R357). An MTS to a physical attribute map register completes after pending accesses and discards all fetch streams. -/
  | mtsPam (n : BitVec 4) (lim : Bool) (r : BitVec 13)
  /-- MTS_TRANSLATION (R343). An MTS to TCR, TTB1 or TTB2 takes effect at the next instruction, which is refetched. -/
  | mtsTranslation (k : XlateReg) (r : BitVec 13)
  /-- MTS_EVEC (R373). An MTS to EVEC sets the escalation vector and EVEC.VALID. -/
  | mtsEvec (r : BitVec 13)
  /-- MTS_VLVL (R368). An MTS to VLVLk sets vector levels, routing and worlds within the writer's authority. -/
  | mtsVlvl (k : BitVec 3) (r : BitVec 13)
  /-- MTS_FBST (R372). An MTS to FBST writes the restorable fields of the interrupted ST. -/
  | mtsFbst (r : BitVec 13)
  /-- MTS_WLOCK (R489). An MTS to WLOCK flushes and locks out newly selected cache ways. -/
  | mtsWlock (r : BitVec 13)
  /-- MTS_WSREQ (R491). An MTS to WSREQ produces a software Wayside record. -/
  | mtsWsreq (r : BitVec 13)
  /-- MTS_PACE (R501). An MTS to PACE sets the software cap and floor of the pace governor. -/
  | mtsPace (r : BitVec 13)
  /-- MFS_KDOUT (R492). An MFS of KDOUT returns a keyed function of the world key, KDIN and the world. -/
  | mfsKdout (r : BitVec 13)
  /-- ABASE (R391). Reads the base of the capability X:Y into A. -/
  | abase (r : BitVec 20)
  /-- ATOP (R391). Reads the top of the capability X:Y into A. -/
  | atop (r : BitVec 20)
  /-- APERM (R391). Reads the permissions and object type of X:Y into A. -/
  | aperm (r : BitVec 20)
  /-- ANARB (R391). Raises the base of the capability X:Y. -/
  | anarb (r : BitVec 20)
  /-- ANART (R391). Lowers the top of the capability X:Y. -/
  | anart (r : BitVec 20)
  /-- AMASK (R391). Removes permissions from the capability X:Y. -/
  | amask (r : BitVec 20)
  /-- ASEAL (R391). Seals the capability X:Y with a granted object type. -/
  | aseal (r : BitVec 20)
  /-- AOPEN (R391). Unseals the capability X:Y under a granted object type. -/
  | aopen (r : BitVec 20)
  /-- ALD (R391). Loads a 16-byte capability pair into X:Y. -/
  | ald (r : BitVec 20)
  /-- AST (R391). Stores the capability X:Y as 16 bytes. -/
  | ast (r : BitVec 20)
  /-- AGET (R391). Copies PCC, DDC, HPCC or HDDC into X:Y. -/
  | aget (r : BitVec 20)
  /-- APUT (R391). Writes X:Y into DDC, HPCC or HDDC. -/
  | aput (r : BitVec 20)
  /-- AJMP (R391). Sets PCC to X:Y and jumps to A. -/
  | ajmp (r : BitVec 20)
  /-- AGATE (R393). Enters a sealed service through the gate of its object type. -/
  | agate (r : BitVec 20)
  /-- SEAL (R395). Seals A with the keyed permutation, tagged SEALED. -/
  | sealA (r : BitVec 20)
  /-- UNSEAL (R395). Unseals a SEALED value in A and checks it. -/
  | unsealA (r : BitVec 20)
  /-- ACHK (R391). Writes 1 into A if X:Y is a valid capability, else 0. -/
  | achk (r : BitVec 20)
  /-- WAIT (R410). Returns pending events of the mask, or makes the context WAITING. -/
  | wait (r : BitVec 21)
  /-- YIELD (R404). Offers the core to the Drover. -/
  | yield (r : BitVec 21)
  /-- CSTART (R413). Initializes a STOPPED context from a start block and makes it READY. -/
  | cstart (r : BitVec 21)
  /-- CSTOP (R414). Stops a context at its next instruction boundary. -/
  | cstop (r : BitVec 21)
  /-- CWAKE (R412). Sets the SWAKE event of another context. -/
  | cwake (r : BitVec 21)
  /-- FSPILL (R418). Spills the oldest resident window to the window stack. -/
  | fspill (r : BitVec 21)
  /-- FFILL (R418). Fills a window from the window stack. -/
  | ffill (r : BitVec 21)
  /-- POST (R436). Sends up to 8 KiB into another core's scratchpad as a post. -/
  | post (r : BitVec 21)
  /-- MARK (R476). Writes MARKR from A and produces a MARK record. -/
  | mark (r : BitVec 21)
  /-- TREC (R476). Produces a SOFT trace record carrying A and X. -/
  | trec (r : BitVec 21)
  /-- XSNAP (R476). Triggers a Crossroads snapshot if XRCFG.SW is 1. -/
  | xsnap (r : BitVec 21)
  /-- FREEZE (R476). Fires the software freeze trigger. -/
  | freeze (r : BitVec 21)
  /-- RHAHA_WORD (R164). Executes a Rhaha word of two moves as one unit. -/
  | rhahaWord (w : W32)
  /-- CP_INSN (R169). Issues a coprocessor instruction of opcode 0x7C to 0x7F to the attached logic. -/
  | cpInsn (w : BitVec 27)
  /-- TLD (R232). Loads rows from data space into a tile register. -/
  | tld (f : BitVec 25) (ecc : Option EccEvent)
  /-- TST (R232). Stores rows of a tile register to data space. -/
  | tst (f : BitVec 25)
  /-- TMMA (R234). Multiplies and accumulates a product into an accumulator tile. -/
  | tmma (f : BitVec 25)
  /-- TMOVA (R239). Moves columns between the Fold and a tile register unchanged. -/
  | tmova (f : BitVec 25)
  /-- TLDAC (R241). Loads or adds an accumulator tile from data space. -/
  | tldac (f : BitVec 25)
  /-- TSTAC (R241). Stores an accumulator tile to data space. -/
  | tstac (f : BitVec 25)
  /-- TZERO_T (R242). Clears the TUSE bits of the named tile registers. -/
  | tzeroT (q : BitVec 2) (r : BitVec 21)
  /-- TZERO_A (R242). Clears the FUSE bits of an accumulator tile. -/
  | tzeroA (q : BitVec 2) (r : BitVec 21)
  /-- TCLR_A (R242). Writes zero to an accumulator tile or part and its exponents. -/
  | tclrA (q : BitVec 2) (r : BitVec 21)
  /-- TKILL (R242). Clears TUSE, FUSE and every PROG VALID and invalidates the latches. -/
  | tkill (q : BitVec 2) (r : BitVec 21)
  /-- TROW (R243). Applies a row-engine element-wise function to tile rows. -/
  | trow (f : BitVec 25)
  /-- TCVT (R244). Converts tile rows from FMT to OCV. -/
  | tcvt (f : BitVec 25)
  /-- TFN (R245). Applies a piecewise-polynomial function to tile rows. -/
  | tfn (f : BitVec 25)
  /-- TRED (R246). Reduces each row of a tile register into a destination register. -/
  | tred (f : BitVec 25)
  /-- TEPI (R304). Drains an accumulator tile through the output path into data space. -/
  | tepi (f : BitVec 25)
  /-- TSAVE (R208). Writes the tile state image to a save area. -/
  | tsave (q : BitVec 2) (r : BitVec 22)
  /-- TRESTORE (R211). Loads the tile state from a save image. -/
  | trestore (q : BitVec 2) (r : BitVec 22)
  /-- TSDW (R249). Writes a shape descriptor from A. -/
  | tsdw (q : BitVec 2) (r : BitVec 21)
  /-- TSDR (R249). Reads a shape descriptor into A, tagged SHAPE. -/
  | tsdr (q : BitVec 2) (r : BitVec 21)
  /-- TSYNC (R249). Retires once every earlier committed tile instruction has completed. -/
  | tsync (q : BitVec 2) (r : BitVec 21)
  /-- INTERRUPT_ENTRY (R376). A takeable interrupt of level 1 to 6 enters its handler at an instruction boundary. -/
  | interruptEntry
  /-- FAST_INTERRUPT_ENTRY (R382). A takeable level-7 interrupt switches the context to its fast bank without a frame. -/
  | fastInterruptEntry
  /-- LAME_WRITEBACK_END (R381). The lame write-back ends with every dirty line written and the caches invalid. -/
  | lameWritebackEnd
  /-- RESERVED_OPCODE (R7). An instruction word with a reserved or unassigned opcode (0x13, 0x4F, 0x54-0x5F, 0x6E-0x6F, 0x70-0x7B) raises the undefined-instruction fault with no state changed. -/
  | reservedOpcode (w : W32)
  /-- IO_WRITE_SERVE (R424). An I/O WRITE from the mesh to a port with no behaviour of its own (WSTATE, WDONE, the claim port, WSUB, a local or unassigned port) is answered with STS 0 or STS 2 and changes nothing. -/
  | ioWriteServe (q : IoReq) (w : TWord)
  /-- CORE_RESET_END (R65). A core reset whose drain ended early reaches its minimum of 32 ticks and the core enters the start sequence. -/
  | coreResetEnd
  /-- COLD_RESET (R56). PWRGD_CORE or PORST_N goes low: the whole core is reset, every FIFO is emptied and every dirty line is lost. -/
  | coldReset
  /-- COLD_RESET_RELEASE (R88). The cold reset is released (PWRGD_CORE high and PORST_N released, with WRST_N also released) and the Init state begins. -/
  | coldResetRelease
  /-- WARM_RESET (R57). WRST_N asserts: the core abandons unretired work and begins the drain. -/
  | warmReset
  /-- WARM_RESET_RELEASE (R57). WRST_N is released; the start sequence begins once the drain has also ended. -/
  | warmResetRelease
  /-- DRAIN_END (R57). The drain of a warm reset or core reset ends, with egress FIFOs and eviction buffers empty and no valid line in L1D or L2. -/
  | drainEnd
  /-- INIT_END (R88). The Init state completes and the core enters Held, or goes on to Keys or Start if GO is already set. -/
  | initEnd
  /-- KEYGEN_TIMEOUT (R89). An entropy read receives no response within 65,536 ticks and key generation fails. -/
  | keygenTimeout
  /-- CP_RESET_RELEASE (R39). After the core has left reset and CP_CLK has toggled 16 times, CP_RST_N is released. -/
  | cpResetRelease
  /-- HFENCE_RISE (R43). The synchronized HFENCE rises and the core starts no new lane-2 or lane-3 packet and offers no new Causeway beat. -/
  | hfenceRise
  /-- HFENCE_FALL (R43). HFENCE falls, held flits and beats leave in order, and FENCE_ACK falls. -/
  | hfenceFall
  /-- FRZ_RISE (R464). FRZ rises: all counters stop at one instant, FRZTICK is written, and a dump and snapshot are triggered if configured. -/
  | frzRise
  /-- FRZ_FALL (R42). FRZ falls and the counters resume within 8 ticks. -/
  | frzFall
  deriving DecidableEq, Repr

end Sys2Proof
end

