-- ==== Sys2Proof/WellFormed.lean ====
section
/-!
DEFINITION. Which commands their row admits. A command that is refused here contradicts its own row.
-/

namespace Sys2Proof

/-- The opcodes that R7, R130 and R225 leave unassigned; 0x7C to 0x7F belong to the coprocessor (R169). -/
def opcodeReserved (op : BitVec 7) : Bool :=
  op == 0x13 || op == 0x4F || (decide (0x54 ≤ op.toNat) && decide (op.toNat ≤ 0x5F)) ||
    (decide (0x6E ≤ op.toNat) && decide (op.toNat ≤ 0x7B))

/-- A function value that a group leaves unassigned (R128, R143, R146, R157, R391, R412, R435, R249, 15 R476). -/
def functionReserved (w : BitVec 32) : Bool :=
  let f := fun (lo len : Nat) => (w.extractLsb' lo len).toNat
  match f 25 7 with
  | 0x42 => decide (4 ≤ f 21 4)
  | 0x44 => decide (12 ≤ f 21 4)
  | 0x4C => decide (5 ≤ f 0 3)
  | 0x50 => decide (17 ≤ f 20 5)
  | 0x51 => decide (7 ≤ f 21 4)
  | 0x52 => decide (1 ≤ f 21 4)
  | 0x53 => decide (4 ≤ f 21 4)
  | 0x6D => f 21 2 == 3
  | _ => false

/-- A word whose opcode or function value is reserved (R7, R128). -/
def wordReserved (w : BitVec 32) : Bool := opcodeReserved (w.extractLsb' 25 7) || functionReserved w

/-- A packet that R25 discards: a reserved class, a class the core does not receive (R19), or a reserved OPC (R325, R423). -/
def packetBad (cls opc : BitVec 4) : Bool :=
  match cls.toNat with
  | 0 => decide (4 ≤ opc.toNat)
  | 2 => decide (5 ≤ opc.toNat)
  | 3 => decide (2 ≤ opc.toNat)
  | 6 => decide (5 ≤ opc.toNat)
  | 7 => false
  | _ => true

/-- The operands of a command agree with its row. -/
def wellFormed : Instr → Bool
  | .reservedOpcode w => wordReserved w
  | .badPacket cls opc => packetBad cls opc
  | .postReceive h ws => decide (ws.length = h.wm1.toNat + 1)
  | _ => true

end Sys2Proof
end

