-- ==== Sys2Proof/Decode.lean ====
section
/-!
DEFINITION. The opcode map: which instruction a word is (04 R127 to R130, R143, R146, R151, R155, R157, 05 R169, 07 R225, R242, R249, 12 R391,
13 R412, 14 R435, 15 R476). The rows of spec/opcode_table.json give no bits of their own; the words below are those of the rules.
-/

namespace Sys2Proof

/-- Bits [lo + n - 1 : lo] of a word. -/
def insnBits (w : W32) (lo n : Nat) : BitVec n := w.extractLsb' lo n

/-- A format M instruction: M in [24:22], D in [21:0] (R109). -/
def formatM (k : BitVec 3 → BitVec 22 → Instr) (w : W32) : Instr := k (insnBits w 22 3) (insnBits w 0 22)

/-- A format M instruction in whose step no storage error strikes. -/
def formatMe (k : BitVec 3 → BitVec 22 → Option EccEvent → Instr) (w : W32) : Instr := formatM (fun m d => k m d none) w

/-- A member of a group with its function in [24:21]: the bits that are left (R128). -/
def group21 (k : BitVec 21 → Instr) (w : W32) : Instr := k (insnBits w 0 21)

/-- Loads, stores and addresses: opcodes 0x00 to 0x13 (R130). -/
def decodeMemory (w : W32) : Instr :=
  match (insnBits w 25 7).toNat with
  | 0x00 => formatMe .ld w
  | 0x01 => formatMe .ldx w
  | 0x02 => formatMe .ldy w
  | 0x03 => formatM .st w
  | 0x04 => formatM .stx w
  | 0x05 => formatM .sty w
  | 0x06 => formatMe .ldB w
  | 0x07 => formatMe .ldBu w
  | 0x08 => formatMe .ldH w
  | 0x09 => formatMe .ldHu w
  | 0x0A => formatMe .ldW w
  | 0x0B => formatMe .ldWu w
  | 0x0C => formatMe .stB w
  | 0x0D => formatMe .stH w
  | 0x0E => formatMe .stW w
  | 0x0F => formatM .ldc w
  | 0x10 => formatM .lea w
  | 0x11 => formatM .leax w
  | 0x12 => formatM .leay w
  | _ => .reservedOpcode w

/-- Integer arithmetic: opcodes 0x14 to 0x27 (R130). -/
def decodeInteger (w : W32) : Instr :=
  match (insnBits w 25 7).toNat with
  | 0x14 => formatM .add w
  | 0x15 => formatM .adc w
  | 0x16 => formatM .sub w
  | 0x17 => formatM .sbc w
  | 0x18 => formatM .cmp w
  | 0x19 => formatM .band w
  | 0x1A => formatM .bor w
  | 0x1B => formatM .bxor w
  | 0x1C => formatM .shl w
  | 0x1D => formatM .shr w
  | 0x1E => formatM .sar w
  | 0x1F => formatM .rol w
  | 0x20 => formatM .ror w
  | 0x21 => formatM .perm w
  | 0x22 => formatM .bfx w
  | 0x23 => formatM .bfi w
  | 0x24 => formatM .mul w
  | 0x25 => formatM .mulu w
  | 0x26 => formatM .div w
  | 0x27 => formatM .divu w
  | _ => .reservedOpcode w

/-- Floating point, I/O and transfers: opcodes 0x28 to 0x40 (R130). -/
def decodeFloat (w : W32) : Instr :=
  match (insnBits w 25 7).toNat with
  | 0x28 => formatM .faddD w
  | 0x29 => formatM .faddS w
  | 0x2A => formatM .fsubD w
  | 0x2B => formatM .fsubS w
  | 0x2C => formatM .fmulD w
  | 0x2D => formatM .fmulS w
  | 0x2E => formatM .fdivD w
  | 0x2F => formatM .fdivS w
  | 0x30 => formatM .fmacD w
  | 0x31 => formatM .fmacS w
  | 0x32 => formatM .fminD w
  | 0x33 => formatM .fminS w
  | 0x34 => formatM .fmaxD w
  | 0x35 => formatM .fmaxS w
  | 0x36 => formatM .fcmpD w
  | 0x37 => formatM .fcmpoD w
  | 0x38 => formatM .fcmpS w
  | 0x39 => formatM .fcmpoS w
  | 0x3A => formatM .ioIn w
  | 0x3B => formatM .ioOut w
  | 0x3C => formatM .claim w
  | 0x3D => formatM .complete w
  | 0x3E => formatM .jmp w
  | 0x3F => formatM .call w
  | 0x40 => formatM .jmpx w
  | _ => .reservedOpcode w

/-- The FOP1 group (R143). -/
def decodeFop1 (w : W32) : Instr :=
  match (insnBits w 21 4).toNat with
  | 0x0 => group21 .fsqrtD w
  | 0x1 => group21 .fsqrtS w
  | 0x2 => group21 .fcvtDL w
  | 0x3 => group21 .fcvtDLu w
  | 0x4 => group21 .fcvtSL w
  | 0x5 => group21 .fcvtSLu w
  | 0x6 => group21 .fcvtLD w
  | 0x7 => group21 .fcvtLuD w
  | 0x8 => group21 .fcvtLS w
  | 0x9 => group21 .fcvtLuS w
  | 0xA => group21 .fcvtSD w
  | 0xB => group21 .fcvtDS w
  | _ => .reservedOpcode w

/-- The ALU1 group (R146). -/
def decodeAlu1 (w : W32) : Instr :=
  match (insnBits w 21 4).toNat with
  | 0x0 => group21 .neg w
  | 0x1 => group21 .bnot w
  | 0x2 => group21 .clz w
  | 0x3 => group21 .tagget w
  | _ => .reservedOpcode w

/-- TLBINV: its scope in [1:0] (R155). -/
def decodeTlbinv (w : W32) : Instr :=
  match (insnBits w 0 2).toNat with
  | 0 => .tlbinvVa (insnBits w 2 23)
  | 1 => .tlbinvVaw (insnBits w 2 23)
  | 2 => .tlbinvAsid (insnBits w 2 23)
  | _ => .tlbinvAll (insnBits w 2 23)

/-- CACHE: its operation in [2:0] (R157). -/
def decodeCache (w : W32) : Instr :=
  match (insnBits w 0 3).toNat with
  | 0 => .cinvAll (insnBits w 3 22)
  | 1 => .cwbAll (insnBits w 3 22)
  | 2 => .cinvLine (insnBits w 3 22)
  | 3 => .cwbLine (insnBits w 3 22)
  | 4 => .cwbiLine (insnBits w 3 22)
  | _ => .reservedOpcode w

/-- The capability group: its function in [24:20] (R391). -/
def decodeCap (w : W32) : Instr :=
  let r := insnBits w 0 20
  match (insnBits w 20 5).toNat with
  | 0x00 => .abase r
  | 0x01 => .atop r
  | 0x02 => .aperm r
  | 0x03 => .anarb r
  | 0x04 => .anart r
  | 0x05 => .amask r
  | 0x06 => .aseal r
  | 0x07 => .aopen r
  | 0x08 => .ald r
  | 0x09 => .ast r
  | 0x0A => .aget r
  | 0x0B => .aput r
  | 0x0C => .ajmp r
  | 0x0D => .agate r
  | 0x0E => .sealA r
  | 0x0F => .unsealA r
  | 0x10 => .achk r
  | _ => .reservedOpcode w

/-- The context and watch group (R412). -/
def decodeContext (w : W32) : Instr :=
  match (insnBits w 21 4).toNat with
  | 0x0 => group21 .wait w
  | 0x1 => group21 .yield w
  | 0x2 => group21 .cstart w
  | 0x3 => group21 .cstop w
  | 0x4 => group21 .cwake w
  | 0x5 => group21 .fspill w
  | 0x6 => group21 .ffill w
  | _ => .reservedOpcode w

/-- The cooperation group (R435). -/
def decodeCoop (w : W32) : Instr := if insnBits w 21 4 = 0 then group21 .post w else .reservedOpcode w

/-- The MARK and counter group (R476). -/
def decodeMark (w : W32) : Instr :=
  match (insnBits w 21 4).toNat with
  | 0x0 => group21 .mark w
  | 0x1 => group21 .trec w
  | 0x2 => group21 .xsnap w
  | 0x3 => group21 .freeze w
  | _ => .reservedOpcode w

/-- Format R scalar instructions: opcodes 0x41 to 0x5F (R130). An MTS or MFS word is the general row; the rows of single registers are the
same instruction (log 3). -/
def decodeFormatR (w : W32) : Instr :=
  let f := insnBits w 0 25
  match (insnBits w 25 7).toNat with
  | 0x41 => .mov f
  | 0x42 => decodeAlu1 w
  | 0x43 => .tagset f
  | 0x44 => decodeFop1 w
  | 0x45 => .skip f
  | 0x46 => .ret f
  | 0x47 => .trap f
  | 0x48 => if insnBits w 0 1 = 0 then .rfe (insnBits w 1 24) else .rfi (insnBits w 1 24)
  | 0x49 => .stile f
  | 0x4A => .fence f
  | 0x4B => decodeTlbinv w
  | 0x4C => decodeCache w
  | 0x4D => .mfs f
  | 0x4E => .mts f
  | 0x50 => decodeCap w
  | 0x51 => decodeContext w
  | 0x52 => decodeCoop w
  | 0x53 => decodeMark w
  | _ => .reservedOpcode w

/-- Opcode 0x66 (R242). -/
def decodeClear (w : W32) : Instr :=
  let q := insnBits w 23 2
  let r := insnBits w 0 21
  match (insnBits w 21 2).toNat with
  | 0 => .tzeroT q r
  | 1 => .tzeroA q r
  | 2 => .tclrA q r
  | _ => .tkill q r

/-- Opcode 0x6D (R249). -/
def decodeShape (w : W32) : Instr :=
  let q := insnBits w 23 2
  let r := insnBits w 0 21
  match (insnBits w 21 2).toNat with
  | 0 => .tsdw q r
  | 1 => .tsdr q r
  | 2 => .tsync q r
  | _ => .reservedOpcode w

/-- Tile instructions: opcodes 0x60 to 0x6D (R225), and the coprocessor's 0x7C to 0x7F (R169). -/
def decodeTile (w : W32) : Instr :=
  let f := insnBits w 0 25
  match (insnBits w 25 7).toNat with
  | 0x60 => .tld f none
  | 0x61 => .tst f
  | 0x62 => .tmma f
  | 0x63 => .tmova f
  | 0x64 => .tldac f
  | 0x65 => .tstac f
  | 0x66 => decodeClear w
  | 0x67 => .trow f
  | 0x68 => .tcvt f
  | 0x69 => .tfn f
  | 0x6A => .tred f
  | 0x6B => .tepi f
  | 0x6C =>
    if insnBits w 22 1 = 0 then .tsave (insnBits w 23 2) (insnBits w 0 22) else .trestore (insnBits w 23 2) (insnBits w 0 22)
  | 0x6D => decodeShape w
  | n => if 0x7C ≤ n then .cpInsn (insnBits w 0 27) else .reservedOpcode w

/-- The instruction that a native word is, by its major opcode in [31:25] (R127, R130, R225). -/
def decodeInsn (w : W32) : Instr :=
  let op := (insnBits w 25 7).toNat
  if op < 0x14 then decodeMemory w
  else if op < 0x28 then decodeInteger w
  else if op < 0x41 then decodeFloat w
  else if op < 0x60 then decodeFormatR w
  else decodeTile w

/-- The instruction that a word fetched in Rhaha mode is (R160, R162). -/
def decodeRhaha (w : W32) : Instr := .rhahaWord w

/-- The command that a word spells. The rows of the opcode table give no bits; an instruction word of 32 bits is one of the opcode map. -/
def decodeTableWord (nbits w : Nat) : Option Instr := if nbits = 32 then some (decodeInsn (BitVec.ofNat 32 w)) else none

end Sys2Proof
end

