-- ==== Sys2Proof/Config.lean ====
section
/-!
DEFINITION. What one part fixes, and the free values: constants without a body, of which no proof can see the value.
Log 1 says where each is used.
-/

namespace Sys2Proof

/-- What a scratchpad word holds that nothing has written since cold reset (R93): some word, found good, found with
a corrected error, or found uncorrectable. -/
inductive SpadPower where
  | clean (w : TWord)
  | corrected (w : TWord)
  | uncorrectable
  deriving DecidableEq, Repr, Inhabited

namespace Config

/-- IDENT.STEPPING, per part (R76). -/
opaque stepping : BitVec 5

/-- A free 64-bit value, numbered by the counter of the state. -/
opaque freeW64 : Nat → W64

/-- A free choice, numbered by the counter of the state. -/
opaque freeBool : Nat → Bool

/-- A free tagged word, numbered by the counter of the state (R11). -/
opaque freeWord : Nat → TWord

/-- A free natural number: events that only the micro-architecture decides (R3, R127, R458 to R461). -/
opaque freeNat : Nat → Nat

/-- The contents of the scratchpad after the n-th cold reset, by word (R66, R93). -/
opaque spadUnwritten : Nat → Nat → SpadPower

/-- The 8-bit keyed check of the other 120 bits of a capability (R389), by seal key, high word and low word without CHK. -/
opaque capCheck : BitVec 256 → BitVec 62 → BitVec 58 → BitVec 8

/-- The permutation P of SEAL (R395), keyed by the seal key and ST.WORLD. -/
opaque sealPerm : BitVec 256 → Bool → Equiv.Perm W64

/-- The derivation of KDOUT (R492): world key, KDIN and ST.WORLD. -/
opaque kdOut : BitVec 256 → W64 → Bool → W64

/-- The value of a TFN function inside its bound (R245): function, format and element; how far, in units in the last
place, the result lies from the nearest value. "A fixed function of the input on a given stepping" (R281). -/
opaque tfnSlip : Nat → Nat → BitVec 32 → Int

end Config

end Sys2Proof
end

