-- ==== Sys2Proof/Machine/State.lean ====
section
/-!
DEFINITION. The state of the core as plain data: everything INVENTORY.md lists under its heading State, in groups.
Register arrays are vectors; storage that is mostly empty is a list of (key, value) pairs with rising keys (`SMap`).
-/

namespace Sys2Proof.Machine

/-- Sparse storage: pairs in strictly rising key order. -/
abbrev SMap (α : Type) := List (Nat × α)

/-- Four like things, one for each context (or descriptor, or lane, or bank). -/
structure Quad (α : Type) where
  q0 : α
  q1 : α
  q2 : α
  q3 : α
  deriving DecidableEq, Repr

/-- SP, SPLO and SPHI (R95). -/
structure StackBank where
  sp : W64
  lo : W64
  hi : W64
  deriving DecidableEq, Repr

/-- A capability pair (R388). -/
structure CapPair where
  hi : TWord
  lo : TWord
  deriving DecidableEq, Repr

/-- The origin of an interrupted state (R377, R382). -/
structure Origin where
  sup : Bool
  world : Bool
  mask : BitVec 3
  deriving DecidableEq, Repr

/-- The fast bank (R382), and what of the main bank it sets aside: its PC, ST, PCC, DDC and origin. -/
structure FastBank where
  a : TWord
  x : TWord
  y : TWord
  stk : StackBank
  slots : Vector TWord 8
  fbpc : W64
  fbst : W32
  fbpcc : CapPair
  fbddc : CapPair
  orig : Origin
  deriving DecidableEq, Repr

/-- The escalation bank (R379). -/
structure EscBank where
  a : TWord
  x : TWord
  y : TWord
  stk : StackBank
  slots : Vector TWord 32
  deriving DecidableEq, Repr

/-- FWS and FSPTR (R402) with the slots of the windows: slot i of window w has key 32 × w + i, and an unlisted slot
has not been written since its window was allocated (R113). -/
structure Windows where
  slots : SMap TWord
  cur : BitVec 3
  res : BitVec 3
  rsv : Bool
  link : BitVec 7
  fsd : W32
  fsptr : W64
  deriving DecidableEq, Repr

/-- The states of a context (R400). -/
inductive RunState where
  | stopped | ready | running | waiting
  deriving DecidableEq, Repr

/-- Where a result goes that arrives after its instruction was issued. -/
inductive Dest where
  | none | a | x | y | slot (i : BitVec 5)
  deriving DecidableEq, Repr

/-- The operations of an I/O request (R423). -/
inductive IoOpc where
  | read | write | claim | complete | notice
  deriving DecidableEq, Repr

/-- An I/O request of a context that is on the mesh (R126, R153): `next` is the PC after the instruction, `inc` what mode 2
adds to Y once the access has completed (R111). -/
structure IoWait where
  addr : W32
  opc : IoOpc
  txid : BitVec 8
  dest : Dest
  since : W64
  next : W64
  inc : W64
  deriving DecidableEq, Repr

/-- A coprocessor instruction of a context that is issued and not answered (R38, R173). -/
structure CpWait where
  tag : BitVec 3
  dest : Dest
  ord : Bool
  deriving DecidableEq, Repr

/-- The control transfer or system trigger of a Rhaha word (R166), with its value. -/
inductive RhCtl where
  | none | jump (v : W64) | jumpx (v : W64) | call (v : W64) | ret (n : BitVec 8) | skip (cc : BitVec 4) | trap (n : BitVec 8)
  | fence (set : BitVec 4)
  deriving DecidableEq, Repr

/-- An I/O move of a Rhaha word (R166): whether it writes, what, the slot of its move, and whether F31 takes the result. -/
structure RhIo where
  write : Bool
  addr : W32
  data : TWord
  keep : Bool
  slot : Bool
  deriving DecidableEq, Repr

/-- A memory access of a Rhaha word that has passed its checks: its address, where it leads, and its bytes. -/
structure RhMem where
  va : W64
  pa : PAddr
  dev : Bool
  str : Bool
  n : Nat
  deriving DecidableEq, Repr

/-- What the moves of a Rhaha word do outside the registers (R166): an I/O move, a load into F29 that `keep` says is not overwritten,
or a store. -/
inductive RhAct where
  | io (a : RhIo)
  | load (m : RhMem) (keep : Bool)
  | store (m : RhMem) (w : TWord)
  deriving DecidableEq, Repr

/-- The registers that the moves of a word may have changed, as they stood before it (R165). -/
structure RhUndo where
  a : TWord
  x : TWord
  mh : TWord
  ml : TWord
  mq : TWord
  mr : TWord
  st : W32
  slots : List (BitVec 5 × TWord)
  deriving DecidableEq, Repr

/-- What a Milestone will tell of an IN whose response has come (R475): the core, the ticks waited, and the address. -/
structure InMile where
  peer : Option CoreId
  dur : W64
  addr : W32
  deriving DecidableEq, Repr

/-- What remains of a Rhaha word whose checks have passed (R164, R165): its accesses not yet made, the slot of the I/O move on the
mesh, the control trigger with what its checks found, the registers to put back should a response bring a fault, whether an I/O
move has timed out, and the Milestones due when the word retires (R475). -/
structure RhRest where
  acts : List RhAct
  cur : Bool
  ctl : RhCtl
  v : W64
  undo : RhUndo
  late : Bool
  miles : List InMile
  deriving DecidableEq, Repr

/-- What the address watch holds (R409). -/
inductive Watch where
  | off
  | line (n : Nat)
  deriving DecidableEq, Repr

/-- A FENCE that waits (R154, R475): its tick of issue, its classes, and the tick at which they had been performed. -/
structure FenceWait where
  since : W64
  set : BitVec 4
  done : Option W64
  deriving DecidableEq, Repr

/-- The events a context waits for, and what its Milestones tell of them (R407 to R411, R475). -/
structure Events where
  evpend : BitVec 8
  waddr : W64
  wland : W64
  wmov : W64
  wdl : W64
  watch : Watch
  waitMask : BitVec 8
  waitSince : Option W64
  waitDur : Option W64
  /-- the PC of the WAIT that `waitDur` tells of -/
  waitPc : W64
  swakeFrom : CtxId
  ipiPeer : Option CoreId
  landPeer : Option CoreId
  claimPeer : Option (CoreId × BitVec 3)
  fence : Option FenceWait
  deriving DecidableEq, Repr

/-- The exception and translation registers of a context (R341, R372). -/
structure SysRegs where
  vbar : W64
  svbar : W64
  ecause : W64
  esp : W64
  esplo : W64
  tgrant : W64
  tcr : W64
  ttb1 : W64
  ttb2 : W64
  fsr : W64
  far : W64
  fipa : W64
  kdin : W64
  markr : W32
  deriving DecidableEq, Repr

/-- A hardware context (R94, R399). -/
structure Ctx where
  a : TWord
  x : TWord
  y : TWord
  mh : TWord
  ml : TWord
  mq : TWord
  mr : TWord
  pc : W64
  st : W32
  banks : Quad StackBank
  fast : FastBank
  esc : EscBank
  win : Windows
  /-- storage errors of structure 6 that no read has found yet: the place, and whether the error is uncorrectable (R487, log 49) -/
  slotErrs : List (Nat × Bool)
  sys : SysRegs
  pcc : CapPair
  ddc : CapPair
  hpcc : CapPair
  hddc : CapPair
  ev : Events
  run : RunState
  skipPair : Bool
  io : Option IoWait
  cp : Option CpWait
  rest : Option RhRest
  deriving DecidableEq, Repr

/-- The kinds of reset (R65). -/
inductive ResetKind where
  | cold | warm | core
  deriving DecidableEq, Repr

/-- Where the core stands in its start sequence (R57, R88). `heldByWrst`: the cold reset is released, WRST_N still low. -/
inductive Phase where
  | coldReset | heldByWrst | drain (k : ResetKind) | afterDrain (k : ResetKind) | init | held | keys | start
  deriving DecidableEq, Repr

/-- Resets, the start sequence and the lame state (R57, R65, R80, R86, R88, R381). -/
structure Boot where
  phase : Phase
  wrstLow : Bool
  rstTick : W64
  rcause : BitVec 4
  go : Bool
  keyfail : Bool
  locked : Bool
  lame : Bool
  lameCause : BitVec 3
  lameCtx : BitVec 2
  lameWb : Bool
  deriving DecidableEq, Repr

/-- A response that waits for an IDLE frame (R32): ADDR, REG and DATA of its frame. -/
structure ChainResp where
  addr : CoreId
  reg : BitVec 7
  data : W32
  deriving DecidableEq, Repr

/-- The management chain, the locked configuration and the mailbox (01 R29 to R35, R59 to R63, 02 R69 to R87, 14 R421). -/
structure Chain where
  caddr : CoreId
  cvalid : Bool
  mismatch : Bool
  privMode : BitVec 2
  enable0 : BitVec 9
  rveclo : W32
  rvechi : W32
  entsrc : W32
  mbin : Vector W32 4
  mbout : Vector W32 4
  inFull : Bool
  outFull : Bool
  inOvr : Bool
  outOvr : Bool
  sealedOnly : Bool
  bcfg : BitVec 17
  refloss : Bool
  stall : Bool
  stallSrc : BitVec 2
  mrxBad : BitVec 8
  mcCrcerr : BitVec 8
  wsDrop : BitVec 8
  herdcfg : BitVec 13
  resp : List ChainResp
  mcOut : W64
  /-- MC_FRO has marked bit 63 of `mcOut` (R29) -/
  mcFro : Bool
  mcDelayed : Option W64
  sinceEnum : Nat
  deriving DecidableEq, Repr

/-- The tamper detector (R45): the latest two samples of ALARM_IN, and whether the line last held still high or low for two
samples. -/
structure Tamper where
  s1 : Bool
  s2 : Bool
  high : Bool
  deriving DecidableEq, Repr

/-- Pins and their watchdogs (01 R36 to R55, R64). `cpIready` is the level of CP_IREADY. `monSteps` counts the steps since STEPMON toggled,
`sampSteps` those since the last sampling point without REFCLK (R45, R47). -/
structure Pins where
  hfence : Bool
  fenceAck : Bool
  frz : Bool
  alarmIn : Bool
  tamper : Tamper
  alarmOut : Bool
  paceHw : BitVec 4
  curHi : Bool
  stepmon : Bool
  monSteps : BitVec 10
  sampSteps : BitVec 6
  refclk : Bool
  cpPresent : Bool
  cpRstN : Bool
  cpIready : Bool
  stallMesh : Nat
  stallCw : Nat
  deriving DecidableEq, Repr

/-- Key generation in progress (R89): accepted words (latest first), rejections, the word read before, the outstanding read. -/
structure KeyGen where
  got : List W64
  rej : Nat
  last : Option W64
  txid : Option (BitVec 8)
  since : W64
  deriving DecidableEq, Repr

/-- Keys, the alarm and the count of security violations (16 R493 to R497). -/
structure Keys where
  worldKey : BitVec 256
  sealKey : BitVec 256
  wkv : Bool
  skv : Bool
  alm : Bool
  gen : KeyGen
  svFc : BitVec 8
  svIr : BitVec 8
  svTm : BitVec 4
  almcfg : BitVec 23
  /-- counts whose threshold was reached during the Keys state, applied when it ends (R497) -/
  deferred : BitVec 3
  deriving DecidableEq, Repr

/-- A Wayside record: eight words (R490). -/
abbrev WsRecord := Vector W64 8

/-- Fault counting, way lock-out and the Wayside record (16 R483 to R491, 01 R52). -/
structure Rel where
  fccfg : BitVec 25
  fcstat : Vector W64 8
  fcDeclCount : BitVec 8
  fcDeclUnc : BitVec 8
  fcWin : W64
  wlock : BitVec 20
  wslast : WsRecord
  wsbuf : List WsRecord
  /-- beats of the first record that have transferred (R51, R52) -/
  wsBeat : BitVec 3
  wsSeq : W32
  /-- records of the latest tick that produced one, as far as the path has not begun to send them, in the order of their SEQ (R491) -/
  wsNow : List WsRecord
  /-- storage errors of structures 0 to 3 that no read has found yet (R314, R322) -/
  latent : List EccEvent
  deriving DecidableEq, Repr

/-- The Tollgate (R498 to R500). Tokens are counted in units of 1/1024. -/
structure Toll where
  ctl : W32
  rate : W32
  core : W32
  mref : BitVec 16
  iref : BitVec 8
  held : Bool
  wb : Vector W32 4
  wl : Vector W32 4
  tokM : Nat
  tokC : Nat
  deriving DecidableEq, Repr

/-- The pace governor (R501, R502). -/
structure Pace where
  cap : BitVec 4
  floor : BitVec 4
  lim : Bool
  act : BitVec 4
  plimcnt : W64
  deriving DecidableEq, Repr

/-- Time (15 R449, R466, R478) and the timer (13 R403). -/
structure Time where
  tick : W64
  tsoff : W64
  tsoffLo : W32
  tsoffHi : W32
  tlat : W64
  tcmp : W64
  ten : Bool
  timerArmed : Bool
  deriving DecidableEq, Repr

/-- Counters and freeze (15 R451 to R464). -/
structure Perf where
  fc : Vector W64 4
  pmc : Vector (BitVec 48) 16
  pmsel : Vector (BitVec 25) 16
  pma : Vector W64 4
  pmctl : W64
  pmovf : BitVec 16
  frzcfg : BitVec 21
  frzstat : BitVec 20
  frztick : W64
  /-- micro-operations retired, and steps that each quadrant's rows took, in steps that FC0 does not count yet (R452, R459, R460) -/
  uopDebt : Nat
  rowDebt : Quad Nat
  /-- of `rowDebt`, the steps that the shifts of retries took (R292) -/
  shiftDebt : Quad Nat
  /-- accounting steps that the counters show and that STEPMON, PLIMCNT and the samples of ALARM_IN do not have yet (R45, R47, R502) -/
  stepDebt : Nat
  deriving DecidableEq, Repr

/-- A trace record: four words (R472). -/
abbrev TrRecord := Vector W64 4

/-- A dump that waits for the acknowledgement of its lines (R467, R470). -/
structure DumpOut where
  head : W32
  deriving DecidableEq, Repr

/-- Dumps, trace and the Crossroads snapshot (15 R466 to R481). -/
structure Trace where
  dmpctl : W64
  dmSeq : W32
  dmSkip : BitVec 16
  dmFull : Bool
  dmbase : W32
  dmsize : BitVec 17
  dmhead : W32
  dumpOut : Option DumpOut
  /-- the tick of the latest periodic dump (R469) -/
  dumpAt : Option W64
  trctl : W64
  trFull : Bool
  trLost : BitVec 16
  trbase : W32
  trsize : BitVec 17
  trhead : W32
  trq : List TrRecord
  /-- the first of `trq` is on its way to the region -/
  trOut : Bool
  trMissed : Nat
  xrcfg : BitVec 5
  xrFull : Bool
  xrCause : BitVec 4
  xrMissed : BitVec 8
  xrIdx : BitVec 7
  xrData : List W64
  /-- snapshots that wait to be copied into the dump region, or whose copy is on its way (R480) -/
  copyQ : List (List W64)
  /-- the dump slot of a snapshot copy whose lines wait for their acknowledgement -/
  copyOut : Option W32
  /-- dumps that are complete in slots behind a copy on its way (R470, R480) -/
  behind : Nat
  deriving DecidableEq, Repr

/-- Interrupts, vectors, machine checks and I/O windows (12 R368 to R373, R392, R396, R397). -/
structure Intr where
  vlvl : Vector W64 8
  ipend : W64
  moverVec : BitVec 3
  mcsyn : W64
  mcaddr : W64
  evec : W64
  sentry : W64
  iow : Vector W64 8
  gateh : Vector TWord 16
  gatel : Vector TWord 16
  deriving DecidableEq, Repr

/-- The Drover and tile ownership (13 R402, R404, R419). -/
structure Drover where
  dpri : BitVec 8
  dquant : BitVec 16
  lastRan : CtxId
  ranSince : W64
  /-- the context that left RUNNING while another could run, until the Drover has switched (R405, R473) -/
  leaving : Option CtxId
  owner : CtxId
  prev : CtxId
  xfer : Bool
  deriving DecidableEq, Repr

/-- The state of a line in L1D or L2 (10, Coherence). An invalid line is not listed. -/
inductive LineState where
  | modified | exclusive | shared
  deriving DecidableEq, Repr

/-- A cache line: which line (physical address / 64), its state, age and words (R315, R317). -/
structure CLine where
  line : Nat
  st : LineState
  age : BitVec 2
  data : Line
  deriving DecidableEq, Repr

/-- An entry of an eviction buffer (R318): `toL2` for a line on its way from L1D to L2; `started` once its write-back is on the mesh. -/
structure EvEntry where
  line : Nat
  data : Line
  fromL2 : Bool
  started : Bool
  deriving DecidableEq, Repr

/-- The caches (10 R315 to R322). A cache is a map from set × ways + way to the line held there. -/
structure Caches where
  cctl : BitVec 6
  l1i : SMap CLine
  l1d : SMap CLine
  l2 : SMap CLine
  ebuf : List EvEntry
  deriving DecidableEq, Repr

/-- A cached leaf (R360): the virtual page (4 KiB), how it was built and the leaves it was built from. A stage that was
off has no leaf. `ipa` is the intermediate page. -/
structure TlbEntry where
  asid : BitVec 12
  vmid : BitVec 6
  en1 : Bool
  en2 : Bool
  vpn : Nat
  ipn : Nat
  leaf1 : Option (W64 × Nat)
  leaf2 : Option (W64 × Nat)
  deriving DecidableEq, Repr

/-- A cached table entry (R360): stage, level, the index prefix of the address and the entry. -/
structure WalkEntry where
  en1 : Bool
  en2 : Bool
  stage2 : Bool
  lvl : Nat
  asid : BitVec 12
  vmid : BitVec 6
  pre : Nat
  entry : W64
  deriving DecidableEq, Repr

/-- Translation structures, shared by the contexts (R360). -/
structure Tlbs where
  leaves : List TlbEntry
  walks : List WalkEntry
  deriving DecidableEq, Repr

/-- Who issued a memory request, and so who uses its answer (R503). `tile`: the reads of a context's tile instruction. -/
inductive Requester where
  | ctx (c : CtxId) | tile (c : CtxId) | mover (ch : BitVec 3) | cw (ch : BitVec 4) | evict | dump | trace | snap
  deriving DecidableEq, Repr

/-- The memory requests the core sends (R325). -/
inductive ReqOp where
  | fillS | fillO | promote | peek | devRd | lineOut | poke | devWr
  deriving DecidableEq, Repr

/-- A store of a context that is performed once it is acknowledged: its context, its virtual address and its cause (R454, R457). -/
structure StoreNote where
  ctx : CtxId
  va : W64
  sup : Bool
  world : Bool
  deriving DecidableEq, Repr

/-- An outstanding memory request (R325): the byte address, which caches it fills and whether as a streaming fill (R317), and the store that
it makes. -/
structure Req where
  txid : BitVec 8
  op : ReqOp
  addr : PAddr
  who : Requester
  l1i : Bool
  l1d : Bool
  l2 : Bool
  stream : Bool
  store : Option StoreNote
  deriving DecidableEq, Repr

/-- An answer (R325, R503): the request it answers, whether it is the error, whether the line came exclusive, and whether
it is held for want of a place in an eviction buffer (R318). An answer that is not held serves the access that waits. -/
structure Fill where
  req : Req
  bad : Bool
  excl : Bool
  held : Bool
  data : Line
  deriving DecidableEq, Repr

/-- A flit with its sideband (R18): eight tagged words, TAGV, CLASS and LAST. -/
structure Flit where
  words : Line
  tagv : Bool
  cls : BitVec 4
  last : Bool
  deriving DecidableEq, Repr

/-- The reset value of MTX_FLIT and MTX_SB (R17). -/
def Flit.zero : Flit := ⟨Line.zero, false, 0, false⟩

/-- A snoop that waits for the fill of its line to complete (R324): the line, SRC and TXID, and whether it invalidates. -/
structure Snoop where
  line : Nat
  src : CoreId
  txid : BitVec 8
  kill : Bool
  deriving DecidableEq, Repr

/-- A post on its way onto the mesh (R448): its context, its words and its cause (R454). -/
structure PostOut where
  ctx : CtxId
  words : Nat
  sup : Bool
  world : Bool
  deriving DecidableEq, Repr

/-- Mesh egress (01 R16, R21 to R23), the requests that wait for an answer and the snoops that wait for a fill. -/
structure Mesh where
  /-- the FIFO of each lane, four flits at most (R16) -/
  egress : Quad (List Flit)
  /-- what stands behind a full FIFO, in the stages of its senders (R13, R16) -/
  stage : Quad (List Flit)
  /-- word 0 of the header flit that left last on each lane (R481) -/
  head : Quad W64
  mid : Quad Bool
  offered : Option (BitVec 2)
  lastReq : Bool
  /-- MTX_FLIT and MTX_SB as last driven (R17, R21) -/
  lastFlit : Flit
  /-- the posts that stand on lane 3, packet by packet (R448) -/
  posts : List PostOut
  txid : BitVec 8
  reqs : List Req
  fills : List Fill
  snoops : List Snoop
  deriving DecidableEq, Repr

/-- What an access runs under (R332, R340, R350): translation registers, privilege, world, ST.UA and the capabilities. -/
structure Regime where
  tcr : W64
  ttb1 : W64
  ttb2 : W64
  sup : Bool
  sealed : Bool
  ua : Bool
  esc : Bool
  pcc : CapPair
  ddc : CapPair
  deriving DecidableEq, Repr

/-- A Mover channel (10 R326 to R334). STATE: 0 idle, 1 busy, 2 done, 3 stopped. -/
structure MoverCh where
  src : W64
  dst : W64
  geo : W32
  str : W64
  ctl : BitVec 7
  state : BitVec 2
  cause : BitVec 4
  rej : Bool
  ctx : CtxId
  rows : BitVec 16
  blk : BitVec 10
  fva : W64
  fsr : W64
  kr : W32
  srcD : Bool
  dstD : Bool
  cap : Option Regime
  mark : W32
  deriving DecidableEq, Repr

/-- A Causeway channel (14 R443, R446), with its credit (01 R27). -/
structure CwCh where
  src : W64
  hdr : W64
  rid : BitVec 16
  sk : Bool
  state : BitVec 2
  cause : BitVec 4
  rej : Bool
  ctx : CtxId
  fva : W64
  fsr : W64
  kr : W32
  srcD : Bool
  credit : BitVec 6
  cap : Option Regime
  mark : W32
  /-- the source pages have passed their checks and the contribution may send (R445) -/
  checked : Bool
  /-- beats sent so far, the header included -/
  sent : Nat
  /-- a source word was lost: CAUSE 0x6 after the SEAL beat (R446) -/
  lost : Bool
  /-- the rest goes out as zeros: a reset is draining (R446) -/
  zeros : Bool
  deriving DecidableEq, Repr

/-- A Causeway beat (R26, R307, R308). -/
structure Beat where
  ch : BitVec 4
  rid : BitVec 16
  data : BitVec 256
  isSeal : Bool
  deriving DecidableEq, Repr

/-- The reset value of CWTX_CH, CWTX_RID, CWTX_DATA and CWTX_SEAL (R26). -/
def Beat.zero : Beat := ⟨0, 0, 0, false⟩

/-- The Causeway port and its channels: the egress FIFO of eight beats (R16), whether its head is offered (CWTX_VALID), and the
beat as last driven (R26). -/
structure Causeway where
  ch : Vector CwCh 16
  last : BitVec 4
  fifo : List Beat
  offered : Bool
  lastBeat : Beat
  deriving DecidableEq, Repr

/-- A work counter (14 R429, R434). -/
structure WorkCtr where
  limit : W32
  next : W32
  epoch : BitVec 16
  done : W32
  rej : W32
  notices : List (CoreId × CtxId)
  deriving DecidableEq, Repr

/-- Work counters and posts (14). -/
structure Coop where
  work : Vector WorkCtr 8
  land : Vector W32 16
  pwin : BitVec 48
  pAcc : W32
  pDrop : W32
  deriving DecidableEq, Repr

/-- A coprocessor instruction outstanding on the port (R38, R171). -/
structure CpOut where
  tag : BitVec 3
  ctx : CtxId
  squashed : Bool
  ord : Bool
  since : W64
  deriving DecidableEq, Repr

/-- An issue on the coprocessor port (R36). -/
structure CpIssue where
  insn : W32
  opa : TWord
  opb : TWord
  itag : BitVec 3
  ctx : CtxId
  priv : BitVec 2
  deriving DecidableEq, Repr

/-- The reset values of CP_INSN, CP_OPA, CP_OPB, CP_ITAG, CP_CTX and CP_PRIV (R36). -/
def CpIssue.zero : CpIssue := ⟨0, TWord.zero, TWord.zero, 0, 0, 0⟩

/-- The coprocessor port: the issues that wait in the FIFO (R16), the first of them offered (CP_IVALID), and the issue as last
driven. -/
structure Coproc where
  out : List CpOut
  issueQ : List CpIssue
  lastIssue : CpIssue
  stallFrom : W64
  deriving DecidableEq, Repr

/-- A register row of a tile register: 64 bytes and the scale field (R181, R183). -/
structure TRow where
  bits : BitVec 512
  scale : W32
  deriving DecidableEq, Repr

/-- A latch bank, or a quarter of one (R206, R207, R253). It holds what its fill read, less the 64-bit units that `zeros` names: they
were lost (R487). A unit of row r is 16 × r + its place: 0 to 7 the row, 8 its scale, 9 to 12 the second register of a pair. -/
structure Latch where
  reg : BitVec 3
  fmt : BitVec 4
  em1 : BitVec 7
  quad : Option (BitVec 2)
  bank : Bool
  order : Nat
  zeros : List Nat
  deriving DecidableEq, Repr

/-- Where an address leads, with the attributes of its page (R351, R356); `va` is the address as R454 compares it. -/
structure Phys where
  va : W64
  pa : PAddr
  dev : Bool
  rh : Bool
  ts : Bool
  str : Bool
  deriving DecidableEq, Repr

/-- A part of a row in data space (R228, R230): where it lies and whether it is written. -/
structure Foot where
  addr : W64
  len : Nat
  write : Bool
  deriving DecidableEq, Repr

/-- A row whose check has passed: where the pages of each of its parts lie. -/
abbrev RowPages := List (Foot × List (W64 × Phys))

/-- A tile instruction as it was captured at its decode (R187, R223): its context, word, stream, descriptor and bases, and the privilege and
world of its events (R454). -/
structure TileOp where
  ctx : CtxId
  word : W32
  stream : BitVec 2
  split : Bool
  desc : W64
  base : W64
  base2 : W64
  sup : Bool
  world : Bool
  deriving DecidableEq, Repr

/-- A tile instruction that goes row by row and has not committed (R219 to R221): its context, PC, word and stream, the pass and its
rows that are performed, those that wait for their data since their checks passed, whether the check of the next one has begun, and whether
any row has been performed since the instruction began or was continued. `records`: it records its progress when it is stopped (R218). -/
structure TilePart where
  ctx : CtxId
  pc : W64
  word : W32
  stream : BitVec 2
  pass : Nat
  rows : Nat
  any : Bool
  checking : Bool
  checked : List RowPages
  records : Bool
  deriving DecidableEq, Repr

/-- A committed tile instruction that has not completed (R216), with the rows it has still to perform, from `row` on. -/
structure TileJob where
  op : TileOp
  pass : Nat
  row : Nat
  rest : List RowPages
  deriving DecidableEq, Repr

/-- The tile unit (06 R177). Row r of Tn has key 32 × n + r; element [m][n] of slot s has key 1024 × s + 32 × m + n. -/
structure Tile where
  trow : SMap TRow
  fold : SMap W32
  sd : Quad W64
  acx : Vector W32 32
  tuse : BitVec 8
  fuse : BitVec 32
  ntw : BitVec 5
  tcfg : BitVec 4
  tflags : W64
  rmax : Vector W32 32
  prog : Quad W64
  latch : List Latch
  latchNo : Nat
  tpOn : Bool
  tpDrain : Bool
  tpPowered : Bool
  tileq : List TileJob
  part : Option TilePart
  /-- the blocks that a TRESTORE has read (R211) -/
  image : List Nat
  /-- storage errors of structures 4 and 5 that no read has found yet (R487) -/
  errs : List EccEvent
  /-- registers that a Mover channel is using, while a tile instruction reads them: their rows are free values, numbered from `veilNo` on
  (R336) -/
  veil : BitVec 8
  veilNo : Nat
  deriving DecidableEq, Repr

/-- The state of the core. -/
structure State where
  ctx : Quad Ctx
  boot : Boot
  chain : Chain
  pins : Pins
  keys : Keys
  rel : Rel
  toll : Toll
  pace : Pace
  time : Time
  perf : Perf
  trace : Trace
  intr : Intr
  drover : Drover
  pamb : Vector W64 16
  paml : Vector W64 16
  spad : SMap TWord
  coldCount : Nat
  caches : Caches
  tlbs : Tlbs
  mesh : Mesh
  mover : Vector MoverCh 8
  cw : Causeway
  coop : Coop
  cp : Coproc
  tile : Tile
  free : Nat
  pending : List Instr
  deriving DecidableEq, Repr

/-- Reasons the machine stops with a fault. None: every fault of the spec is taken as an exception, a machine check or
the lame state, which are next states (R376, R381, R397). -/
inductive Fault where
  deriving DecidableEq, Repr

/-- Reasons a command has no meaning. -/
inductive Refusal where
  /-- Raised only by an arm of `exec` whose command has no meaning yet. Safe: no claim can be made about its effect. -/
  | notModelled (mnemonic : String)
  /-- Raised by a meaning whose command `WellFormed` refuses: its operands contradict its row (a RESERVED_OPCODE whose
  word is assigned, a BAD_PACKET the core receives, a POST_RECEIVE whose words do not match its header). Safe: the table
  has no such step. -/
  | illFormed
  deriving DecidableEq, Repr

namespace Quad

/-- All four alike. -/
def all {α : Type} (v : α) : Quad α := ⟨v, v, v, v⟩

end Quad

/-- An empty stack bank (R91, R375). -/
def StackBank.reset : StackBank := ⟨0, 0, 0⟩

/-- 0 tagged RAW, twice (R388). -/
def CapPair.reset : CapPair := ⟨TWord.zero, TWord.zero⟩

/-- R382: A, X, Y and F0 to F7 POISON, the stack registers 0. -/
def FastBank.reset : FastBank where
  a := TWord.poison
  x := TWord.poison
  y := TWord.poison
  stk := StackBank.reset
  slots := Vector.replicate 8 TWord.poison
  fbpc := 0
  fbst := 0
  fbpcc := CapPair.reset
  fbddc := CapPair.reset
  orig := ⟨false, false, 0⟩

/-- R379: A, X, Y POISON. -/
def EscBank.reset : EscBank where
  a := TWord.poison
  x := TWord.poison
  y := TWord.poison
  stk := StackBank.reset
  slots := Vector.replicate 32 TWord.poison

/-- R402, R415. -/
def Windows.reset : Windows where
  slots := []
  cur := 0
  res := 1
  rsv := false
  link := 0
  fsd := 0
  fsptr := 0

/-- R402. -/
def Events.reset : Events where
  evpend := 0
  waddr := 0
  wland := 0
  wmov := 0
  wdl := BitVec.allOnes 64
  watch := .off
  waitMask := 0
  waitSince := none
  waitDur := none
  waitPc := 0
  swakeFrom := 0
  ipiPeer := none
  landPeer := none
  claimPeer := none
  fence := none

/-- R342, R358, R372, R492, R477. -/
def SysRegs.reset : SysRegs where
  vbar := 0
  svbar := 0
  ecause := 0
  esp := 0
  esplo := 0
  tgrant := 0
  tcr := 0
  ttb1 := 0
  ttb2 := 0
  fsr := 0
  far := 0
  fipa := 0
  kdin := 0
  markr := 0

/-- R91, R97: supervisor, mask level 7; in two worlds the Sealed world; the number of the context. -/
def resetSt (c : CtxId) (twoWorlds : Bool) : W32 :=
  let base : W32 := 0x00000F00#32 ||| (c.setWidth 32 <<< 24)
  if twoWorlds then base ||| 0x00001000#32 else base

/-- A context after a reset (R91, R95): PC at the reset vector. -/
def Ctx.reset (c : CtxId) (twoWorlds : Bool) (vec : W64) (run : RunState) : Ctx where
  a := TWord.poison
  x := TWord.poison
  y := TWord.poison
  mh := TWord.poison
  ml := TWord.poison
  mq := TWord.poison
  mr := TWord.poison
  pc := vec
  st := resetSt c twoWorlds
  banks := Quad.all StackBank.reset
  fast := FastBank.reset
  esc := EscBank.reset
  win := Windows.reset
  slotErrs := []
  sys := SysRegs.reset
  pcc := CapPair.reset
  ddc := CapPair.reset
  hpcc := CapPair.reset
  hddc := CapPair.reset
  ev := Events.reset
  run := run
  skipPair := false
  io := none
  cp := none
  rest := none

/-- The four contexts after a reset: C0 RUNNING, the others STOPPED (R400, R402). -/
def resetCtxs (twoWorlds : Bool) (vec : W64) : Quad Ctx :=
  ⟨Ctx.reset 0 twoWorlds vec .running, Ctx.reset 1 twoWorlds vec .stopped, Ctx.reset 2 twoWorlds vec .stopped,
    Ctx.reset 3 twoWorlds vec .stopped⟩

/-- R66, R80, R86: cold reset. -/
def Boot.reset : Boot where
  phase := .coldReset
  wrstLow := false
  rstTick := 0
  rcause := 1
  go := false
  keyfail := false
  locked := false
  lame := false
  lameCause := 0
  lameCtx := 0
  lameWb := false

/-- R59 to R63, R79 to R87, R421: cold values. -/
def Chain.reset : Chain where
  caddr := 0
  cvalid := false
  mismatch := false
  privMode := 0
  enable0 := 0
  rveclo := 0
  rvechi := 0
  entsrc := 0
  mbin := Vector.replicate 4 0
  mbout := Vector.replicate 4 0
  inFull := false
  outFull := false
  inOvr := false
  outOvr := false
  sealedOnly := false
  bcfg := 0x10400
  refloss := false
  stall := false
  stallSrc := 0
  mrxBad := 0
  mcCrcerr := 0
  wsDrop := 0
  herdcfg := 0
  resp := []
  mcOut := 0
  mcFro := false
  mcDelayed := none
  sinceEnum := 64

/-- R40, R47: outputs at their reset values; the inputs as log 4 says. -/
def Pins.reset : Pins where
  hfence := false
  fenceAck := false
  frz := false
  alarmIn := false
  tamper := ⟨false, false, false⟩
  alarmOut := false
  paceHw := 0
  curHi := false
  stepmon := false
  monSteps := 0
  sampSteps := 0
  refclk := true
  cpPresent := true
  cpRstN := false
  cpIready := false
  stallMesh := 0
  stallCw := 0

/-- No key read yet (R89). -/
def KeyGen.reset : KeyGen := ⟨[], 0, none, none, 0⟩

/-- R493 to R495: ALMCFG has FCTH 16, IRTH 64, TMTH 1, EW 1, ES 1, LOCK 0. -/
def Keys.reset : Keys where
  worldKey := 0
  sealKey := 0
  wkv := false
  skv := false
  alm := false
  gen := KeyGen.reset
  svFc := 0
  svIr := 0
  svTm := 0
  almcfg := 0x314010
  deferred := 0

/-- R483 to R491: FCCFG has WIN 1000, THR 16, EN 1. -/
def Rel.reset : Rel where
  fccfg := 0x11003E8
  fcstat := Vector.replicate 8 0
  fcDeclCount := 0
  fcDeclUnc := 0
  fcWin := 0
  wlock := 0
  wslast := Vector.replicate 8 0
  wsbuf := []
  wsBeat := 0
  wsSeq := 0
  wsNow := []
  latent := []

/-- R498: CWMASK 0xFFFF, HI 0xFFF, CHIP 1. -/
def Toll.reset : Toll where
  ctl := 0xFFFF0000
  rate := 0
  core := 0x01FFF000
  mref := 0
  iref := 0
  held := false
  wb := Vector.replicate 4 0
  wl := Vector.replicate 4 0
  tokM := 0
  tokC := 0

/-- R501. -/
def Pace.reset : Pace := ⟨0, 15, false, 0, 0⟩

/-- R449, R402: TCMP all ones. -/
def Time.reset : Time where
  tick := 0
  tsoff := 0
  tsoffLo := 0
  tsoffHi := 0
  tlat := 0
  tcmp := BitVec.allOnes 64
  ten := false
  timerArmed := true

/-- R452 to R455, R462. -/
def Perf.reset : Perf where
  fc := Vector.replicate 4 0
  pmc := Vector.replicate 16 0
  pmsel := Vector.replicate 16 0
  pma := Vector.replicate 4 0
  pmctl := 0
  pmovf := 0
  frzcfg := 0
  frzstat := 0
  frztick := 0
  uopDebt := 0
  rowDebt := Quad.all 0
  shiftDebt := Quad.all 0
  stepDebt := 0

/-- R466, R468, R471, R479. -/
def Trace.reset : Trace where
  dmpctl := 0
  dmSeq := 0
  dmSkip := 0
  dmFull := false
  dmbase := 0
  dmsize := 0
  dmhead := 0
  dumpOut := none
  dumpAt := none
  trctl := 0
  trFull := false
  trLost := 0
  trbase := 0
  trsize := 0
  trhead := 0
  trq := []
  trOut := false
  trMissed := 0
  xrcfg := 0
  xrFull := false
  xrCause := 0
  xrMissed := 0
  xrIdx := 0
  xrData := []
  copyQ := []
  copyOut := none
  behind := 0

/-- R368, R369, R373, R392, R396, R397. -/
def Intr.reset : Intr where
  vlvl := Vector.replicate 8 0
  ipend := 0
  moverVec := 0
  mcsyn := 0
  mcaddr := 0
  evec := 0
  sentry := 0
  iow := Vector.replicate 8 0
  gateh := Vector.replicate 16 TWord.zero
  gatel := Vector.replicate 16 TWord.zero

/-- R402. -/
def Drover.reset : Drover := ⟨0, 0x0100, 0, 0, none, 0, 0, false⟩

/-- R319: disabled, not yet invalidated. -/
def Caches.reset : Caches := ⟨0, [], [], [], []⟩

/-- R66: TLBs and walk caches empty. -/
def Tlbs.reset : Tlbs := ⟨[], []⟩

/-- R17, R56: the egress FIFO empty. -/
def Mesh.reset : Mesh where
  egress := Quad.all []
  stage := Quad.all []
  head := Quad.all 0
  mid := Quad.all false
  offered := none
  lastReq := true
  lastFlit := Flit.zero
  posts := []
  txid := 0
  reqs := []
  fills := []
  snoops := []

/-- R327 to R331: idle. -/
def MoverCh.reset : MoverCh where
  src := 0
  dst := 0
  geo := 0
  str := 0
  ctl := 0
  state := 0
  cause := 0
  rej := false
  ctx := 0
  rows := 0
  blk := 0
  fva := 0
  fsr := 0
  kr := 0
  srcD := false
  dstD := false
  cap := none
  mark := 0

/-- R443, R27: idle, no credit. -/
def CwCh.reset : CwCh where
  src := 0
  hdr := 0
  rid := 0
  sk := false
  state := 0
  cause := 0
  rej := false
  ctx := 0
  fva := 0
  fsr := 0
  kr := 0
  srcD := false
  credit := 0
  cap := none
  mark := 0
  checked := false
  sent := 0
  lost := false
  zeros := false

/-- The Causeway port after cold reset. -/
def Causeway.reset : Causeway := ⟨Vector.replicate 16 CwCh.reset, 15, [], false, Beat.zero⟩

/-- R429. -/
def WorkCtr.reset : WorkCtr := ⟨0, 0, 0, 0, 0, []⟩

/-- R429, R440. -/
def Coop.reset : Coop := ⟨Vector.replicate 8 WorkCtr.reset, Vector.replicate 16 0, 0, 0, 0⟩

/-- R56: nothing outstanding. -/
def Coproc.reset : Coproc := ⟨[], [], CpIssue.zero, 0⟩

/-- R66, R91, R185 to R212: TUSE and FUSE clear, so that every row and element reads as zero; unit off. -/
def Tile.reset : Tile where
  trow := []
  fold := []
  sd := Quad.all 0
  acx := Vector.replicate 32 0
  tuse := 0
  fuse := 0
  ntw := 0
  tcfg := 0
  tflags := 0
  rmax := Vector.replicate 32 0
  prog := Quad.all 0
  latch := []
  latchNo := 0
  tpOn := false
  tpDrain := false
  tpPowered := false
  tileq := []
  part := none
  image := []
  errs := []
  veil := 0
  veilNo := 0

/-- The core right after cold reset has asserted (R56, R66): every field at its cold value, in the cold reset state. -/
def State.reset : State where
  ctx := resetCtxs false 0
  boot := Boot.reset
  chain := Chain.reset
  pins := Pins.reset
  keys := Keys.reset
  rel := Rel.reset
  toll := Toll.reset
  pace := Pace.reset
  time := Time.reset
  perf := Perf.reset
  trace := Trace.reset
  intr := Intr.reset
  drover := Drover.reset
  pamb := Vector.replicate 16 0
  paml := Vector.replicate 16 0
  spad := []
  coldCount := 0
  caches := Caches.reset
  tlbs := Tlbs.reset
  mesh := Mesh.reset
  mover := Vector.replicate 8 MoverCh.reset
  cw := Causeway.reset
  coop := Coop.reset
  cp := Coproc.reset
  tile := Tile.reset
  free := 0
  pending := []

end Sys2Proof.Machine
end

