-- ==== Sys2Proof/Machine/Bits.lean ====
section
/-!
DEFINITION. Bit fields, sign extension, saturation, sparse storage and the four-way record: the helpers that every
meaning uses.
-/

namespace Sys2Proof.Machine

/-- Bits [lo + len - 1 : lo]. -/
abbrev fld {n : Nat} (x : BitVec n) (lo len : Nat) : BitVec len := x.extractLsb' lo len

/-- Bit i. -/
abbrev bit {n : Nat} (x : BitVec n) (i : Nat) : Bool := x.getLsbD i

/-- A field of a register as a number. -/
abbrev fldN {n : Nat} (x : BitVec n) (lo len : Nat) : Nat := (x.extractLsb' lo len).toNat

/-- x with bits [lo + len - 1 : lo] replaced by v. -/
def setFld {n : Nat} (x : BitVec n) (lo len : Nat) (v : BitVec len) : BitVec n :=
  let mask : BitVec n := (BitVec.allOnes len).setWidth n <<< lo
  (x &&& ~~~mask) ||| (v.setWidth n <<< lo)

/-- x with bit i set to b. -/
def setBit {n : Nat} (x : BitVec n) (i : Nat) (b : Bool) : BitVec n :=
  if b then x ||| ((1 : BitVec n) <<< i) else x &&& ~~~((1 : BitVec n) <<< i)

/-- A Bool as a bit of a word of width n, at place i. -/
def bAt {n : Nat} (i : Nat) (b : Bool) : BitVec n := if b then (1 : BitVec n) <<< i else 0

/-- A field placed in a word. -/
def at' {n k : Nat} (lo : Nat) (v : BitVec k) : BitVec n := v.setWidth n <<< lo

/-- Sign extension. -/
abbrev sext {n : Nat} (x : BitVec n) (w : Nat) : BitVec w := x.signExtend w

/-- x + 1, staying at the largest value (R9's saturating counters). -/
def satInc {n : Nat} (x : BitVec n) : BitVec n := if x = BitVec.allOnes n then x else x + 1

/-- x + k, staying at the largest value. -/
def satAdd {n : Nat} (x : BitVec n) (k : Nat) : BitVec n :=
  if x.toNat + k < 2 ^ n then BitVec.ofNat n (x.toNat + k) else BitVec.allOnes n

namespace SMap

/-- The entry at key k. -/
def find? {α : Type} : SMap α → Nat → Option α
  | [], _ => none
  | (j, v) :: m, k => if j = k then some v else if k < j then none else find? m k

/-- Insert or replace the entry at key k. -/
def put {α : Type} : SMap α → Nat → α → SMap α
  | [], k, v => [(k, v)]
  | (j, w) :: m, k, v =>
    if k < j then (k, v) :: (j, w) :: m else if j = k then (k, v) :: m else (j, w) :: put m k v

/-- Remove the entry at key k. -/
def del {α : Type} : SMap α → Nat → SMap α
  | [], _ => []
  | (j, w) :: m, k => if k < j then (j, w) :: m else if j = k then m else (j, w) :: del m k

/-- Write v at key k, where d is what an unlisted key reads as: writing d removes the entry. -/
def putD {α : Type} [DecidableEq α] (m : SMap α) (d : α) (k : Nat) (v : α) : SMap α :=
  if v = d then del m k else put m k v

/-- Every key is at least b, and the keys rise strictly. -/
def risingFrom {α : Type} (b : Nat) : SMap α → Bool
  | [] => true
  | (k, _) :: m => decide (b ≤ k) && risingFrom (k + 1) m

/-- The canonical form: strictly rising keys. -/
def wf {α : Type} (m : SMap α) : Bool := risingFrom 0 m

end SMap

namespace Quad

/-- The i-th of four. -/
def get {α : Type} (q : Quad α) (i : BitVec 2) : α :=
  if i = 0 then q.q0 else if i = 1 then q.q1 else if i = 2 then q.q2 else q.q3

/-- Replace the i-th of four. -/
def set {α : Type} (q : Quad α) (i : BitVec 2) (v : α) : Quad α :=
  if i = 0 then { q with q0 := v } else if i = 1 then { q with q1 := v }
  else if i = 2 then { q with q2 := v } else { q with q3 := v }

/-- Apply f to each. -/
def map {α β : Type} (f : α → β) (q : Quad α) : Quad β := ⟨f q.q0, f q.q1, f q.q2, f q.q3⟩

end Quad

/-- The i-th entry of a table, or d outside it. -/
def vget {α : Type} {n : Nat} (v : Vector α n) (i : Nat) (d : α) : α := v[i]?.getD d

/-- Replace the i-th entry of a table; nothing outside it. -/
def vset {α : Type} {n : Nat} (v : Vector α n) (i : Nat) (x : α) : Vector α n := v.setIfInBounds i x

/-- The words of a line as one list. -/
def lineList (l : Line) : List TWord := l.toList

/-- A line from a list: short lists are filled with zero words tagged RAW. -/
def lineOf (ws : List TWord) : Line := Vector.ofFn fun (i : Fin 8) => ws.getD i.val TWord.zero

/-- Byte i of a word. -/
def byteOf (w : W64) (i : Nat) : BitVec 8 := fld w (8 * i) 8

/-- The word whose byte i is b i (little-endian, R108). -/
def wordOfBytes (b : Nat → BitVec 8) : W64 :=
  (List.range 8).foldl (fun acc i => acc ||| at' (8 * i) (b i)) 0

end Sys2Proof.Machine
end

