-- ==== Sys2Proof/Machine/Foot.lean ====
section
/-!
DEFINITION. Footprints of tile rows in data space (07 R228, R230): the lines that a row touches, and what a committed tile instruction has
still to access (R224).
-/

namespace Sys2Proof.Machine

open Sys2Proof

/-- The number of the line that holds an address. -/
abbrev lineNo (pa : PAddr) : Nat := pa.toNat / 64

/-- The address of line n. -/
abbrev lineAddr (n : Nat) : PAddr := BitVec.ofNat 52 (64 * n)

/-- The first address of each page of a footprint. -/
def Foot.pages (f : Foot) : List W64 :=
  if f.addr.toNat % 4096 + f.len ≤ 4096 then [f.addr] else [f.addr, (f.addr ||| 0xFFF) + 1]

/-- The physical address of the word at v, given the checked pages. -/
def chAddr (ps : List (W64 × Phys)) (v : W64) : PAddr :=
  match ps.find? fun e => e.1.toNat / 4096 == v.toNat / 4096 with
  | some (a, p) => p.pa + (v - a).setWidth 52
  | none => 0

/-- The page of v is a streaming one (R351). -/
def pageStreams (ps : List (W64 × Phys)) (v : W64) : Bool :=
  (ps.find? fun e => e.1.toNat / 4096 == v.toNat / 4096).any fun e => e.2.str

/-- The parts of n bytes at a that lie in one line each: where a part begins, how many bytes, and its place in the whole. -/
def linePieces : (fuel : Nat) → (a : W64) → (n at_ : Nat) → List (W64 × Nat × Nat)
  | 0, _, _, _ => []
  | fuel + 1, a, n, i =>
    if n = 0 then []
    else
      let k := min n (64 - a.toNat % 64)
      (a, k, i) :: linePieces fuel (a + BitVec.ofNat 64 k) (n - k) (i + k)

/-- The pieces of a footprint. -/
def pieces (a : W64) (n : Nat) : List (W64 × Nat × Nat) := linePieces (n / 64 + 2) a n 0

/-- A checked part of a row touches line n. -/
def footOn (n : Nat) (e : Foot × List (W64 × Phys)) : Bool :=
  (pieces e.1.addr e.1.len).any fun x => lineNo (chAddr e.2 x.1) == n

/-- A committed tile instruction of context c has still to access line n: the later accesses of the context wait (R224). -/
def tileOn (s : State) (c : CtxId) (n : Nat) : Bool :=
  s.tile.tileq.any fun j => j.op.ctx == c && j.rest.any fun row => row.any (footOn n)

/-- A tile instruction of context c, committed or not, has a checked row to perform that touches line n. -/
def Tile.rowOn (t : Tile) (c : CtxId) (n : Nat) : Bool :=
  (t.tileq.any fun j => j.op.ctx == c && j.rest.any fun row => row.any (footOn n)) ||
    t.part.any fun p => p.ctx == c && p.checked.any fun row => row.any (footOn n)

/-- Two checked rows touch one line, and one of them writes there (R224). -/
def rowsMeet (a b : RowPages) : Bool :=
  a.any fun e => b.any fun f => (e.1.write || f.1.write) &&
    (pieces e.1.addr e.1.len).any fun x => footOn (lineNo (chAddr e.2 x.1)) f

end Sys2Proof.Machine
end

