-- ==== Sys2Proof/Machine/Ops.lean ====
section
/-!
DEFINITION. The operations that every meaning shares: how a step stops, the registers of a context through its banks,
the management-plane effects (IPEND, machine checks, Wayside records, security violations, counters, trace records)
and the form of every instruction's meaning, `runInstr`.
-/

namespace Sys2Proof.Machine

/-- What a synchronous exception carries to its entry (R367, R376). -/
structure ExcInfo where
  vec : BitVec 6
  code : BitVec 8
  /-- FSR, FAR and FIPA of a translation fault (R358) -/
  xl : Option (W64 × W64 × W64)
  /-- how far past PC the PC to return to lies: 4 for TRAP, STILE and I/O timeout, 2 for move 1 of a Rhaha word (R165) -/
  off : W64
  /-- entry by STILE (R387) -/
  stl : Bool
  /-- counts as a forged-capability attempt (R394) -/
  forged : Bool
  deriving DecidableEq, Repr

/-- Why an instruction does not retire in this step: it waits (R13), it raises an exception, or it is an illegal return
with the failed check (R385), which may count as forged (R394). -/
inductive Stop where
  | wait
  | exc (e : ExcInfo)
  | illegal (check : BitVec 8) (forged : Bool)
  deriving DecidableEq, Repr

/-- A part of an instruction: it changes the state, or stops. -/
abbrev M := EStateM Stop State

/-- Raise vector v with a code. -/
def raise {α : Type} (v : BitVec 6) (code : BitVec 8 := 0) : M α :=
  throw (.exc ⟨v, code, none, 0, false, false⟩)

/-- Vector 1. -/
def undef {α : Type} : M α := raise 1
/-- Vector 2. -/
def privileged {α : Type} : M α := raise 2
/-- Vector 3 with the tag that failed. -/
def tagFault {α : Type} (t : Tag) : M α := raise 3 (t.setWidth 8)
/-- Vector 4. -/
def misaligned {α : Type} : M α := raise 4
/-- Vector 10. -/
def ioProtection {α : Type} : M α := raise 10
/-- Vector 11 with its reason (R394); code 6 and a CHK mismatch on capability tags count as forged. -/
def capFault {α : Type} (code : BitVec 8) (forged : Bool) : M α :=
  throw (.exc ⟨11, code, none, 0, false, forged⟩)
/-- Wait: the instruction goes on when what it waits for has come about. -/
def wait {α : Type} : M α := throw .wait

/-- Undefined instruction unless b. -/
def needDef (b : Bool) : M Unit := if b then pure () else undef
/-- Privileged instruction unless b. -/
def needPriv (b : Bool) : M Unit := if b then pure () else privileged

/-! ## Tags -/

/-- A reserved tag (R102). -/
def isReserved (t : Tag) : Bool := decide (10 ≤ t.toNat) && decide (t.toNat ≤ 13)
/-- RAW or INT (R103). -/
def isPlain (t : Tag) : Bool := t == Tag.raw || t == Tag.int
/-- DPTR, CPTR or IOPTR (R103). -/
def isPtr (t : Tag) : Bool := t == Tag.dptr || t == Tag.cptr || t == Tag.ioptr
/-- A protected tag (R99). -/
def isProtected (t : Tag) : Bool :=
  t == Tag.caph || t == Tag.capl || t == Tag.epoch || t == Tag.sealed
/-- R102: a word with a reserved tag is delivered tagged POISON. -/
def deliver (w : TWord) : TWord := if isReserved w.tag then ⟨w.val, Tag.poison⟩ else w
/-- R11: a bounded unpredictable word carries a tag the operation could legally produce: no protected or reserved one. -/
def bounded (w : TWord) : TWord :=
  if isReserved w.tag || isProtected w.tag then ⟨w.val, Tag.poison⟩ else w

/-! ## Configuration and contexts -/

/-- Two worlds (R84). -/
def twoWorlds (s : State) : Bool := s.chain.privMode == 1
/-- The capability configuration (R84). -/
def capsConf (s : State) : Bool := s.chain.privMode == 2

/-- Feature bit i of ENABLE0 (R81, R83). -/
def enabled (s : State) (i : Nat) : Bool := bit s.chain.enable0 i

/-- The context that is RUNNING (R399). -/
def runningCtx (s : State) : Option CtxId :=
  if s.ctx.q0.run == .running then some 0
  else if s.ctx.q1.run == .running then some 1
  else if s.ctx.q2.run == .running then some 2
  else if s.ctx.q3.run == .running then some 3
  else none

/-- Context c. -/
abbrev State.getCtx (s : State) (c : CtxId) : Ctx := s.ctx.get c
/-- s with context c replaced. -/
def State.setCtx (s : State) (c : CtxId) (k : Ctx) : State := { s with ctx := s.ctx.set c k }
/-- s with f applied to context c. -/
def State.modCtx (s : State) (c : CtxId) (f : Ctx → Ctx) : State := s.setCtx c (f (s.getCtx c))
/-- Context c, in the monad. -/
def getC (c : CtxId) : M Ctx := do return (← get).getCtx c
/-- Apply f to context c, in the monad. -/
def modC (c : CtxId) (f : Ctx → Ctx) : M Unit := modify fun s => s.modCtx c f

namespace Ctx
/-- ST.SUP. -/
def sup (k : Ctx) : Bool := bit k.st 11
/-- ST.WORLD: 1 Sealed. -/
def world (k : Ctx) : Bool := bit k.st 12
/-- ST.UA. -/
def ua (k : Ctx) : Bool := bit k.st 13
/-- ST.FIB. -/
def fib (k : Ctx) : Bool := bit k.st 14
/-- ST.RH. -/
def rh (k : Ctx) : Bool := bit k.st 15
/-- ST.ESC. -/
def inEsc (k : Ctx) : Bool := bit k.st 26
/-- ST.MASK. -/
def mask (k : Ctx) : BitVec 3 := fld k.st 8 3

/-- The accumulator in force: escalation bank, fast bank or main (R379, R382). -/
def getA (k : Ctx) : TWord := if k.inEsc then k.esc.a else if k.fib then k.fast.a else k.a
/-- X in force. -/
def getX (k : Ctx) : TWord := if k.inEsc then k.esc.x else if k.fib then k.fast.x else k.x
/-- Y in force. -/
def getY (k : Ctx) : TWord := if k.inEsc then k.esc.y else if k.fib then k.fast.y else k.y
/-- Errors of structure 6 at the places that `p` picks are gone: found, or overwritten (R487). Slot i of window w is place 32 × w + i, slot
i of the escalation bank 256 + i, of the fast bank 288 + i; their A, X and Y are 296 to 298 and 299 to 301. -/
def clearSlotErrs (k : Ctx) (p : Nat → Bool) : Ctx :=
  if k.slotErrs.isEmpty then k else { k with slotErrs := k.slotErrs.filter fun e => !p e.1 }
/-- Write the accumulator in force. -/
def setA (k : Ctx) (w : TWord) : Ctx :=
  if k.inEsc then { k with esc := { k.esc with a := w } }.clearSlotErrs (· == 296)
  else if k.fib then { k with fast := { k.fast with a := w } }.clearSlotErrs (· == 299) else { k with a := w }
/-- Write X in force. -/
def setX (k : Ctx) (w : TWord) : Ctx :=
  if k.inEsc then { k with esc := { k.esc with x := w } }.clearSlotErrs (· == 297)
  else if k.fib then { k with fast := { k.fast with x := w } }.clearSlotErrs (· == 300) else { k with x := w }
/-- Write Y in force. -/
def setY (k : Ctx) (w : TWord) : Ctx :=
  if k.inEsc then { k with esc := { k.esc with y := w } }.clearSlotErrs (· == 298)
  else if k.fib then { k with fast := { k.fast with y := w } }.clearSlotErrs (· == 301) else { k with y := w }
end Ctx

/-- The number of a stack bank (R375): in the capability configuration 0 user and 1 supervisor. -/
def bankNo (sup world : Bool) : BitVec 2 := (if world then 2 else 0) + (if sup then 1 else 0)

namespace Ctx
/-- The stack registers in force (R375, R379, R382). -/
def stk (k : Ctx) : StackBank :=
  if k.inEsc then k.esc.stk else if k.fib then k.fast.stk else k.banks.get (bankNo k.sup k.world)
/-- Replace the stack registers in force. -/
def setStk (k : Ctx) (b : StackBank) : Ctx :=
  if k.inEsc then { k with esc := { k.esc with stk := b } }
  else if k.fib then { k with fast := { k.fast with stk := b } }
  else { k with banks := k.banks.set (bankNo k.sup k.world) b }
/-- Replace SP in force. -/
def setSp (k : Ctx) (v : W64) : Ctx := k.setStk { k.stk with sp := v }

/-- The window that frame-slot operands name (R415). -/
def window (k : Ctx) : Nat := if k.win.rsv && k.win.link == 0 then 7 else k.win.cur.toNat

/-- Slot i of window w: POISON until it is written (R113). -/
def winSlot (k : Ctx) (w i : Nat) : TWord := (SMap.find? k.win.slots (32 * w + i)).getD TWord.poison
/-- Write slot i of window w. -/
def setWinSlot (k : Ctx) (w i : Nat) (v : TWord) : Ctx :=
  { k with win := { k.win with slots := SMap.putD k.win.slots TWord.poison (32 * w + i) v } }.clearSlotErrs (· == 32 * w + i)
/-- Allocate window w: its slots read as POISON (R113). -/
def allocWindow (k : Ctx) (w : Nat) : Ctx :=
  { k with win := { k.win with slots := k.win.slots.filter fun e => e.1 / 32 != w } }.clearSlotErrs (· / 32 == w)

/-- A frame-slot operand exists (R382: F8 to F31 do not while FIB is 1). -/
def hasSlot (k : Ctx) (i : BitVec 5) : Bool := k.inEsc || !k.fib || decide (i.toNat < 8)
/-- The frame slot F(i) in force (R379, R382, R415). -/
def slot (k : Ctx) (i : BitVec 5) : TWord :=
  if k.inEsc then vget k.esc.slots i.toNat TWord.poison
  else if k.fib then vget k.fast.slots i.toNat TWord.poison
  else k.winSlot k.window i.toNat
/-- Write the frame slot F(i) in force. -/
def setSlot (k : Ctx) (i : BitVec 5) (v : TWord) : Ctx :=
  if k.inEsc then { k with esc := { k.esc with slots := vset k.esc.slots i.toNat v } }.clearSlotErrs (· == 256 + i.toNat)
  else if k.fib then { k with fast := { k.fast with slots := vset k.fast.slots i.toNat v } }.clearSlotErrs (· == 288 + i.toNat)
  else k.setWinSlot k.window i.toNat v

/-- Write a result where `d` names it (R170, R153). -/
def setDest (k : Ctx) (d : Dest) (w : TWord) : Ctx :=
  match d with
  | .none => k
  | .a => k.setA w
  | .x => k.setX w
  | .y => k.setY w
  | .slot i => k.setSlot i w
end Ctx

/-- The code is the stage-2 owner (R371, R390): Sealed supervisor, or supervisor whose PCC has SYS. -/
def stage2Owner (s : State) (k : Ctx) : Bool :=
  k.sup && (if capsConf s then bit k.pcc.hi.val 61 else k.world)

/-- Whether context c, in the state s, is the stage-2 owner. -/
def isOwner2 (c : CtxId) : M Bool := do let s ← get; return stage2Owner s (s.getCtx c)

/-! ## Time and free values -/

/-- TSTAMP (R449). -/
def tstamp (s : State) : W64 := s.time.tick + s.time.tsoff

/-- The next free value's number; the counter advances. -/
def freshFree : M Nat := do
  let s ← get
  set { s with free := s.free + 1 }
  return s.free
/-- A free 64-bit value. -/
def freeW : M W64 := do return Config.freeW64 (← freshFree)
/-- A free choice. -/
def freeB : M Bool := do return Config.freeBool (← freshFree)
/-- A bounded unpredictable tagged word (R11). -/
def freeBounded : M TWord := do return bounded (Config.freeWord (← freshFree))

/-! ## Interrupts (R368 to R370) -/

/-- The byte of VLVL that describes a vector (R368). -/
def vlvlByte (s : State) (v : BitVec 6) : BitVec 8 := byteOf (vget s.intr.vlvl (v.toNat / 8) 0) (v.toNat % 8)
/-- LVL of a vector. -/
def vecLevel (s : State) (v : BitVec 6) : BitVec 3 := fld (vlvlByte s v) 0 3
/-- SW of a vector: taken in the Sealed world. -/
def vecSealed (s : State) (v : BitVec 6) : Bool := bit (vlvlByte s v) 3
/-- The context that takes an asynchronous vector. -/
def vecCtx (s : State) (v : BitVec 6) : CtxId := fld (vlvlByte s v) 4 2

/-- The asynchronous vectors, lowest first. -/
def asyncVectors : List (BitVec 6) := [0, 32, 33, 34, 35, 36, 37]

/-- Vector v is takeable in context c (R370). -/
def takeable (s : State) (c : CtxId) (v : BitVec 6) : Bool :=
  let k := s.getCtx c
  let l := vecLevel s v
  bit s.intr.ipend v.toNat && vecCtx s v == c && decide (k.mask < l) && !k.inEsc &&
    (if l == 7 then !k.fib else !k.win.rsv) && (!twoWorlds s || vecSealed s v || !k.world)

/-- The interrupt that context c takes (R370): of the highest level, the lowest vector. -/
def bestVector (s : State) (c : CtxId) : Option (BitVec 6) :=
  let vs := asyncVectors.filter fun v => takeable s c v
  vs.find? fun v => vs.all fun u => decide (vecLevel s u ≤ vecLevel s v)

/-- A WAITING context that an interrupt wakes becomes READY (R404, R411): its WAIT is executed again after the return. -/
def Ctx.wokenByIrq (k : Ctx) (now : W64) : Ctx :=
  if k.run == .waiting then
    { k with run := .ready, ev := { k.ev with waitMask := 0, waitDur := some (now - k.ev.waitSince.getD now) } }
  else k

/-- Context c is woken if an interrupt is takeable in it. -/
def wakeByIrq (c : CtxId) (s : State) : State :=
  if (s.getCtx c).run == .waiting && (bestVector s c).isSome then s.modCtx c fun k => k.wokenByIrq s.time.tick else s

/-- Every WAITING context in which an interrupt is takeable becomes READY. -/
def wakeIrqs (s : State) : State := ([0, 1, 2, 3] : List CtxId).foldl (fun t c => wakeByIrq c t) s

/-- Set bit v of IPEND (R369). -/
def setPend (v : Nat) (s : State) : State := wakeIrqs { s with intr := { s.intr with ipend := setBit s.intr.ipend v true } }

/-! ## Counters (R452 to R458) -/

/-- The master of an event (R453). -/
inductive Master where
  | none | ctx (c : CtxId) | mover (ch : BitVec 3) | cw (ch : BitVec 4) | quad (q : BitVec 2)
  deriving DecidableEq, Repr

/-- The event passes the filters of PMSEL value `sel` (R453, R454). -/
def eventPasses (caps : Bool) (pma : Vector W64 4) (sel : BitVec 25) (cls evt : Nat) (cause : Option (Bool × Bool))
    (m : Master) (addr : Option W64) : Bool :=
  let mt := fldN sel 16 3
  let mi := fldN sel 19 3
  let ar := if mt = 3 then 0 else fldN sel 22 2
  bit sel 24 && fldN sel 0 8 == evt && fldN sel 8 4 == cls &&
  (match cause with
    | some (sup, world) => (if sup then bit sel 13 else bit sel 12) &&
        (caps || (if world then bit sel 15 else bit sel 14))
    | none => bit sel 12 && bit sel 13 && bit sel 14 && (caps || bit sel 15)) &&
  (match mt, m with
    | 0, _ => true
    | 1, .ctx c => mi == c.toNat
    | 2, .mover ch => mi == ch.toNat
    | 3, .cw ch => mi + (if bit sel 22 then 8 else 0) == ch.toNat
    | 4, .quad q => mi == q.toNat
    | _, _ => false) &&
  (match ar, addr with
    | 0, _ => true
    | 1, some a => decide (fldN (vget pma 0 0) 0 56 ≤ fldN a 0 56) && decide (fldN a 0 56 ≤ fldN (vget pma 1 0) 0 56)
    | 2, some a => decide (fldN (vget pma 2 0) 0 56 ≤ fldN a 0 56) && decide (fldN a 0 56 ≤ fldN (vget pma 3 0) 0 56)
    | _, _ => false)

/-- Add n to PMC k (R456): a wrap sets OVF, IPEND bit 36 under OVI, and the freeze trigger of FRZCFG (R463). -/
def bumpPmc (s : State) (k n : Nat) : State :=
  let v := (vget s.perf.pmc k 0).toNat + n
  let p := { s.perf with pmc := vset s.perf.pmc k (BitVec.ofNat 48 v) }
  if v < 2 ^ 48 then { s with perf := p }
  else
    let t := { s with perf := { p with
      pmovf := setBit p.pmovf k true
      frzstat := if bit p.frzcfg k then setBit p.frzstat k true else p.frzstat } }
    if bit p.pmctl (16 + k) then setPend 36 t else t

/-- Count n occurrences of an event (R454). -/
def countEvent (cls evt n : Nat) (cause : Option (Bool × Bool)) (m : Master) (addr : Option W64) (s : State) : State :=
  if !bit s.perf.pmctl 0 || s.pins.frz || n == 0 then s
  else (List.range 16).foldl (fun t k =>
    if eventPasses (capsConf s) s.perf.pma (vget s.perf.pmsel k 0) cls evt cause m addr then bumpPmc t k n else t) s

/-- Count an event of context c, with its privilege and world. -/
def countCtx (cls evt n : Nat) (c : CtxId) (addr : Option W64 := none) (s : State) : State :=
  countEvent cls evt n (some ((s.getCtx c).sup, (s.getCtx c).world)) (.ctx c) addr s

/-- Whose events the accesses of a requester are, and their cause (R454): a channel's, what it captured; a tile row's, what its instruction
was committed under. -/
def Requester.source (s : State) : Requester → Option (Bool × Bool) × Master
  | .ctx c => (some ((s.getCtx c).sup, (s.getCtx c).world), .ctx c)
  | .tile c =>
    (match s.tile.tileq.find? fun j => j.op.ctx == c && !j.rest.isEmpty with
    | some j => some (j.op.sup, j.op.world)
    | none => some ((s.getCtx c).sup, (s.getCtx c).world), .ctx c)
  | .mover n => ((vget s.mover n.toNat MoverCh.reset).cap.map fun g => (g.sup, g.sealed), .mover n)
  | .cw n => ((vget s.cw.ch n.toNat CwCh.reset).cap.map fun g => (g.sup, g.sealed), .cw n)
  | _ => (none, .none)

/-- Count a SPEC event of a requester's access, with its address. -/
def countSpec (who : Requester) (evt : Nat) (a : W64) (s : State) : State :=
  let src := who.source s
  countEvent 1 evt 1 src.1 src.2 (some a) s

/-! ## Wayside records, interrupts, machine checks, security violations -/

/-- The whole words of a Wayside record (R490). -/
def waysideWords (s : State) (cause : BitVec 8) (ctx : Option CtxId) (detail : W32) (seq : W32) : WsRecord :=
  let lmask : W64 := (List.range 8).foldl (fun a n => a ||| bAt n (bit (vget s.rel.fcstat n 0) 40)) 0
  let total := (List.range 8).foldl (fun a n => a + fldN (vget s.rel.fcstat n 0) 8 32) 0
  let w1 : W64 := 1 ||| at' 8 cause ||| at' 16 (if s.chain.cvalid then s.chain.caddr else 0) ||| at' 32 seq |||
    (match ctx with | some c => at' 28 c ||| bAt 30 true | none => 0)
  let k := s.getCtx (ctx.getD 0)
  let cv := ctx.isSome
  Vector.ofFn fun i =>
    match i.val with
    | 0 => tstamp s
    | 1 => w1
    | 2 => if cv then k.pc else 0
    | 3 => (if cv then k.st.setWidth 64 else 0) ||| at' 32 detail
    | 4 => if cv then k.sys.fsr else 0
    | 5 => lmask ||| at' 8 s.keys.svFc ||| at' 16 s.keys.svIr ||| at' 24 s.keys.svTm |||
        at' 32 (satAdd (0 : W32) total)
    | _ => 0

/-- The record with the next SEQ. -/
def nextSeq (r : WsRecord) : WsRecord := vset r 1 (vget r 1 0 + 0x100000000#64)

/-- Produce a Wayside record (R490, R491): copied into WSLAST; queued, or dropped and counted when the two places of the path are full
(R52). Records of this tick with a higher cause, as far as the path has not begun to send them (DESIGN CHOICE, log 84), come after it: each
takes the next SEQ. -/
def wayside (cause : BitVec 8) (ctx : Option CtxId) (detail : W32) (s : State) : State :=
  let now := s.rel.wsNow.filter fun x => vget x 0 0 == tstamp s
  let after := fun (x : WsRecord) => now.contains x && decide (cause.toNat < fldN (vget x 1 0) 8 8)
  let late := now.filter after
  let r := waysideWords s cause ctx detail (s.rel.wsSeq + 1 - BitVec.ofNat 32 late.length)
  let buf := s.rel.wsbuf.filter (fun x => !after x) ++ r :: (s.rel.wsbuf.filter after).map nextSeq
  { s with
    rel := { s.rel with
      wsSeq := s.rel.wsSeq + 1, wsbuf := buf.take 2, wslast := if late.isEmpty then r else nextSeq s.rel.wslast
      wsNow := now.filter (fun x => !after x) ++ r :: late.map nextSeq }
    chain := { s.chain with wsDrop := if buf.length ≤ 2 then s.chain.wsDrop else satInc s.chain.wsDrop } }

/-- A machine check (R397): the syndrome of the oldest, OVF for a later one, IPEND.MC. -/
def machineCheck (src : BitVec 4) (array : BitVec 2) (addr : W64) (s : State) : State :=
  let i := s.intr
  setPend 0 { s with
    intr := if bit i.mcsyn 63 then { i with mcsyn := setBit i.mcsyn 6 true }
      else { i with mcsyn := bAt 63 true ||| at' 0 src ||| at' 4 array, mcaddr := at' 0 (fld addr 0 52) } }

/-- The alarm fires for the counts in `which` ([0] FC, [1] IR, [2] TM) (R496). Only its first firing erases keys; DETAIL names
those that this firing erases (log 63). -/
def alarmFire (which : BitVec 3) (s : State) : State :=
  let k := s.keys
  let ew := !k.alm && bit k.almcfg 20
  let es := !k.alm && bit k.almcfg 21
  let k' := { k with
    alm := true
    worldKey := if ew then 0 else k.worldKey
    sealKey := if es then 0 else k.sealKey
    wkv := k.wkv && !ew
    skv := k.skv && !es }
  wayside 5 none (which.setWidth 32 ||| bAt 3 ew ||| bAt 4 es)
    { s with keys := k', pins := { s.pins with alarmOut := s.pins.alarmOut || ew || es } }

/-- The count of kind 0 FC, 1 IR, 2 TM (R494). -/
def Keys.svCount (k : Keys) (kind : Nat) : Nat :=
  match kind with | 0 => k.svFc.toNat | 1 => k.svIr.toNat | _ => k.svTm.toNat

/-- The threshold of a kind (R495); 0: never. -/
def Keys.threshold (k : Keys) (kind : Nat) : Nat :=
  match kind with | 0 => fldN k.almcfg 0 8 | 1 => fldN k.almcfg 8 8 | _ => fldN k.almcfg 16 4

/-- Count one security violation of kind 0 FC, 1 IR, 2 TM (R494). -/
def countViolation (kind : Nat) (s : State) : State :=
  let k := s.keys
  { s with keys := match kind with
    | 0 => { k with svFc := satInc k.svFc }
    | 1 => { k with svIr := satInc k.svIr }
    | _ => { k with svTm := satInc k.svTm } }

/-- From `s` to `t` the count of a kind has become equal to its threshold. -/
def fired (s t : State) (kind : Nat) : Bool :=
  let th := t.keys.threshold kind
  th != 0 && decide (s.keys.svCount kind < th) && decide (th ≤ t.keys.svCount kind)

/-- The alarm fires for the counts that reached their thresholds from `s` to `t`, once for all of them (R496), or will when the Keys
state ends (R497). -/
def fireAlarm (s t : State) : State :=
  let which : BitVec 3 := bAt 0 (fired s t 0) ||| bAt 1 (fired s t 1) ||| bAt 2 (fired s t 2)
  if which = 0 then t
  else if t.boot.phase = .keys then { t with keys := { t.keys with deferred := t.keys.deferred ||| which } }
  else alarmFire which t

/-- A security violation of this kind: counted, with the alarm that it may fire. -/
def violation (kind : Nat) (s : State) : State := fireAlarm s (countViolation kind s)

/-! ## Trace records (R472 to R474) -/

/-- The four words of a record (R472). -/
def traceWords (s : State) (typ : BitVec 6) (ctx : Option (CtxId × W32)) (p0 p1 : W64) : TrRecord :=
  let h : W64 := at' 0 typ ||| at' 16 s.chain.caddr |||
    (match ctx with
      | some (c, mark) => at' 6 c ||| at' 32 (fld mark 0 16) ||| at' 48 (fld mark 16 16)
      | none => bAt 8 true)
  Vector.ofFn fun i => match i.val with | 0 => h | 1 => tstamp s | 2 => p0 | _ => p1

/-- Records of this type are produced (R474). -/
def traceOn (s : State) (typ : BitVec 6) : Bool :=
  bit s.trace.trctl 0 && decide (typ.toNat < 16) && decide (0 < typ.toNat) && bit s.trace.trctl typ.toNat &&
    fld s.trace.trsize 0 16 != 0

/-- Produce a trace record (R474): held if there is a place for it and for the LOSS record due before it. -/
def traceRec (typ : BitVec 6) (ctx : Option (CtxId × W32)) (p0 p1 : W64) (s : State) : State :=
  let t := s.trace
  if !traceOn s typ then s
  else
    let loss := decide (0 < t.trMissed) && traceOn s 9
    let need := if loss then 2 else 1
    if t.trFull || decide (16 < t.trq.length + need) then
      { s with trace := { t with trLost := satInc t.trLost, trMissed := t.trMissed + 1 } }
    else
      let pre := if loss then [traceWords s 9 none (BitVec.ofNat 64 t.trMissed) 0] else []
      { s with trace := { t with
        trq := t.trq ++ pre ++ [traceWords s typ ctx p0 p1]
        trMissed := if loss then 0 else t.trMissed } }

/-- A trace record of context c, with its MARKR. -/
def traceCtx (typ : BitVec 6) (c : CtxId) (p0 p1 : W64) (s : State) : State :=
  traceRec typ (some (c, (s.getCtx c).sys.markr)) p0 p1 s

/-! ## Events of a context (R407, R410) -/

/-- Set event kind k of context c; a context that waits for it becomes READY (R410). -/
def setEvent (c : CtxId) (k : Nat) (s : State) : State :=
  s.modCtx c fun x =>
    let e := { x.ev with evpend := setBit x.ev.evpend k true }
    if x.run == .waiting && bit x.ev.waitMask k then
      { x with run := .ready, ev := { e with waitDur := some (s.time.tick - x.ev.waitSince.getD s.time.tick) } }
    else { x with ev := e }

/-- Set event kind k of every context that `p` picks. -/
def setEvents (k : Nat) (p : CtxId → Bool) (s : State) : State :=
  [0, 1, 2, 3].foldl (fun t c => if p c then setEvent c k t else t) s

/-- A write hits the watched line n (R409); the scalar stores and frame spills of a context do not hit its own watch. -/
def hitWatch (writer : Option CtxId) (n : Nat) (s : State) : State :=
  setEvents 0 (fun c => (s.getCtx c).ev.watch == .line n && writer != some c) s

/-! ## Storage errors (R482 to R487) -/

/-- Declare a lasting fault in structure n (R486). -/
def declareLasting (n : BitVec 3) (unc : Bool) (s : State) : State :=
  let f := vget s.rel.fcstat n.toNat 0
  let t := setPend 37 { s with rel := { s.rel with
    fcstat := vset s.rel.fcstat n.toNat (setBit f 40 true)
    fcDeclCount := if unc then s.rel.fcDeclCount else setBit s.rel.fcDeclCount n.toNat true
    fcDeclUnc := if unc then setBit s.rel.fcDeclUnc n.toNat true else s.rel.fcDeclUnc } }
  wayside 4 none (at' 0 n ||| at' 3 (fld f 41 4) ||| bAt 7 (bit f 45) ||| bAt 8 unc) t

/-- Count an error of structure n (R484, R486). -/
def countError (n : BitVec 3) (way : BitVec 4) (unc : Bool) (s : State) : State :=
  let i := n.toNat
  let f := vget s.rel.fcstat i 0
  let f1 := if n.toNat < 3 then setBit (setFld f 41 4 way) 45 true else f
  let f2 := if unc then setFld f1 46 8 (satInc (fld f1 46 8))
    else setFld (setFld f1 0 8 (satInc (fld f1 0 8))) 8 32 (satInc (fld f1 8 32))
  let t := countEvent 2 (if unc then 5 else 4) 1 none .none none
    { s with rel := { s.rel with fcstat := vset s.rel.fcstat i f2 } }
  let en := bit s.rel.fccfg 24
  let thr := fldN s.rel.fccfg 16 8
  if !en then t
  else if unc then (if bit s.rel.fcDeclUnc i then t else declareLasting n true t)
  else if thr ≠ 0 ∧ thr ≤ fldN f2 0 8 ∧ bit s.rel.fcDeclCount i = false then declareLasting n false t
  else t

/-- Errors of structure n at this place wait to be found; whether one of them is uncorrectable. -/
def latentAt (s : State) (n : BitVec 3) (loc : Nat) : Option Bool :=
  let l := s.rel.latent.filter fun e => e.str == n && e.loc == loc
  if l.isEmpty then none else some (l.any fun e => e.uncorrectable)

/-- The errors of structure n at the places that `p` picks are gone: found, or overwritten. -/
def clearLatent (n : BitVec 3) (p : EccEvent → Bool) (s : State) : State :=
  if s.rel.latent.isEmpty then s
  else { s with rel := { s.rel with latent := s.rel.latent.filter fun e => !(e.str == n && p e) } }

/-! ## The form of an instruction -/

/-- The events that a context was given during a step that is undone: they are not lost (R408). -/
def Ctx.keepEvents (k t : Ctx) : Ctx :=
  if k.run == .waiting then
    { k with run := t.run, ev := { k.ev with
      evpend := k.ev.evpend ||| t.ev.evpend, waitMask := t.ev.waitMask, waitDur := t.ev.waitDur } }
  else { k with ev := { k.ev with evpend := k.ev.evpend ||| t.ev.evpend } }

/-- The word at place i of structure 6 is lost: it reads as POISON (R487). -/
def Ctx.loseSlot (i : Nat) (k : Ctx) : Ctx :=
  if i < 256 then k.setWinSlot (i / 32) (i % 32) TWord.poison
  else if i < 288 then { k with esc := { k.esc with slots := vset k.esc.slots (i - 256) TWord.poison } }
  else if i < 296 then { k with fast := { k.fast with slots := vset k.fast.slots (i - 288) TWord.poison } }
  else match i with
    | 296 => { k with esc := { k.esc with a := TWord.poison } }
    | 297 => { k with esc := { k.esc with x := TWord.poison } }
    | 298 => { k with esc := { k.esc with y := TWord.poison } }
    | 299 => { k with fast := { k.fast with a := TWord.poison } }
    | 300 => { k with fast := { k.fast with x := TWord.poison } }
    | _ => { k with fast := { k.fast with y := TWord.poison } }

/-- The errors of structure 6 that an undone step, which came to t, has found: they stay found, and the words lost. -/
def Ctx.keepFound (k t : Ctx) : Ctx :=
  k.slotErrs.foldl (fun u e => if t.slotErrs.contains e then u else (if e.2 then u.loseSlot e.1 else u).clearSlotErrs (· == e.1)) k

/-- What a step that does not retire leaves of the state `t` it came to: the mesh requests it made, what it cached, the scratchpad words a
read rewrote (R314), the free values it took, the events it set by moving lines, and what the management plane recorded. Every other change
is undone (R123, R159). -/
def rollback (s t : State) : State :=
  let ctx := fun (a b : Ctx) => (a.keepEvents b).keepFound b
  { s with
    ctx := ⟨ctx s.ctx.q0 t.ctx.q0, ctx s.ctx.q1 t.ctx.q1, ctx s.ctx.q2 t.ctx.q2, ctx s.ctx.q3 t.ctx.q3⟩
    mesh := t.mesh, tlbs := t.tlbs, caches := t.caches, spad := t.spad, free := t.free, toll := t.toll, rel := t.rel
    perf := t.perf
    chain := { s.chain with wsDrop := t.chain.wsDrop }
    intr := { s.intr with
      ipend := s.intr.ipend ||| (t.intr.ipend &&& 0x3000000001#64)
      mcsyn := t.intr.mcsyn, mcaddr := t.intr.mcaddr } }

/-- Instructions can issue (R88, R381, R399): the core has started, is not lame and runs context c, which waits for no
I/O response and no coprocessor result. -/
def issuing (s : State) : Option CtxId :=
  if s.boot.phase = .start ∧ s.boot.lame = false then
    match runningCtx s with
    | none => none
    | some c =>
      if (s.getCtx c).io.isNone && (s.getCtx c).cp.isNone then some c else none
  else none

/-- A request whose answer an access waits for (R325). -/
def ReqOp.isRead (o : ReqOp) : Bool :=
  match o with | .fillS | .fillO | .promote | .peek | .devRd => true | .lineOut | .poke | .devWr => false

/-- The PROG word of an instruction stopped part-way (R199, R200). -/
def TilePart.progWord (p : TilePart) : W64 :=
  BitVec.ofNat 64 (p.rows % 64) ||| BitVec.ofNat 64 (p.pass % 4) <<< 6 ||| bAt 8 true ||| at' 9 p.ctx |||
    at' 16 (fld p.pc 2 16) ||| at' 32 p.word

/-- A tile instruction of context c that has not committed is stopped (R200, R220, R221): a recording one that has performed a row
writes its PROG. -/
def Tile.stopPart (c : CtxId) (t : Tile) : Tile :=
  match t.part with
  | none => t
  | some p =>
    if p.ctx != c then t
    else { t with part := none, prog := if p.records && p.any then t.prog.set p.stream p.progWord else t.prog }

/-- A committed tile instruction has work to do (R216): those that ask for tile state wait for it (R180). -/
def Tile.busy (t : Tile) : Bool := t.tileq.any fun j => !j.rest.isEmpty

/-- A TSAVE or TRESTORE has blocks to move. -/
def Tile.imaging (t : Tile) : Bool := t.tileq.any fun j => !j.rest.isEmpty && fldN j.op.word 25 7 == 0x6C

/-- A committed tile instruction of context c has work to do. -/
def Tile.busyOf (t : Tile) (c : CtxId) : Bool := t.tileq.any fun j => !j.rest.isEmpty && j.op.ctx == c

/-- A read that was made for a tile instruction of context c is used up: no checked row of its tile instructions needs the line any more. -/
def tileRead (t : Tile) (c : CtxId) (r : Req) : Bool := r.who == .tile c && !t.rowOn c (lineNo r.addr)

/-- Context c leaves its instruction: it no longer needs the answers it was given, no later access of it uses the answer to
a read still outstanding (R159, R503), and a tile instruction that has not committed is stopped. -/
def dropFills (c : CtxId) (s : State) : State :=
  let t := s.tile.stopPart c
  let mine := fun (r : Req) => r.who == .ctx c || tileRead t c r
  { s with tile := t, mesh := { s.mesh with
    fills := s.mesh.fills.filter fun f => f.held || !mine f.req
    reqs := s.mesh.reqs.map fun r => if r.op.isRead && mine r then { r with who := .evict } else r } }

/-- PC := PC + 4. -/
def advance (c : CtxId) : M Unit := modC c fun k => { k with pc := k.pc + 4 }

end Sys2Proof.Machine
end

