-- ==== Sys2Proof/Machine/Account.lean ====
section
/-!
DEFINITION. Accounting steps (15 R452 to R461, 16 R502): how many pass is a free number (R3), and what each of them shows to the
counters: slots, engine states, waits. Beside them the lanes and beats that the mesh and Causeway egress may offer (01 R21 to R28,
R43, 16 R500), which decide what the egress engines show.
-/

namespace Sys2Proof.Machine

open Sys2Proof

/-! ## The phases of reset -/

/-- Cold reset holds the core: every cold value is in place (R56, R88). -/
def inColdReset (s : State) : Bool := s.boot.phase == .coldReset || s.boot.phase == .heldByWrst

/-- The core is in a reset of any kind (R39, R57, R65). -/
def inReset (s : State) : Bool :=
  match s.boot.phase with | .coldReset | .heldByWrst | .drain _ | .afterDrain _ => true | _ => false

/-- The reset values of the output signals hold: in cold reset, and after the drain of another reset (R17, R26). -/
def atResetValues (s : State) : Bool :=
  match s.boot.phase with | .coldReset | .heldByWrst | .afterDrain _ => true | _ => false

/-- The core writes its lines back: the drain of a reset (R57), or the lame write-back (R381). -/
def draining (s : State) : Bool := (match s.boot.phase with | .drain _ => true | _ => false) || s.boot.lameWb

/-! ## Mesh egress -/

/-- The mesh limit is in force (R500). -/
def meshLimited (s : State) : Bool := bit s.toll.ctl 0 && fld s.toll.rate 0 16 != 0

/-- The Causeway limit is in force (R500). -/
def cwLimited (s : State) : Bool := bit s.toll.ctl 0 && fld s.toll.rate 16 16 != 0

/-- Lane l has a flit that may be offered: the fence holds first flits of lanes 2 and 3 (R43). In cold reset, and after the drain of another
one, the core answers on lane 0 alone (R24, R56). -/
def laneReady (s : State) (l : BitVec 2) : Bool :=
  !(s.mesh.egress.get l).isEmpty && (l == 0 || (!atResetValues s && (s.mesh.mid.get l || !s.pins.hfence)))

/-- The lane whose flit is driven (R21 to R23): an offered flit stays; lane 0 goes first; a packet that has begun goes on;
lanes 2 and 3 alternate. -/
def chooseLane (s : State) : Option (BitVec 2) :=
  match s.mesh.offered with
  | some l => some l
  | none =>
    if laneReady s 0 then some 0
    else if s.mesh.mid.q2 then (if laneReady s 2 then some 2 else none)
    else if s.mesh.mid.q3 then (if laneReady s 3 then some 3 else none)
    else if laneReady s 2 && (!s.mesh.lastReq || !laneReady s 3) then some 2
    else if laneReady s 3 then some 3 else none

/-- The rate limit holds the flit of lane l: it is not offered yet and its bucket has no token (R500). -/
def tollHolds (s : State) (l : BitVec 2) : Bool :=
  s.mesh.offered.isNone && l != 0 && meshLimited s && decide (s.toll.tokM < 1024)

/-- Offer the flit of lane l (R21): it is driven until it transfers. -/
def offerFlit (l : BitVec 2) (s : State) : State :=
  match s.mesh.egress.get l with
  | [] => s
  | f :: _ => { s with mesh := { s.mesh with offered := some l, lastFlit := f } }

/-- Offer a flit if one may be offered; one that the rate limit holds sets HELD (R500). -/
def offerNext (s : State) : State :=
  match chooseLane s with
  | none => s
  | some l => if tollHolds s l then { s with toll := { s.toll with held := true } } else offerFlit l s

/-! ## Causeway egress -/

/-- Elements per data beat of a form (R308). -/
def cwPerBeat (form : BitVec 4) : Nat := match form.toNat with | 1 => 16 | 3 => 4 | _ => 8

/-- Beats of the contribution that CHDR describes: the header and the data beats (R308). -/
def cwTotal (hdr : W64) : Nat :=
  let per := cwPerBeat (fld hdr 0 4)
  1 + (fldN hdr 48 16 + 1 + per - 1) / per

/-- Beats of channel c in the egress FIFO. -/
def cwInFifo (s : State) (c : BitVec 4) : Nat := (s.cw.fifo.filter fun b => b.ch == c).length

/-- Channel c has a beat that is not in the FIFO yet. -/
def cwPending (s : State) (c : BitVec 4) : Bool :=
  let k := vget s.cw.ch c.toNat CwCh.reset
  k.state == 1 && k.checked && decide (k.sent < cwTotal k.hdr)

/-- Channel c has a credit beyond those that its beats in the FIFO will use (R27). -/
def cwHasCredit (s : State) (c : BitVec 4) : Bool :=
  decide (cwInFifo s c < (vget s.cw.ch c.toNat CwCh.reset).credit.toNat)

/-- The rate limit holds the first beat (R500). -/
def cwTollHolds (s : State) : Bool := !s.cw.offered && cwLimited s && decide (s.toll.tokC < 1024)

/-- Offer the first beat of the FIFO (R26, R43): under the fence none that is not offered already. -/
def offerBeat (s : State) : State :=
  match s.cw.fifo with
  | [] => s
  | b :: _ =>
    if s.cw.offered || s.pins.hfence then s
    else if cwTollHolds s then { s with toll := { s.toll with held := true } }
    else { s with cw := { s.cw with offered := true, lastBeat := b } }

/-! ## How many steps pass -/

/-- The counters run (R452, R464). -/
def counting (s : State) : Bool := bit s.perf.pmctl 0 && !s.pins.frz

/-- The steps that an accounting shows (R452, R459, R460): how many there are, in how many something retired, in how many the array worked,
in how many of those it accumulated or replayed a row, and from which one on each quadrant worked. -/
structure Steps where
  n : Nat
  retiring : Nat
  array : Nat
  rows : Nat
  start : Quad Nat
  deriving DecidableEq, Repr

/-- Where the steps of a quadrant's rows lie: among those of the quadrants before it or after them, as a free number has it. `e`: how far
the array's steps reach already. -/
def spanFrom (i r e : Nat) : Nat × Nat :=
  if r = 0 then (0, e) else (Config.freeNat i % (e + 1), max e (Config.freeNat i % (e + 1) + r))

/-- The steps up to now (R3): four micro-operations retire in a step at most, a quadrant works on one row in a step, and a free number of
other steps passes. Rows of different quadrants may share a step. -/
def stepsOf (s : State) : Steps :=
  let d := s.perf.rowDebt
  let h := s.perf.shiftDebt
  let (o0, e0) := spanFrom (s.free + 1) d.q0 0
  let (o1, e1) := spanFrom (s.free + 2) d.q1 e0
  let (o2, e2) := spanFrom (s.free + 3) d.q2 e1
  let (o3, e3) := spanFrom (s.free + 4) d.q3 e2
  let acc := [d.q0 - h.q0, d.q1 - h.q1, d.q2 - h.q2, d.q3 - h.q3]
  let least := acc.foldl max 0
  let few := (s.perf.uopDebt + 3) / 4
  let a := few + Config.freeNat (s.free + 5) % (s.perf.uopDebt - few + 1)
  { n := max a e3 + Config.freeNat s.free
    retiring := a
    array := e3
    rows := least + Config.freeNat (s.free + 6) % (min e3 (acc.foldl (· + ·) 0) - least + 1)
    start := ⟨o0, o1, o2, o3⟩ }

/-- Add n to fixed counter i (R452). -/
def addFc (i n : Nat) (s : State) : State :=
  { s with perf := { s.perf with fc := vset s.perf.fc i (vget s.perf.fc i 0 + BitVec.ofNat 64 n) } }

/-! ## Slots

`v` is the state in which the steps passed: it says which context ran, under which ST, and what the engines had to do. -/

/-- A committed job has rows to perform, for stream q when one is given. -/
def jobWaits (q : Option (BitVec 2)) (j : TileJob) : Bool := !j.rest.isEmpty && (q.isNone || q == some j.op.stream)

/-- The committed multiply that waits, for stream q when one is given (R460). -/
def waitingMultiply (v : State) (q : Option (BitVec 2)) : Option TileJob :=
  v.tile.tileq.find? fun j => jobWaits q j && fldN j.op.word 25 7 == 0x62

/-- The cause of a job's events: the ST of the tile owner when the instruction committed (R454). -/
def TileJob.cause (j : TileJob) : Option (Bool × Bool) := some (j.op.sup, j.op.world)

/-- The cause of the tile unit's events that no committed instruction has: the ST of the tile owner. -/
def ownerCause (v : State) : Option (Bool × Bool) := some ((v.getCtx v.drover.owner).sup, (v.getCtx v.drover.owner).world)

/-- The pipeline slots of n steps (R459): those that hold no retired micro-operation are wasted, front or back. -/
def countSlots (n : Nat) (v s : State) : State :=
  let c := (runningCtx v).getD v.drover.lastRan
  let cause := some ((v.getCtx c).sup, (v.getCtx c).world)
  let rest := 4 * n - s.perf.uopDebt
  let wasted := Config.freeNat s.free % (rest + 1)
  let front := Config.freeNat (s.free + 1) % (rest - wasted + 1)
  let count := fun (e k : Nat) (t : State) => countEvent 0 e k cause (.ctx c) none t
  count 5 (rest - wasted - front) (count 4 front (count 3 wasted { s with free := s.free + 2 }))

/-- The array slots without a row of stream q, `n` of them (R460): back while a committed multiply waits, else front. Where rows were
accumulated meanwhile, a multiply has waited in a free number of them. -/
def countArraySlots (n worked : Nat) (q : Option (BitVec 2)) (v s : State) : State :=
  let m : Master := match q with | none => .none | some q => .quad q
  match waitingMultiply v q with
  | some j => countEvent 3 3 n j.cause m none s
  | none =>
    let back := if worked = 0 then 0 else Config.freeNat s.free % (n + 1)
    countEvent 3 2 (n - back) none m none (countEvent 3 3 back (ownerCause v) m none { s with free := s.free + 1 })

/-- The array slots of the steps: one in each, or one for each quadrant in Q-split. -/
def countAllArraySlots (k : Steps) (v s : State) : State :=
  if !v.tile.tpPowered then s
  else if bit v.tile.tcfg 0 then
    ([0, 1, 2, 3] : List (BitVec 2)).foldl (fun t q =>
      countArraySlots (k.n - s.perf.rowDebt.get q) (s.perf.rowDebt.get q) (some q) v t) s
  else countArraySlots (k.n - k.array) k.array none v s

/-! ## Engine states (R461) -/

/-- A choice among `xs` by a free number. -/
def freePick (xs : List Nat) (i : Nat) : Nat := xs.getD (Config.freeNat i % xs.length) 0

/-- The reasons of a stalled engine. -/
def stallStates : List Nat := [2, 3, 4, 5, 6, 7, 8, 9, 10, 11, 12, 13, 14]

/-- The state and cause of an engine with work: busy or stalled, which the micro-architecture decides. -/
def engineActive (cause : Option (Bool × Bool)) (i : Nat) : Nat × Option (Bool × Bool) := (freePick (0 :: stallStates) i, cause)

/-- An engine that has no work: the idle state has no cause (R454). -/
def engineIdle : Nat × Option (Bool × Bool) := (1, none)

/-- The state that a free number picks, with its cause: none when it is the idle state. -/
def enginePick (xs : List Nat) (cause : Option (Bool × Bool)) (i : Nat) : Nat × Option (Bool × Bool) :=
  if freePick xs i = 1 then engineIdle else (freePick xs i, cause)

/-- The scalar pipeline of context c in a step that retires (or not) micro-operations. -/
def scalarState (v : State) (c : CtxId) (retires : Bool) (i : Nat) : Nat × Option (Bool × Bool) :=
  let k := v.getCtx c
  let cause := some (k.sup, k.world)
  if retires then (0, cause)
  else if k.io.isSome then (10, cause)
  else match k.cp with
    | some w => (if w.ord then 10 else 9, cause)
    | none => if k.ev.fence.any fun f => f.done.isNone then (14, cause) else engineActive cause i

/-- The array, or one quadrant, in a step that works on a row or not; `worked`: rows were accumulated in the steps that are accounted. -/
def arrayState (v : State) (q : Option (BitVec 2)) (row worked : Bool) (i : Nat) : Nat × Option (Bool × Bool) :=
  match waitingMultiply v q with
  | some j => if row then (0, j.cause) else (freePick stallStates i, j.cause)
  | none => if row then (0, ownerCause v) else if worked then enginePick (1 :: stallStates) (ownerCause v) i else engineIdle

/-- The opcodes that the row engine performs (R243 to R246). -/
def rowEngineOps : List Nat := [0x67, 0x68, 0x69, 0x6A]

/-- The opcodes that the output path performs (R232, R241, R247). -/
def outputOps : List Nat := [0x61, 0x65, 0x6B]

/-- The row engine or the output path, which performs `ops`: it works on the instruction that goes row by row, or on the oldest committed
one that has rows to perform. One whose rows are performed and that has not completed may have left the engine (log 16). -/
def tileEngineState (v : State) (ops : List Nat) (i : Nat) : Nat × Option (Bool × Bool) :=
  let mine := v.tile.tileq.filter fun j => ops.contains (fldN j.op.word 25 7)
  match mine.find? (jobWaits none) with
  | some j => engineActive j.cause i
  | none =>
    if v.tile.part.any fun p => ops.contains (fldN p.word 25 7) then engineActive (ownerCause v) i
    else match mine with
      | j :: _ => enginePick (0 :: 1 :: stallStates) j.cause i
      | [] => engineIdle

/-- A Mover channel. -/
def moverState (m : MoverCh) (i : Nat) : Nat × Option (Bool × Bool) :=
  if m.state == 1 then engineActive (m.cap.map fun g => (g.sup, g.sealed)) i else engineIdle

/-- A Causeway channel: it waits for credit, or the fence or the rate limit holds its beat (R500). -/
def cwState (v : State) (c : BitVec 4) (i : Nat) : Nat × Option (Bool × Bool) :=
  let k := vget v.cw.ch c.toNat CwCh.reset
  let cause := k.cap.map fun g => (g.sup, g.sealed)
  let head := v.cw.fifo.head?.any fun b => b.ch == c
  if k.state != 1 then engineIdle
  else if cwPending v c && !cwHasCredit v c then (11, cause)
  else if head && !v.cw.offered && (v.pins.hfence || cwTollHolds v) then (12, cause)
  else engineActive cause i

/-- Mesh egress: idle with no flit, and held while the fence or the rate limit holds what it has (R500). -/
def egressState (v : State) (i : Nat) : Nat × Option (Bool × Bool) :=
  match chooseLane v with
  | some l => if tollHolds v l then (12, none) else (freePick (0 :: stallStates) i, none)
  | none =>
    if ([0, 1, 2, 3] : List (BitVec 2)).all fun l => (v.mesh.egress.get l).isEmpty then engineIdle else (12, none)

/-- An engine of many channels as a whole: busy if one of them makes progress, else stalled with the reason of one of those that have
work (the oldest, which is a free choice), else idle. -/
def wholeState (chans : List (Nat × Option (Bool × Bool) × Master)) (i : Nat) : Nat × Option (Bool × Bool) × Master :=
  match chans.find? fun x => x.1 == 0 with
  | some x => x
  | none =>
    let xs := chans.filter fun x => x.1 != 1
    xs.getD (Config.freeNat i % xs.length) (1, none, .none)

/-- The array works on a row of quadrant q in step i. -/
def Steps.works (k : Steps) (s : State) (q : BitVec 2) (i : Nat) : Bool :=
  decide (k.start.get q ≤ i) && decide (i < k.start.get q + s.perf.rowDebt.get q)

/-- The state of the whole array in Q-split: what its quadrants are at (log 58). -/
def wholeArray (k : Steps) (v s : State) (i : Nat) (num : Nat → Nat) (j : Nat) : Nat × Option (Bool × Bool) × Master :=
  wholeState (([0, 1, 2, 3] : List (BitVec 2)).map fun q =>
    let x := arrayState v (some q) (k.works s q i) (decide (0 < s.perf.rowDebt.get q)) (num q.toNat)
    (x.1, x.2, .none)) j

/-- The state of engine e in step `i` of those accounted (R461), seen as a whole (mt = 0) or for master mi of type mt; none for
an engine without such a master. `num mt mi` numbers the free value of a master, so that the engine as a whole agrees with its channels. -/
def engineState (k : Steps) (v s : State) (i : Nat) (num : Nat → Nat → Nat) (e mt mi : Nat) : Option (Nat × Option (Bool × Bool) × Master) :=
  let with_ := fun (m : Master) (x : Nat × Option (Bool × Bool)) => some (x.1, x.2, m)
  let retires := decide (i < k.retiring)
  let j := num mt (if mt = 0 then 0 else mi)
  match e, mt with
  | 0, 0 => match runningCtx v with | some c => with_ (.ctx c) (scalarState v c retires j) | none => with_ .none engineIdle
  | 0, 1 => if runningCtx v == some (BitVec.ofNat 2 mi) && mi < 4 then
      with_ (.ctx (BitVec.ofNat 2 mi)) (scalarState v (BitVec.ofNat 2 mi) retires (num 0 0)) else none
  | 1, 0 =>
    if bit v.tile.tcfg 0 then some (wholeArray k v s i (num 4) j)
    else with_ .none (arrayState v none (decide (i < k.array)) (decide (0 < k.array)) j)
  | 1, 4 =>
    if bit v.tile.tcfg 0 && mi < 4 then
      let q := BitVec.ofNat 2 mi
      with_ (.quad q) (arrayState v (some q) (k.works s q i) (decide (0 < s.perf.rowDebt.get q)) j)
    else none
  | 2, 0 => with_ .none (tileEngineState v rowEngineOps j)
  | 3, 0 => with_ .none (tileEngineState v outputOps j)
  | 4, 0 => some (wholeState ((List.range 8).map fun n =>
      let x := moverState (vget v.mover n MoverCh.reset) (num 2 n)
      (x.1, x.2, .mover (BitVec.ofNat 3 n))) j)
  | 4, 2 => with_ (.mover (BitVec.ofNat 3 mi)) (moverState (vget v.mover mi MoverCh.reset) j)
  | 5, 0 => some (wholeState ((List.range 16).map fun n =>
      let x := cwState v (BitVec.ofNat 4 n) (num 3 n)
      (x.1, x.2, .cw (BitVec.ofNat 4 n))) j)
  | 5, 3 => with_ (.cw (BitVec.ofNat 4 mi)) (cwState v (BitVec.ofNat 4 mi) j)
  | 6, 0 => with_ .none (egressState v j)
  | _, _ => none

/-- PMC p counts step i when it selects an engine (R461): state 15 stands for every reason from 2 to 14. -/
def countEngine (k : Steps) (v s : State) (i p : Nat) (t : State) : State :=
  let sel := vget t.perf.pmsel p 0
  let e := fldN sel 4 4
  let mt := fldN sel 16 3
  let mi := fldN sel 19 3 + (if mt = 3 ∧ bit sel 22 = true then 8 else 0)
  if fldN sel 8 4 != 4 then t
  else match engineState k v s i (fun mt mi => s.free + (16 * i + e) * 128 + 16 * mt + mi) e mt mi with
    | none => t
    | some (st, cause, m) =>
      let hit := fldN sel 0 4 == st || (fldN sel 0 4 == 15 && decide (2 ≤ st))
      if hit && eventPasses (capsConf t) t.perf.pma sel 4 (fldN sel 0 8) cause m none then bumpPmc t p 1 else t

/-- The engines in the steps. -/
def countEngines (k : Steps) (v s : State) : State :=
  let t := (List.range k.n).foldl (fun t i => (List.range 16).foldl (fun u p => countEngine k v s i p u) t) s
  { t with free := t.free + 2048 * k.n }

/-! ## Waits and work that only the micro-architecture decides -/

/-- The masters that have work in progress, with the cause of their events (R454). -/
def activeMasters (v : State) : List (Option (Bool × Bool) × Master) :=
  (match runningCtx v with | some c => [(some ((v.getCtx c).sup, (v.getCtx c).world), Master.ctx c)] | none => []) ++
  ((List.range 8).filter fun n => (vget v.mover n MoverCh.reset).state == 1).map (fun n =>
    ((vget v.mover n MoverCh.reset).cap.map fun g => (g.sup, g.sealed), Master.mover (BitVec.ofNat 3 n))) ++
  ((List.range 16).filter fun n => (vget v.cw.ch n CwCh.reset).state == 1).map fun n =>
    ((vget v.cw.ch n CwCh.reset).cap.map fun g => (g.sup, g.sealed), Master.cw (BitVec.ofNat 4 n))

/-- A free number of occurrences of an event by one master, each at a free address if it carries one (log 16): micro-operations and bank
refusals carry none (R458). -/
def countFree (cls evt : Nat) (m : Option (Bool × Bool) × Master) (s : State) : State :=
  let n := Config.freeNat s.free
  let t := (List.range n).foldl (fun t i => countEvent cls evt 1 m.1 m.2 (if cls == 1 && evt != 0 then some (Config.freeW64 (s.free + 1 + i)) else none) t) s
  { t with free := s.free + 1 + n }

/-- Beside the work that the model makes and counts (`countLooks`, `countXlate`, `countRetired`), speculative work that it does not make
(SPEC 0 to 8), and refusals of the scratchpad's banks (MEM 3), by every master at work. -/
def countMicro (v s : State) : State :=
  (activeMasters v).foldl (fun t m =>
    countFree 2 3 m ((List.range 9).foldl (fun u e => countFree 1 e m u) t)) s

/-- The steps in which the running context's FENCE waits (MEM 6), and a channel holds a beat without credit (COOP 5). -/
def countWaits (n : Nat) (v s : State) : State :=
  let t := match runningCtx v with
    | some c =>
      if (v.getCtx c).ev.fence.any fun f => f.done.isNone then
        countEvent 2 6 n (some ((v.getCtx c).sup, (v.getCtx c).world)) (.ctx c) none s else s
    | none => s
  (List.range 16).foldl (fun u i =>
    let c := BitVec.ofNat 4 i
    let k := vget v.cw.ch i CwCh.reset
    if cwPending v c && !cwHasCredit v c then countEvent 6 5 n (k.cap.map fun g => (g.sup, g.sealed)) (.cw c) none u else u) t

/-! ## Accounting -/

/-- What has retired and the rows of the array are accounted. -/
def clearDebts (s : State) : State :=
  { s with perf := { s.perf with uopDebt := 0, rowDebt := Quad.all 0, shiftDebt := Quad.all 0 } }

/-- What accounting steps, passed in the state v, add to the counters (R452, R459 to R461). -/
def countSteps (k : Steps) (v s : State) : State :=
  let running := (runningCtx v).isSome
  let t := addFc 0 k.n (addFc 2 k.rows (if running then addFc 3 (k.n - k.retiring) s else s))
  let u := countAllArraySlots k v (countSlots (if running then k.n else k.retiring) v (countEngines k v t))
  countMicro v (countWaits k.n v (clearDebts u))

/-- The steps up to now show themselves to the counters, while those run (R452): they passed in the state v. The lame core, and one in
reset, accounts none. -/
def account (v s : State) : State :=
  if !counting v || inReset v || v.boot.lame then s
  else
    let k := stepsOf s
    let t := countSteps k v { s with free := s.free + 7 }
    { t with perf := { t.perf with stepDebt := t.perf.stepDebt + k.n } }

/-- What accounting looks at is the same in a as in b: the running context with its privilege, world and waits, the tile unit's work and
mode, the channels and the fence. -/
def sameView (a b : State) : Bool :=
  let ctx := fun (s : State) => (runningCtx s).map fun c =>
    let k := s.getCtx c
    (c, k.sup, k.world, k.io.isSome, k.cp, k.ev.fence)
  let chans := fun (s : State) =>
    (s.pins.hfence, s.cw.offered, s.cw.fifo.map (·.ch), s.cw.ch.toList.map fun k => (k.state, k.checked, k.sent, k.credit == 0))
  ctx a == ctx b && a.boot.lame == b.boot.lame && a.tile.tileq == b.tile.tileq && a.tile.part == b.tile.part &&
    bit a.tile.tcfg 0 == bit b.tile.tcfg 0 && a.tile.tpPowered == b.tile.tpPowered && a.drover.owner == b.drover.owner &&
    a.mover.toList.map (fun m => m.state) == b.mover.toList.map (fun m => m.state) && chans a == chans b

/-- From `s` to `t` what accounting looks at may have changed: the steps before the change are accounted as they passed (R452, R459 to
R461). -/
def accountChange (s t : State) : State := if counting s && counting t && !sameView s t then account s t else t

/-! ## Retirement -/

/-- What the counters see of a retirement (R457, R458): the instruction, its micro-operations, issued and in their slots, and whether a skip
or transfer was mispredicted. The number of micro-operations and the misprediction are free (R3). -/
def countRetired (c : CtxId) (before after : State) : State :=
  if !bit after.perf.pmctl 0 || after.pins.frz then after
  else
    let k := before.getCtx c
    let cause := some (k.sup, k.world)
    let n := 1 + Config.freeNat after.free
    let transfer := (after.getCtx c).pc != k.pc + 4 || (after.getCtx c).skipPair
    let miss := if transfer && Config.freeBool (after.free + 1) then 1 else 0
    let t := { after with free := after.free + 2, perf := { after.perf with uopDebt := after.perf.uopDebt + n } }
    accountChange before (countEvent 0 6 miss cause (.ctx c) none (countEvent 1 0 n cause (.ctx c) none
      (countEvent 0 2 n cause (.ctx c) none (countEvent 0 1 n cause (.ctx c) none (countEvent 0 0 1 cause (.ctx c) none t)))))

/-- An instruction of context c retires: it leaves its answers, and counts (R458). -/
def retire (c : CtxId) (before after : State) : State := dropFills c (countRetired c before after)

/-! ## STEPMON, PLIMCNT and the tamper input -/

/-- PLIMCNT and LIM in n accounting steps (R502). -/
def countPace (n : Nat) (s : State) : State :=
  if s.pace.floor < s.pace.act ∧ 0 < n then
    { s with pace := { s.pace with plimcnt := s.pace.plimcnt + BitVec.ofNat 64 n, lim := true } }
  else s

/-- STEPMON toggles once in 1,024 steps (R47). -/
def monitorSteps (n : Nat) (s : State) : State :=
  let m := s.pins.monSteps.toNat + n
  { s with pins := { s.pins with
    monSteps := BitVec.ofNat 10 m, stepmon := s.pins.stepmon != (m / 1024 % 2 == 1) } }

/-! ## The tamper input (R45) -/

/-- One sampling point of ALARM_IN: two high samples after two low ones are a tamper event. -/
def sampleAlarm (s : State) : State :=
  let d := s.pins.tamper
  let x := s.pins.alarmIn
  let up := x && d.s1
  let down := !x && !d.s1
  let t := { s with pins := { s.pins with tamper := ⟨x, d.s1, if up then true else if down then false else d.high⟩ } }
  if up && !d.high then violation 2 t else t

/-- Without REFCLK every 64th accounting step is a sampling point: n steps pass. -/
def sampleSteps (n : Nat) (s : State) : State :=
  let m := s.pins.sampSteps.toNat + n
  (List.range (m / 64)).foldl (fun t _ => sampleAlarm t) { s with pins := { s.pins with sampSteps := BitVec.ofNat 6 m } }

/-! ## The steps up to now -/

/-- The steps of the core up to now, accounted (R452): the counters, and with them STEPMON, PLIMCNT and the samples of ALARM_IN. While the
counters do not run the steps pass all the same, a free number of them; the lame core steps on, accounting none. -/
def accountSteps (s : State) : State :=
  if inReset s then s
  else if s.boot.lame then monitorSteps (Config.freeNat s.free) { s with free := s.free + 1 }
  else
    let t := account s s
    let n := t.perf.stepDebt + (if counting s then 0 else Config.freeNat t.free)
    let u := countPace n (monitorSteps n { t with free := t.free + 1, perf := { t.perf with stepDebt := 0 } })
    if s.pins.refclk then u else sampleSteps n u

end Sys2Proof.Machine
end

