-- ==== Sys2Proof/Machine/Mesh.lean ====
section
/-!
DEFINITION. Packets the core sends (01 R17 to R23, 10 R325), the Tollgate's checks (16 R499) and the requests that wait.
-/

namespace Sys2Proof.Machine

/-- A flit payload of 512 bits as eight words tagged RAW. -/
def flitWords (x : BitVec 512) : Line := Vector.ofFn fun i => ⟨fld x (64 * i.val) 64, Tag.raw⟩

/-- A packet of the given class: header payload, then data flits with their tags (R18, R20). -/
def packet (cls : BitVec 4) (header : BitVec 512) (data : List Line) : List Flit :=
  let n := data.length
  ⟨flitWords header, false, cls, n == 0⟩ ::
    (List.range n).map fun i => ⟨data.getD i Line.zero, true, cls, i + 1 == n⟩

/-- The lane of a class the core sends (R19). -/
def laneOf (cls : BitVec 4) : BitVec 2 := if cls.toNat < 3 then 0 else if cls == 7 then 3 else 2

/-- Flits go behind the others of lane l: into its FIFO as far as that has room, and else into the stage of their sender, which waits
(R13, R16). -/
def Mesh.feed (l : BitVec 2) (fs : List Flit) (m : Mesh) : Mesh :=
  let all := m.egress.get l ++ m.stage.get l ++ fs
  { m with egress := m.egress.set l (all.take 4), stage := m.stage.set l (all.drop 4) }

/-- Everything that lane l has to send, in order: its FIFO, then what stands behind it. -/
def Mesh.lane (m : Mesh) (l : BitVec 2) : List Flit := m.egress.get l ++ m.stage.get l

/-- No lane has a flit. -/
def egressIdle (s : State) : Bool := ([0, 1, 2, 3] : List (BitVec 2)).all fun l => (s.mesh.egress.get l).isEmpty

/-- Put a packet behind the others of its lane (R16, R22). The steps in which the egress was idle are accounted first (R461). -/
def sendPacket (p : List Flit) (s : State) : State :=
  match p with
  | [] => s
  | f :: _ =>
    let t := if counting s && egressIdle s then account s s else s
    { t with mesh := t.mesh.feed (laneOf f.cls) p }

/-- A lane of the egress FIFO holds its four flits: its senders wait (R16, R44). -/
def laneFull (s : State) (l : BitVec 2) : Bool := decide (4 ≤ (s.mesh.egress.get l).length)

/-- Wait while lane l is full. -/
def needLane (l : BitVec 2) : M Unit := do if laneFull (← get) l then wait

/-- The header of a memory packet (R325). -/
def memHeader (addr : PAddr) (opc : BitVec 4) (src : CoreId) (txid : BitVec 8) (size : BitVec 4) (bmask : W64) : BitVec 512 :=
  at' 0 addr ||| at' 52 opc ||| at' 56 src ||| at' 68 txid ||| at' 76 size ||| at' 80 bmask

/-- Class and OPC of a request (R325). -/
def ReqOp.code (o : ReqOp) : BitVec 4 × BitVec 4 :=
  match o with
  | .fillS => (4, 0) | .fillO => (4, 1) | .promote => (4, 2) | .peek => (4, 3) | .devRd => (4, 4)
  | .lineOut => (5, 0) | .poke => (5, 1) | .devWr => (5, 3)

/-! ## The Tollgate (R499) -/

/-- A memory request may go to this address. -/
def tollAllowsMem (s : State) (addr : PAddr) : Bool :=
  let wen := fldN s.toll.ctl 1 4
  !bit s.toll.ctl 0 || wen == 0 || (List.range 4).any fun i =>
    bit s.toll.ctl (1 + i) && decide ((vget s.toll.wb i 0).toNat ≤ fldN addr 20 32) &&
      decide (fldN addr 20 32 ≤ (vget s.toll.wl i 0).toNat)

/-- An I/O request or a post may go to this target: an I/O address of R107. -/
def tollAllowsIo (s : State) (addr : W32) : Bool :=
  !bit s.toll.ctl 0 ||
    (if bit addr 31 then bit s.toll.core 24
     else decide (fldN s.toll.core 0 12 ≤ fldN addr 19 12) && decide (fldN addr 19 12 ≤ fldN s.toll.core 12 12))

/-- Count a refusal (R499), and record the first since TGSTAT was cleared (R490). -/
def tollRefuse (mem : Bool) (cls : BitVec 4) (ctx : Option CtxId) (s : State) : State :=
  let first := s.toll.mref == 0 && s.toll.iref == 0
  let t := if mem then { s with toll := { s.toll with mref := satInc s.toll.mref } }
    else { s with toll := { s.toll with iref := satInc s.toll.iref } }
  if first then wayside 6 ctx (bAt 0 mem ||| at' 4 cls) t else t

/-- The context a requester stands for in a Wayside record. -/
def Requester.ctx? (w : Requester) : Option CtxId := match w with | .ctx c => some c | .tile c => some c | _ => none

/-! ## Requests -/

/-- A transaction number that no outstanding request uses, from the next one on. -/
def freeTxid (s : State) : Option (BitVec 8) :=
  ((List.range 256).map fun i => s.mesh.txid + BitVec.ofNat 8 i).find? fun t => !s.mesh.reqs.any fun r => r.txid == t

/-- Send a request and note it as outstanding. -/
def sendReq (r : Req) (size : BitVec 4) (bmask : W64) (data : List Line) (s : State) : State :=
  let (cls, opc) := r.op.code
  sendPacket (packet cls (memHeader r.addr opc s.chain.caddr r.txid size bmask) data)
    { s with mesh := { s.mesh with reqs := s.mesh.reqs ++ [r], txid := r.txid + 1 } }

/-- A read request of `who`, checked by the Tollgate: a refusal answers it with the error (R499, R503). The access then
waits for the answer, or reads the refusal when it is tried again. -/
def requestRead (op : ReqOp) (addr : PAddr) (who : Requester) (size : BitVec 4) (l1i l1d l2 stream : Bool) : M Unit := do
  let s ← get
  match freeTxid s with
  | none => wait
  | some t =>
    let r : Req := ⟨t, op, addr, who, l1i, l1d, l2, stream, none⟩
    if tollAllowsMem s addr then
      needLane 2
      set (sendReq r size 0 [] s)
    else
      let f : Fill := ⟨r, true, false, false, Vector.replicate 8 TWord.poison⟩
      set { tollRefuse true 4 who.ctx? s with mesh := { s.mesh with fills := s.mesh.fills ++ [f] } }

/-- A write request of `who`: a refusal discards it (R499). `exempt` requests are never refused. -/
def sendWrite (op : ReqOp) (addr : PAddr) (who : Requester) (size : BitVec 4) (bmask : W64) (data : Line) (exempt : Bool)
    (s : State) : State :=
  if exempt || tollAllowsMem s addr then
    sendReq (Req.mk ((freeTxid s).getD 0) op addr who false false false false none) size bmask [data] s
  else tollRefuse true 5 who.ctx? s

/-- The first answer that `who` has to a read of line n, by FILL_S or PEEK. -/
def findFill (s : State) (who : Requester) (n : Nat) : Option Fill :=
  s.mesh.fills.find? fun f => !f.held && f.req.who == who && (f.req.op == .fillS || f.req.op == .peek) &&
    lineNo f.req.addr == n

/-- The line that `who` stores to was brought by its own FILL_O. -/
def filledFor (s : State) (who : Requester) (n : Nat) : Bool :=
  s.mesh.fills.any fun f => !f.held && !f.bad && f.req.who == who && f.req.op == .fillO && lineNo f.req.addr == n

/-- `who`'s request of this kind for line n was refused or answered with the error (R503). -/
def failedReq (s : State) (op : ReqOp) (who : Requester) (n : Nat) : Bool :=
  s.mesh.fills.any fun f => !f.held && f.bad && f.req.who == who && f.req.op == op && lineNo f.req.addr == n

/-- A write of this core to line n is not acknowledged yet. -/
def writeInFlight (s : State) (n : Nat) : Bool :=
  s.mesh.reqs.any fun r => !r.op.isRead && lineNo r.addr == n

/-- Line n has arrived and waits for room in an eviction buffer (R318). -/
def heldFill (s : State) (n : Nat) : Bool := s.mesh.fills.any fun f => f.held && lineNo f.req.addr == n

/-- A POKE or DEV_WR of `who` is not acknowledged yet. -/
def storesInFlight (s : State) (who : Requester) : Bool :=
  s.mesh.reqs.any fun r => (r.op == .poke || r.op == .devWr) && r.who == who

/-- An access of some context has not been performed yet: a committed tile instruction has rows to perform, or a store is not
acknowledged, of a context's instructions or of a tile store's rows. -/
def ctxStoresInFlight (s : State) : Bool :=
  s.tile.busy || s.mesh.reqs.any fun r => (r.op == .poke || r.op == .devWr) && r.who.ctx?.isSome

/-- The data-space accesses of context c before now have been performed (R154, R333): its stores are acknowledged, and the rows of its
committed tile instructions are performed. -/
def ctxPerformed (s : State) (c : CtxId) : Bool := !storesInFlight s (.ctx c) && !s.tile.busyOf c

end Sys2Proof.Machine
end

