-- ==== Sys2Proof/Machine/Cache.lean ====
section
/-!
DEFINITION. The scratchpad (10 R310 to R314), the caches and eviction buffers (R315 to R322), and the reads and writes of
lines that every data-space access is made of. A line that is missing is requested, and the access waits.
-/

namespace Sys2Proof.Machine

/-! ## Scratchpad -/

/-- First address of the scratchpad window (R310). -/
def spadBase : Nat := 0xFFFFFFFF00000

/-- Bytes of the scratchpad (R310). -/
def spadSize : Nat := 0xC0000

/-- The address lies in the scratchpad window. -/
def inSpad (pa : PAddr) : Bool := decide (spadBase ≤ pa.toNat) && decide (pa.toNat < spadBase + spadSize)

/-- The address lies in the reserved part above the window (R310). -/
def inSpadHole (pa : PAddr) : Bool := decide (spadBase + spadSize ≤ pa.toNat)

/-- The number of the scratchpad word at an address. -/
def spadIndex (pa : PAddr) : Nat := (pa.toNat - spadBase) / 8

/-- What scratchpad word i holds: a word nothing has written since cold reset is unknown (R93), and never tagged with
authority (R11). -/
def spadHeld (s : State) (i : Nat) : SpadPower :=
  match SMap.find? s.spad i with
  | some w => .clean w
  | none =>
    match Config.spadUnwritten s.coldCount i with
    | .clean w => .clean (bounded w)
    | .corrected w => .corrected (bounded w)
    | .uncorrectable => .uncorrectable

/-- What a read of scratchpad word i finds: what the word holds, with the errors that have struck it. -/
def spadLook (s : State) (i : Nat) : SpadPower :=
  match latentAt s 3 i, spadHeld s i with
  | none, w => w
  | some true, _ => .uncorrectable
  | some false, .clean w => .corrected w
  | some false, w => w

/-- Write scratchpad word i, with good check bits: no word ever holds a reserved tag (R102). -/
def spadPut (s : State) (i : Nat) (w : TWord) : State :=
  clearLatent 3 (fun e => e.loc == i) { s with spad := SMap.put s.spad i (deliver w) }

/-- Read scratchpad word i with the outcomes of R314; `bulk`: the tile path, or a Mover with TAGS = 0. -/
def spadRead (bulk : Bool) (i : Nat) : M TWord := do
  let s ← get
  match spadLook s i with
  | .clean w => return w
  | .corrected w =>
    set (spadPut (countError 3 0 false s) i w)
    return w
  | .uncorrectable =>
    let t := spadPut (countError 3 0 true s) i TWord.poison
    if bulk then
      set (machineCheck 4 3 (BitVec.ofNat 64 (spadBase + 8 * i)) t)
      return TWord.zero
    else
      set t
      return TWord.poison

/-! ## The three caches -/

/-- Which cache. -/
inductive CacheId where
  | l1i | l1d | l2
  deriving DecidableEq, Repr

/-- Sets (R315). -/
def CacheId.sets (c : CacheId) : Nat := match c with | .l1i => 128 | .l1d => 64 | .l2 => 512
/-- Ways (R315). -/
def CacheId.ways (c : CacheId) : Nat := match c with | .l1i => 4 | .l1d => 8 | .l2 => 8
/-- Number in CCTL and of its structure (R319, R482). -/
def CacheId.no (c : CacheId) : Nat := match c with | .l1i => 0 | .l1d => 1 | .l2 => 2
/-- First bit in WLOCK (R488). -/
def CacheId.lockBit (c : CacheId) : Nat := match c with | .l1i => 0 | .l1d => 4 | .l2 => 12

/-- The lines of a cache, by set × ways + way. -/
def Caches.lines (k : Caches) (c : CacheId) : SMap CLine := match c with | .l1i => k.l1i | .l1d => k.l1d | .l2 => k.l2
/-- Replace the lines of a cache. -/
def Caches.setLines (k : Caches) (c : CacheId) (m : SMap CLine) : Caches :=
  match c with | .l1i => { k with l1i := m } | .l1d => { k with l1d := m } | .l2 => { k with l2 := m }

/-- s with the lines of a cache replaced. -/
def setCache (s : State) (c : CacheId) (m : SMap CLine) : State := { s with caches := s.caches.setLines c m }

/-- Enabled and invalidated since reset (R319). -/
def cacheOn (s : State) (c : CacheId) : Bool := bit s.caches.cctl c.no && bit s.caches.cctl (3 + c.no)
/-- Enabled while its INV bit is 0: uninitialized (R320). -/
def cacheUninit (s : State) (c : CacheId) : Bool := bit s.caches.cctl c.no && !bit s.caches.cctl (3 + c.no)

/-- Way w is locked out (R488). -/
def wayLocked (s : State) (c : CacheId) (w : Nat) : Bool := bit s.rel.wlock (c.lockBit + w)

/-- The line n in a cache, with its key. -/
def cacheFind (s : State) (c : CacheId) (n : Nat) : Option (Nat × CLine) :=
  (List.range c.ways).findSome? fun w =>
    let key := (n % c.sets) * c.ways + w
    if wayLocked s c w then none
    else match SMap.find? (s.caches.lines c) key with
      | some l => if l.line == n then some (key, l) else none
      | none => none

/-- The structure that a cache is (R482). -/
def CacheId.str (c : CacheId) : BitVec 3 := BitVec.ofNat 3 c.no

/-- Remove the line with this key, and what has struck it. -/
def cacheDel (s : State) (c : CacheId) (key : Nat) : State :=
  match SMap.find? (s.caches.lines c) key with
  | none => s
  | some l => clearLatent c.str (fun e => e.loc / 8 == l.line) (setCache s c (SMap.del (s.caches.lines c) key))
/-- Write the line with this key. -/
def cachePut (s : State) (c : CacheId) (key : Nat) (l : CLine) : State := setCache s c (SMap.put (s.caches.lines c) key l)

/-- L1D or L2 holds line n. -/
def holds (s : State) (n : Nat) : Bool := (cacheFind s .l1d n).isSome || (cacheFind s .l2 n).isSome

/-- Line n may have left L1D and L2: its watchers see ADDR (R409). -/
def lineGone (n : Nat) (s : State) : State :=
  if holds s n then s else setEvents 0 (fun c => (s.getCtx c).ev.watch == .line n) s

/-- The victim way of a set and by how much the ages rise (R317): an invalid way, else the first of the oldest. -/
def chooseVictim (s : State) (c : CacheId) (n : Nat) : Nat × BitVec 2 :=
  let base := (n % c.sets) * c.ways
  let ws := (List.range c.ways).filter fun w => !wayLocked s c w
  match ws.find? fun w => (SMap.find? (s.caches.lines c) (base + w)).isNone with
  | some w => (w, 0)
  | none =>
    let age := fun w => match SMap.find? (s.caches.lines c) (base + w) with | some l => l.age.toNat | none => 0
    let oldest := ws.foldl (fun m w => max m (age w)) 0
    ((ws.find? fun w => age w == oldest).getD 0, BitVec.ofNat 2 (3 - oldest))

/-- Raise the ages of a set's ways that are not locked out. -/
def ageSet (c : CacheId) (n : Nat) (by_ : BitVec 2) (s : State) : State :=
  if by_ = 0 then s
  else setCache s c ((s.caches.lines c).map fun e =>
    if e.1 / c.ways == n % c.sets && !wayLocked s c (e.1 % c.ways) then (e.1, { e.2 with age := e.2.age + by_ }) else e)

/-- Entries of an eviction buffer in use (R315). -/
def ebufUsed (s : State) (fromL2 : Bool) : Nat := (s.caches.ebuf.filter fun e => e.fromL2 == fromL2).length

/-- Put a dirty line into an eviction buffer; none when it is full (R318). -/
def ebufPush (fromL2 : Bool) (n : Nat) (d : Line) (s : State) : Option State :=
  if ebufUsed s fromL2 < (if fromL2 then 16 else 8) then
    some { s with caches := { s.caches with ebuf := s.caches.ebuf ++ [⟨n, d, fromL2, false⟩] } }
  else none

/-- A clean exclusive line has left the core (R325). DESIGN CHOICE (log 67): LET_GO has no acknowledgement, as the row of ACK in
R325 has it, so that it keeps no request outstanding and its transaction number stays free; and it goes out without waiting. DESIGN CHOICE
(log 79): while the outputs of a reset have their reset values (R17, R56) none is sent. -/
def letGo (n : Nat) (s : State) : State :=
  if atResetValues s then s
  else sendPacket (packet 5 (memHeader (lineAddr n) 2 s.chain.caddr ((freeTxid s).getD 0) 0 0) []) s

/-! ## Errors of a cache (R322) -/

/-- An error found in a cache (R322): counted, and acted on by whether the line is clean and what is lost. -/
def eccCache (c : CacheId) (e : EccEvent) (s : State) : State :=
  let n := e.loc / 8
  let array : BitVec 2 := match c with | .l1d => 0 | .l2 => 1 | .l1i => 2
  match (if cacheUninit s c then none else cacheFind s c n) with
  | none => s
  | some (k, l) =>
    let t := countError e.str e.way (e.uncorrectable || e.addrTag) s
    let addr : W64 := BitVec.ofNat 64 (64 * n)
    if !e.uncorrectable && !e.addrTag then t
    else if l.st != .modified then
      let u := cacheDel t c k
      if c == .l1i then u else lineGone n (if l.st == .exclusive && !holds u n then letGo n u else u)
    else if e.addrTag then lineGone n (machineCheck 6 array addr (cacheDel t c k))
    else machineCheck 5 array addr (cachePut t c k { l with data := vset l.data (e.loc % 8) TWord.poison })

/-- The errors of line n in cache c that `p` picks are found. -/
def meetErrors (c : CacheId) (n : Nat) (p : EccEvent → Bool) (s : State) : State :=
  let here := fun (e : EccEvent) => e.loc / 8 == n && p e
  (s.rel.latent.filter fun e => e.str == c.str && here e).foldl (fun t e => eccCache c e t)
    (clearLatent c.str (fun e => here e) s)

/-- A lookup of line n finds the errors of its address tag. -/
def meetTag (c : CacheId) (n : Nat) (s : State) : State := meetErrors c n (·.addrTag) s

/-- A read of line n finds its errors (log 49). -/
def meetLine (c : CacheId) (n : Nat) (s : State) : State := meetErrors c n (fun _ => true) s

/-! ## Fills and evictions -/

/-- A line leaves L2. While L1D holds it, L1D takes over the duty to write it back. -/
def evictL2 (l : CLine) (s : State) : Option State :=
  match cacheFind s .l1d l.line with
  | some (k, d) =>
    some (if l.st == .modified && d.st != .modified then cachePut s .l1d k { d with st := .modified } else s)
  | none =>
    match l.st with
    | .modified => (ebufPush true l.line l.data s).map (lineGone l.line)
    | .exclusive => some (lineGone l.line (letGo l.line s))
    | .shared => some (lineGone l.line s)

/-- The line with this key, read out of its cache: its errors are found, which may invalidate it. -/
def readOut (c : CacheId) (key : Nat) (s : State) : State × Option CLine :=
  match SMap.find? (s.caches.lines c) key with
  | none => (s, none)
  | some v =>
    let t := meetLine c v.line s
    (t, SMap.find? (t.caches.lines c) key)

/-- Put line n into L2 (R317); none when the line that must leave finds the eviction buffer full. -/
def insertL2 (n : Nat) (st : LineState) (d : Line) (age : BitVec 2) (s : State) : Option State :=
  match cacheFind s .l2 n with
  | some (k, _) => some (clearLatent 2 (fun e => e.loc / 8 == n) (cachePut s .l2 k ⟨n, st, age, d⟩))
  | none =>
    let (w, up) := chooseVictim s .l2 n
    let key := (n % 512) * 8 + w
    let put := fun t => cachePut t .l2 key ⟨n, st, age, d⟩
    match readOut .l2 key (ageSet .l2 n up s) with
    | (t, none) => some (put t)
    | (t, some v) => (evictL2 v (cacheDel t .l2 key)).map put

/-- A line leaves L1D (R315): dirty, to L2 if it is enabled and to memory otherwise; a copy in a disabled L2 is then dropped, being
older. A line that L1D writes back enters L2 as a normal fill (DESIGN CHOICE, log 66: the spec gives its age nowhere). -/
def evictL1D (l : CLine) (s : State) : Option State :=
  match l.st with
  | .modified =>
    if cacheOn s .l2 then insertL2 l.line .modified l.data 1 s
    else (ebufPush false l.line l.data
      (match cacheFind s .l2 l.line with | some (k, _) => cacheDel s .l2 k | none => s)).map (lineGone l.line)
  | .exclusive => some (if holds s l.line then s else lineGone l.line (letGo l.line s))
  | .shared => some (lineGone l.line s)

/-- Put line n into L1D (R317). It stands there when the line that leaves goes on its way, which may in turn push n itself out of L2. -/
def insertL1D (n : Nat) (st : LineState) (d : Line) (age : BitVec 2) (s : State) : Option State :=
  match cacheFind s .l1d n with
  | some (k, _) => some (clearLatent 1 (fun e => e.loc / 8 == n) (cachePut s .l1d k ⟨n, st, age, d⟩))
  | none =>
    let (w, up) := chooseVictim s .l1d n
    let key := (n % 64) * 8 + w
    let put := fun t => cachePut t .l1d key ⟨n, st, age, d⟩
    match readOut .l1d key (ageSet .l1d n up s) with
    | (t, none) => some (put t)
    | (t, some v) => evictL1D v (put (cacheDel t .l1d key))

/-- Put line n into L1I, which is never snooped (R315). -/
def insertL1I (n : Nat) (d : Line) (s : State) : State :=
  match cacheFind s .l1i n with
  | some (k, _) => cachePut s .l1i k ⟨n, .shared, 1, d⟩
  | none =>
    let (w, up) := chooseVictim s .l1i n
    let key := (n % 128) * 4 + w
    cachePut (cacheDel (ageSet .l1i n up s) .l1i key) .l1i key ⟨n, .shared, 1, d⟩

/-- The age of a fill (R317). -/
def fillAge (stream : Bool) : BitVec 2 := if stream then 3 else 1

/-- Note the answer for the access that waits; a request that no access waits for any more keeps none. -/
def noteFill (f : Fill) (s : State) : State :=
  if f.req.who == .evict then s else { s with mesh := { s.mesh with fills := s.mesh.fills ++ [f] } }

/-- Put a line that has arrived into the caches its request named, as far as they are still on; none while a line that must
leave finds its eviction buffer full, or while a write-back of the line itself stands in one (R317, R318). -/
def allocFill (r : Req) (excl : Bool) (d : Line) (s : State) : Option State :=
  let n := lineNo r.addr
  let st : LineState := if excl then .exclusive else .shared
  let age := fillAge r.stream
  let toL1D := r.l1d && cacheOn s .l1d
  let toL2 := r.l2 && cacheOn s .l2
  let s0 := if r.l1i && cacheOn s .l1i then insertL1I n d s else s
  if (toL1D || toL2) && s.caches.ebuf.any (fun e => e.line == n) then none
  else match (if toL2 then insertL2 n st d age s0 else some s0) with
  | none => none
  | some s1 =>
    match (if toL1D then insertL1D n st d age s1 else some s1) with
    | none => none
    | some s2 => some (if excl && !toL1D && !toL2 then letGo n s2 else s2)

/-- A line has arrived for a FILL_S or FILL_O: into the caches, or held. The access it serves learns of it. The drain and a lame core
allocate nothing (R57, R381); the rows of committed tile instructions, which a lame core performs, have their lines all the same. -/
def placeFill (r : Req) (excl : Bool) (d : Line) (s : State) : State :=
  let note := fun (t : State) => noteFill ⟨r, false, excl, false, d⟩ t
  if draining s || s.boot.lame then note (if excl then letGo (lineNo r.addr) s else s)
  else
    match allocFill r excl d s with
    | some t => note t
    | none => { s with mesh := { s.mesh with fills := s.mesh.fills ++ [⟨r, false, excl, true, d⟩] } }

/-- Held lines try again, once an eviction buffer may have room. -/
def retryHeld (s : State) : State :=
  (s.mesh.fills.filter (·.held)).foldl
    (fun t f => placeFill f.req f.excl f.data
      { t with mesh := { t.mesh with fills := t.mesh.fills.erase f } }) s

/-- A hit makes the line the youngest of its set (R317). -/
def touch (c : CacheId) (key : Nat) (l : CLine) : M Unit := modify fun s => cachePut s c key { l with age := 0 }

/-- The newest copy of a line found in L2: L1D may hold a later one. -/
def newest (s : State) (l : CLine) : Line := match cacheFind s .l1d l.line with | some (_, d) => d.data | none => l.data

/-- A line in an eviction buffer (R318): back into its cache while its write-back has not started; else the access waits. It comes back at
age 0 (DESIGN CHOICE, log 66). A fill that waits for an entry finds it free. While its cache is disabled, R318 and R321 disagree; the access
then waits for the write-back (DESIGN CHOICE, log 66). -/
def ebufRecall (n : Nat) : M Bool := do
  let s ← get
  match s.caches.ebuf.find? fun e => e.line == n with
  | none => return false
  | some e =>
    if e.started || !cacheOn s (if e.fromL2 then .l2 else .l1d) then wait
    else
      let t := { s with caches := { s.caches with ebuf := s.caches.ebuf.filter fun x => x.line != n } }
      match (if e.fromL2 then insertL2 n .modified e.data 0 t else insertL1D n .modified e.data 0 t) with
      | some u => set (retryHeld u); return true
      | none => wait

/-- A line of bounded unpredictable words (R11, R320). -/
def freeLine : M Line := do
  return lineOf [← freeBounded, ← freeBounded, ← freeBounded, ← freeBounded, ← freeBounded, ← freeBounded, ← freeBounded,
    ← freeBounded]

/-- Does an access hit in an uninitialized cache (R320)? A free choice; no choice is taken while none is uninitialized. -/
def uninitHit (cs : List CacheId) : M Bool := do
  let s ← get
  if cs.any fun c => cacheUninit s c then freeB else return false

/-- How a line is read (R316): `bulk` by a tile load or a Mover read, `peek` by a Causeway channel. -/
inductive ReadMode where
  | scalar | walk | bulk | peek | fetch
  deriving DecidableEq, Repr

/-- The first cache that a read looks in. -/
def ReadMode.first (m : ReadMode) : CacheId := if m == .fetch then .l1i else .l1d

/-- The copy of line n in the caches that a read looks in, as it stands. -/
def lineCopy (s : State) (mode : ReadMode) (n : Nat) : Option Line :=
  match (if cacheOn s mode.first then cacheFind s mode.first n else none) with
  | some (_, l) => some l.data
  | none => (if cacheOn s .l2 then cacheFind s .l2 n else none).map fun e => newest s e.2

/-- An access of `who` has looked for line n in the caches that are on, as `v` has them: its accesses and misses (R458). `c`: the cache it
looks in first; L2 is looked up when that one misses. `a`: the address that the access counts under. -/
def countLooks (who : Requester) (c : CacheId) (a : W64) (n : Nat) (v s : State) : State :=
  let found := fun (k : CacheId) => cacheOn v k && (cacheFind v k n).isSome
  let missed := fun (k : CacheId) => cacheOn v k && !found k
  let count := fun (b : Bool) (evt : Nat) (t : State) => if b then countSpec who evt a t else t
  let second := !found c && cacheOn v .l2
  count (second && missed .l2) 4 (count second 3 (count (missed c) (if c == .l1i then 5 else 2)
    (count (cacheOn v c && c != .l1i) 1 s)))

/-- The lookups of a read in the caches that are on find the errors of line n; L2 is looked up when the first cache misses. -/
def meetRead (mode : ReadMode) (n : Nat) (s : State) : State :=
  let t := if cacheOn s mode.first then meetLine mode.first n s else s
  if (cacheOn t mode.first && (cacheFind t mode.first n).isSome) || !cacheOn t .l2 then t
  else meetLine .l2 n (meetLine .l1d n t)

/-- The cached copy that a read hits, with the moves between caches that it makes (R315 to R318). -/
def cachedLine (mode : ReadMode) (stream : Bool) (n : Nat) : M (Option Line) := do
  let s ← get
  match (if cacheOn s mode.first then cacheFind s mode.first n else none) with
  | some (k, l) => touch mode.first k l; return some l.data
  | none =>
    match (if cacheOn s .l2 then cacheFind s .l2 n else none) with
    | none => return none
    | some (k, l) =>
      touch .l2 k l
      let d := newest s l
      let t ← get
      if mode == .fetch then set (if cacheOn t .l1i then insertL1I n d t else t)
      else if mode == .scalar && cacheOn t .l1d then
        match insertL1D n (if l.st == .shared then .shared else .exclusive) d (fillAge stream) t with
        | some u => set u
        | none => wait
      return some d

/-- Request line n for a read that missed (R316, R325): a tile load and a Mover read fill L2, or peek while L2 is off (log 10). -/
def requestLine (who : Requester) (mode : ReadMode) (stream : Bool) (n : Nat) : M Unit := do
  let s ← get
  let i := mode == .fetch && cacheOn s .l1i
  let d := mode == .scalar && cacheOn s .l1d
  let l2 := cacheOn s .l2
  if mode == .peek || !(i || d || l2) then requestRead .peek (lineAddr n) who 0 false false false stream
  else requestRead .fillS (lineAddr n) who 0 i d l2 stream

/-- Read line n of normal memory for `who`: none when the read ended with the error (R503). The access waits while the
line is on its way (R13). The access that missed is no hit when its line has come (R317); its lookup was counted, under address a, when
it missed. -/
def readLine (who : Requester) (mode : ReadMode) (stream : Bool) (a : W64) (n : Nat) : M (Option Line) := do
  if ← uninitHit [mode.first, .l2] then return some (← freeLine)
  let s ← get
  match findFill s who n with
  | some f => return if f.bad then none else some ((lineCopy s mode n).getD f.data)
  | none =>
    modify (meetRead mode n)
    let v ← get
    let looked : M Unit := modify (countLooks who mode.first a n v)
    match ← cachedLine mode stream n with
    | some d => looked; return some d
    | none =>
      if mode != .fetch && (← ebufRecall n) then
        match ← cachedLine mode stream n with
        | some d => looked; return some d
        | none => wait
      else
        let s ← get
        if writeInFlight s n || heldFill s n || s.mesh.reqs.any (fun r => r.op.isRead && r.op != .devRd &&
            lineNo r.addr == n && (r.who == who || r.op != .peek)) then wait
        else
          looked
          requestLine who mode stream n
          if (findFill (← get) who n).isSome then return none else wait

/-- Read a device word (R316, R325): none for the error. The word comes in its place in the line. -/
def readDevice (who : Requester) (pa : PAddr) (size : BitVec 4) : M (Option TWord) := do
  let s ← get
  match s.mesh.fills.find? fun f => !f.held && f.req.who == who && f.req.op == .devRd && f.req.addr == pa with
  | some f => return if f.bad then none else some (vget f.data (fldN pa 3 3) TWord.poison)
  | none =>
    if s.mesh.reqs.any fun r => r.who == who && (r.op == .devRd || r.op == .devWr) then wait
    else
      requestRead .devRd pa who size false false false false
      let t ← get
      if t.mesh.fills.any fun f => f.req.who == who && f.req.op == .devRd && f.req.addr == pa then return none else wait

/-! ## Writes -/

/-- Where a write of one line goes, once every condition on it is met. -/
inductive WPath where
  | spad | l1d | l2 | poke | dev (size : BitVec 4) | drop
  deriving DecidableEq, Repr

/-- Make a cached line writable (R324): a shared line is promoted, and a refused promotion discards the store (R503). -/
def promoteLine (who : Requester) (n : Nat) (st : LineState) (ok : WPath) : M WPath := do
  if st != .shared then return ok
  else
    let s ← get
    if failedReq s .promote who n then return .drop
    else if s.mesh.reqs.any fun r => r.op == .promote && lineNo r.addr == n then wait
    else
      requestRead .promote (lineAddr n) who 0 false false false false
      if failedReq (← get) .promote who n then return .drop else wait

/-- The store finds line n in cache c (R317): a hit, unless its own fill has just brought the line. -/
def storeHit (who : Requester) (c : CacheId) (n : Nat) : M Unit := do
  let s ← get
  match cacheFind s c n with
  | some (k, l) => if !filledFor s who n then touch c k l
  | none => pure ()

/-- A store that finds its line in L2 while L1D is on: the line is made writable and moves into L1D (R315), at the age of a
fill (R317). -/
def storeFromL2 (who : Requester) (stream : Bool) (n : Nat) : M WPath := do
  modify (meetLine .l1d n)
  let s ← get
  match cacheFind s .l2 n with
  | none => wait
  | some (_, l) =>
    storeHit who .l2 n
    match ← promoteLine who n l.st .l1d with
    | .l1d =>
      let t := meetLine .l2 n (← get)
      match cacheFind t .l2 n with
      | none => set t; wait
      | some (_, e) =>
        match insertL1D n (if e.st == .shared then .shared else .exclusive) (newest t e) (fillAge stream) t with
        | some u => set u; return .l1d
        | none => wait
    | p => return p

/-- A prepared store has looked for its line, as `v` had the caches: it is counted (R458), unless it was when it missed. -/
def lookedFor (who src : Requester) (a : W64) (n : Nat) (v : State) (m : M WPath) : M WPath := do
  let path ← m
  if !filledFor v who n then modify (countLooks src .l1d a n v)
  return path

/-- Prepare a scalar store to a line of normal memory (R316, R318, R320, R324); its lookup counts under address a. -/
def prepScalarLine (who : Requester) (stream : Bool) (a : W64) (n : Nat) : M WPath := do
  let s ← get
  if storesInFlight s who then wait
  if ← uninitHit [.l1d, .l2] then
    if !(← freeB) then return .drop
  modify fun t => if cacheOn t .l1d then meetTag .l1d n t else t
  modify fun t => if cacheOn t .l2 then meetTag .l2 n t else t
  let s ← get
  let d := cacheOn s .l1d
  let l2 := cacheOn s .l2
  let looked := fun (m : M WPath) => lookedFor who who a n s m
  match (if d then cacheFind s .l1d n else none), (if l2 then cacheFind s .l2 n else none) with
  | some (_, l), _ =>
    storeHit who .l1d n
    looked (promoteLine who n l.st .l1d)
  | none, some (_, l) =>
    if d then looked (storeFromL2 who stream n)
    else
      storeHit who .l2 n
      looked (promoteLine who n l.st .l2)
  | none, none =>
    if ← ebufRecall n then wait
    else
      let s ← get
      if !d && !l2 then
        if writeInFlight s n || laneFull s 2 then wait else return .poke
      else if failedReq s .fillO who n then return .drop
      else if writeInFlight s n || heldFill s n ||
          s.mesh.reqs.any (fun r => r.op.isRead && r.op != .devRd && lineNo r.addr == n) then wait
      else
        modify (countLooks who .l1d a n s)
        requestRead .fillO (lineAddr n) who 0 false d l2 stream
        if failedReq (← get) .fillO who n then return .drop else wait

/-- Prepare a tile or Mover write to a line of normal memory (R316): into a cache that holds it, else to memory. -/
def prepBulkLine (who src : Requester) (a : W64) (n : Nat) : M WPath := do
  let s ← get
  if 128 ≤ s.mesh.reqs.length then wait
  if ← uninitHit [.l1d, .l2] then
    if !(← freeB) then return .drop
  modify fun t => if cacheOn t .l1d then meetTag .l1d n t else t
  modify fun t => if cacheOn t .l2 then meetTag .l2 n t else t
  let s ← get
  let looked := fun (m : M WPath) => lookedFor who src a n s m
  match (if cacheOn s .l1d then cacheFind s .l1d n else none), (if cacheOn s .l2 then cacheFind s .l2 n else none) with
  | some (_, l), _ => storeHit who .l1d n; looked (promoteLine who n l.st .l1d)
  | none, some (_, l) => storeHit who .l2 n; looked (promoteLine who n l.st .l2)
  | none, none =>
    if ← ebufRecall n then wait
    else if writeInFlight (← get) n || heldFill (← get) n || laneFull (← get) 2 then wait
    else looked (pure .poke)

/-- A line with the bytes that `mask` names replaced; a word any of whose bytes is written takes the new tag. -/
def mergeLine (old new : Line) (mask : W64) : Line :=
  Vector.ofFn fun i =>
    let m := fld mask (8 * i.val) 8
    let o := vget old i.val TWord.zero
    let w := vget new i.val TWord.zero
    if m = 0 then o
    else ⟨wordOfBytes fun b => if bit m b then byteOf w.val b else byteOf o.val b, w.tag⟩

/-- The errors of the words of a line that `mask` names are overwritten. -/
def clearWords (c : CacheId) (n : Nat) (mask : W64) (s : State) : State :=
  clearLatent c.str (fun e => !e.addrTag && e.loc / 8 == n && fld mask (8 * (e.loc % 8)) 8 != 0) s

/-- Write the bytes that `mask` names of line n, where a path was prepared. Watches see the write (R409): `own` names the context
whose own watch does not. -/
def commitLine (who : Requester) (own : Option CtxId) (path : WPath) (pa : PAddr) (mask : W64) (d : Line) (s : State) : State :=
  let n := lineNo pa
  let t := match path with
    | .drop => s
    | .spad => (List.range 8).foldl (fun t i =>
        if fld mask (8 * i) 8 = 0 then t
        else
          let idx := spadIndex (lineAddr n) + i
          let old := match spadLook s idx with | .clean w => w | .corrected w => w | .uncorrectable => TWord.poison
          spadPut t idx (vget (mergeLine (Vector.replicate 8 old) d mask) i TWord.zero)) s
    | .l1d => match cacheFind s .l1d n with
      | some (k, l) => clearWords .l1d n mask (cachePut s .l1d k ⟨n, .modified, l.age, mergeLine l.data d mask⟩)
      | none => s
    | .l2 => match cacheFind s .l2 n with
      | some (k, l) =>
        let base := newest s l
        let u := match cacheFind s .l1d n with | some (k1, _) => cacheDel s .l1d k1 | none => s
        clearWords .l2 n mask (cachePut u .l2 k ⟨n, .modified, l.age, mergeLine base d mask⟩)
      | none => s
    | .poke => sendWrite .poke (lineAddr n) who 0 mask d false s
    | .dev size => sendWrite .devWr pa who size 0 d false s
  if path == .drop then t else hitWatch own n t

end Sys2Proof.Machine
end

