-- ==== Sys2Proof/Machine/Translate.lean ====
section
/-!
DEFINITION. Translation of an address in two stages, the physical attribute map, rights, keys and marks (11 R340 to R361).
-/

namespace Sys2Proof.Machine

/-- The kind of an access (R349). -/
inductive AccKind where
  | read | write | exec
  deriving DecidableEq, Repr

/-- What is to be translated, and under which checks. -/
structure XReq where
  va : W64
  kind : AccKind
  /-- the Rhaha attribute the page must have (R149, R161) -/
  rh : Option Bool := none
  /-- key rights of a channel (R352) -/
  keys : Option W32 := none
  /-- tile and Mover accesses may not reach a device page (R356) -/
  noDev : Bool := false
  deriving DecidableEq, Repr

/-- A translation fault (R358). -/
structure XFault where
  typ : BitVec 4
  s2 : Bool
  lvl : Nat
  pr : BitVec 4 := 0
  key : BitVec 4 := 0
  s1w : Bool := false
  ipa : Nat := 0
  deriving DecidableEq, Repr

/-- FSR of a fault met by an access of this kind (R358). -/
def XFault.fsr (f : XFault) (k : AccKind) : W64 :=
  at' 0 f.typ ||| bAt 4 f.s2 ||| at' 5 (BitVec.ofNat 3 f.lvl) ||| bAt 8 (k == .write) ||| bAt 9 (k == .exec) |||
    bAt 10 f.s1w ||| at' 12 f.pr ||| at' 16 f.key

/-- FIPA of a fault (R358). -/
def XFault.fipa (f : XFault) : W64 := if f.s2 then BitVec.ofNat 64 (f.ipa / 4096 * 4096) else 0

/-- A computation that may end in a translation fault. -/
abbrev X := ExceptT XFault M

/-! ## The map (R355, R356) -/

/-- Some valid map entry with this attribute bit covers the page of an address. -/
def mapHas (s : State) (attr : Nat) (pa : PAddr) : Bool :=
  (List.range 16).any fun n =>
    let b := vget s.pamb n 0
    bit b 0 && bit b attr && decide (fldN b 12 40 ≤ fldN pa 12 40) && decide (fldN pa 12 40 ≤ fldN (vget s.paml n 0) 12 40)

/-- A device page; the scratchpad window is always normal. DESIGN CHOICE (log 81): its reserved part is not meant (R310 against R348, R358).
-/
def mapDevice (s : State) (pa : PAddr) : Bool := mapHas s 1 pa && !inSpad pa
/-- A Sealed page, in two worlds. -/
def mapSealed (s : State) (pa : PAddr) : Bool := twoWorlds s && mapHas s 2 pa

/-! ## Entries (R344 to R346) -/

/-- Lowest address bit of the index at a level (R344). -/
def lvlShift (lvl : Nat) : Nat := match lvl with | 0 => 48 | 1 => 39 | 2 => 30 | 3 => 21 | _ => 12

/-- Index of an address at a level (R344). -/
def lvlIndex (stage2 : Bool) (lvl a : Nat) : Nat :=
  if lvl = 0 then a / 2 ^ 48 % (if stage2 then 16 else 256) else a / 2 ^ lvlShift lvl % 512

/-- ADDR of an entry as an address. -/
def entryAddr (e : W64) : Nat := fldN e 12 40 * 4096

/-- log2 of the page a leaf maps (R344, R346). -/
def leafShift (e : W64) (lvl : Nat) : Nat := if lvl = 4 then (if bit e 56 then 16 else 12) else lvlShift lvl

/-- The output of a leaf for an address: ADDR bits below the page size are ignored (R346). -/
def leafOut (e : W64) (lvl a : Nat) : Nat :=
  let z := 2 ^ leafShift e lvl
  entryAddr e / z * z + a % z

/-- Stage 1 is on (R340); the escalation handler runs with both stages off (R379). -/
def Regime.en1 (g : Regime) : Bool := bit g.tcr 0 && !g.esc
/-- Stage 2 is on. -/
def Regime.en2 (g : Regime) : Bool := bit g.ttb2 6 && !g.esc
/-- ASID. -/
def Regime.asid (g : Regime) : BitVec 12 := fld g.ttb1 0 12
/-- VMID. -/
def Regime.vmid (g : Regime) : BitVec 6 := fld g.ttb2 0 6

/-- The first of the candidates that a free choice takes: each may be used or not (R361). No candidate, no choice. -/
def pickFree {α : Type} : List α → M (Option α)
  | [] => return none
  | a :: l => do if ← freeB then return some a else pickFree l

/-- The word a walk reads: none for an error (R347, R348). The read is counted, under its physical address (R454). -/
def walkWord (who : Requester) (pa : PAddr) : M (Option TWord) := do
  let w ← if inSpad pa then (do return some (← spadRead false (spadIndex pa)) : M (Option TWord))
    else do return (← readLine who .walk false (pa.setWidth 64) (lineNo pa)).map fun d => vget d (fldN pa 3 3) TWord.poison
  modify (countSpec who 9 (pa.setWidth 64))
  return w

/-- A walk read at a physical address (R347, R348): `lvl` is the level of the table. -/
def walkRead (who : Requester) (g : Regime) (stage2 s1w : Bool) (lvl ipa : Nat) (pa : PAddr) : X W64 := do
  let s ← get
  let fail := fun (t : BitVec 4) => XFault.mk t stage2 lvl 0 0 s1w ipa
  if mapDevice s pa then throw (fail 6)
  if (mapSealed s pa && !g.sealed) || inSpadHole pa then throw (fail 7)
  match ← (walkWord who pa : M _) with
  | none => throw (fail 7)
  | some v => if v.tag == Tag.poison || isReserved v.tag then throw (fail 7) else return v.val

/-- A cached table entry for this level of a walk, if a free choice takes one (R360, R361). -/
def walkCached (g : Regime) (stage2 : Bool) (lvl a : Nat) : M (Option W64) := do
  if lvl = 4 then return none
  let s ← get
  let hits := s.tlbs.walks.filter fun w => w.en1 == g.en1 && w.en2 == g.en2 && w.stage2 == stage2 && w.lvl == lvl &&
    (w.asid == g.asid) && w.vmid == g.vmid && w.pre == a / 2 ^ lvlShift lvl
  return (← pickFree hits).map fun w => w.entry

/-- Keep a table entry in the walk cache (R360). -/
def keepWalk (g : Regime) (stage2 : Bool) (lvl a : Nat) (e : W64) : M Unit := modify fun s =>
  let w : WalkEntry := ⟨g.en1, g.en2, stage2, lvl, g.asid, g.vmid, a / 2 ^ lvlShift lvl, e⟩
  if s.tlbs.walks.contains w then s else { s with tlbs := { s.tlbs with walks := w :: s.tlbs.walks } }

/-- A walk from level 0 down (R346, R347). `rd lvl addr` reads the table word at an address of the walk's own space.
Of a 64 KiB page any one of the 16 entries may serve. -/
def walkFrom (g : Regime) (stage2 s1w : Bool) (ipa : Nat) (rd : Nat → Nat → X W64) (a : Nat) :
    (fuel lvl table : Nat) → X (W64 × Nat)
  | 0, lvl, _ => throw (XFault.mk 2 stage2 lvl 0 0 s1w ipa)
  | fuel + 1, lvl, table => do
    let slot := fun (i : Nat) => table + 8 * i
    let idx := lvlIndex stage2 lvl a
    let e ← match ← (walkCached g stage2 lvl a : M _) with
      | some e => pure e
      | none => rd lvl (slot idx)
    if !bit e 0 then throw (XFault.mk 1 stage2 lvl 0 0 s1w ipa)
    if (bit e 1 && lvl == 4) || (!bit e 1 && decide (lvl < 2)) then throw (XFault.mk 2 stage2 lvl 0 0 s1w ipa)
    if bit e 1 then
      keepWalk g stage2 lvl a e
      walkFrom g stage2 s1w ipa rd a fuel (lvl + 1) (entryAddr e)
    else if lvl == 4 && bit e 56 then
      let j := idx / 16 * 16 + Config.freeNat (← (freshFree : M Nat)) % 16
      let e' ← rd lvl (slot j)
      return (if bit e' 0 && !bit e' 1 && bit e' 56 then e' else e, lvl)
    else return (e, lvl)

/-- A leaf that was built with its dirty mark clear. -/
def cleanLeaf (l : Option (W64 × Nat)) : Bool := l.any fun e => !bit e.1 7

/-- The cached stage-2 leaf translates this intermediate address of stage 1 for the regime (R360). -/
def coversIpa (g : Regime) (ipa : Nat) (t : TlbEntry) : Bool :=
  t.leaf1.isNone && t.en1 && t.en2 && g.en1 && t.vmid == g.vmid && t.asid == g.asid &&
    t.leaf2.any fun e => t.ipn * 4096 / 2 ^ leafShift e.1 e.2 == ipa / 2 ^ leafShift e.1 e.2

/-- The cached entry translates this address for the regime (R360). -/
def coversAddr (g : Regime) (a : Nat) (t : TlbEntry) : Bool :=
  let shift := fun (l : Option (W64 × Nat)) => match l with | some (e, n) => leafShift e n | none => 52
  let k := min (shift t.leaf1) (shift t.leaf2)
  t.asid == g.asid && t.vmid == g.vmid && t.en1 == g.en1 && t.en2 == g.en2 && t.leaf1.isSome == g.en1 &&
    t.vpn * 4096 / 2 ^ k == a / 2 ^ k

/-- Keep a translation entry. One built from a fresh read of the tables takes the place of those with a clear dirty mark that
cover the same address (R354). -/
def keepEntry (fresh : Bool) (covers : TlbEntry → Bool) (t : TlbEntry) (s : State) : State :=
  let keep := if fresh then s.tlbs.leaves.filter fun u => !(covers u && (cleanLeaf u.leaf1 || cleanLeaf u.leaf2))
    else s.tlbs.leaves
  { s with tlbs := { s.tlbs with leaves := if keep.contains t then keep else t :: keep } }

/-- The stage-2 leaf of an intermediate address (R347): a cached one, by a free choice, or by a walk. -/
def stage2Leaf (who : Requester) (g : Regime) (s1w fresh : Bool) (ipa : Nat) : X (W64 × Nat) := do
  let s ← get
  let hits := if fresh then [] else (s.tlbs.leaves.filter fun t => coversIpa g ipa t).filterMap fun t => t.leaf2
  match ← (pickFree hits : M _) with
  | some r => return r
  | none =>
    let r ← walkFrom g true s1w ipa (fun lvl p => walkRead who g true s1w lvl ipa (BitVec.ofNat 52 p)) ipa 5 0
      (fldN g.ttb2 12 40 * 4096)
    if bit r.1 6 && g.en1 then
      modify (keepEntry fresh (coversIpa g ipa) ⟨g.asid, g.vmid, true, true, 0, ipa / 4096, none, some r⟩)
    return r

/-- Read a stage-1 table word at an intermediate address: stage 2 checks its R right and accessed mark (R347, R359). -/
def stage1Read (who : Requester) (g : Regime) (fresh : Bool) (lvl p : Nat) : X W64 := do
  if g.en2 then
    let (e, l) ← stage2Leaf who g true fresh p
    if !bit e 2 then throw (XFault.mk 3 true l 0 0 true p)
    if !bit e 6 then throw (XFault.mk 4 true l 0 0 true p)
    walkRead who g false false lvl p (BitVec.ofNat 52 (leafOut e l p))
  else walkRead who g false false lvl p (BitVec.ofNat 52 p)

/-- The leaves of an address by a walk of the tables of each stage that is on. -/
def walkLeaves (who : Requester) (g : Regime) (fresh : Bool) (a : Nat) : X (Option (W64 × Nat) × Option (W64 × Nat)) := do
  let l1 ← if g.en1 then
      (do return some (← walkFrom g false false 0 (fun lvl p => stage1Read who g fresh lvl p) a 5 0
        (fldN g.ttb1 12 40 * 4096)) : X (Option (W64 × Nat)))
    else pure none
  let ipa := match l1 with | some (e, l) => leafOut e l a | none => a
  let l2 ← if g.en2 then (do return some (← stage2Leaf who g false fresh ipa) : X (Option (W64 × Nat))) else pure none
  return (l1, l2)

/-- A translation that found no cached entry (R458): it missed the TLB of its kind and the second-level TLB. -/
def countXlate (who : Requester) (x : XReq) (s : State) : State :=
  countSpec who 8 x.va (countSpec who (match x.kind with | .exec => 7 | _ => 6) x.va s)

/-- The leaves that translate an address: those of one cached entry, by a free choice, or of a walk (R361). -/
def leavesOf (who : Requester) (g : Regime) (x : XReq) (fresh : Bool) (a : Nat) :
    X (Option (W64 × Nat) × Option (W64 × Nat)) := do
  let s ← get
  let hits := if fresh then [] else s.tlbs.leaves.filter fun t => coversAddr g a t
  match ← (pickFree hits : M _) with
  | some t => return (t.leaf1, t.leaf2)
  | none =>
    let missed : X Unit := if (g.en1 || g.en2) && !fresh then modify (countXlate who x) else pure ()
    let l ← tryCatchThe XFault (walkLeaves who g fresh a) fun f => do missed; throw f
    missed
    return l

/-- Keep a combined leaf whose accessed marks are set (R354, R360). -/
def keepLeaf (g : Regime) (a ipa : Nat) (l1 l2 : Option (W64 × Nat)) (fresh : Bool) : M Unit :=
  let ok := fun (l : Option (W64 × Nat)) => match l with | some (e, _) => bit e 6 | none => true
  if ok l1 && ok l2 then
    modify (keepEntry fresh (coversAddr g a) ⟨g.asid, g.vmid, g.en1, g.en2, a / 4096, ipa / 4096, l1, l2⟩)
  else pure ()

/-- A virtual address in canonical form, or a physical one that fits (R107, R340). -/
def canonical (g : Regime) (va : W64) : Bool :=
  if g.en1 then fld va 55 9 == 0 || fld va 55 9 == 0x1FF else fld va 52 12 == 0

/-- The checks after the walks, in the order of R359: permissions, map, key, marks. -/
def checkLeaves (g : Regime) (x : XReq) (l1 l2 : Option (W64 × Nat)) (ipa : Nat) (pa : PAddr) : X Phys := do
  let s ← get
  let right := match x.kind with | .read => 2 | .write => 3 | .exec => 4
  let e1 := match l1 with | some (e, _) => e | none => 0
  match l1 with
  | some (e, l) =>
    let fail := fun (pr : BitVec 4) => XFault.mk 3 false l pr 0 false 0
    if !g.sup && !bit e 5 then throw (fail 1)
    if g.sup && bit e 5 && (x.kind == .exec || !g.ua) then throw (fail 2)
    match x.rh with
    | some r => if bit e 9 != r then throw (fail 3)
    | none => pure ()
    if !bit e right then throw (fail 0)
  | none => match x.rh with
    | some true => throw (XFault.mk 3 false 0 3 0 false 0)
    | _ => pure ()
  match l2 with
  | some (e, l) => if !bit e right then throw (XFault.mk 3 true l 0 0 false ipa)
  | none => pure ()
  if mapSealed s pa && !g.sealed then throw (XFault.mk 3 false 0 6 0 false 0)
  let dev := mapDevice s pa
  if dev && x.noDev then throw (XFault.mk 3 false 0 4 0 false 0)
  if inSpadHole pa then throw (XFault.mk 3 false 0 5 0 false 0)
  match x.keys, l1 with
  | some rights, some (e, l) =>
    let k := fld e 52 4
    if !bit rights (2 * k.toNat + (if x.kind == .write then 1 else 0)) then throw (XFault.mk 9 false l 0 k false 0)
  | _, _ => pure ()
  let mark := fun (b : Nat) (t : BitVec 4) => (do
    match l1 with
    | some (e, l) => if !bit e b then throw (XFault.mk t false l 0 0 false 0)
    | none => pure ()
    match l2 with
    | some (e, l) => if !bit e b then throw (XFault.mk t true l 0 0 false ipa)
    | none => pure () : X Unit)
  mark 6 4
  if x.kind == .write then mark 7 5
  return ⟨x.va, pa, dev, bit e1 9, bit e1 10, bit e1 11⟩

/-- One try at a translation; `fresh` reads the tables again and uses nothing cached for the leaf (R354). -/
def translateOnce (who : Requester) (g : Regime) (x : XReq) (fresh : Bool) : X Phys := do
  let a := if g.en1 then fldN x.va 0 56 else fldN x.va 0 52
  let (l1, l2) ← leavesOf who g x fresh a
  let ipa := match l1 with | some (e, l) => leafOut e l a | none => a
  let pa := match l2 with | some (e, l) => leafOut e l ipa | none => ipa
  if g.en1 || g.en2 then keepLeaf g a ipa l1 l2 fresh
  checkLeaves g x l1 l2 ipa (BitVec.ofNat 52 pa)

/-- Translate an address (R340, R359). A write that meets a clear dirty mark reads the entry again before it faults (R354). -/
def translate (who : Requester) (g : Regime) (x : XReq) : M (Except XFault Phys) := do
  if !canonical g x.va then return .error (XFault.mk 8 false 0 0 0 false 0)
  match ← (translateOnce who g x false).run with
  | .ok p => return .ok p
  | .error f =>
    if x.kind == .write && f.typ == 5 && (g.en1 || g.en2) then (translateOnce who g x true).run
    else return .error f

/-- The vector of a translation fault (R367). -/
def xlVector (fsr : W64) : BitVec 6 :=
  if bit fsr 4 then 9 else if fld fsr 0 4 == 4 || fld fsr 0 4 == 5 then 8 else if bit fsr 9 then 6 else 7

/-- Raise a translation fault of an access at `va` (R358, R367). -/
def raiseX {α : Type} (f : XFault) (k : AccKind) (va : W64) : M α :=
  throw (.exc ⟨xlVector (f.fsr k), 0, some (f.fsr k, va, f.fipa), 0, false, false⟩)

/-- What the accesses of context c run under (R340, R350, R356). -/
def ctxRegime (s : State) (c : CtxId) : Regime :=
  let k := s.getCtx c
  { tcr := k.sys.tcr, ttb1 := k.sys.ttb1, ttb2 := k.sys.ttb2, sup := k.sup, sealed := k.world, ua := k.ua
    esc := k.inEsc, pcc := k.pcc, ddc := k.ddc }

/-- Translate for context c; a fault is raised (R358). -/
def translateCtx (c : CtxId) (x : XReq) : M Phys := do
  match ← translate (.ctx c) (ctxRegime (← get) c) x with
  | .ok p => return p
  | .error f => raiseX f x.kind x.va

/-- Row 5 of R132 for a data or instruction address. -/
def needCanonical (c : CtxId) (va : W64) (k : AccKind) : M Unit := do
  if canonical (ctxRegime (← get) c) va then pure () else raiseX (XFault.mk 8 false 0 0 0 false 0) k va

end Sys2Proof.Machine
end

