-- ==== Sys2Proof/Machine/Cap.lean ====
section
/-!
DEFINITION. Capabilities (12 R388 to R394): their fields, the keyed check, bounds and permissions.
-/

namespace Sys2Proof.Machine

/-- BASE in granules of 4 bytes. -/
def CapPair.base (p : CapPair) : Nat := fldN p.hi.val 0 54
/-- TOP in granules. -/
def CapPair.top (p : CapPair) : Nat := fldN p.lo.val 0 54
/-- PERMS: 0 R, 1 W, 2 X, 3 TAKE, 4 GIVE, 5 SL, 6 IO, 7 SYS. -/
def CapPair.perm (p : CapPair) (i : Nat) : Bool := bit p.hi.val (54 + i)
/-- OTYPE. -/
def CapPair.otype (p : CapPair) : BitVec 4 := fld p.lo.val 54 4

/-- The seal key in force: all zero while KSTAT.SKV is 0 (R389). -/
def checkKey (s : State) : BitVec 256 := if s.keys.skv then s.keys.sealKey else 0

/-- CHK of the other 120 bits (R389). -/
def capChk (s : State) (p : CapPair) : BitVec 8 := Config.capCheck (checkKey s) (fld p.hi.val 0 62) (fld p.lo.val 0 58)

/-- The tags are CAPH and CAPL. -/
def capTagged (p : CapPair) : Bool := p.hi.tag == Tag.caph && p.lo.tag == Tag.capl

/-- A valid capability (R389). -/
def capValid (s : State) (p : CapPair) : Bool :=
  capTagged p && fld p.hi.val 62 2 == fld (capChk s p) 6 2 && fld p.lo.val 58 6 == fld (capChk s p) 0 6

/-- The pair with a new CHK and its tags (R389, R391). -/
def capSign (s : State) (p : CapPair) : CapPair :=
  let k := capChk s p
  ⟨⟨setFld p.hi.val 62 2 (fld k 6 2), Tag.caph⟩, ⟨setFld p.lo.val 58 6 (fld k 0 6), Tag.capl⟩⟩

/-- A root capability (R388). -/
def rootCap (s : State) : CapPair :=
  capSign s ⟨⟨at' 54 (0xFF : BitVec 8), Tag.caph⟩, ⟨BitVec.ofNat 64 (2 ^ 54 - 1), Tag.capl⟩⟩

/-- An access of n bytes at a is within the capability (R388). -/
def capWithin (p : CapPair) (a : W64) (n : Nat) : Bool :=
  decide (p.base * 4 ≤ fldN a 0 56) && decide (fldN a 0 56 + n ≤ p.top * 4 + 4)

/-- A capability failure: the reason of R394, and whether it counts as forged. -/
abbrev CapErr := BitVec 8 × Bool

/-- The pair is valid (R389): reason 0x01, forged when the tags are in place. -/
def capNeedValid (s : State) (p : CapPair) : Option CapErr :=
  if capValid s p then none else some (1, capTagged p)

/-- An access of n bytes at a with permission i through p: validity, seal, bounds, permission, in that order (log 12). -/
def capAccess (s : State) (p : CapPair) (i : Nat) (a : W64) (n : Nat) : Option CapErr :=
  match capNeedValid s p with
  | some e => some e
  | none =>
    if p.otype != 0 then some (2, false)
    else if !capWithin p a n then some (3, false)
    else if !p.perm i then some (4, false)
    else none

/-- Raise the capability fault of a failure. -/
def needCap (e : Option CapErr) : M Unit := match e with | none => pure () | some (code, forged) => capFault code forged

end Sys2Proof.Machine
end

