-- ==== Sys2Proof/Machine/Access.lean ====
section
/-!
DEFINITION. Data-space accesses of a context: rows 5 to 10 of R132 for loads and stores, with the tags of R102 to R104 and
the storage errors of R314, R322 and R487.
-/

namespace Sys2Proof.Machine

/-- Row 6 of R132: n is 1, 2, 4, 8 or a power of two. -/
def needAligned (va : W64) (n : Nat) : M Unit := if va.toNat % n = 0 then pure () else misaligned

/-- The stack limits of R112 for n bytes at a. -/
def stackOk (b : StackBank) (a : W64) (n : Nat) : Bool :=
  decide (b.lo.toNat ≤ a.toNat) && decide (a.toNat + n ≤ b.hi.toNat)

/-- Row 7 of R132, for addresses formed from SP. -/
def needStack (c : CtxId) (a : W64) (n : Nat) : M Unit := do
  if stackOk (← getC c).stk a n then pure () else raise 5

/-- Row 8 of R132 for data: DDC, in the capability configuration (R390). `give`: a CAPH or CAPL word is stored. -/
def needDdc (c : CtxId) (k : AccKind) (a : W64) (n : Nat) (give : Bool := false) : M Unit := do
  let s ← get
  if capsConf s then
    let p := (s.getCtx c).ddc
    needCap (capAccess s p (if k == .write then 1 else 0) a n)
    if give && !p.perm 4 then capFault 4 false

/-- Rows 5 to 8 of R132 for an access of n bytes, naturally aligned. -/
def needRows (c : CtxId) (k : AccKind) (a : W64) (n : Nat) (sp give : Bool) : M Unit := do
  needCanonical c a k
  needAligned a n
  if sp then needStack c a n
  needDdc c k a n give

/-- Loads through a DDC without TAKE drop authority (R390). -/
def takeTag (s : State) (c : CtxId) (w : TWord) : TWord :=
  if capsConf s && !(s.getCtx c).ddc.perm 3 && (w.tag == Tag.caph || w.tag == Tag.capl || w.tag == Tag.sealed) then
    ⟨w.val, Tag.raw⟩
  else w

/-- log2 of an access size. -/
def log2Size (n : Nat) : BitVec 4 := match n with | 1 => 0 | 2 => 1 | 4 => 2 | _ => 3

/-- An access to line n will take it back from an eviction buffer (R318). -/
def recallDue (s : State) (n : Nat) : Bool := s.caches.ebuf.any fun e => e.line == n && !e.started

/-- Read the word that holds a translated address, for an access of n bytes by context c. An error delivers 0 tagged
POISON (R314, R503). -/
def readPhys (c : CtxId) (p : Phys) (n : Nat) : M TWord := do
  if tileOn (← get) c (lineNo p.pa) then wait
  if inSpad p.pa then
    modify (countCtx 1 10 1 c (some p.va))
    return deliver (← spadRead false (spadIndex p.pa))
  else if p.dev then
    match ← readDevice (.ctx c) p.pa (log2Size n) with
    | some w => return deliver w
    | none => return TWord.poison
  else
    let back := recallDue (← get) (lineNo p.pa)
    match ← readLine (.ctx c) .scalar p.str p.va (lineNo p.pa) with
    | some d =>
      if back then modify (countCtx 2 2 1 c (some p.va))
      return deliver (vget d (fldN p.pa 3 3) TWord.poison)
    | none => return TWord.poison

/-- Rows 9 and 10 of a load of n bytes at a: the whole word around it, with its tag. -/
def loadAt (c : CtxId) (a : W64) (n : Nat) : M TWord := do
  let p ← translateCtx c ⟨a, .read, none, none, false⟩
  let w ← readPhys c p n
  return takeTag (← get) c w

/-- A load of the word at a, all rows (R132, R133). -/
def loadWord (c : CtxId) (a : W64) (sp : Bool) : M TWord := do
  needRows c .read a 8 sp false
  loadAt c a 8

/-- Prepare a store of n bytes to a translated address: where it goes, once nothing can stop it. -/
def prepPhys (c : CtxId) (p : Phys) (n : Nat) : M WPath := do
  if tileOn (← get) c (lineNo p.pa) then wait
  if inSpad p.pa then return .spad
  else if p.dev then
    let s ← get
    if laneFull s 2 || s.mesh.reqs.any fun r => r.who == .ctx c then wait else return .dev (log2Size n)
  else
    let back := recallDue (← get) (lineNo p.pa)
    let path ← prepScalarLine (.ctx c) p.str p.va (lineNo p.pa)
    if back then modify (countCtx 2 2 1 c (some p.va))
    return path

/-- Bytes b to b + n - 1 of a line, as a byte mask. -/
def byteMask (b n : Nat) : W64 := BitVec.ofNat 64 ((2 ^ n - 1) * 2 ^ b)

/-- A line whose word at the place of an address is w. -/
def wordLine (pa : PAddr) (w : TWord) : Line := vset (Vector.replicate 8 TWord.zero) (fldN pa 3 3) w

/-- From `s` to `t` a store of context c at `va` was made. It is performed, and counted (R457, R458), at once, or once the request is
acknowledged that carries it; a store that was discarded is not. -/
def countStore (path : WPath) (c : CtxId) (va : W64) (s t : State) : State :=
  match path with
  | .drop => t
  | .poke | .dev _ =>
    let note : StoreNote := ⟨c, va, (s.getCtx c).sup, (s.getCtx c).world⟩
    { t with mesh := { t.mesh with
      reqs := t.mesh.reqs.map fun r => if s.mesh.reqs.contains r then r else { r with store := some note } } }
  | _ => countCtx 2 0 1 c (some va) t

/-- Store n bytes of w at a translated address where a path was prepared: `own` names the context whose own watch does not see
the store (R409). -/
def commitAs (own : Option CtxId) (c : CtxId) (path : WPath) (p : Phys) (n : Nat) (w : TWord) : M Unit :=
  modify fun s => countStore path c p.va s
    (commitLine (.ctx c) own path p.pa (byteMask (fldN p.pa 0 6) n) (wordLine p.pa w) s)

/-- A store or frame spill of context c. -/
def commitPhys (c : CtxId) (path : WPath) (p : Phys) (n : Nat) (w : TWord) : M Unit := commitAs (some c) c path p n w

/-- A store of the word w at a, all rows (R132, R133). -/
def storeWord (c : CtxId) (a : W64) (sp : Bool) (w : TWord) : M Unit := do
  needRows c .write a 8 sp (w.tag == Tag.caph || w.tag == Tag.capl)
  let p ← translateCtx c ⟨a, .write, none, none, false⟩
  let path ← prepPhys c p 8
  commitPhys c path p 8 w

/-- Bits [8 n - 1 : 0] of a value placed in the bytes of a word that an address selects. -/
def placeBytes (a : Nat) (v : W64) : W64 := v <<< (8 * (a % 8))

/-- The n bytes of a word that an address selects, extended. -/
def pickBytes (a n : Nat) (signed : Bool) (w : W64) : W64 :=
  let v := w >>> (8 * (a % 8))
  if signed then (v <<< (64 - 8 * n)).sshiftRight (64 - 8 * n) else (v <<< (64 - 8 * n)) >>> (64 - 8 * n)

/-! ## Storage errors that strike -/

/-- Which cache a structure is. -/
def cacheOf (str : BitVec 3) : CacheId := if str == 0 then .l1i else if str == 1 then .l1d else .l2

/-- The structure holds the place of an error (R482): 256 register rows of nine units and two latch banks of 32 such rows, 16,384
pairs of Fold elements, seven windows and the reserved one with the slots and A, X and Y of the escalation and fast banks, the translation
entries. -/
def eccPlace (s : State) (e : EccEvent) : Bool :=
  let row := decide (e.loc % 16 < if e.loc < 4096 then 9 else 13)
  match e.str.toNat with
  | 0 | 1 | 2 =>
    match (if cacheUninit s (cacheOf e.str) then none else cacheFind s (cacheOf e.str) (e.loc / 8)) with
    | some (k, _) => k % (cacheOf e.str).ways == e.way.toNat
    | none => false
  | 3 => decide (e.loc < spadSize / 8)
  | 4 => row && decide (e.loc < 4096 + 1024)
  | 5 => decide (e.loc < 16384)
  | 6 => decide (e.loc < 302)
  | _ => decide (e.loc < s.tlbs.leaves.length + s.tlbs.walks.length)

/-- A translation entry with a parity error is discarded, and counts as corrected (R482, R487). -/
def dropXlate (i : Nat) (s : State) : State :=
  let n := s.tlbs.leaves.length
  countError 7 0 false { s with tlbs := if i < n then { s.tlbs with leaves := s.tlbs.leaves.eraseIdx i }
    else { s.tlbs with walks := s.tlbs.walks.eraseIdx (i - n) } }

/-- An error strikes (log 49): the next read of its place finds it. Every access looks up the translation entries, so an error of
one is found at once. `c` is the context whose frame slots structure 6 means. -/
def strike (c : CtxId) (ecc : Option EccEvent) (s : State) : State :=
  match ecc with
  | none => s
  | some e =>
    if !eccPlace s e then s
    else if e.str == 7 then dropXlate e.loc s
    else if e.str == 4 || e.str == 5 then { s with tile := { s.tile with errs := s.tile.errs ++ [{ e with addrTag := false }] } }
    else if e.str == 6 then s.modCtx c fun k => { k with slotErrs := k.slotErrs ++ [(e.loc, e.uncorrectable)] }
    else
      let e' := if e.str.toNat < 3 then e else { e with addrTag := false }
      { s with rel := { s.rel with latent := s.rel.latent ++ [e'] } }

/-! ## Frame slots -/

/-- The place of frame slot i among structure 6. -/
def Ctx.slotPlace (k : Ctx) (i : Nat) : Nat := if k.inEsc then 256 + i else if k.fib then 288 + i else 32 * k.window + i

/-- A read of place i of structure 6 finds its error (R487). -/
def meetSlot (c : CtxId) (i : Nat) (s : State) : State :=
  let es := (s.getCtx c).slotErrs.filter fun e => e.1 == i
  if es.isEmpty then s
  else
    let unc := es.any (·.2)
    countError 6 0 unc (s.modCtx c fun k => (if unc then k.loseSlot i else k).clearSlotErrs (· == i))

/-- The A, X and Y of the bank in force are read: their errors are found (R487). -/
def meetBank (c : CtxId) (s : State) : State :=
  let k := s.getCtx c
  (if k.inEsc then [296, 297, 298] else if k.fib then [299, 300, 301] else []).foldl (fun t i => meetSlot c i t) s

/-- Read frame slot F(i) in force. -/
def readSlot (c : CtxId) (i : BitVec 5) : M TWord := do
  modify fun s => meetSlot c ((s.getCtx c).slotPlace i.toNat) s
  return (← getC c).slot i

/-! ## Sub-word stores -/

/-- The tag that a sub-word store leaves (R104, cases 3 to 5). -/
def subTag (old reg : Tag) : Tag :=
  if reg == Tag.poison then Tag.poison else if isPlain old then old else Tag.raw

/-- A word of a dirty line in this cache has lost its bits, and no read has found it. -/
def lostIn (s : State) (c : CacheId) (pa : PAddr) : Bool :=
  latentAt s c.str (pa.toNat / 8) == some true && (cacheFind s c (lineNo pa)).any fun e => e.2.st == .modified

/-- A store to this word of normal memory will find that its old tag is unknown (R104 case 2, R322). -/
def cacheLost (s : State) (pa : PAddr) : Bool :=
  if cacheOn s .l1d && (cacheFind s .l1d (lineNo pa)).isSome then lostIn s .l1d pa
  else cacheOn s .l2 && (lostIn s .l2 pa || lostIn s .l1d pa)

/-- The old word of a sub-word store, from where the write path says it lies, and whether its tag is lost; none when the read ended
with the error (R503). -/
def oldWord (c : CtxId) (path : WPath) (p : Phys) : M (Option (TWord × Bool)) := do
  let n := lineNo p.pa
  let i := fldN p.pa 3 3
  match path with
  | .spad =>
    let j := spadIndex p.pa
    match spadLook (← get) j with
    | .uncorrectable =>
      modify fun s => spadPut (countError 3 0 true s) j TWord.poison
      return some (TWord.poison, true)
    | .corrected w =>
      modify fun s => spadPut (countError 3 0 false s) j w
      return some (w, false)
    | .clean w => return some (w, false)
  | .l1d | .l2 =>
    let id : CacheId := if path == .l1d then .l1d else .l2
    modify fun s => meetLine id n (meetLine .l1d n s)
    let s ← get
    match cacheFind s id n with
    | some (_, l) => return some (deliver (vget (if path == .l1d then l.data else newest s l) i TWord.poison), false)
    | none => wait
  | .poke =>
    match ← readLine (.ctx c) .scalar p.str p.va n with
    | some d => return some (deliver (vget d i TWord.poison), false)
    | none => return none
  | _ => return some (TWord.zero, false)

/-- A store of the low n bytes of w at a, all rows (R104, R132, R133). When the read of the old word ends with the error, the store
is discarded (R503). -/
def storeSub (c : CtxId) (a : W64) (n : Nat) (sp : Bool) (w : TWord) : M Unit := do
  needRows c .write a n sp false
  let p ← translateCtx c ⟨a, .write, none, none, false⟩
  let gone := cacheLost (← get) p.pa
  let path ← prepPhys c p n
  let v := placeBytes (fldN a 0 3) w.val
  if p.dev then commitPhys c path p n ⟨v, if w.tag == Tag.poison then Tag.poison else Tag.raw⟩
  else
    match ← oldWord c path p with
    | none => commitPhys c .drop p n w
    | some (old, lost) =>
      let lost := lost || (gone && (path == .l1d || path == .l2))
      if p.ts && !lost && !isPlain old.tag then raise 3 (old.tag.setWidth 8 ||| 0x10)
      commitPhys c path p n ⟨v, if lost then Tag.poison else subTag old.tag w.tag⟩

end Sys2Proof.Machine
end

