-- ==== Sys2Proof/Machine/Observe.lean ====
section
/-!
DEFINITION. What the observation plane does by itself: freeze triggers, dumps, trace writes, the Crossroads snapshot
(15 R462 to R481).
-/

namespace Sys2Proof.Machine

/-- A freeze trigger fires (R463): bit b of FRZCFG enables bit b of FRZSTAT. -/
def freezeTrigger (b : Nat) (s : State) : State :=
  if bit s.perf.frzcfg b then { s with perf := { s.perf with frzstat := setBit s.perf.frzstat b true } } else s

/-- The FRZ_REQ pin (R463). -/
def frzReq (s : State) : Bool := s.perf.frzstat != 0 && bit s.chain.bcfg 16

/-! ## Register views shared with the chain -/

/-- LAMESTAT (R381). -/
def lameStat (s : State) : W32 := bAt 0 s.boot.lame ||| at' 1 s.boot.lameCause ||| at' 4 s.boot.lameCtx

/-- BSTAT (R63). -/
def bstat (s : State) : W32 :=
  bAt 0 s.pins.hfence ||| bAt 1 s.pins.frz ||| bAt 2 s.chain.refloss ||| bAt 3 s.chain.stall ||| at' 4 s.chain.stallSrc |||
    at' 8 s.chain.mrxBad ||| at' 16 s.chain.mcCrcerr ||| at' 24 s.chain.wsDrop

/-- The code of a context's state (R400). -/
def RunState.code (r : RunState) : BitVec 2 :=
  match r with | .stopped => 0 | .ready => 1 | .running => 2 | .waiting => 3

/-- CTXS (R402). -/
def ctxsWord (s : State) : W64 :=
  at' 0 s.ctx.q0.run.code ||| at' 2 s.ctx.q1.run.code ||| at' 4 s.ctx.q2.run.code ||| at' 6 s.ctx.q3.run.code

/-- TOWN (R402). -/
def townWord (s : State) : W64 := at' 0 s.drover.owner ||| at' 2 s.drover.prev ||| bAt 4 s.drover.xfer

/-- MSTAT (R330). -/
def mstatWord (m : MoverCh) : W64 := at' 0 m.state ||| at' 4 m.cause ||| bAt 8 m.rej ||| at' 9 m.ctx

/-- MPROG (R330). -/
def mprogWord (m : MoverCh) : W64 := at' 0 m.rows ||| at' 16 m.blk

/-! ## The snapshot (R479 to R481) -/

/-- A count of ticks as 32 bits that saturate. -/
def sat32 (n : Nat) : W64 := BitVec.ofNat 64 (min n (2 ^ 32 - 1))

/-- Entries 8 to 11 of the snapshot: the wait of a context. -/
def snapWait (s : State) (k : Ctx) : W64 :=
  let w := k.run == .waiting
  (if w then at' 0 k.ev.waitMask else 0) ||| at' 8 k.ev.evpend ||| bAt 16 w ||| bAt 17 k.inEsc ||| bAt 18 k.fib |||
    (if w then sat32 (s.time.tick - k.ev.waitSince.getD s.time.tick).toNat <<< 32 else 0)

/-- Entries 12 to 15: the watches of a context. -/
def snapWatch (k : Ctx) : W64 :=
  at' 0 (fld k.ev.wland 0 4) ||| bAt 4 (bit k.ev.wland 4) ||| bAt 5 (bit k.ev.waddr 0) ||| at' 6 (fld k.ev.wmov 0 8) |||
    at' 32 (fld k.ev.wland 32 32)

/-- The code of an I/O operation (R423). -/
def IoOpc.code (o : IoOpc) : BitVec 3 := match o with | .read => 0 | .write => 1 | .claim => 2 | .complete => 3 | .notice => 4

/-- Entries 16 to 19: the I/O or ORD = 1 coprocessor access that a context waits for. -/
def snapIo (s : State) (c : CtxId) (k : Ctx) : W64 :=
  let age := fun (t : W64) => BitVec.ofNat 64 (min (s.time.tick - t).toNat (2 ^ 28 - 1)) <<< 36
  match k.io with
  | some w => at' 0 w.addr ||| at' 32 w.opc.code ||| bAt 35 true ||| age w.since
  | none =>
    match s.cp.out.find? fun o => o.ctx == c && o.ord with
    | some o => bAt 35 true ||| age o.since
    | none => 0

/-- The address in word 0 of a header flit: an I/O address, a post's target, or a memory address (R325, R423, R438). -/
def headerAddr (cls : BitVec 4) (w0 : W64) : W64 :=
  if cls == 2 || cls == 6 then at' 0 (fld w0 0 32) else if cls == 7 then at' 0 (fld w0 20 12) else at' 0 (fld w0 0 52)

/-- Entries 38 to 41: the head of an egress lane, with the address of the packet that it belongs to. -/
def snapLane (s : State) (l : BitVec 2) : W64 :=
  let q := s.mesh.egress.get l
  match q with
  | [] => 0
  | f :: _ =>
    headerAddr f.cls (if s.mesh.mid.get l then s.mesh.head.get l else (vget f.words 0 TWord.zero).val) ||| at' 52 f.cls |||
      BitVec.ofNat 64 (min q.length 31) <<< 56 ||| bAt 61 true ||| bAt 62 (s.mesh.offered == some l) |||
      bAt 63 (s.pins.hfence && 2 ≤ l.toNat && !s.mesh.mid.get l && s.mesh.offered != some l)

/-- MRX_READY (R17, R24, R56): in reset only lanes 0 and 1 are taken; else every lane, since each packet is handled in its step. -/
def mrxReady (s : State) : BitVec 4 :=
  match s.boot.phase with | .coldReset | .heldByWrst | .drain _ | .afterDrain _ => 3 | _ => 15

/-- Entry 43: the head of the Causeway egress; while its FIFO is empty, a channel whose beat waits for credit. -/
def snapCw (s : State) : W64 :=
  match s.cw.fifo with
  | b :: _ =>
    at' 0 b.ch ||| at' 4 b.rid ||| BitVec.ofNat 64 s.cw.fifo.length <<< 20 ||| bAt 28 true ||| bAt 29 s.cw.offered |||
      bAt 30 (s.pins.hfence && !s.cw.offered)
  | [] =>
    match ((List.range 16).map fun i => s.cw.last + 1 + BitVec.ofNat 4 i).find? fun c =>
        let k := vget s.cw.ch c.toNat CwCh.reset
        k.state == 1 && k.checked && k.credit == 0 with
    | none => 0
    | some c => at' 0 c ||| at' 4 (vget s.cw.ch c.toNat CwCh.reset).rid ||| bAt 28 true

/-- The 64 entries of the snapshot (R481). -/
def snapshotWords (s : State) (cause : BitVec 4) : List W64 :=
  let ctxs := [s.ctx.q0, s.ctx.q1, s.ctx.q2, s.ctx.q3]
  let land := fun i => (vget s.coop.land i 0).setWidth 64
  let cwByte := fun (i : Nat) =>
    let k := vget s.cw.ch i CwCh.reset
    (at' 0 k.credit ||| at' 6 k.state : BitVec 8)
  let cw8 := fun (b : Nat) => (List.range 8).foldl (fun (a : W64) i => a ||| at' (8 * i) (cwByte (b + i))) 0
  let mov := (List.range 8).map fun i =>
    let m := vget s.mover i MoverCh.reset
    mprogWord m ||| at' 32 (fld (mstatWord m) 0 16)
  let cpMask := s.cp.out.foldl (fun (a : BitVec 8) o => setBit a o.tag.toNat true) 0
  let cp := match s.cp.out with
    | [] => at' 0 cpMask
    | o :: _ => at' 0 cpMask ||| at' 8 o.tag ||| sat32 (s.time.tick - o.since).toNat <<< 32
  let tile := match s.tile.tileq with
    | [] => 0
    | j :: _ => at' 0 j.op.word ||| bAt 32 true ||| at' 33 j.op.stream
  let misc : W64 := BitVec.ofNat 64 ((s.caches.ebuf.filter fun e => !e.fromL2).length % 16) |||
    BitVec.ofNat 64 ((s.caches.ebuf.filter fun e => e.fromL2).length % 32) <<< 4 |||
    BitVec.ofNat 64 (min (s.mesh.reqs.filter fun r => r.op.isRead).length 127) <<< 9 |||
    BitVec.ofNat 64 (min s.mesh.snoops.length 255) <<< 16
  [0x81 ||| at' 8 cause ||| at' 16 s.chain.caddr, s.time.tick, (lameStat s).setWidth 64 ||| at' 32 (bstat s),
    ctxsWord s ||| at' 8 (fld (townWord s) 0 5) ||| bAt 13 s.tile.tpPowered ||| bAt 14 s.tile.tpDrain]
  ++ ctxs.map (fun k => k.pc) ++ ctxs.map (snapWait s) ++ ctxs.map snapWatch
  ++ [snapIo s 0 s.ctx.q0, snapIo s 1 s.ctx.q1, snapIo s 2 s.ctx.q2, snapIo s 3 s.ctx.q3]
  ++ (List.range 8).map (fun i => land (2 * i) ||| land (2 * i + 1) <<< 32)
  ++ [cw8 0, cw8 8] ++ mov
  ++ [snapLane s 0, snapLane s 1, snapLane s 2, snapLane s 3, (mrxReady s).setWidth 64 <<< 32, snapCw s, cp, tile]
  ++ [s.tile.prog.q0, s.tile.prog.q1, s.tile.prog.q2, s.tile.prog.q3].map (fun p => (fld p 0 32).setWidth 64)
  ++ [misc] ++ List.replicate 13 0

/-- A snapshot trigger (R480): captured while FULL is 0, else counted as missed. -/
def snapTrigger (cause : BitVec 4) (s : State) : State :=
  let t := s.trace
  if s.boot.phase = .coldReset ∨ s.boot.phase = .heldByWrst then s
  else if t.xrFull then { s with trace := { t with xrMissed := satInc t.xrMissed } }
  else { s with trace := { t with
    xrFull := true, xrCause := cause, xrData := snapshotWords s cause
    copyQ := if bit t.xrcfg 4 then t.copyQ ++ [snapshotWords s cause] else t.copyQ } }

/-! ## Writes to the regions (R466, R467) -/

/-- Lines of eight words tagged RAW. -/
def rawLines (ws : List W64) (n : Nat) : List Line :=
  (List.range n).map fun i => lineOf ((List.range 8).map fun j => ⟨ws.getD (8 * i + j) 0, Tag.raw⟩)

/-- Send whole lines from a physical address on, never refused (R499); the watches of the lines see them (R409). -/
def sendLines (who : Requester) (addr : Nat) (ls : List Line) (s : State) : State :=
  (ls.zipIdx).foldl (fun t e =>
    let pa : PAddr := BitVec.ofNat 52 (addr + 64 * e.2)
    hitWatch none (lineNo pa) (sendWrite .poke pa who 0 (BitVec.allOnes 64) e.1 true t)) s

/-- The slots or records of a region, in units of `unit` bytes. -/
def regionUnits (size : BitVec 17) (unit : Nat) : Nat := fldN size 0 16 * (2 ^ 20 / unit)

/-- NEXT as it is used: at or beyond the end it is 0 (R466). -/
def headOf (head : W32) (units : Nat) : Nat := if head.toNat < units then head.toNat else 0

/-- The head after n more units, and whether the region filled (R470, R474). -/
def nextHead (head : Nat) (n : Nat) (units : Nat) (wrap : Bool) : W32 × Bool :=
  if head + n < units then (BitVec.ofNat 32 (head + n), false)
  else if wrap then (BitVec.ofNat 32 (head + n - units), false) else (BitVec.ofNat 32 (head + n), true)

/-- The 32 words of a dump (R470). -/
def dumpWords (s : State) (reason : BitVec 4) : List W64 :=
  let marks := fun (a b : Ctx) => a.sys.markr.setWidth 64 ||| at' 32 b.sys.markr
  [1 ||| at' 8 reason ||| bAt 12 s.pins.frz ||| at' 16 s.chain.caddr ||| at' 32 s.trace.dmSeq, tstamp s,
    marks s.ctx.q0 s.ctx.q1, marks s.ctx.q2 s.ctx.q3]
  ++ s.perf.fc.toList ++ s.perf.pmc.toList.map (fun v => v.setWidth 64)
  ++ [s.perf.frztick, s.perf.pmovf.setWidth 64, s.perf.frzstat.setWidth 64] ++ List.replicate 5 0

/-- The slot of the next dump: behind a snapshot copy that is on its way, and the dumps that are complete behind it (R470, R480). -/
def dumpSlot (t : Trace) : Nat :=
  let units := regionUnits t.dmsize 256
  match t.copyOut with
  | none => headOf t.dmhead units
  | some a => (nextHead a.toNat (2 + t.behind) units (bit t.dmsize 16)).1.toNat

/-- A write to a region by `who` waits for its acknowledgement. -/
def regionBusy (s : State) (who : Requester) : Bool := s.mesh.reqs.any fun r => r.who == who

/-- A dump whose lines are all acknowledged is complete (R470, R473): SEQ rises, and DMHEAD advances, or will with the copy before it. -/
def dumpDone (s : State) : State :=
  match s.trace.dumpOut with
  | none => s
  | some d =>
    if regionBusy s .dump then s
    else
      let t := s.trace
      let (h, full) := nextHead d.head.toNat 1 (regionUnits t.dmsize 256) (bit t.dmsize 16)
      let u := { s with trace := { t with
        dumpOut := none, dmSeq := t.dmSeq + 1, dmFull := t.dmFull || full
        dmhead := if t.copyOut.isSome then t.dmhead else h
        behind := if t.copyOut.isSome then t.behind + 1 else t.behind } }
      traceRec 10 none (t.dmSeq.setWidth 64) (d.head.setWidth 64) u

/-- A dump falls due (R469): written, or counted as skipped. The one before it is complete when its lines are acknowledged. -/
def dumpDue (reason : BitVec 4) (s : State) : State :=
  let s := dumpDone s
  let t := s.trace
  if fld t.dmsize 0 16 == 0 || t.dmFull || t.dumpOut.isSome then { s with trace := { t with dmSkip := satInc t.dmSkip } }
  else
    let h := dumpSlot t
    sendLines .dump (t.dmbase.toNat * 2 ^ 20 + 256 * h) (rawLines (dumpWords s reason) 4)
      { s with trace := { t with dumpOut := some ⟨BitVec.ofNat 32 h⟩ } }

/-- A trace record reaches its region (R474). -/
def traceFull (s : State) : State :=
  freezeTrigger 17 (if bit s.trace.trctl 16 then setPend 36 s else s)

/-! ## The stop instant -/

/-- FRZ stops the counters (R464): FRZTICK, the dump and the snapshot that are configured, and the FREEZE record. -/
def stopCounters (s : State) : State :=
  let t := { s with pins := { s.pins with frz := true }, perf := { s.perf with frztick := s.time.tick } }
  let u := if bit t.perf.frzcfg 20 then dumpDue 1 t else t
  let v := if bit u.trace.xrcfg 3 then snapTrigger 5 u else u
  traceRec 8 none 1 s.time.tick v

/-! ## Fences (R154, R448) -/

/-- The accesses of context c in the classes S have been performed (R448): [0] data, [1] I/O, [2] posts, [3] Causeway. -/
def fenceDone (s : State) (c : CtxId) (set : BitVec 4) : Bool :=
  let movers := (List.range 8).any fun i =>
    let m := vget s.mover i MoverCh.reset
    m.state == 1 && m.ctx == c
  let chans := (List.range 16).any fun i =>
    let k := vget s.cw.ch i CwCh.reset
    k.state == 1 && k.ctx == c
  (!bit set 0 || (ctxPerformed s c && !movers)) &&
    (!bit set 1 || !s.cp.out.any fun o => o.ctx == c && o.ord) &&
    (!bit set 2 || !s.mesh.posts.any fun p => p.ctx == c) &&
    (!bit set 3 || !chans)

/-- The tick at which the classes of a waiting FENCE have been performed is noted (R475). -/
def noteFence (c : CtxId) (s : State) : State :=
  match (s.getCtx c).ev.fence with
  | some f =>
    if f.done.isNone && fenceDone s c f.set then
      s.modCtx c fun k => { k with ev := { k.ev with fence := some { f with done := some s.time.tick } } }
    else s
  | none => s

/-- Every waiting FENCE is looked at after something it may wait for has ended. -/
def noteFences (s : State) : State := ([0, 1, 2, 3] : List CtxId).foldl (fun t c => noteFence c t) s

/-! ## Level events (R407) and the end of a Mover channel (R337) -/

/-- The condition of a level kind holds for context c (R407). -/
def levelHolds (s : State) (c : CtxId) (kind : Nat) : Bool :=
  let e := (s.getCtx c).ev
  match kind with
  | 1 => bit e.wland 4 && !bit (vget s.coop.land (fldN e.wland 0 4) 0 - fld e.wland 32 32) 31
  | 2 => (List.range 8).any fun n => bit e.wmov n && (vget s.mover n MoverCh.reset).state != 1
  | 3 => decide (e.wdl ≤ s.time.tick)
  | 6 => s.tile.tileq.isEmpty && (s.tile.tpPowered || !s.tile.tpOn)
  | _ => false

/-- Every level kind whose condition holds is set (R407). -/
def settle (s : State) : State :=
  [1, 2, 3, 6].foldl (fun t k => setEvents k (fun c => levelHolds s c k) t) s

/-- Channel ch leaves STATE 1 with the registers m (R337): its record, its interrupt, its event. -/
def moverLeave (ch : BitVec 3) (m : MoverCh) (s : State) : State :=
  let t := traceRec 6 (some (m.ctx, m.mark)) (mstatWord m) (mprogWord m)
    { s with mover := vset s.mover ch.toNat m }
  let cause := m.cap.map fun g => (g.sup, g.sealed)
  let u := if m.state == 3 then countEvent 6 7 1 cause (.mover ch) none t else t
  let v := if m.state == 3 || bit m.ctl 6 then
      setPend 35 { u with intr := { u.intr with moverVec := ch } } else u
  noteFences (settle (accountChange s v))

/-- A busy channel with a tile endpoint stops (R336). -/
def stopTileChannels (s : State) : State :=
  (List.range 8).foldl (fun t i =>
    let m := vget t.mover i MoverCh.reset
    if m.state == 1 && (fld m.ctl 0 2 == 2 || fld m.ctl 2 2 == 2) then
      moverLeave (BitVec.ofNat 3 i) { m with state := 3, cause := 7 } t
    else t) s

/-- Channel c of the Causeway leaves STATE 1 with the registers k (R447, R473). -/
def cwLeave (c : BitVec 4) (k : CwCh) (s : State) : State :=
  noteFences (traceRec 7 (some (k.ctx, k.mark)) (at' 0 c ||| at' 4 k.rid ||| at' 20 k.state ||| at' 22 k.cause) k.hdr
    (accountChange s { s with cw := { s.cw with ch := vset s.cw.ch c.toNat k } }))

/-! ## Milestones (R475) -/

/-- A wait of context c ended and its instruction retires: a record if it lasted at least MSMIN ticks. -/
def milestone (c : CtxId) (kind idx : BitVec 4) (peer : Option CoreId) (pctx : CtxId) (dur detail : W64) (s : State) : State :=
  if dur.toNat < fldN s.trace.trctl 32 32 then s
  else
    let p0 : W64 := at' 0 kind ||| at' 4 idx ||| at' 8 (peer.getD 0) ||| at' 20 pctx ||| bAt 22 peer.isSome |||
      sat32 dur.toNat <<< 32
    let t := traceCtx 2 c p0 detail s
    if traceOn s 2 then countCtx 6 9 1 c none t else t

/-! ## The pace governor (R502) -/

/-- The applied level that the governor demands (R50, R502). -/
def paceDemand (s : State) : BitVec 4 := if s.pins.curHi then 15 else if s.pace.cap < s.pins.paceHw then s.pins.paceHw else s.pace.cap

/-- Apply the demanded level: the accounting step that follows sets LIM when it exceeds FLOOR (R502). -/
def paceApply (s : State) : State :=
  let a := paceDemand s
  { s with pace := { s.pace with act := a, lim := s.pace.lim || decide (s.pace.floor < a) } }

/-- PACE (R501). -/
def paceWord (s : State) : W64 :=
  at' 0 s.pace.cap ||| at' 4 s.pace.floor ||| at' 8 s.pace.act ||| at' 12 s.pins.paceHw ||| bAt 16 s.pace.lim |||
    bAt 17 s.pins.curHi

end Sys2Proof.Machine
end

