-- ==== Sys2Proof/Machine/Entry.lean ====
section
/-!
DEFINITION. Taking an exception (12 R376 to R381): the frame, the handler's state, escalation, the lame state; and the
form of every instruction's meaning, `runInstr`.
-/

namespace Sys2Proof.Machine

/-- ECAUSE (R374). -/
def ecauseWord (code : BitVec 8) (vec : BitVec 6) (stl : Bool) (esr : BitVec 4) (svec : BitVec 6) : W64 :=
  at' 0 code ||| at' 8 vec ||| bAt 14 stl ||| at' 16 esr ||| at' 20 svec

/-- The origin bits of an ST image (R377). -/
def stImage (k : Ctx) (ofib : Bool) : W64 :=
  k.st.setWidth 64 ||| at' 32 k.mask ||| bAt 35 k.sup ||| bAt 36 k.world ||| bAt 37 (ofib && k.fib)

/-- What is entered: by a fault, an interrupt or STILE. -/
structure EntryReq where
  vec : BitVec 6
  code : BitVec 8
  stl : Bool
  /-- the world of the handler -/
  world : Bool
  /-- the mask of the handler, none to leave it -/
  level : Option (BitVec 3)
  /-- the PC to return to -/
  retPc : W64
  /-- the PC of the handler -/
  pc : W64
  /-- the IPEND bit that the entry clears -/
  irq : Bool
  /-- FAR of the original fault, for frame word 0x38 (R377, R378) -/
  far : TWord
  deriving DecidableEq, Repr

/-- The eight words of a frame (R377). -/
def frameWords (s : State) (k : Ctx) (r : EntryReq) (ecause : W64) (ofib : Bool) : List TWord :=
  [⟨r.retPc, Tag.cptr⟩, ⟨stImage k ofib, Tag.raw⟩, ⟨k.stk.sp, Tag.dptr⟩] ++
    (if capsConf s then [⟨ecause, Tag.int⟩, k.pcc.hi, k.pcc.lo, k.ddc.hi, k.ddc.lo]
     else [k.getA, k.getX, k.getY, ⟨ecause, Tag.int⟩, r.far])

/-! ## The lame state -/

/-- The core goes lame by context c (R380, R381): the contexts stop, and then the rest follows. -/
def goLame (cause : BitVec 3) (c : CtxId) (s : State) : State :=
  let r := { s with
    ctx := s.ctx.map fun k => { k with run := RunState.stopped }
    boot := { s.boot with lame := true, lameCause := cause, lameCtx := c, lameWb := true } }
  let u := freezeTrigger 19 (wayside 1 (some c) (fld (lameStat r) 0 6 |>.setWidth 32) (accountChange s r))
  if bit u.trace.xrcfg 1 then snapTrigger 3 u else u

/-! ## Writing a frame -/

/-- Prepare eight words at translated addresses. -/
def prepWords (c : CtxId) : List Phys → M (List (Phys × WPath))
  | [] => return []
  | p :: ps => do
    let w ← prepPhys c p 8
    return (p, w) :: (← prepWords c ps)

/-- A prepared path still leads to its line: no later one has taken its place. -/
def pathOk (s : State) (e : Phys × WPath) : Bool :=
  match e.2 with
  | .l1d => (cacheFind s .l1d (lineNo e.1.pa)).isSome
  | .l2 => (cacheFind s .l2 (lineNo e.1.pa)).isSome
  | _ => true

/-- Every prepared path still holds; else the access waits and is tried again. -/
def needPaths (ps : List (Phys × WPath)) : M Unit := do
  let s ← get
  if ps.all (pathOk s) then pure () else wait

/-- Write words where paths were prepared; `own` names the context whose own watch does not see them (R409). -/
def commitWords (own : Option CtxId) (c : CtxId) : List (Phys × WPath) → List TWord → M Unit
  | (p, path) :: ps, w :: ws => do
    commitAs own c path p 8 w
    commitWords own c ps ws
  | _, _ => return ()

/-- Translate n words from an address on, under a regime; the first failure with its address. -/
def translateWords (who : Requester) (g : Regime) (k : AccKind) (a : W64) :
    (n : Nat) → M (Except (XFault × W64) (List Phys))
  | 0 => return .ok []
  | n + 1 => do
    match ← translate who g ⟨a, k, none, none, false⟩ with
    | .error f => return .error (f, a)
    | .ok p =>
      match ← translateWords who g k (a + 8) n with
      | .error e => return .error e
      | .ok ps => return .ok (p :: ps)

/-! ## Escalation -/

/-- The physical frame of an escalation is usable (R378): in normal memory, outside the reserved part of the window. -/
def escFrameOk (s : State) (k : Ctx) : Bool :=
  let f := k.sys.esp - 64
  decide (64 ≤ k.sys.esp.toNat) && decide (k.sys.esplo.toNat ≤ f.toNat) && k.sys.esp.toNat % 16 == 0 &&
    (List.range 8).all fun i =>
      let pa : PAddr := (f + BitVec.ofNat 64 (8 * i)).setWidth 52
      !mapDevice s pa && !inSpadHole pa

/-- ST of the escalation handler (R379): C, Z, N, V, RM and the sticky flags stay. -/
def escSt (s : State) (st : W32) : W32 :=
  (st &&& 0x03FB000F#32) ||| 0x04000F00#32 ||| (if twoWorlds s then 0x1000#32 else 0)

/-- Switch context c to the escalation bank and handler (R378 step 4, R379). -/
def enterEsc (s : State) (f ecause : W64) (k : Ctx) : Ctx :=
  { k with
    esc := { k.esc with stk := ⟨f, k.sys.esplo, k.sys.esp⟩ }
    st := escSt s k.st
    pc := at' 2 (fld s.intr.evec 2 50)
    sys := { k.sys with ecause := ecause }
    pcc := if capsConf s then rootCap s else k.pcc
    ddc := if capsConf s then rootCap s else k.ddc
    skipPair := false }

/-- The records of an entry: trace (R473) and counters (R458), under the ST that `k` had at the cause (R454). -/
def entryRecords (c : CtxId) (k : Ctx) (esc : Bool) (ecause retPc : W64) (s : State) : State :=
  let cause := some (k.sup, k.world)
  let t := countEvent 0 7 1 cause (.ctx c) none (traceCtx 3 c ecause retPc s)
  if esc then countEvent 0 8 1 cause (.ctx c) none t else t

/-- Escalate (R378): the frame at ESP, then the escalation handler; or the lame state. -/
def escalate (c : CtxId) (r : EntryReq) (esr : BitVec 4) (svec : BitVec 6) : M Unit := do
  let s ← get
  let k := s.getCtx c
  let ecause := ecauseWord r.code r.vec r.stl esr svec
  if k.inEsc then set (goLame 3 c s)
  else if !bit s.intr.evec 0 then set (goLame 1 c s)
  else if !escFrameOk s k then set (goLame 2 c s)
  else
    let f := k.sys.esp - 64
    let ps := (List.range 8).map fun i =>
      let a := f + BitVec.ofNat 64 (8 * i)
      Phys.mk a (a.setWidth 52) false false false false
    let ws ← prepWords c ps
    needPaths ws
    commitWords none c ws (frameWords s k r ecause true)
    modify fun t => entryRecords c k true ecause r.retPc (t.modCtx c (enterEsc s f ecause))

/-! ## Entry -/

/-- Why a push may not be made: the vector of the failure, its translation report, and whether it counts as forged (R394). -/
structure PushFail where
  vec : BitVec 6
  xl : Option (W64 × W64 × W64)
  forged : Bool
  deriving DecidableEq, Repr

/-- Step 4 of R376: the push may be made. -/
def pushCheck (c : CtxId) (r : EntryReq) : M (Except PushFail (List Phys)) := do
  let s ← get
  let k := s.getCtx c
  let b := k.banks.get (bankNo true r.world)
  let f := b.sp - 64
  let caps := capsConf s
  if b.sp.toNat % (if caps then 16 else 8) != 0 then return .error ⟨4, none, false⟩
  if !stackOk b f 64 then return .error ⟨5, none, false⟩
  if caps then
    match capAccess s k.hpcc 2 r.pc 4, capAccess s k.hddc 1 f 64 with
    | some e, _ => return .error ⟨11, none, e.2⟩
    | none, some e => return .error ⟨11, none, e.2⟩
    | none, none => pure ()
  let g := { ctxRegime s c with sup := true, sealed := r.world, ua := false }
  match ← translateWords (.ctx c) g .write f 8 with
  | .error (x, a) => return .error ⟨xlVector (x.fsr .write), some (x.fsr .write, a, x.fipa), false⟩
  | .ok ps => return .ok ps

/-- ST of a handler (R376 step 6). -/
def handlerSt (st : W32) (world : Bool) (level : Option (BitVec 3)) : W32 :=
  let m := match level with | some l => setFld st 8 3 l | none => st
  setBit (setBit (setBit (setBit (setBit m 11 true) 12 world) 13 false) 14 false) 15 false

/-- Steps 5 to 8 of R376 for the registers of the context. -/
def enterHandler (s : State) (r : EntryReq) (f ecause : W64) (k : Ctx) : Ctx :=
  let b := bankNo true r.world
  let k1 := { k with
    banks := k.banks.set b { k.banks.get b with sp := f }
    st := handlerSt k.st r.world r.level
    pcc := if capsConf s then k.hpcc else k.pcc
    ddc := if capsConf s then k.hddc else k.ddc
    sys := { k.sys with ecause := ecause }
    win := { k.win with rsv := true }
    pc := r.pc
    skipPair := false }
  (((k1.setA k.getA).setX k.getX).setY k.getY).allocWindow 7

/-- Enter a handler (R376): check the push, write the frame, take the reserved window; or escalate. A forged HPCC or HDDC is counted
(R394); the caller lets the alarm fire. -/
def enter (c : CtxId) (r : EntryReq) : M Unit := do
  let s ← get
  let k := s.getCtx c
  if k.win.rsv then escalate c r 3 0
  else
    match ← pushCheck c r with
    | .error e =>
      match e.xl with
      | some (fsr, far, fipa) => modC c fun k => { k with sys := { k.sys with fsr := fsr, far := far, fipa := fipa } }
      | none => pure ()
      if e.forged then modify (countViolation 0)
      escalate c r 2 e.vec
    | .ok ps =>
      let ws ← prepWords c ps
      needPaths ws
      let ecause := ecauseWord r.code r.vec r.stl 0 0
      let f := (k.banks.get (bankNo true r.world)).sp - 64
      commitWords none c ws (frameWords s k r ecause false)
      modify fun t => entryRecords c k false ecause r.retPc (t.modCtx c (enterHandler s r f ecause))
      if r.irq then modify fun t => { t with intr := { t.intr with ipend := setBit t.intr.ipend r.vec.toNat false } }

/-- The first word of the handler of a vector (R376 step 8). -/
def handlerPc (k : Ctx) (world : Bool) (v : BitVec 6) : W64 :=
  (if world then k.sys.svbar else k.sys.vbar) + BitVec.ofNat 64 (32 * v.toNat)

/-- SENTRY.ADDR as a PC (R373). -/
def sentryPc (sentry : W64) : W64 := sext (fld sentry 0 56 &&& ~~~(3 : BitVec 56)) 64

/-- A transfer of tile ownership (R419, R420): the latch banks go, and tile-endpoint channels stop. -/
def transferTile (c : CtxId) (trap : Bool) (s : State) : State :=
  stopTileChannels { s with
    drover := { s.drover with owner := c, prev := s.drover.owner, xfer := trap }
    tile := { s.tile with latch := [] } }

/-- Take a synchronous exception of context c, whose instruction has changed nothing (R371, R376). The records of one step stand in
the order of their causes (R491): the alarm that a forged capability fires comes after the lame state. -/
def takeSync (c : CtxId) (e : ExcInfo) : M Unit := do
  let before ← get
  if e.forged then modify (countViolation 0)
  match e.xl with
  | some (fsr, far, fipa) => modC c fun k => { k with sys := { k.sys with fsr := fsr, far := far, fipa := fipa } }
  | none => pure ()
  let s ← get
  let k := s.getCtx c
  let world := if e.stl then true else if e.vec == 9 then twoWorlds s else k.world
  let far : TWord :=
    match e.xl with
    | some (fsr, far, _) => ⟨far, if bit fsr 9 then Tag.cptr else Tag.dptr⟩
    | none => ⟨0, Tag.int⟩
  let r : EntryReq :=
    { vec := e.vec, code := e.code, stl := e.stl, world := world
      level := if e.stl then none else some (vecLevel s e.vec)
      retPc := k.pc + e.off
      pc := if e.stl then sentryPc s.intr.sentry else handlerPc k world e.vec
      irq := false, far := far }
  if k.inEsc then set (goLame 3 c s)
  else if !e.stl && decide (vecLevel s e.vec ≤ k.mask) then escalate c r 1 0
  else
    enter c r
    let t ← get
    if e.vec == 13 && e.code == 0 && !(t.getCtx c).inEsc && !t.boot.lame then modify (transferTile c true)
  if e.vec == 13 then modify fun t => countEvent 3 8 1 (some (k.sup, k.world)) (.ctx c) none t
  modify (fireAlarm before)

/-- An illegal return of context c (R385): counted, and escalated as the RFE or RFI itself. -/
def takeIllegal (c : CtxId) (check : BitVec 8) (forged : Bool) : M Unit := do
  let before ← get
  modify (countViolation 1)
  if forged then modify (countViolation 0)
  let s ← get
  let k := s.getCtx c
  let r : EntryReq :=
    { vec := 0, code := check, stl := false, world := k.world, level := none, retPc := k.pc, pc := 0, irq := false
      far := ⟨0, Tag.int⟩ }
  if k.inEsc then set (goLame 3 c s) else escalate c r 4 0
  modify (fireAlarm before)

/-- An instruction boundary of context c at which an interrupt or a switch may fall (R116, R159, R172, R405). -/
def atBoundary (k : Ctx) : Bool := k.io.isNone && k.rest.isNone && !k.skipPair && (match k.cp with | some w => !w.ord | none => true)

/-- What comes of a part of an instruction that stopped: it waits, or its exception is taken. An interrupt that is takeable before
it goes first (R370). The entry itself may wait for memory; then nothing has happened yet. -/
def afterStop (c : CtxId) (s t : State) (stop : Stop) : State :=
  let base := rollback s t
  let take : M Unit := match stop with
    | .wait => wait
    | .exc e => takeSync c e
    | .illegal n forged => takeIllegal c n forged
  match stop with
  | .wait => base
  | _ =>
    if atBoundary (s.getCtx c) && (bestVector s c).isSome then base
    else match take base with
    | .ok _ u => dropFills c (accountChange s u)
    | .error _ u => rollback base u

/-! ## Instructions -/

/-- The checks of a fetch at PC (R132 rows 1 and 5 to 9, R161): PCC, then translation with X. The word itself comes with
the command (log 9). The instruction reads the A, X and Y of its bank, so that their errors are found here (log 49). -/
def fetchCheck (c : CtxId) : M Unit := do
  let s ← get
  let k := s.getCtx c
  needCanonical c k.pc .exec
  if capsConf s then needCap (capAccess s k.pcc 2 k.pc 4)
  let _ ← translateCtx c ⟨k.pc, .exec, some k.rh, none, false⟩
  modify (meetBank c)

/-- The meaning of an instruction of context c up to its end: `body` says whether it retires. A word that is native runs
in native mode only; in Rhaha mode the core fetches Rhaha words (R160). What retires ends the pair of a SKIP (R116). A Rhaha word of which
only the rest is left to do was fetched when it began (R165). DESIGN CHOICE (log 35): an instruction command that comes while an interrupt
is takeable at the boundary before it is executed, and the interrupt waits for its INTERRUPT_ENTRY. -/
def runBody (native : Bool) (body : CtxId → M Bool) (c : CtxId) (s : State) : State :=
  let go : M Bool := do
    if native || (s.getCtx c).rest.isNone then fetchCheck c
    let pair := (← getC c).skipPair
    modC c fun k => { k with skipPair := false }
    let retires ← body c
    if !retires && pair then modC c fun k => { k with skipPair := k.run == .running }
    return retires
  if (s.getCtx c).rh == native then s
  else match go s with
    | .ok true t => retire c s t
    | .ok false t => accountChange s t
    | .error e t => afterStop c s t e

/-- An instruction command: the running context executes it; without one that can issue, nothing happens (log 3). -/
def runInstr (body : CtxId → M Unit) (s : State) : Host.Outcome State Fault Refusal :=
  match issuing s with
  | none => .next s
  | some c => .next (runBody true (fun c => do body c; return true) c s)

/-- An instruction that continues at PC + 4. -/
def runSeq (body : CtxId → M Unit) (s : State) : Host.Outcome State Fault Refusal :=
  runInstr (fun c => do body c; advance c) s

/-- An instruction that may stay unretired with its effects: one that starts a wait (R126, R171, R410). -/
def runHold (body : CtxId → M Bool) (s : State) : Host.Outcome State Fault Refusal :=
  match issuing s with
  | none => .next s
  | some c => .next (runBody true body c s)

/-- An instruction in whose step a storage error strikes, which its reads or later ones find (log 49). -/
def runEcc (ecc : Option EccEvent) (body : CtxId → M Unit) (s : State) : Host.Outcome State Fault Refusal :=
  match issuing s with
  | none => .next s
  | some c => runSeq body (strike c ecc s)

end Sys2Proof.Machine
end

