-- ==== Sys2Proof/Machine/Operands.lean ====
section
/-!
DEFINITION. Operand forms of format M (03 R109 to R112, 04 R131, R132): which modes a class allows, the tag a base register
must carry, the effective address, and the operand of a read class.
-/

namespace Sys2Proof.Machine

/-- Operand classes (R131). -/
inductive OpClass where
  | read | write | code | address | io
  deriving DecidableEq, Repr

/-- Modes of a class (R131). -/
def OpClass.modes (k : OpClass) : List (BitVec 3) :=
  match k with
  | .read => [0, 1, 2, 3, 4] | .write => [1, 2, 3, 4] | .code => [1, 2, 5] | .address => [1, 2, 3, 5] | .io => [1, 2, 6]

/-- Row 2 of R132: the mode is allowed, the must-be-zero bits of D are 0 and the frame slot exists (R110, R382). -/
def needMode (c : CtxId) (k : OpClass) (m : BitVec 3) (d : BitVec 22) : M Unit := do
  needDef (k.modes.contains m)
  if m == 4 then
    needDef (fld d 5 17 == 0)
    needDef ((← getC c).hasSlot (fld d 0 5))
  if m == 6 then needDef (fld d 19 3 == 0)

/-- Row 4 of R132 for the base register of modes 1 and 2 (R109, R131). -/
def needBase (c : CtxId) (k : OpClass) (m : BitVec 3) : M Unit := do
  let x ← getC c
  let t := if m == 1 then x.getX.tag else x.getY.tag
  if m == 1 || m == 2 then
    let ok := match k with
      | .read | .write => t == Tag.dptr
      | .code => t == Tag.cptr
      | .io => t == Tag.ioptr
      | .address => isPtr t
    if !ok then tagFault t

/-- The effective address (R109). Mode 6 gives an I/O address of this core. -/
def effAddr (s : State) (k : Ctx) (m : BitVec 3) (d : BitVec 22) : W64 :=
  match m.toNat with
  | 1 => k.getX.val + sext d 64
  | 2 => k.getY.val
  | 3 => k.stk.sp + d.setWidth 64
  | 5 => k.pc + (sext d 64 <<< 2)
  | 6 => at' 0 (fld d 0 19) ||| at' 19 s.chain.caddr
  | _ => 0

/-- The effective address in the state as it stands. -/
def addrOf (c : CtxId) (m : BitVec 3) (d : BitVec 22) : M W64 := do
  let s ← get
  return effAddr s (s.getCtx c) m d

/-- Mode 2: Y := Y + sext(D) once the access has completed (R111). -/
def postIncrement (c : CtxId) (m : BitVec 3) (d : BitVec 22) : M Unit :=
  if m == 2 then modC c fun k => k.setY ⟨k.getY.val + sext d 64, k.getY.tag⟩ else pure ()

/-- The operand of a read-class instruction: its value, in modes 0 and 4, or the memory word, in modes 1 to 3. The checks of
rows 2 and 4 have been made. -/
def readOperand (c : CtxId) (m : BitVec 3) (d : BitVec 22) : M TWord := do
  match m.toNat with
  | 0 => return ⟨sext d 64, Tag.int⟩
  | 4 => readSlot c (fld d 0 5)
  | _ => loadWord c (← addrOf c m d) (m == 3)

/-- Rows 2 to 10 for a read-class instruction that combines A with its operand: the register operands' tags, the operand
and its tag (R103, R132). `accA` is what A must carry, `accOp` what the operand must, given A's tag. An immediate or a
frame slot is a register operand; register operands come before the base register (R132 row 4). -/
def readPair (c : CtxId) (m : BitVec 3) (d : BitVec 22) (accA : Tag → Bool) (accOp : Tag → Tag → Bool) (extra : M Unit) :
    M (TWord × TWord) := do
  needMode c .read m d
  let a := (← getC c).getA
  if !accA a.tag then tagFault a.tag
  if m == 0 || m == 4 then
    let w ← readOperand c m d
    if !accOp a.tag w.tag then tagFault w.tag
    extra
    return (a, w)
  else
    extra
    needBase c .read m
    let w ← readOperand c m d
    if !accOp a.tag w.tag then tagFault w.tag
    return (a, w)

/-- The register X is accepted as an operand (R103). -/
def needX (c : CtxId) (ok : Tag → Bool) : M Unit := do
  let t := (← getC c).getX.tag
  if ok t then pure () else tagFault t

end Sys2Proof.Machine
end

