-- ==== Sys2Proof/Machine/Maint.lean ====
section
/-!
DEFINITION. FENCE (04 R154, 14 R448), TLB maintenance (R155, R156) and cache maintenance (R157, R158).
-/

namespace Sys2Proof.Machine

open Sys2Proof

/-! ## FENCE -/

/-- FENCE (R154): retires once the classes it names have been performed, with its Milestone, which is timed until they were (R475). -/
def fenceInstr (f : BitVec 25) (c : CtxId) : M Bool := do
  needDef (fld f 4 21 == 0 && fld f 0 4 != 0)
  let s ← get
  let w := ((s.getCtx c).ev.fence).getD ⟨s.time.tick, fld f 0 4, none⟩
  if fenceDone s c (fld f 0 4) then
    modify (milestone c 9 0 none 0 (w.done.getD s.time.tick - w.since) (at' 0 (fld f 0 4)))
    modC c fun k => { k with ev := { k.ev with fence := none } }
    advance c
    return true
  else
    modC c fun k => { k with ev := { k.ev with fence := some w } }
    return false

/-- FENCE. -/
def execFence (f : BitVec 25) (s : State) : Host.Outcome State Fault Refusal := runHold (fenceInstr f) s

/-! ## TLBINV -/

/-- The scopes of TLBINV. -/
inductive TlbScope where
  | va | vaw | asid | all
  deriving DecidableEq, Repr

/-- The operands of a TLBINV: the address, the ASID (none for every one), the VMID (none for every one), S2. -/
structure TlbArgs where
  a : W64
  asid : Option (BitVec 12)
  vmid : Option (BitVec 6)
  s2 : Bool
  deriving DecidableEq, Repr

/-- An identifier matches its operand. -/
def idHit {n : Nat} (want : Option (BitVec n)) (x : BitVec n) : Bool :=
  match want with | some y => y == x | none => true

/-- A cached leaf covers the address: through its stage-1 leaf, or the whole way where stage 1 was off; with S2, through its
stage-2 leaf. -/
def leafCovers (q : TlbArgs) (t : TlbEntry) : Bool :=
  let near := fun (page shift : Nat) (a : Nat) => page * 4096 / 2 ^ shift == a / 2 ^ shift
  if q.s2 then
    match t.leaf2 with
    | some (e, l) => near t.ipn (leafShift e l) (fldN q.a 0 56)
    | none => false
  else
    match t.leaf1, t.leaf2 with
    | some (e, l), _ => near t.vpn (leafShift e l) (fldN q.a 0 56)
    | none, some (e, l) => !t.en1 && near t.vpn (leafShift e l) (fldN q.a 0 52)
    | none, none => false

/-- TLBINV removes this leaf (R155). -/
def leafHit (scope : TlbScope) (q : TlbArgs) (t : TlbEntry) : Bool :=
  let ids := idHit q.asid t.asid && idHit q.vmid t.vmid
  match scope with
  | .va | .vaw => ids && leafCovers q t
  | .asid | .all => ids

/-- TLBINV removes this cached table entry (R155). -/
def walkHit (scope : TlbScope) (q : TlbArgs) (w : WalkEntry) : Bool :=
  let ids := idHit q.asid w.asid && idHit q.vmid w.vmid
  match scope with
  | .va => false
  | .vaw => ids && w.stage2 == q.s2 && w.pre == fldN q.a 0 56 / 2 ^ lvlShift w.lvl
  | .asid | .all => ids

/-- A read of some channel is not answered: its check may be in progress (R156, R339). -/
def channelReads (s : State) : Bool :=
  s.mesh.reqs.any fun r => r.op.isRead && match r.who with | .mover _ | .cw _ => true | _ => false

/-- Every channel begins its check again: the answers it was given go (R339). -/
def dropChannelFills (s : State) : State :=
  { s with mesh := { s.mesh with
    fills := s.mesh.fills.filter fun f => f.held || match f.req.who with | .mover _ | .cw _ => false | _ => true } }

/-- Wait for the walks and checks in progress (R156, R339), and for the stores of every context and the rows of committed tile stores,
which may have been translated with a removed entry (R363). What a channel has read of its check is read again. -/
def tlbQuiet : M Unit := do
  let s ← get
  if channelReads s || ctxStoresInFlight s then wait
  set (dropChannelFills s)

/-- Remove what a TLBINV covers. -/
def tlbRemove (scope : TlbScope) (q : TlbArgs) (s : State) : State :=
  { s with tlbs := ⟨s.tlbs.leaves.filter fun t => !leafHit scope q t, s.tlbs.walks.filter fun w => !walkHit scope q w⟩ }

/-- TLBINV (R155). Of r, bit 0 is AA and bit 1 is S2; the rest must be 0. -/
def tlbinvInstr (scope : TlbScope) (r : BitVec 23) (c : CtxId) : M Unit := do
  let s ← get
  let k := s.getCtx c
  let byVa := scope == .va || scope == .vaw
  needDef (fld r 2 21 == 0 && (byVa || fld r 0 2 == 0))
  let owner := stage2Owner s k
  needPriv (k.sup && (owner || !bit r 1))
  let a := k.getA
  let x := k.getX
  if byVa && a.tag != Tag.dptr && a.tag != Tag.cptr then tagFault a.tag
  if scope != .all && x.tag == Tag.poison then tagFault Tag.poison
  let s2 := bit r 1
  let cur : BitVec 6 := fld k.sys.ttb2 0 6
  let q : TlbArgs :=
    { a := a.val, s2 := s2
      asid := if scope == .all || s2 || (byVa && bit r 0) then none else some (fld x.val 0 12)
      vmid := if !owner then some cur else if scope == .all then none else some (fld x.val 12 6) }
  tlbQuiet
  modify (tlbRemove scope q)

/-- TLBINV.VA. -/
def execTlbinvVa (r : BitVec 23) (s : State) : Host.Outcome State Fault Refusal := runSeq (tlbinvInstr .va r) s
/-- TLBINV.VAW. -/
def execTlbinvVaw (r : BitVec 23) (s : State) : Host.Outcome State Fault Refusal := runSeq (tlbinvInstr .vaw r) s
/-- TLBINV.ASID. -/
def execTlbinvAsid (r : BitVec 23) (s : State) : Host.Outcome State Fault Refusal := runSeq (tlbinvInstr .asid r) s
/-- TLBINV.ALL. -/
def execTlbinvAll (r : BitVec 23) (s : State) : Host.Outcome State Fault Refusal := runSeq (tlbinvInstr .all r) s

/-! ## Cache maintenance -/

/-- The caches that an operation with this C acts on. -/
def cachesOf (c : BitVec 2) : List CacheId :=
  if c = 0 then [.l1i] else if c = 1 then [.l1d] else if c = 2 then [.l2] else [.l1i, .l1d, .l2]

/-- Discard a line of a cache. What the directory counted as this core's alone is given back once no cache holds it. -/
def dropLine (id : CacheId) (key : Nat) (l : CLine) (s : State) : State :=
  let t := cacheDel s id key
  if id == .l1i then t
  else
    let u := if l.st != .shared && !holds t l.line then letGo l.line t else t
    lineGone l.line u

/-- Invalidate every line of a cache, and set its INV bit (R157, R319). -/
def invalidateCache (id : CacheId) (s : State) : State :=
  let t := (s.caches.lines id).foldl (fun t e => dropLine id e.1 e.2 t) s
  { t with caches := { t.caches with cctl := setBit t.caches.cctl (3 + id.no) true } }

/-- CINV.ALL (R157). Of r, bits [1:0] are C; the rest must be 0. -/
def cinvAllInstr (r : BitVec 22) (c : CtxId) : M Unit := do
  needDef (fld r 2 20 == 0)
  needPriv (← getC c).sup
  modify fun s => (cachesOf (fld r 0 2)).foldl (fun t id => invalidateCache id t) s

/-- CINV.ALL. -/
def execCinvAll (r : BitVec 22) (s : State) : Host.Outcome State Fault Refusal := runSeq (cinvAllInstr r) s

/-- Write a dirty line to memory: it stays where it is, clean (R157). A copy of an L1D line in L2 becomes the same. -/
def cleanToMemory (id : CacheId) (key : Nat) (l : CLine) (s : State) : State :=
  let clean := fun (x : CLine) => { x with st := LineState.exclusive, data := l.data }
  let t := cachePut s id key (clean l)
  let u := match (if id == .l1d then cacheFind t .l2 l.line else none) with
    | some (k, x) => cachePut t .l2 k (clean x)
    | none => t
  countEvent 2 1 1 none .none (some ((lineAddr l.line).setWidth 64))
    (sendWrite .lineOut (lineAddr l.line) .evict 0 0 l.data true u)

/-- Write a dirty L1D line to L2, where it is kept dirty; to memory if L2 neither holds it nor is enabled. None when the line
must wait for a place in an eviction buffer. -/
def cleanToL2 (key : Nat) (l : CLine) (s : State) : Option State :=
  if cacheOn s .l2 || (cacheFind s .l2 l.line).isSome then
    (insertL2 l.line .modified l.data 1 s).map fun t =>
      match cacheFind t .l1d l.line with
      | some (k, x) => cachePut t .l1d k { x with st := .exclusive }
      | none => t
  else some (cleanToMemory .l1d key l s)

/-- A write-back to memory finds a free transaction number. -/
def roomToWrite (s : State) : Bool := decide (s.mesh.reqs.length < 200)

/-- Write back the line with this key if it is dirty: reading it finds its errors. `toL2`: C = 1. -/
def cleanLine (toL2 : Bool) (id : CacheId) (key : Nat) (s : State) : Option State :=
  match readOut id key s with
  | (t, none) => some t
  | (t, some l) =>
    if l.st != .modified then some t
    else if id == .l1d && toL2 then cleanToL2 key l t
    else if roomToWrite t then some (cleanToMemory id key l t) else none

/-- Write back the lines of a list as far as there is room; whether all are done. -/
def cleanLines (toL2 : Bool) (id : CacheId) : List Nat → State → Bool × State
  | [], s => (true, s)
  | key :: rest, s =>
    match cleanLine toL2 id key s with
    | some t => cleanLines toL2 id rest t
    | none => (false, s)

/-- The data caches that C = 1, 2 or 3 names. -/
def dataCaches (c : BitVec 2) : List CacheId := if c = 1 then [.l1d] else if c = 2 then [.l2] else [.l1d, .l2]

/-- CWB.ALL (R157, R159): what it has written back stays clean while it is not finished. -/
def cwbAllInstr (r : BitVec 22) (c : CtxId) : M Bool := do
  let cc : BitVec 2 := fld r 0 2
  needDef (fld r 2 20 == 0 && cc != 0)
  needPriv (← getC c).sup
  let s ← get
  let (ok, t) := (dataCaches cc).foldl (fun (p : Bool × State) id =>
    if p.1 then cleanLines (cc == 1) id ((p.2.caches.lines id).map (·.1)) p.2 else p) (true, s)
  set t
  if ok then advance c
  return ok

/-- CWB.ALL. -/
def execCwbAll (r : BitVec 22) (s : State) : Host.Outcome State Fault Refusal := runHold (cwbAllInstr r) s

/-- The line that A names, checked and translated (R157, R349). `write`: CINV.LINE on a data cache. -/
def lineOperand (r : BitVec 22) (write : Bool) (c : CtxId) : M Nat := do
  let s ← get
  let k := s.getCtx c
  let a := k.getA
  let code := fld r 0 2 == 0
  let kind : AccKind := if code then .exec else if write then .write else .read
  if a.tag != (if code then Tag.cptr else Tag.dptr) then tagFault a.tag
  needCanonical c a.val kind
  if code then
    if capsConf s then needCap (capAccess s k.pcc 2 a.val 1)
  else needDdc c kind a.val 1
  let p ← translateCtx c ⟨a.val, kind, none, none, false⟩
  return lineNo p.pa

/-- Drop line n from the caches of a list. -/
def dropFrom (ids : List CacheId) (n : Nat) (s : State) : State :=
  ids.foldl (fun t id =>
    match cacheFind t id n with
    | some (k, l) => dropLine id k l t
    | none => t) s

/-- The caches that a line operation acts on. -/
def lineCaches (r : BitVec 22) : List CacheId := if fld r 0 2 == 0 then [.l1i] else dataCaches (fld r 0 2)

/-- CINV.LINE (R157): user for C = 0. -/
def cinvLineInstr (r : BitVec 22) (c : CtxId) : M Unit := do
  needDef (fld r 2 20 == 0)
  needPriv (fld r 0 2 == 0 || (← getC c).sup)
  let n ← lineOperand r true c
  modify (dropFrom (lineCaches r) n)

/-- CINV.LINE. -/
def execCinvLine (r : BitVec 22) (s : State) : Host.Outcome State Fault Refusal := runSeq (cinvLineInstr r) s

/-- CWB.LINE's effect on line n: L1I holds nothing dirty. -/
def cleanLineAt (r : BitVec 22) (n : Nat) : M Unit := do
  for id in (lineCaches r).filter (fun id => id != .l1i) do
    let s ← get
    match cacheFind s id n with
    | none => pure ()
    | some (k, _) =>
      match cleanLine (fld r 0 2 == 1) id k s with
      | some t => set t
      | none => wait

/-- CWB.LINE (R157). -/
def cwbLineInstr (r : BitVec 22) (inv : Bool) (c : CtxId) : M Unit := do
  needDef (fld r 2 20 == 0)
  let n ← lineOperand r false c
  cleanLineAt r n
  if inv then modify (dropFrom (lineCaches r) n)

/-- CWB.LINE. -/
def execCwbLine (r : BitVec 22) (s : State) : Host.Outcome State Fault Refusal := runSeq (cwbLineInstr r false) s

/-- CWBI.LINE. -/
def execCwbiLine (r : BitVec 22) (s : State) : Host.Outcome State Fault Refusal := runSeq (cwbLineInstr r true) s

end Sys2Proof.Machine
end

