-- ==== Sys2Proof/Machine/MeshOut.lean ====
section
/-!
DEFINITION. What leaves the core on the mesh: write-backs (10 R318), the drain of a reset or of the lame state (01 R57,
12 R381), and the flits of the egress lanes (01 R21 to R23, R43, R44; 16 R500).
-/

namespace Sys2Proof.Machine

open Sys2Proof

/-! ## Write-backs -/

/-- Start the write-back of an entry of an eviction buffer (R318), as the egress FIFO has room (R16). -/
def startEntry (e : EvEntry) (s : State) : State :=
  if e.started || !roomToWrite s || laneFull s 2 then s
  else
    let mark := fun (x : EvEntry) => if x.line == e.line && !x.started then { x with started := true } else x
    countEvent 2 1 1 none .none (some ((lineAddr e.line).setWidth 64))
      (sendWrite .lineOut (lineAddr e.line) .evict 0 0 e.data true
        { s with caches := { s.caches with ebuf := s.caches.ebuf.map mark } })

/-- Start every write-back that has not started. -/
def startWriteBacks (s : State) : State := s.caches.ebuf.foldl (fun t e => startEntry e t) s

/-! ## The drain -/

/-- Take one L1D line out of the cache; a dirty one waits while its buffer is full. -/
def drainL1D (key : Nat) (s : State) : State :=
  match readOut .l1d key s with
  | (t, none) => t
  | (t, some l) =>
    match l.st with
    | .modified =>
      match ebufPush false l.line l.data (cacheDel t .l1d key) with
      | none => t
      | some u => lineGone l.line (match cacheFind u .l2 l.line with | some (k, _) => cacheDel u .l2 k | none => u)
    | _ => dropLine .l1d key l t

/-- Take one L2 line out of the cache, unless L1D still holds it. -/
def drainL2 (key : Nat) (s : State) : State :=
  match readOut .l2 key s with
  | (t, none) => t
  | (t, some l) =>
    if (cacheFind t .l1d l.line).isSome then t
    else
      match l.st with
      | .modified =>
        match ebufPush true l.line l.data (cacheDel t .l2 key) with
        | none => t
        | some u => lineGone l.line u
      | _ => dropLine .l2 key l t

/-- What the drain can do now: every line leaves the caches as far as the eviction buffers have room. -/
def drainStep (s : State) : State :=
  if !draining s then s
  else
    let t := s.caches.l1d.foldl (fun t e => drainL1D e.1 t) s
    startWriteBacks (t.caches.l2.foldl (fun t e => drainL2 e.1 t) t)

/-- No line is left in L1D, L2 and the eviction buffers (R57, R381). -/
def cachesDrained (s : State) : Bool := s.caches.l1d.isEmpty && s.caches.l2.isEmpty && s.caches.ebuf.isEmpty

/-! ## The fence -/

/-- FENCE_ACK (R40, R44): the fence is in effect, and no packet that had started and no offered Causeway beat is on its way. In
cold reset it has its reset value. -/
def ackFence (s : State) : State :=
  let busy := s.mesh.mid.q2 || s.mesh.mid.q3 || s.mesh.offered == some 2 || s.mesh.offered == some 3 || s.cw.offered
  { s with pins := { s.pins with fenceAck := s.pins.hfence && !busy && !inColdReset s } }

/-! ## Flits -/

/-- The last flit of a post has transferred: the post is performed (R448), and counted with its words (R458). -/
def postGone (s : State) : State :=
  match s.mesh.posts with
  | [] => s
  | p :: rest =>
    let cause := some (p.sup, p.world)
    countEvent 6 1 p.words cause (.ctx p.ctx) none (countEvent 6 0 1 cause (.ctx p.ctx) none
      { s with mesh := { s.mesh with posts := rest } })

/-- The flit of lane l leaves the FIFO, and the first that stands behind it takes its place. -/
def popFlit (l : BitVec 2) (f : Flit) (q : List Flit) (m : Mesh) : Mesh :=
  { m with
    egress := m.egress.set l q
    mid := m.mid.set l (!f.last)
    head := if m.mid.get l then m.head else m.head.set l (vget f.words 0 TWord.zero).val
    offered := none
    lastReq := if l == 0 then m.lastReq else l == 2
    lastFlit := f }.feed l []

/-- The flit of lane l transfers. -/
def takeFlit (l : BitVec 2) (s : State) : State :=
  match s.mesh.egress.get l with
  | [] => s
  | f :: q =>
    let t := { s with
      mesh := popFlit l f q s.mesh
      pins := { s.pins with stallMesh := 0 }
      toll := if l != 0 && meshLimited s then { s.toll with tokM := s.toll.tokM - 1024 } else s.toll }
    if l == 3 && f.last then postGone t else t

/-- Drive a flit (R20): it transfers if its lane is ready, and stays offered otherwise. The steps up to a transfer are accounted before
it (R461). -/
def driveFlit (ready : BitVec 4) (s : State) : State :=
  let t := offerNext s
  match t.mesh.offered with
  | none => t
  | some l => if bit ready l.toNat then noteFences (takeFlit l (account t t)) else t

/-- MESH_FLIT_SEND (R21 to R23): `ready` is MTX_READY. -/
def execMeshFlitSend (ready : BitVec 4) (s : State) : Host.Outcome State Fault Refusal :=
  .next (ackFence (driveFlit ready (startWriteBacks (drainStep s))))

end Sys2Proof.Machine
end

