-- ==== Sys2Proof/Machine/Flags.lean ====
section
/-!
DEFINITION. Flag computations (04 R138, R139; 03 R122) and the sums that set them.
-/

namespace Sys2Proof.Machine

/-- ST with C, Z, N and V replaced. -/
def stFlags (st : W32) (c z n v : Bool) : W32 := (st &&& 0xFFFFFFF0#32) ||| bAt 0 c ||| bAt 1 z ||| bAt 2 n ||| bAt 3 v

/-- ST with Z and N replaced. -/
def stZN (st : W32) (r : W64) : W32 := (st &&& 0xFFFFFFF9#32) ||| bAt 1 (r == 0) ||| bAt 2 (bit r 63)

/-- A sum with its four flags: result, C, Z, N, V (R138). -/
structure SumRes where
  val : W64
  c : Bool
  z : Bool
  n : Bool
  v : Bool
  deriving DecidableEq, Repr

/-- a + b + carry: C is the carry out of bit 63, V a signed result that does not fit. -/
def addSum (a b : W64) (carry : Bool) : SumRes :=
  let ci : Nat := if carry then 1 else 0
  let u := a.toNat + b.toNat + ci
  let i := a.toInt + b.toInt + (ci : Int)
  let r : W64 := BitVec.ofNat 64 u
  ⟨r, decide (2 ^ 64 ≤ u), r == 0, bit r 63, decide (i < -(2 ^ 63)) || decide ((2 : Int) ^ 63 ≤ i)⟩

/-- a - b - borrow: C is 1 when no borrow occurs. -/
def subSum (a b : W64) (borrow : Bool) : SumRes :=
  let bi : Nat := if borrow then 1 else 0
  let i := a.toInt - b.toInt - (bi : Int)
  let r : W64 := a - b - BitVec.ofNat 64 bi
  ⟨r, decide (b.toNat + bi ≤ a.toNat), r == 0, bit r 63, decide (i < -(2 ^ 63)) || decide ((2 : Int) ^ 63 ≤ i)⟩

/-- Write the four flags of a sum. -/
def Ctx.setSumFlags (k : Ctx) (r : SumRes) : Ctx := { k with st := stFlags k.st r.c r.z r.n r.v }

/-- Write Z and N of a result. -/
def Ctx.setZN (k : Ctx) (r : W64) : Ctx := { k with st := stZN k.st r }

end Sys2Proof.Machine
end

