-- ==== Sys2Proof/Machine/LoadStore.lean ====
section
/-!
DEFINITION. Loads, stores and addresses (04 R133 to R136).
-/

namespace Sys2Proof.Machine

open Sys2Proof

/-- The three registers of the load and store instructions. -/
inductive Axy where
  | a | x | y
  deriving DecidableEq, Repr

/-- Read the register. -/
def Ctx.axy (k : Ctx) (r : Axy) : TWord := match r with | .a => k.getA | .x => k.getX | .y => k.getY
/-- Write the register. -/
def Ctx.setAxy (k : Ctx) (r : Axy) (w : TWord) : Ctx :=
  match r with | .a => k.setA w | .x => k.setX w | .y => k.setY w

/-- A 64-bit load into r (R133). A load of Y discards the increment of mode 2 (R111). -/
def loadReg (r : Axy) (m : BitVec 3) (d : BitVec 22) (c : CtxId) : M Unit := do
  needMode c .read m d
  needBase c .read m
  let w ← readOperand c m d
  postIncrement c m d
  modC c fun k => k.setAxy r w

/-- A sub-word load of n bytes into A (R103, R133, R136). -/
def loadSub (n : Nat) (signed : Bool) (m : BitVec 3) (d : BitVec 22) (c : CtxId) : M Unit := do
  needMode c .read m d
  needBase c .read m
  let w ← (do
    if m == 0 || m == 4 then
      let w ← readOperand c m d
      return ⟨pickBytes 0 n signed w.val, w.tag⟩
    else
      let a ← addrOf c m d
      needRows c .read a n (m == 3) false
      let w ← loadAt c a n
      return ⟨pickBytes (fldN a 0 3) n signed w.val, w.tag⟩ : M TWord)
  postIncrement c m d
  modC c fun k => k.setA ⟨w.val, if w.tag == Tag.poison then Tag.poison else Tag.int⟩

/-- A 64-bit store of r (R133). -/
def storeReg (r : Axy) (m : BitVec 3) (d : BitVec 22) (c : CtxId) : M Unit := do
  needMode c .write m d
  needBase c .write m
  let w := (← getC c).axy r
  if m == 4 then modC c fun k => k.setSlot (fld d 0 5) w
  else
    storeWord c (← addrOf c m d) (m == 3) w
    postIncrement c m d

/-- A sub-word store of n bytes of A (R104, R136). -/
def storeSubReg (n : Nat) (m : BitVec 3) (d : BitVec 22) (c : CtxId) : M Unit := do
  needMode c .write m d
  needBase c .write m
  let w := (← getC c).getA
  if m == 4 then
    let old ← readSlot c (fld d 0 5)
    let low : W64 := BitVec.ofNat 64 (2 ^ (8 * n) - 1)
    modC c fun k => k.setSlot (fld d 0 5) ⟨(old.val &&& ~~~low) ||| (w.val &&& low), subTag old.tag w.tag⟩
  else
    storeSub c (← addrOf c m d) n (m == 3) w
    postIncrement c m d

/-- An effective address into r, with the tag of its mode (R135). LEAY in mode 2 keeps the address (R111). -/
def leaReg (r : Axy) (m : BitVec 3) (d : BitVec 22) (c : CtxId) : M Unit := do
  needMode c .address m d
  needBase c .address m
  let k ← getC c
  let t := match m.toNat with | 1 => k.getX.tag | 2 => k.getY.tag | 3 => Tag.dptr | _ => Tag.cptr
  let a ← addrOf c m d
  postIncrement c m d
  modC c fun k => k.setAxy r ⟨a, t⟩

/-- The word of instruction space at a (R134): through L1I and L2, else from memory. -/
def readCode (c : CtxId) (a : W64) (p : Phys) : M W32 := do
  let w ← (do
    if inSpad p.pa then return (← spadRead false (spadIndex p.pa))
    else if p.dev then
      match ← readDevice (.ctx c) p.pa 2 with
      | some w => return w
      | none => raiseX (XFault.mk 7 false 0 0 0 false 0) .exec a
    else
      match ← readLine (.ctx c) .fetch p.str a (lineNo p.pa) with
      | some d => return vget d (fldN p.pa 3 3) TWord.poison
      | none => raiseX (XFault.mk 7 false 0 0 0 false 0) .exec a : M TWord)
  return if bit p.pa 2 then fld w.val 32 32 else fld w.val 0 32

/-- LDC (R134): the execute right, R of PCC, no Rhaha check. -/
def loadCode (m : BitVec 3) (d : BitVec 22) (c : CtxId) : M Unit := do
  needMode c .code m d
  needBase c .code m
  let a ← addrOf c m d
  needCanonical c a .exec
  needAligned a 4
  let s ← get
  if capsConf s then needCap (capAccess s (s.getCtx c).pcc 0 a 4)
  let p ← translateCtx c ⟨a, .exec, none, none, false⟩
  let w ← readCode c a p
  postIncrement c m d
  modC c fun k => k.setA ⟨w.setWidth 64, Tag.int⟩

/-- LD (R133). -/
def execLd (m : BitVec 3) (d : BitVec 22) (ecc : Option EccEvent) (s : State) : Host.Outcome State Fault Refusal :=
  runEcc ecc (loadReg .a m d) s
/-- LDX (R133). -/
def execLdx (m : BitVec 3) (d : BitVec 22) (ecc : Option EccEvent) (s : State) : Host.Outcome State Fault Refusal :=
  runEcc ecc (loadReg .x m d) s
/-- LDY (R133). -/
def execLdy (m : BitVec 3) (d : BitVec 22) (ecc : Option EccEvent) (s : State) : Host.Outcome State Fault Refusal :=
  runEcc ecc (loadReg .y m d) s
/-- ST (R133). -/
def execSt (m : BitVec 3) (d : BitVec 22) (s : State) : Host.Outcome State Fault Refusal := runSeq (storeReg .a m d) s
/-- STX (R133). -/
def execStx (m : BitVec 3) (d : BitVec 22) (s : State) : Host.Outcome State Fault Refusal := runSeq (storeReg .x m d) s
/-- STY (R133). -/
def execSty (m : BitVec 3) (d : BitVec 22) (s : State) : Host.Outcome State Fault Refusal := runSeq (storeReg .y m d) s
/-- LD.B (R133). -/
def execLdB (m : BitVec 3) (d : BitVec 22) (ecc : Option EccEvent) (s : State) : Host.Outcome State Fault Refusal :=
  runEcc ecc (loadSub 1 true m d) s
/-- LD.BU (R133). -/
def execLdBu (m : BitVec 3) (d : BitVec 22) (ecc : Option EccEvent) (s : State) : Host.Outcome State Fault Refusal :=
  runEcc ecc (loadSub 1 false m d) s
/-- LD.H (R133). -/
def execLdH (m : BitVec 3) (d : BitVec 22) (ecc : Option EccEvent) (s : State) : Host.Outcome State Fault Refusal :=
  runEcc ecc (loadSub 2 true m d) s
/-- LD.HU (R133). -/
def execLdHu (m : BitVec 3) (d : BitVec 22) (ecc : Option EccEvent) (s : State) : Host.Outcome State Fault Refusal :=
  runEcc ecc (loadSub 2 false m d) s
/-- LD.W (R133). -/
def execLdW (m : BitVec 3) (d : BitVec 22) (ecc : Option EccEvent) (s : State) : Host.Outcome State Fault Refusal :=
  runEcc ecc (loadSub 4 true m d) s
/-- LD.WU (R133). -/
def execLdWu (m : BitVec 3) (d : BitVec 22) (ecc : Option EccEvent) (s : State) : Host.Outcome State Fault Refusal :=
  runEcc ecc (loadSub 4 false m d) s
/-- ST.B (R104, R133). -/
def execStB (m : BitVec 3) (d : BitVec 22) (ecc : Option EccEvent) (s : State) : Host.Outcome State Fault Refusal :=
  runEcc ecc (storeSubReg 1 m d) s
/-- ST.H (R104, R133). -/
def execStH (m : BitVec 3) (d : BitVec 22) (ecc : Option EccEvent) (s : State) : Host.Outcome State Fault Refusal :=
  runEcc ecc (storeSubReg 2 m d) s
/-- ST.W (R104, R133). -/
def execStW (m : BitVec 3) (d : BitVec 22) (ecc : Option EccEvent) (s : State) : Host.Outcome State Fault Refusal :=
  runEcc ecc (storeSubReg 4 m d) s
/-- LDC (R134). -/
def execLdc (m : BitVec 3) (d : BitVec 22) (s : State) : Host.Outcome State Fault Refusal := runSeq (loadCode m d) s
/-- LEA (R135). -/
def execLea (m : BitVec 3) (d : BitVec 22) (s : State) : Host.Outcome State Fault Refusal := runSeq (leaReg .a m d) s
/-- LEAX (R135). -/
def execLeax (m : BitVec 3) (d : BitVec 22) (s : State) : Host.Outcome State Fault Refusal := runSeq (leaReg .x m d) s
/-- LEAY (R135). -/
def execLeay (m : BitVec 3) (d : BitVec 22) (s : State) : Host.Outcome State Fault Refusal := runSeq (leaReg .y m d) s

end Sys2Proof.Machine
end

