-- ==== Sys2Proof/Machine/SysReg.lean ====
section
/-!
DEFINITION. System registers (04 R147): the indices, who may reach them, what MFS returns and what MTS does. Chapters 06, 11
to 16 give the registers.
-/

namespace Sys2Proof.Machine

open Sys2Proof

/-- The system registers of level 1. -/
inductive SysReg where
  | tick | tsoff | tstamp
  | vbar | svbar | ecause | evec | esp | esplo | sentry | mcsyn | mcaddr | ipend | fbpc | fbst | tgrant
  | vlvl (k : BitVec 3) | iow (k : BitVec 3) | bank (b : BitVec 2) (w : BitVec 2) | gateh (t : BitVec 4) | gatel (t : BitVec 4)
  | tcr | ttb1 | ttb2 | fsr | far | fipa | pamb (n : BitVec 4) | paml (n : BitVec 4)
  | ctxs | dpri | dquant | town | tcmp | tctl | fws | fsptr | evpend | waddr | wland | wmov | wdl
  | herd | self
  | fc (i : BitVec 2) | pmc (i : BitVec 4) | pmsel (i : BitVec 4) | pma (i : BitVec 2) | pmctl | pmovf | frzcfg | frzstat
  | frztick | dmpctl | dmstat | trctl | trstat | markr
  | pace | plimcnt | fcstat (n : BitVec 3) | wlock | kdin | kdout | wsreq
  | sd (i : BitVec 2) | tuse | fuse | tflags | tcfg | fcfg | tpwr | prog (i : BitVec 2) | acx (n : BitVec 5) | rmax (r : BitVec 5)
  deriving DecidableEq, Repr

/-- An index within a run of n registers that begins at `base`. -/
def inRun (i base n : Nat) : Bool := decide (base ≤ i) && decide (i < base + n)

/-- The registers of 0x000 to 0x0FF (R372, R449). -/
def sysRegLow (i : Nat) : Option SysReg :=
  if i = 0x000 then some .tick else if i = 0x001 then some .tsoff else if i = 0x002 then some .tstamp
  else if i = 0x040 then some .vbar else if i = 0x041 then some .svbar else if i = 0x042 then some .ecause
  else if i = 0x043 then some .evec else if i = 0x044 then some .esp else if i = 0x045 then some .esplo
  else if i = 0x046 then some .sentry else if i = 0x047 then some .mcsyn else if i = 0x048 then some .mcaddr
  else if i = 0x049 then some .ipend else if i = 0x04A then some .fbpc else if i = 0x04B then some .fbst
  else if i = 0x04C then some .tgrant
  else if inRun i 0x050 8 then some (.vlvl (BitVec.ofNat 3 (i - 0x050)))
  else if inRun i 0x060 8 then some (.iow (BitVec.ofNat 3 (i - 0x060)))
  else if inRun i 0x070 12 then some (.bank (BitVec.ofNat 2 ((i - 0x070) / 3)) (BitVec.ofNat 2 ((i - 0x070) % 3)))
  else if inRun i 0x082 30 then
    let t := BitVec.ofNat 4 ((i - 0x080) / 2)
    some (if i % 2 = 0 then .gateh t else .gatel t)
  else none

/-- The registers of 0x100 to 0x3FF (R341, R401, R422). -/
def sysRegMid (i : Nat) : Option SysReg :=
  if i = 0x100 then some .tcr else if i = 0x101 then some .ttb1 else if i = 0x102 then some .ttb2
  else if i = 0x108 then some .fsr else if i = 0x109 then some .far else if i = 0x10A then some .fipa
  else if inRun i 0x120 32 then
    let n := BitVec.ofNat 4 ((i - 0x120) / 2)
    some (if i % 2 = 0 then .pamb n else .paml n)
  else if i = 0x200 then some .ctxs else if i = 0x201 then some .dpri else if i = 0x202 then some .dquant
  else if i = 0x203 then some .town else if i = 0x204 then some .tcmp else if i = 0x205 then some .tctl
  else if i = 0x210 then some .fws else if i = 0x211 then some .fsptr else if i = 0x220 then some .evpend
  else if i = 0x221 then some .waddr else if i = 0x222 then some .wland else if i = 0x223 then some .wmov
  else if i = 0x224 then some .wdl else if i = 0x300 then some .herd else if i = 0x301 then some .self
  else none

/-- The registers of 0x400 to 0x6FF (R178, R451, R482). -/
def sysRegHigh (i : Nat) : Option SysReg :=
  if inRun i 0x400 4 then some (.fc (BitVec.ofNat 2 (i - 0x400)))
  else if inRun i 0x410 16 then some (.pmc (BitVec.ofNat 4 (i - 0x410)))
  else if inRun i 0x420 16 then some (.pmsel (BitVec.ofNat 4 (i - 0x420)))
  else if inRun i 0x430 4 then some (.pma (BitVec.ofNat 2 (i - 0x430)))
  else if i = 0x440 then some .pmctl else if i = 0x441 then some .pmovf else if i = 0x442 then some .frzcfg
  else if i = 0x443 then some .frzstat else if i = 0x444 then some .frztick else if i = 0x448 then some .dmpctl
  else if i = 0x449 then some .dmstat else if i = 0x450 then some .trctl else if i = 0x451 then some .trstat
  else if i = 0x458 then some .markr else if i = 0x500 then some .pace else if i = 0x501 then some .plimcnt
  else if inRun i 0x510 8 then some (.fcstat (BitVec.ofNat 3 (i - 0x510)))
  else if i = 0x518 then some .wlock else if i = 0x520 then some .kdin else if i = 0x521 then some .kdout
  else if i = 0x528 then some .wsreq
  else if inRun i 0x600 4 then some (.sd (BitVec.ofNat 2 (i - 0x600)))
  else if i = 0x608 then some .tuse else if i = 0x609 then some .fuse else if i = 0x60A then some .tflags
  else if i = 0x60B then some .tcfg else if i = 0x60C then some .fcfg else if i = 0x60D then some .tpwr
  else if inRun i 0x610 4 then some (.prog (BitVec.ofNat 2 (i - 0x610)))
  else if inRun i 0x620 32 then some (.acx (BitVec.ofNat 5 (i - 0x620)))
  else if inRun i 0x640 32 then some (.rmax (BitVec.ofNat 5 (i - 0x640)))
  else none

/-- The register at an index (R147). -/
def sysRegAt (i : BitVec 12) : Option SysReg :=
  if i.toNat < 0x100 then sysRegLow i.toNat else if i.toNat < 0x400 then sysRegMid i.toNat else sysRegHigh i.toNat

/-- Tile state reached through MFS and MTS (R178). -/
def SysReg.isTile (r : SysReg) : Bool :=
  match r with
  | .sd _ | .tuse | .fuse | .tflags | .tcfg | .fcfg | .tpwr | .prog _ | .acx _ | .rmax _ => true
  | _ => false

/-- The register exists in this configuration and state (R178, R372, R375). -/
def SysReg.present (r : SysReg) (s : State) (k : Ctx) : Bool :=
  match r with
  | .svbar | .sentry => !capsConf s
  | .tgrant | .gateh _ | .gatel _ => !twoWorlds s
  | .fbpc | .fbst => k.fib
  | .bank b _ => !capsConf s || decide (b.toNat < 2)
  | r => !r.isTile || enabled s 2

/-- User code may read the register (R147 and the maps). -/
def SysReg.userRead (r : SysReg) (s : State) : Bool :=
  match r with
  | .tick | .tsoff | .tstamp | .ctxs | .town | .fws | .evpend | .waddr | .wland | .wmov | .wdl | .herd | .self | .markr | .pace
  | .plimcnt => true
  | .fc _ | .pmc _ => bit s.perf.pmctl 1
  | r => r.isTile

/-- User code may write the register; what it may read and not write ignores a user's MTS (R147). -/
def SysReg.userWrite (r : SysReg) : Bool :=
  match r with
  | .evpend | .waddr | .wland | .wmov | .wdl | .sd _ | .tflags | .tcfg | .fcfg | .acx _ | .rmax _ => true
  | _ => false

/-- Supervisor code of this standing may read the register (R372, R375, R491, R492). -/
def SysReg.supRead (r : SysReg) (s : State) (k : Ctx) : Bool :=
  match r with
  | .evec | .esp | .esplo | .kdin | .kdout => stage2Owner s k
  | .svbar | .sentry => k.world
  | .bank b _ => decide (b.toNat < 2) || k.world
  | _ => true

/-- Supervisor code of this standing may write the register (R341, R372, R401, R451, R491). `v`: the value written. -/
def SysReg.supWrite (r : SysReg) (s : State) (k : Ctx) (v : W64) : Bool :=
  match r with
  | .tgrant | .iow _ | .gateh _ | .gatel _ | .ttb2 | .pamb _ | .paml _ | .dpri | .dquant | .frzcfg => stage2Owner s k
  | .vlvl _ => stage2Owner s k || twoWorlds s
  | .pmsel _ => stage2Owner s k || fld v 8 4 != 5
  | .wsreq => k.world || !(twoWorlds s && s.chain.sealedOnly)
  | r => r.supRead s k

/-- No field of the register is written by MTS (R147). -/
def SysReg.readOnly (r : SysReg) : Bool :=
  match r with
  | .tick | .tsoff | .tstamp | .ecause | .mcaddr | .fsr | .far | .fipa | .ctxs | .herd | .self | .frztick | .fcstat _ | .kdout
  | .tuse | .fuse | .prog _ => true
  | _ => false

/-- Tags that MTS accepts (R147 and the maps). -/
def SysReg.accepts (r : SysReg) (t : Tag) : Bool :=
  match r with
  | .vbar | .svbar | .evec | .sentry | .fbpc => t == Tag.cptr
  | .esp | .esplo | .bank _ _ | .fsptr | .waddr => t == Tag.dptr
  | .gateh _ => t == Tag.caph
  | .gatel _ => t == Tag.capl
  | .pma _ => isPlain t || t == Tag.dptr
  | .sd _ => t == Tag.shape
  | .rmax _ => t == Tag.flt
  | _ => isPlain t

/-- FWS (R402). -/
def fwsWord (w : Windows) : W64 :=
  at' 0 w.cur ||| at' 3 w.res ||| bAt 6 w.rsv ||| at' 8 w.link ||| at' 16 w.fsd

/-- TPWR (R212). -/
def tpwrWord (t : Tile) : W64 := bAt 0 t.tpOn ||| bAt 1 t.tpDrain ||| bAt 2 t.tpPowered

/-- KDOUT (R492). -/
def kdOutWord (s : State) (k : Ctx) : W64 := if s.keys.wkv then Config.kdOut s.keys.worldKey k.sys.kdin k.world else 0

/-- The word and tag that MFS returns (R147 and the maps). -/
def mfsWord (s : State) (k : Ctx) (r : SysReg) : TWord :=
  let int := fun (v : W64) => (⟨v, Tag.int⟩ : TWord)
  match r with
  | .tick => int s.time.tick
  | .tsoff => int s.time.tsoff
  | .tstamp => int (tstamp s)
  | .vbar => ⟨k.sys.vbar, Tag.cptr⟩
  | .svbar => ⟨k.sys.svbar, Tag.cptr⟩
  | .ecause => int k.sys.ecause
  | .evec => ⟨s.intr.evec, Tag.cptr⟩
  | .esp => ⟨k.sys.esp, Tag.dptr⟩
  | .esplo => ⟨k.sys.esplo, Tag.dptr⟩
  | .sentry => ⟨s.intr.sentry, Tag.cptr⟩
  | .mcsyn => int s.intr.mcsyn
  | .mcaddr => int s.intr.mcaddr
  | .ipend => int s.intr.ipend
  | .fbpc => ⟨k.fast.fbpc, Tag.cptr⟩
  | .fbst => ⟨k.fast.fbst.setWidth 64, Tag.raw⟩
  | .tgrant => int k.sys.tgrant
  | .vlvl i => int (vget s.intr.vlvl i.toNat 0)
  | .iow i => int (vget s.intr.iow i.toNat 0)
  | .bank b w =>
    let q := k.banks.get b
    ⟨if w = 0 then q.sp else if w = 1 then q.lo else q.hi, Tag.dptr⟩
  | .gateh t => vget s.intr.gateh t.toNat TWord.zero
  | .gatel t => vget s.intr.gatel t.toNat TWord.zero
  | .tcr => int k.sys.tcr
  | .ttb1 => int k.sys.ttb1
  | .ttb2 => int k.sys.ttb2
  | .fsr => int k.sys.fsr
  | .far => ⟨k.sys.far, if bit k.sys.fsr 9 then Tag.cptr else Tag.dptr⟩
  | .fipa => int k.sys.fipa
  | .pamb n => int (vget s.pamb n.toNat 0)
  | .paml n => int (vget s.paml n.toNat 0)
  | .ctxs => int (ctxsWord s)
  | .dpri => int (s.drover.dpri.setWidth 64)
  | .dquant => int (s.drover.dquant.setWidth 64)
  | .town => int (townWord s)
  | .tcmp => int s.time.tcmp
  | .tctl => int (bAt 0 s.time.ten)
  | .fws => int (fwsWord k.win)
  | .fsptr => ⟨k.win.fsptr, Tag.dptr⟩
  | .evpend => int (k.ev.evpend.setWidth 64)
  | .waddr => ⟨k.ev.waddr, Tag.dptr⟩
  | .wland => int k.ev.wland
  | .wmov => int k.ev.wmov
  | .wdl => int k.ev.wdl
  | .herd => int (s.chain.herdcfg.setWidth 64)
  | .self => int (at' 0 s.chain.caddr ||| bAt 12 s.chain.cvalid)
  | .fc i => int (vget s.perf.fc i.toNat 0)
  | .pmc i => int (if !k.sup && fld (vget s.perf.pmsel i.toNat 0) 8 4 == 5 then 0
      else (vget s.perf.pmc i.toNat 0).setWidth 64)
  | .pmsel i => int ((vget s.perf.pmsel i.toNat 0).setWidth 64)
  | .pma i => int (vget s.perf.pma i.toNat 0)
  | .pmctl => int s.perf.pmctl
  | .pmovf => int (s.perf.pmovf.setWidth 64)
  | .frzcfg => int (s.perf.frzcfg.setWidth 64)
  | .frzstat => int (s.perf.frzstat.setWidth 64)
  | .frztick => int s.perf.frztick
  | .dmpctl => int s.trace.dmpctl
  | .dmstat => int (at' 0 s.trace.dmSeq ||| at' 32 s.trace.dmSkip ||| bAt 48 s.trace.dmFull)
  | .trctl => int s.trace.trctl
  | .trstat => int (bAt 0 s.trace.trFull ||| at' 16 s.trace.trLost)
  | .markr => int (k.sys.markr.setWidth 64)
  | .pace => int (paceWord s)
  | .plimcnt => int s.pace.plimcnt
  | .fcstat n => int (vget s.rel.fcstat n.toNat 0)
  | .wlock => int (s.rel.wlock.setWidth 64)
  | .kdin => int k.sys.kdin
  | .kdout => int (kdOutWord s k)
  | .wsreq => int 0
  | .sd i => ⟨s.tile.sd.get i, Tag.shape⟩
  | .tuse => int (s.tile.tuse.setWidth 64)
  | .fuse => int (s.tile.fuse.setWidth 64)
  | .tflags => int s.tile.tflags
  | .tcfg => int (s.tile.tcfg.setWidth 64)
  | .fcfg => int (s.tile.ntw.setWidth 64)
  | .tpwr => int (tpwrWord s.tile)
  | .prog i => int (s.tile.prog.get i)
  | .acx n => int ((vget s.tile.acx n.toNat 0).setWidth 64)
  | .rmax r => ⟨0xFFFFFFFF00000000#64 ||| (vget s.tile.rmax r.toNat 0).setWidth 64, Tag.flt⟩

/-! ## The checks of both instructions -/

/-- Some PROG is valid: an instruction stopped part-way (R202). -/
def progPending (t : Tile) : Bool := bit t.prog.q0 8 || bit t.prog.q1 8 || bit t.prog.q2 8 || bit t.prog.q3 8

/-- The tile-unavailable trap (R367). -/
def tileTrap {α : Type} (code : BitVec 8) : M α := raise 13 code

/-- Tile state is reached by its owner (R179), not written while an instruction is part-way (R202), and seen as the rows of every
earlier instruction leave it (R180). -/
def needTileOwner (c : CtxId) (write : Bool) : M Unit := do
  let s ← get
  if s.drover.owner != c then tileTrap 0
  if s.tile.busy then wait
  if write && progPending s.tile then tileTrap 2

/-- A register that shows or governs the counters: the steps up to the access are accounted first (R456). -/
def SysReg.isCounter (r : SysReg) : Bool :=
  match r with
  | .fc _ | .pmc _ | .pmsel _ | .pma _ | .pmctl => true
  | _ => false

/-- Account the steps up to an access of this register. -/
def accountFor (r : SysReg) : M Unit := modify fun s => if r.isCounter then accountSteps s else s

/-- Row 2 of R132: the register that an index names. -/
def needReg (c : CtxId) (idx : BitVec 12) : M SysReg := do
  let s ← get
  match sysRegAt idx with
  | none => undef
  | some r => if r.present s (s.getCtx c) then return r else undef

/-- MFS (R147). -/
def mfsReg (idx : BitVec 12) (c : CtxId) : M Unit := do
  let r ← needReg c idx
  let s ← get
  let k := s.getCtx c
  needPriv (if k.sup then r.supRead s k else r.userRead s)
  if r.isTile && r != .tpwr then needTileOwner c false
  accountFor r
  let t ← get
  modC c fun k => k.setA (mfsWord t k r)

/-! ## What MTS does -/

/-- The sign extension from bit 55 (R373). -/
def sext56 (v : W64) : W64 := sext (fld v 0 56) 64

/-- VLVL as the Open supervisor's MTS leaves it (R368): the LVL and CTX of the asynchronous vectors whose SW is 0. -/
def vlvlOpen (k : BitVec 3) (old new : W64) : W64 :=
  (List.range 8).foldl (fun acc j =>
    let v := 8 * k.toNat + j
    let async := v == 0 || (decide (32 ≤ v) && decide (v ≤ 37))
    if async && !bit old (8 * j + 3) then
      setFld (setFld acc (8 * j) 3 (fld new (8 * j) 3)) (8 * j + 4) 2 (fld new (8 * j + 4) 2)
    else acc) old

/-- The IPEND bits that a write of 1 clears for this writer (R369). -/
def ipendMask (s : State) (k : Ctx) : W64 :=
  [0, 32, 33, 34, 35, 36, 37].foldl (fun a v =>
    a ||| bAt v (!twoWorlds s || vecSealed s (BitVec.ofNat 6 v) == k.world)) 0

/-- A normalized RMAX entry (R193). -/
def rmaxNorm (v : W32) (boxed : Bool) : W32 :=
  if !boxed || (fld v 23 8 == 0xFF && fld v 0 23 != 0) then 0x7FC00000 else v &&& 0x7FFFFFFF#32

/-- ALU of a new clear of latches by a change of TCFG's mode (R195, R253). -/
def setTcfg (s : State) (v : BitVec 4) : State :=
  let v := if enabled s 3 then v else setBit v 0 false
  { s with tile := { s.tile with
    tcfg := v, latch := if bit v 0 == bit s.tile.tcfg 0 then s.tile.latch else [] } }

/-- FCFG.NTW as it is stored (R189). -/
def ntwStored (s : State) (v : BitVec 5) : BitVec 5 := if !enabled s 4 then 0 else if 16 < v.toNat then 16 else v

/-- Clear VALID in every PROG (R203). -/
def clearProg (t : Tile) : Tile := { t with prog := t.prog.map fun p => setBit p 8 false }

/-- The tile state that an off request loses (R177, R213). -/
def tileOff (s : State) : State :=
  stopTileChannels { s with tile := clearProg { s.tile with
    trow := [], fold := [], tuse := 0, fuse := 0, acx := Vector.replicate 32 0, latch := [], errs := [], tpOn := false, tpDrain := true } }

/-- MTS to TPWR (R213, R214). DESIGN CHOICE (log 68): R178 has every MTS to TPWR wait for the tile instructions before it, and R213 has an
off request take effect while they still run, showing DRAINING; the model follows R213, and waits only while one of them has rows to
perform. -/
def mtsTpwrReg (v : W64) : M Unit := do
  let s ← get
  if s.tile.busy then wait
  if bit v 0 then
    if s.tile.tpDrain then wait
    set (settle { s with tile := { s.tile with tpOn := true } })
  else if s.tile.tpOn then set (settle (tileOff s))
  else pure ()

/-- MTS to a map register completes after the accesses of every context (R357). -/
def mtsPamReg (c : CtxId) (f : State → State) : M Unit := do
  let s ← get
  if ctxStoresInFlight s then wait
  set (f ([0, 1, 2, 3].foldl (fun t x => if x == c then t else dropFills x t) s))

/-- The new bits of WLOCK that are accepted: none of a cache whose every way would be locked out (R489). -/
def wlockNew (old v : BitVec 20) : BitVec 20 :=
  let part := fun (m : BitVec 20) => if (old ||| v) &&& m == m then 0 else v &&& ~~~old &&& m
  part 0x0000F ||| part 0x00FF0 ||| part 0xFF000

/-- Pass what the way with this key holds now through CWBI.LINE and remove it (R489); none when the eviction buffer is full. -/
def flushWay (id : CacheId) (key : Nat) (s : State) : Option State :=
  match readOut id key s with
  | (t, none) => some t
  | (t, some l) =>
    let u := cacheDel t id key
    match id with
    | .l1i => some u
    | .l1d => evictL1D l u
    | .l2 => evictL2 l u

/-- Flush the ways that `bits` selects, of the keys of a cache; the MTS waits while an eviction buffer is full (R489). -/
def flushWays (id : CacheId) (bits : BitVec 20) : List Nat → M Unit
  | [] => return ()
  | key :: rest => do
    if bit bits (id.lockBit + key % id.ways) then
      match flushWay id key (← get) with
      | some t => set t
      | none => wait
    flushWays id bits rest

/-- MTS to WLOCK (R488, R489). -/
def mtsWlockReg (v : W64) : M Unit := do
  let s ← get
  let new := wlockNew s.rel.wlock (fld v 0 20)
  let keys := fun (t : State) (id : CacheId) => (t.caches.lines id).map (·.1)
  flushWays .l1i new (keys s .l1i)
  flushWays .l1d new (keys s .l1d)
  flushWays .l2 new (keys (← get) .l2)
  modify fun t => { t with rel := { t.rel with wlock := t.rel.wlock ||| new } }

/-- MTS to WADDR with EN = 1: translate the line as a load and bring it in (R409). The physical line, and whether ADDR is set
at once: for a device page (R409), and while neither data cache is enabled (R504). DESIGN CHOICE (log 82): a line whose FILL_S ends with the
error is watched all the same, and nothing is set; R503 has no row for it. -/
def armLine (c : CtxId) (v : W64) : M (Nat × Bool) := do
  let a := v &&& ~~~(0x3F : W64)
  needCanonical c a .read
  needDdc c .read a 64
  let p ← translateCtx c ⟨a, .read, none, none, false⟩
  let n := lineNo p.pa
  if inSpad p.pa || p.dev then return (n, p.dev)
  let s ← get
  if !(cacheOn s .l1d || cacheOn s .l2) then return (n, true)
  match ← readLine (.ctx c) .scalar p.str a n with
  | none => pure ()
  | some _ =>
    if !holds (← get) n then
      modify (dropFills c)
      wait
  return (n, false)

/-- MTS to WADDR (R408, R409). -/
def mtsWaddrReg (c : CtxId) (v : W64) : M Unit := do
  let put := fun (w : Watch) (e : Bool) => modC c fun k =>
    { k with ev := { k.ev with evpend := setBit k.ev.evpend 0 e, waddr := v &&& ~~~(0x3E : W64), watch := w } }
  if bit v 0 then
    let (n, dev) ← armLine c v
    put (.line n) dev
  else put .off false

/-- MTS to one of the level watches (R408): the kind is armed anew and fires at once if its condition holds. -/
def armLevel (c : CtxId) (kind : Nat) (f : Events → Events) : M Unit := do
  modC c fun k => { k with ev := { f k.ev with evpend := setBit k.ev.evpend kind false } }
  modify settle

/-- PMSEL as it is stored (R453): SW is stored as 0 when Open-world code writes it. -/
def pmselStored (s : State) (k : Ctx) (v : W64) : BitVec 25 :=
  if twoWorlds s && !k.world then setBit (fld v 0 25) 15 false else fld v 0 25

/-- Software's fields of PACE (R501). -/
def setPace (s : State) (v : W64) : State :=
  let cap : BitVec 4 := fld v 0 4
  let floor : BitVec 4 := if fld v 4 4 < cap then cap else fld v 4 4
  paceApply { s with pace := { s.pace with cap := cap, floor := floor, lim := s.pace.lim && !bit v 16 } }

/-- The fields of ST that FBST and RFE restore (R372, R384): C, Z, N, V, MASK, SUP, WORLD, UA, RH, RM and the sticky flags;
WORLD is always 0 in the capability configuration (R97). -/
def restoreMask (s : State) : W32 := if capsConf s then 0x00FBAF0F#32 else 0x00FBBF0F#32

/-- An MTS to a register with no behaviour but to hold what is written. FBPC holds a multiple of 4, as the PC it returns to is one (R108,
log 64). While the tile unit's power gate is open, ACX reads as 0 whatever is written (R213, R215, log 65). -/
def mtsPlain (r : SysReg) (k : Ctx) (w : TWord) (s : State) (c : CtxId) : State :=
  let v := w.val
  let sys := fun (f : SysRegs → SysRegs) => s.modCtx c fun k => { k with sys := f k.sys }
  match r with
  | .vbar => sys fun q => { q with vbar := sext56 v &&& ~~~(0x7FF : W64) }
  | .svbar => sys fun q => { q with svbar := sext56 v &&& ~~~(0x7FF : W64) }
  | .evec => { s with intr := { s.intr with evec := at' 2 (fld v 2 50) ||| 1 } }
  | .esp => sys fun q => { q with esp := at' 4 (fld v 4 48) }
  | .esplo => sys fun q => { q with esplo := at' 4 (fld v 4 48) }
  | .sentry => if bit s.intr.sentry 1 then s else { s with intr := { s.intr with sentry := at' 0 (fld v 0 56) } }
  | .mcsyn =>
    if bit v 63 then
      { s with intr := { s.intr with mcsyn := setBit (setBit s.intr.mcsyn 63 false) 6 false, mcaddr := 0 } }
    else s
  | .ipend => { s with intr := { s.intr with ipend := s.intr.ipend &&& ~~~(v &&& ipendMask s k) } }
  | .fbpc => s.modCtx c fun k => { k with fast := { k.fast with fbpc := v &&& ~~~(3 : W64) } }
  | .fbst => s.modCtx c fun k =>
      let m := restoreMask s
      { k with fast := { k.fast with fbst := (k.fast.fbst &&& ~~~m) ||| (fld v 0 32 &&& m) } }
  | .tgrant => sys fun q => { q with tgrant := at' 1 (fld v 1 15) }
  | .vlvl i =>
    let old := vget s.intr.vlvl i.toNat 0
    let new := if stage2Owner s k then v &&& 0x3F3F3F3F3F3F3F3F#64 else vlvlOpen i old v
    wakeIrqs { s with intr := { s.intr with vlvl := vset s.intr.vlvl i.toNat new } }
  | .iow i => { s with intr := { s.intr with iow := vset s.intr.iow i.toNat (at' 0 (fld v 0 51)) } }
  | .bank b i => s.modCtx c fun k =>
      let q := k.banks.get b
      let q' := if i = 0 then { q with sp := v } else if i = 1 then { q with lo := v &&& ~~~(7 : W64) }
        else { q with hi := v &&& ~~~(7 : W64) }
      { k with banks := k.banks.set b q' }
  | .gateh t => { s with intr := { s.intr with gateh := vset s.intr.gateh t.toNat w } }
  | .gatel t => { s with intr := { s.intr with gatel := vset s.intr.gatel t.toNat w } }
  | .tcr => sys fun q => { q with tcr := at' 0 (fld v 0 1) }
  | .ttb1 => sys fun q => { q with ttb1 := at' 0 (fld v 0 52) }
  | .ttb2 => sys fun q => { q with ttb2 := v &&& 0x000FFFFFFFFFF07F#64 }
  | .dpri => { s with drover := { s.drover with dpri := fld v 0 8 } }
  | .dquant => { s with drover := { s.drover with dquant := fld v 0 16 } }
  | .town =>
    let t := if fld v 0 2 == s.drover.owner then s else transferTile (fld v 0 2) false s
    { t with drover := { t.drover with xfer := false } }
  | .tcmp => { s with time := { s.time with tcmp := v, timerArmed := true } }
  | .tctl => { s with time := { s.time with ten := bit v 0, timerArmed := true } }
  | .fws => s.modCtx c fun k => { k with win := { k.win with fsd := fld v 16 32 } }
  | .fsptr => s.modCtx c fun k => { k with win := { k.win with fsptr := v &&& ~~~(0xFF : W64) } }
  | .evpend => settle (s.modCtx c fun k => { k with ev := { k.ev with evpend := k.ev.evpend &&& ~~~(fld v 0 8) } })
  | .fc i => { s with perf := { s.perf with fc := vset s.perf.fc i.toNat v } }
  | .pmc i => { s with perf := { s.perf with pmc := vset s.perf.pmc i.toNat (fld v 0 48) } }
  | .pmsel i => { s with perf := { s.perf with pmsel := vset s.perf.pmsel i.toNat (pmselStored s k v) } }
  | .pma i => { s with perf := { s.perf with pma := vset s.perf.pma i.toNat v } }
  | .pmctl => { s with perf := { s.perf with pmctl := v &&& 0xFFFF0007#64 } }
  | .pmovf => { s with perf := { s.perf with pmovf := s.perf.pmovf &&& ~~~(fld v 0 16) } }
  | .frzcfg => { s with perf := { s.perf with frzcfg := fld v 0 21 } }
  | .frzstat => { s with perf := { s.perf with frzstat := s.perf.frzstat &&& ~~~(fld v 0 20) } }
  | .dmpctl => { s with trace := { s.trace with dmpctl := v &&& 0xFFFFFFFF01#64 } }
  | .dmstat => { s with trace := { s.trace with dmFull := s.trace.dmFull && !bit v 48 } }
  | .trctl => { s with trace := { s.trace with trctl := if enabled s 8 then v &&& 0xFFFFFFFF0001FFFF#64 else 0 } }
  | .trstat => { s with trace := { s.trace with trFull := s.trace.trFull && !bit v 0, trLost := fld v 16 16 } }
  | .markr => sys fun q => { q with markr := fld v 0 32 }
  | .pace => setPace s v
  | .plimcnt => { s with pace := { s.pace with plimcnt := v } }
  | .kdin => sys fun q => { q with kdin := v }
  | .wsreq => wayside 7 (some c) (fld v 0 32) s
  | .sd i => { s with tile := { s.tile with sd := s.tile.sd.set i (at' 0 (fld v 0 51)) } }
  | .tflags => { s with tile := { s.tile with tflags := v &&& 0x3F3F3F3F3F3F#64 } }
  | .acx n =>
    if s.tile.tpOn then
      { s with tile := { s.tile with acx := vset s.tile.acx n.toNat (fld v 0 32), fuse := setBit s.tile.fuse n.toNat true } }
    else s
  | .rmax r => { s with tile := { s.tile with
      rmax := vset s.tile.rmax r.toNat (rmaxNorm (fld v 0 32) (fld v 32 32 == 0xFFFFFFFF)) } }
  | _ => s

/-- What an MTS that has passed its checks does. -/
def mtsApply (r : SysReg) (w : TWord) (c : CtxId) : M Unit := do
  let v := w.val
  match r with
  | .pamb n => mtsPamReg c fun t => { t with pamb := vset t.pamb n.toNat (v &&& 0x000FFFFFFFFFF007#64) }
  | .paml n => mtsPamReg c fun t => { t with paml := vset t.paml n.toNat (v &&& 0x000FFFFFFFFFF000#64) }
  | .waddr => mtsWaddrReg c v
  | .wland => armLevel c 1 fun e => { e with wland := v &&& 0xFFFFFFFF0000001F#64, landPeer := none }
  | .wmov => armLevel c 2 fun e => { e with wmov := v &&& 0xFF#64 }
  | .wdl => armLevel c 3 fun e => { e with wdl := v }
  | .wlock => mtsWlockReg v
  | .tpwr => mtsTpwrReg v
  | .tcfg => do
    if (← get).tile.tileq.isEmpty then modify fun s => setTcfg s (fld v 0 4) else wait
  | .fcfg => do
    if (← get).tile.tileq.isEmpty then
      modify fun s => { s with tile := { s.tile with ntw := ntwStored s (fld v 0 5) } }
    else wait
  | r => modify fun s => mtsPlain r (s.getCtx c) w s c

/-- MTS (R147). -/
def mtsReg (idx : BitVec 12) (c : CtxId) : M Unit := do
  let r ← needReg c idx
  let s ← get
  let k := s.getCtx c
  let w := k.getA
  if !k.sup && !r.userWrite then
    needPriv (r.userRead s)
    if r.isTile && r != .tpwr then needTileOwner c true
  else if k.sup && r.readOnly then
    needPriv (r.supRead s k)
    if r.isTile then needTileOwner c true
  else
    if k.sup then needPriv (r.supWrite s k w.val)
    if r.isTile && r != .tpwr then needTileOwner c true
    if !r.accepts w.tag then tagFault w.tag
    accountFor r
    mtsApply r w c

/-- MFS (R147). Bits [24:12] must be 0 (R128). -/
def execMfs (f : BitVec 25) (s : State) : Host.Outcome State Fault Refusal :=
  runSeq (fun c => do needDef (fld f 12 13 == 0); mfsReg (fld f 0 12) c) s

/-- The MTS of one index: bits [24:12] must be 0 (R128). -/
def mtsInstr (idx : BitVec 12) (r : BitVec 13) (c : CtxId) : M Unit := do
  needDef (r == 0)
  mtsReg idx c

/-- MTS (R147). -/
def execMts (f : BitVec 25) (s : State) : Host.Outcome State Fault Refusal :=
  runSeq (mtsInstr (fld f 0 12) (fld f 12 13)) s

/-- The MTS to TPWR of a context whose A has ON = b; it cannot be this command with another A (log 3). -/
def mtsTpwrWhen (b : Bool) (r : BitVec 13) (s : State) : Host.Outcome State Fault Refusal :=
  match issuing s with
  | some c => if bit (s.getCtx c).getA.val 0 == b then runSeq (mtsInstr 0x60D r) s else .next s
  | none => .next s

/-- MTS to TPWR with ON = 0 (R213). -/
def execMtsTpwrOff (r : BitVec 13) (s : State) : Host.Outcome State Fault Refusal := mtsTpwrWhen false r s
/-- MTS to TPWR with ON = 1 (R214). -/
def execMtsTpwrOn (r : BitVec 13) (s : State) : Host.Outcome State Fault Refusal := mtsTpwrWhen true r s
/-- MTS to ACXn (R192). -/
def execMtsAcx (n : BitVec 5) (r : BitVec 13) (s : State) : Host.Outcome State Fault Refusal :=
  runSeq (mtsInstr (0x620#12 + n.setWidth 12) r) s
/-- MTS to RMAXr (R193). -/
def execMtsRmax (n : BitVec 5) (r : BitVec 13) (s : State) : Host.Outcome State Fault Refusal :=
  runSeq (mtsInstr (0x640#12 + n.setWidth 12) r) s
/-- MTS to TCFG (R195). -/
def execMtsTcfg (r : BitVec 13) (s : State) : Host.Outcome State Fault Refusal := runSeq (mtsInstr 0x60B r) s
/-- MTS to FCFG (R189). -/
def execMtsFcfg (r : BitVec 13) (s : State) : Host.Outcome State Fault Refusal := runSeq (mtsInstr 0x60C r) s
/-- MTS to TOWN (R402, R419). -/
def execMtsTown (r : BitVec 13) (s : State) : Host.Outcome State Fault Refusal := runSeq (mtsInstr 0x203 r) s
/-- MTS to WADDR (R409). -/
def execWaddrArm (r : BitVec 13) (s : State) : Host.Outcome State Fault Refusal := runSeq (mtsInstr 0x221 r) s
/-- MTS to WLAND, WMOV or WDL (R408). -/
def execWatchArm (k : WatchReg) (r : BitVec 13) (s : State) : Host.Outcome State Fault Refusal :=
  runSeq (mtsInstr (match k with | .wland => 0x222 | .wmov => 0x223 | .wdl => 0x224) r) s
/-- MTS to TCMP or TCTL (R403). -/
def execMtsTimer (ctl : Bool) (r : BitVec 13) (s : State) : Host.Outcome State Fault Refusal :=
  runSeq (mtsInstr (if ctl then 0x205 else 0x204) r) s
/-- MTS to PAMBn or PAMLn (R357). -/
def execMtsPam (n : BitVec 4) (lim : Bool) (r : BitVec 13) (s : State) : Host.Outcome State Fault Refusal :=
  runSeq (mtsInstr (0x120#12 + at' 1 n + bAt 0 lim) r) s
/-- MTS to TCR, TTB1 or TTB2 (R343). -/
def execMtsTranslation (k : XlateReg) (r : BitVec 13) (s : State) : Host.Outcome State Fault Refusal :=
  runSeq (mtsInstr (match k with | .tcr => 0x100 | .ttb1 => 0x101 | .ttb2 => 0x102) r) s
/-- MTS to EVEC (R373). -/
def execMtsEvec (r : BitVec 13) (s : State) : Host.Outcome State Fault Refusal := runSeq (mtsInstr 0x043 r) s
/-- MTS to VLVLk (R368). -/
def execMtsVlvl (k : BitVec 3) (r : BitVec 13) (s : State) : Host.Outcome State Fault Refusal :=
  runSeq (mtsInstr (0x050#12 + k.setWidth 12) r) s
/-- MTS to FBST (R372). -/
def execMtsFbst (r : BitVec 13) (s : State) : Host.Outcome State Fault Refusal := runSeq (mtsInstr 0x04B r) s
/-- MTS to WLOCK (R489). -/
def execMtsWlock (r : BitVec 13) (s : State) : Host.Outcome State Fault Refusal := runSeq (mtsInstr 0x518 r) s
/-- MTS to WSREQ (R491). -/
def execMtsWsreq (r : BitVec 13) (s : State) : Host.Outcome State Fault Refusal := runSeq (mtsInstr 0x528 r) s
/-- MTS to PACE (R501). -/
def execMtsPace (r : BitVec 13) (s : State) : Host.Outcome State Fault Refusal := runSeq (mtsInstr 0x500 r) s

/-- MFS of KDOUT (R492). -/
def execMfsKdout (r : BitVec 13) (s : State) : Host.Outcome State Fault Refusal :=
  runSeq (fun c => do needDef (r == 0); mfsReg 0x521 c) s

end Sys2Proof.Machine
end

