-- ==== Sys2Proof/Machine/Control.lean ====
section
/-!
DEFINITION. Moves, skips, control transfer and returns (04 R145, R148 to R151; 03 R114 to R116; 12 R382 to R387; 13 R416,
R417).
-/

namespace Sys2Proof.Machine

open Sys2Proof

/-! ## MOV (R145) -/

/-- The source of a MOV; none for a reserved code. -/
def movSource (k : Ctx) (code : BitVec 6) : Option TWord :=
  if 0x20 ≤ code.toNat then
    if k.hasSlot (fld code 0 5) then some (k.slot (fld code 0 5)) else none
  else match code.toNat with
    | 0x00 => some k.getA
    | 0x01 => some k.getX
    | 0x02 => some k.getY
    | 0x03 => some ⟨k.stk.sp, Tag.dptr⟩
    | 0x04 => some ⟨k.stk.lo, Tag.dptr⟩
    | 0x05 => some ⟨k.stk.hi, Tag.dptr⟩
    | 0x06 => some ⟨k.pc, Tag.cptr⟩
    | 0x07 => some ⟨k.st.setWidth 64, Tag.raw⟩
    | 0x08 => some k.mh
    | 0x09 => some k.ml
    | 0x0A => some k.mq
    | 0x0B => some k.mr
    | _ => none

/-- The destination code is assigned and can be written. -/
def movDestOk (k : Ctx) (code : BitVec 6) : Bool :=
  if 0x20 ≤ code.toNat then k.hasSlot (fld code 0 5) else decide (code.toNat < 0x0C) && code != 0x06

/-- The tag that a destination accepts (R96, R103). -/
def movAccepts (code : BitVec 6) (t : Tag) : Bool :=
  if code.toNat = 3 ∨ code.toNat = 4 ∨ code.toNat = 5 then t == Tag.dptr
  else if code.toNat = 7 then isPlain t else true

/-- The fields of ST that a MOV of this context writes (R97): MASK and UA by supervisor code; MASK is 7 while ESC is 1. -/
def stWritable (k : Ctx) : W32 := if !k.sup then 0x00FB000F#32 else if k.inEsc then 0x00FB200F#32 else 0x00FB270F#32

/-- Write the destination of a MOV. -/
def movDest (k : Ctx) (code : BitVec 6) (w : TWord) : Ctx :=
  if 0x20 ≤ code.toNat then k.setSlot (fld code 0 5) w
  else match code.toNat with
    | 0x00 => k.setA w
    | 0x01 => k.setX w
    | 0x02 => k.setY w
    | 0x03 => k.setSp w.val
    | 0x04 => k.setStk { k.stk with lo := w.val &&& ~~~(7 : W64) }
    | 0x05 => k.setStk { k.stk with hi := w.val &&& ~~~(7 : W64) }
    | 0x07 => { k with st := (k.st &&& ~~~(stWritable k)) ||| (fld w.val 0 32 &&& stWritable k) }
    | 0x08 => { k with mh := w }
    | 0x09 => { k with ml := w }
    | 0x0A => { k with mq := w }
    | _ => { k with mr := w }

/-- MOV (R145). A reserved destination faults before the source is read (R7). -/
def movInstr (f : BitVec 25) (c : CtxId) : M Unit := do
  needDef (fld f 0 13 == 0 && movDestOk (← getC c) (fld f 19 6))
  if bit f 18 && (← getC c).hasSlot (fld f 13 5) then
    let _ ← readSlot c (fld f 13 5)
  let k ← getC c
  let dst : BitVec 6 := fld f 19 6
  match movSource k (fld f 13 6) with
  | none => undef
  | some w =>
    if !movAccepts dst w.tag then tagFault w.tag
    modC c fun k => movDest k dst w

/-- MOV. -/
def execMov (f : BitVec 25) (s : State) : Host.Outcome State Fault Refusal := runSeq (movInstr f) s

/-! ## SKIP (R114, R116, R148) -/

/-- The register that conditions 0x10 to 0x1B test. -/
def skipReg (k : Ctx) (cc : BitVec 5) : TWord :=
  if cc.toNat < 0x14 then k.getA else if cc.toNat < 0x18 then k.getX else k.getY

/-- The condition (R114). `t`: the tag and the field of TAG and NTAG. -/
def skipCond (k : Ctx) (cc : BitVec 5) (t u : Tag) : Bool :=
  let c := bit k.st 0
  let z := bit k.st 1
  let n := bit k.st 2
  let v := bit k.st 3
  let r := (skipReg k cc).val
  match cc.toNat with
  | 0x00 => z
  | 0x01 => !z
  | 0x02 => c
  | 0x03 => !c
  | 0x04 => n
  | 0x05 => !n
  | 0x06 => v
  | 0x07 => !v
  | 0x08 => c && !z
  | 0x09 => !c || z
  | 0x0A => n == v
  | 0x0B => n != v
  | 0x0C => !z && n == v
  | 0x0D => z || n != v
  | 0x0E => true
  | 0x0F => false
  | 0x10 | 0x14 | 0x18 => r == 0
  | 0x11 | 0x15 | 0x19 => r != 0
  | 0x12 | 0x16 | 0x1A => bit r 63
  | 0x13 | 0x17 | 0x1B => !bit r 63
  | 0x1C => t == u
  | _ => t != u

/-- SKIP (R114): the pair of a SKIP that does not skip takes no interrupt (R116). -/
def skipInstr (f : BitVec 25) (c : CtxId) : M Unit := do
  let k ← getC c
  let cc : BitVec 5 := fld f 20 5
  let r : BitVec 2 := fld f 18 2
  let isTag := cc == 0x1C || cc == 0x1D
  needDef (decide (cc.toNat < 0x1E) && fld f 0 14 == 0)
  needDef (if isTag then r != 3 else r == 0 && fld f 14 4 == 0)
  if 0x10 ≤ cc.toNat ∧ cc.toNat < 0x1C ∧ (skipReg k cc).tag == Tag.poison then tagFault Tag.poison
  let t := if r == 0 then k.getA.tag else if r == 1 then k.getX.tag else k.getY.tag
  let hit := skipCond k cc t (fld f 14 4)
  modC c fun k => { k with pc := k.pc + (if hit then 8 else 4), skipPair := !hit }

/-- SKIP. -/
def execSkip (f : BitVec 25) (s : State) : Host.Outcome State Fault Refusal := runInstr (skipInstr f) s

/-! ## Jumps (R149) -/

/-- Rows 4 to 6 for a transfer target. -/
def targetOf (c : CtxId) (m : BitVec 3) (d : BitVec 22) : M W64 := do
  needBase c .code m
  let ea ← addrOf c m d
  needCanonical c ea .exec
  needAligned ea 4
  return ea

/-- The target check (R149): PCC, then translation as a fetch. -/
def targetCheck (c : CtxId) (ea : W64) (rh : Option Bool) : M Phys := do
  let s ← get
  if capsConf s then needCap (capAccess s (s.getCtx c).pcc 2 ea 4)
  translateCtx c ⟨ea, .exec, rh, none, false⟩

/-- JMP (R149). -/
def jmpInstr (m : BitVec 3) (d : BitVec 22) (c : CtxId) : M Unit := do
  needMode c .code m d
  let ea ← targetOf c m d
  let _ ← targetCheck c ea (some (← getC c).rh)
  postIncrement c m d
  modC c fun k => { k with pc := ea }

/-- JMP. -/
def execJmp (m : BitVec 3) (d : BitVec 22) (s : State) : Host.Outcome State Fault Refusal := runInstr (jmpInstr m d) s

/-- A word tagged POISON becomes 0 tagged INT (R162). -/
def rhahaZero (w : TWord) : TWord := if w.tag == Tag.poison then ⟨0, Tag.int⟩ else w

/-- Rhaha's cleared window: every POISON slot of the window in force (R162). -/
def rhahaZeroSlots (k : Ctx) : Ctx :=
  (List.range 32).foldl (fun k i =>
    let j := BitVec.ofNat 5 i
    if k.hasSlot j then k.setSlot j (rhahaZero (k.slot j)) else k) k

/-- A context enters Rhaha mode (R162). -/
def enterRhaha (k : Ctx) : Ctx :=
  let k1 := rhahaZeroSlots k
  { (k1.setA (rhahaZero k1.getA)).setX (rhahaZero k1.getX) with st := setBit k.st 15 true }

/-- JMPX (R149). -/
def jmpxInstr (m : BitVec 3) (d : BitVec 22) (c : CtxId) : M Unit := do
  needMode c .code m d
  let ea ← targetOf c m d
  let p ← targetCheck c ea none
  if p.rh && !enabled (← get) 0 then undef
  postIncrement c m d
  modC c fun k =>
    let k1 := if p.rh then enterRhaha k else k
    { k1 with pc := ea }

/-- JMPX. -/
def execJmpx (m : BitVec 3) (d : BitVec 22) (s : State) : Host.Outcome State Fault Refusal := runInstr (jmpxInstr m d) s

/-! ## CALL and RET (R149, R150, R416) -/

/-- (i - 1) mod 7. -/
def prevWin (i : BitVec 3) : BitVec 3 := BitVec.ofNat 3 ((i.toNat + 6) % 7)
/-- (i + 1) mod 7. -/
def nextWin (i : BitVec 3) : BitVec 3 := BitVec.ofNat 3 ((i.toNat + 1) % 7)

/-- A window is free for a CALL; the escalation handler takes none (R379). -/
def needFreeWindow (c : CtxId) : M Unit := do
  let k ← getC c
  if !k.inEsc && k.win.res == 7 then raise 16

/-- CALL takes the next window (R416). -/
def callWindow (k : Ctx) : Ctx :=
  if k.inEsc then k
  else
    let n := nextWin k.win.cur
    let link := if k.window == 7 then setBit k.win.link n.toNat true else k.win.link
    ({ k with win := { k.win with cur := n, res := k.win.res + 1, link := link } }).allocWindow n.toNat

/-- RET finds its caller's window (R416). -/
def needCallerWindow (c : CtxId) : M Unit := do
  let k ← getC c
  if !k.inEsc && (k.window == 7 || (!bit k.win.link k.win.cur.toNat && k.win.res == 1)) then raise 17

/-- RET returns to the caller's window (R416). -/
def retWindow (k : Ctx) : Ctx :=
  if k.inEsc then k
  else { k with win := { k.win with
    cur := prevWin k.win.cur, res := k.win.res - 1, link := setBit k.win.link k.win.cur.toNat false } }

/-- The push of a CALL: rows 5 to 9 for the word at SP - 8 (R149). -/
def pushPhys (c : CtxId) : M Phys := do
  let a := (← getC c).stk.sp - 8
  needRows c .write a 8 true false
  translateCtx c ⟨a, .write, none, none, false⟩

/-- Steps 3 to 6 of a CALL to `ea` that returns to `ret`. DESIGN CHOICE (log 82): the push is a scalar store of its context, which its own
watch does not see (R409). -/
def callFinish (c : CtxId) (p : Phys) (ea ret : W64) : M Unit := do
  needFreeWindow c
  let path ← prepPhys c p 8
  commitPhys c path p 8 ⟨ret, Tag.cptr⟩
  modC c fun k => { callWindow (k.setSp (k.stk.sp - 8)) with pc := ea }

/-- CALL (R149). -/
def callInstr (m : BitVec 3) (d : BitVec 22) (c : CtxId) : M Unit := do
  needMode c .code m d
  let k ← getC c
  needDef (!k.fib)
  let ea ← targetOf c m d
  let p ← pushPhys c
  let _ ← targetCheck c ea (some k.rh)
  callFinish c p ea (k.pc + 4)
  postIncrement c m d

/-- CALL. -/
def execCall (m : BitVec 3) (d : BitVec 22) (s : State) : Host.Outcome State Fault Refusal := runInstr (callInstr m d) s

/-- The pop of a RET: the word at SP, tagged CPTR and a multiple of `unit` (R150, row 10). -/
def popReturn (c : CtxId) (unit : Nat) : M W64 := do
  let w ← loadWord c (← getC c).stk.sp true
  if w.tag != Tag.cptr then tagFault w.tag
  needAligned w.val unit
  return w.val

/-- RET N (R150). -/
def retInstr (f : BitVec 25) (c : CtxId) : M Unit := do
  needDef (fld f 8 17 == 0 && !(← getC c).fib)
  let t ← popReturn c 4
  needCallerWindow c
  modC c fun k => { retWindow (k.setSp (k.stk.sp + 8 + 8 * (fld f 0 8).setWidth 64)) with pc := t }

/-- RET. -/
def execRet (f : BitVec 25) (s : State) : Host.Outcome State Fault Refusal := runInstr (retInstr f) s

/-! ## System calls (R151, R387) -/

/-- TRAP N (R151). -/
def trapInstr (f : BitVec 25) (_ : CtxId) : M Unit := do
  needDef (fld f 8 17 == 0)
  let n : BitVec 8 := fld f 0 8
  let v : BitVec 6 := if n.toNat < 16 then BitVec.ofNat 6 (48 + n.toNat) else 47
  throw (.exc ⟨v, n, none, 4, false, false⟩)

/-- TRAP. -/
def execTrap (f : BitVec 25) (s : State) : Host.Outcome State Fault Refusal := runInstr (trapInstr f) s

/-- STILE (R151, R387). -/
def stileInstr (f : BitVec 25) (c : CtxId) : M Unit := do
  let s ← get
  let k := s.getCtx c
  needDef (f == 0 && !capsConf s && !k.world && bit s.intr.sentry 0)
  needPriv k.sup
  throw (.exc ⟨0, 0, none, 4, true, false⟩)

/-- STILE. -/
def execStile (f : BitVec 25) (s : State) : Host.Outcome State Fault Refusal := runInstr (stileInstr f) s

/-! ## Returns (R383 to R385, R417) -/

/-- What a return restores and from what it was interrupted (R385). -/
structure ReturnImage where
  st : W32
  orig : Origin
  ofib : Bool
  pcc : CapPair
  /-- the words of PCC came from registers, or stood in memory as R389 asks -/
  placed : Bool
  deriving DecidableEq, Repr

/-- The first check of R385 that fails, by its number: 1 privilege, 2 world, 3 mask, 4 PCC, 6 fast-bank origin. -/
def returnCheck (s : State) (k : Ctx) (r : ReturnImage) : Option (BitVec 8) :=
  if bit r.st 11 && !r.orig.sup then some 1
  else if twoWorlds s && (bit r.st 12 != r.orig.world || (r.orig.world && !k.world)) then some 2
  else if fld r.st 8 3 < r.orig.mask then some 3
  else if capsConf s && !(r.placed && capValid s r.pcc && r.pcc.perm 2) then some 4
  else if r.ofib && !k.inEsc then some 6
  else none

/-- An illegal return ends the instruction (R385); a PCC whose CHK does not match counts as forged too (R394). -/
def needReturn (s : State) (k : Ctx) (r : ReturnImage) : M Unit :=
  match returnCheck s k r with
  | some n => throw (.illegal n (n == 4 && capTagged r.pcc && !capValid s r.pcc))
  | none => pure ()

/-- RFI (R383): check the main bank against the latched origin and switch back to it. PC is a multiple of 4 (R108). -/
def rfiInstr (r : BitVec 24) (c : CtxId) : M Unit := do
  let s ← get
  let k := s.getCtx c
  needDef (r == 0 && k.fib)
  needPriv k.sup
  needReturn s k ⟨k.fast.fbst, k.fast.orig, false, k.fast.fbpcc, true⟩
  modC c fun k => { k with
    pc := k.fast.fbpc &&& ~~~(3 : W64), st := k.fast.fbst
    pcc := if capsConf s then k.fast.fbpcc else k.pcc
    ddc := if capsConf s then k.fast.fbddc else k.ddc }

/-- RFI. -/
def execRfi (r : BitVec 24) (s : State) : Host.Outcome State Fault Refusal := runInstr (rfiInstr r) s

/-- Release the reserved window with every linked window and the windows newer than it (R417). -/
def releaseWindow (w : Windows) : Windows :=
  match (List.range 7).find? fun i => bit w.link i with
  | none => { w with rsv := false }
  | some i =>
    let back := (w.cur.toNat + 7 - i) % 7 + 1
    { w with res := w.res - BitVec.ofNat 3 back, cur := prevWin (BitVec.ofNat 3 i), link := 0, rsv := false }

/-- Read n words of a frame. -/
def frameRead (c : CtxId) (a : W64) : Nat → M (List TWord)
  | 0 => return []
  | n + 1 => do
    let w ← loadAt c a 8
    return w :: (← frameRead c (a + 8) n)

/-- ST as RFE restores it (R384 step 4). -/
def rfeSt (s : State) (k : Ctx) (img : W64) : W32 :=
  let m := restoreMask s
  setBit (setBit ((k.st &&& ~~~m) ||| (fld img 0 32 &&& m)) 14 (bit img 37)) 26 false

/-- Steps 4 to 8 of R384 for the words of a frame. A return into Rhaha mode ignores bit 1 of the PC (R165). -/
def rfeRestore (s : State) (w : Nat → TWord) (k : Ctx) : Ctx :=
  let esc := k.inEsc
  let k1 := k.setSp (k.stk.sp + 64)
  let k2 := { k1 with st := rfeSt s k (w 1).val }
  let k3 := k2.setSp (w 2).val
  let k4 := if capsConf s then { k3 with pcc := ⟨w 4, w 5⟩, ddc := ⟨w 6, w 7⟩ }
    else ((k3.setA (w 3)).setX (w 4)).setY (w 5)
  { k4 with win := if esc then k4.win else releaseWindow k4.win
            pc := if bit (w 1).val 15 then (w 0).val &&& ~~~(2 : W64) else (w 0).val }

/-- The frame of an RFE has the tags and the alignment of R384 step 2. -/
def frameTagsOk (w : Nat → TWord) : Bool :=
  (w 0).tag == Tag.cptr && (w 2).tag == Tag.dptr && isPlain (w 1).tag &&
    (w 0).val.toNat % (if bit (w 1).val 15 then 2 else 4) == 0

/-- RFE (R384). -/
def rfeInstr (r : BitVec 24) (c : CtxId) : M Unit := do
  let k ← getC c
  needDef (r == 0 && !k.fib)
  needPriv k.sup
  let a := k.stk.sp
  needCanonical c a .read
  needAligned a 8
  needStack c a 64
  needDdc c .read a 64
  let ws ← frameRead c a 8
  let w := fun i => ws.getD i TWord.poison
  if !frameTagsOk w then throw (.illegal 5 false)
  let s ← get
  let img := (w 1).val
  needReturn s k ⟨fld img 0 32 &&& restoreMask s, ⟨bit img 35, bit img 36, fld img 32 3⟩, bit img 37, ⟨w 4, w 5⟩,
    a.toNat % 16 == 0⟩
  modC c (rfeRestore s w)

/-- RFE. -/
def execRfe (r : BitVec 24) (s : State) : Host.Outcome State Fault Refusal := runInstr (rfeInstr r) s

/-! ## Reserved opcodes (R7) -/

/-- RESERVED_OPCODE: the undefined-instruction fault of a reserved opcode or of a function value that its group leaves
reserved (R128), with no state changed before it. -/
def execReservedOpcode (w : W32) (s : State) : Host.Outcome State Fault Refusal :=
  if wordReserved w then runInstr (fun _ => undef) s else .refused .illFormed

end Sys2Proof.Machine
end

