-- ==== Sys2Proof/Machine/IntAlu.lean ====
section
/-!
DEFINITION. Integer operations (04 R137 to R141, 03 R117 to R119) and the ALU1 group (04 R146).
-/

namespace Sys2Proof.Machine

open Sys2Proof

/-- Tags that the logic row of R103 accepts. -/
def isLogic (t : Tag) : Bool := isPlain t || t == Tag.flt || isPtr t || t == Tag.shape

/-- Result tag of the logic row (R103). -/
def logicTag (ts : List Tag) : Tag := if ts.all fun t => t == Tag.int then Tag.int else Tag.raw

/-- Which sums: how they combine and which pointer pairs R103 accepts. -/
inductive SumOp where
  | add | adc | sub | sbc | cmp
  deriving DecidableEq, Repr

/-- The operand's tag is accepted with A's (R103). -/
def sumAccepts (o : SumOp) (a b : Tag) : Bool :=
  (isPlain a && isPlain b) || (isPtr a && isPlain b) || (o == .add && isPlain a && isPtr b) ||
    ((o == .sub || o == .cmp) && isPtr a && a == b)

/-- Result tag of a sum (R103). -/
def sumTag (a b : Tag) : Tag :=
  if isPtr a && isPtr b then Tag.int else if isPtr a then a else if isPtr b then b else Tag.int

/-- The sum (R137, R138); `c` is ST.C. -/
def sumOf (o : SumOp) (a b : W64) (c : Bool) : SumRes :=
  match o with
  | .add => addSum a b false
  | .adc => addSum a b c
  | .sub | .cmp => subSum a b false
  | .sbc => subSum a b (!c)

/-- ADD, ADC, SUB, SBC, CMP. -/
def sumInstr (o : SumOp) (m : BitVec 3) (d : BitVec 22) (c : CtxId) : M Unit := do
  let (a, b) ← readPair c m d (fun t => isPlain t || isPtr t) (sumAccepts o) (pure ())
  let r := sumOf o a.val b.val (bit (← getC c).st 0)
  postIncrement c m d
  modC c fun k =>
    let k1 := k.setSumFlags r
    if o == .cmp then k1 else k1.setA ⟨r.val, sumTag a.tag b.tag⟩

/-- Two-operand instructions of the logic row: A := f A op, Z and N. -/
def logicInstr (f : W64 → W64 → W64) (m : BitVec 3) (d : BitVec 22) (c : CtxId) : M Unit := do
  let (a, b) ← readPair c m d isLogic (fun _ t => isLogic t) (pure ())
  let r := f a.val b.val
  postIncrement c m d
  modC c fun k => (k.setZN r).setA ⟨r, logicTag [a.tag, b.tag]⟩

/-- The count of a shift or rotate: op[5:0] (R139). -/
def shiftCount (b : W64) : Nat := fldN b 0 6

/-- PERM (R140). -/
def permute (a ctl : W64) : W64 :=
  wordOfBytes fun i =>
    let v := fldN ctl (4 * i) 4
    if v < 8 then byteOf a v else if bit (byteOf a (v - 8)) 7 then 0xFF else 0

/-- The lowest bit and the length of a field (R141). -/
def fieldOf (ctl : W64) : Nat × Nat :=
  let pos := fldN ctl 0 6
  (pos, min (pos + fldN ctl 6 6) 63 - pos + 1)

/-- BFX (R141). -/
def extractField (a ctl : W64) : W64 :=
  let (pos, len) := fieldOf ctl
  let v := (a >>> pos) <<< (64 - len)
  if bit ctl 12 then v.sshiftRight (64 - len) else v >>> (64 - len)

/-- BFI (R141). -/
def insertField (a x ctl : W64) : W64 :=
  let (pos, len) := fieldOf ctl
  let mask : W64 := BitVec.ofNat 64 ((2 ^ len - 1) * 2 ^ pos)
  (a &&& ~~~mask) ||| ((x <<< pos) &&& mask)

/-- The number of leading zero bits (R139). -/
def leadingZeros (a : W64) : Nat := if a = 0 then 64 else 63 - a.toNat.log2

/-- BFX takes any tags but POISON (R103). -/
def bfxInstr (m : BitVec 3) (d : BitVec 22) (c : CtxId) : M Unit := do
  let (a, b) ← readPair c m d (fun t => t != Tag.poison) (fun _ t => t != Tag.poison) (pure ())
  let r := extractField a.val b.val
  postIncrement c m d
  modC c fun k => (k.setZN r).setA ⟨r, Tag.int⟩

/-- BFI reads A, the control and X (R103, R141). -/
def bfiInstr (m : BitVec 3) (d : BitVec 22) (c : CtxId) : M Unit := do
  let (a, b) ← readPair c m d isLogic (fun _ t => isLogic t) (needX c isLogic)
  let x := (← getC c).getX
  let r := insertField a.val x.val b.val
  postIncrement c m d
  modC c fun k => (k.setZN r).setA ⟨r, logicTag [a.tag, b.tag, x.tag]⟩

/-- MUL and MULU: MH:ML := A × op (R117, R137). -/
def mulInstr (signed : Bool) (m : BitVec 3) (d : BitVec 22) (c : CtxId) : M Unit := do
  let (a, b) ← readPair c m d isPlain (fun _ t => isPlain t) (pure ())
  let p : BitVec 128 := if signed then BitVec.ofInt 128 (a.val.toInt * b.val.toInt)
    else BitVec.ofNat 128 (a.val.toNat * b.val.toNat)
  postIncrement c m d
  modC c fun k => { k with mh := ⟨fld p 64 64, Tag.int⟩, ml := ⟨fld p 0 64, Tag.int⟩ }

/-- Quotient, remainder and V of a signed division (R119). -/
def signedDiv (a b : W64) : W64 × W64 × Bool :=
  (BitVec.ofInt 64 (a.toInt.tdiv b.toInt), BitVec.ofInt 64 (a.toInt.tmod b.toInt),
    decide (a = 0x8000000000000000#64) && decide (b = BitVec.allOnes 64))

/-- DIV and DIVU: MQ and MR (R119). -/
def divInstr (signed : Bool) (m : BitVec 3) (d : BitVec 22) (c : CtxId) : M Unit := do
  let (a, b) ← readPair c m d isPlain (fun _ t => isPlain t) (pure ())
  if b.val = 0 then raise 12
  postIncrement c m d
  if signed then
    let (q, r, v) := signedDiv a.val b.val
    modC c fun k => { k with mq := ⟨q, Tag.int⟩, mr := ⟨r, Tag.int⟩, st := setBit k.st 3 v }
  else
    modC c fun k => { k with mq := ⟨a.val / b.val, Tag.int⟩, mr := ⟨a.val % b.val, Tag.int⟩ }

/-- NEG: A := 0 - A (R137, R138). -/
def negInstr (r : BitVec 21) (c : CtxId) : M Unit := do
  needDef (r == 0)
  let a := (← getC c).getA
  if !isPlain a.tag then tagFault a.tag
  let q := subSum 0 a.val false
  modC c fun k => (k.setSumFlags q).setA ⟨q.val, Tag.int⟩

/-- NOT (R137). -/
def notInstr (r : BitVec 21) (c : CtxId) : M Unit := do
  needDef (r == 0)
  let a := (← getC c).getA
  if !isLogic a.tag then tagFault a.tag
  modC c fun k => (k.setZN (~~~a.val)).setA ⟨~~~a.val, logicTag [a.tag]⟩

/-- CLZ (R139). -/
def clzInstr (r : BitVec 21) (c : CtxId) : M Unit := do
  needDef (r == 0)
  let a := (← getC c).getA
  if a.tag == Tag.poison then tagFault a.tag
  let n : W64 := BitVec.ofNat 64 (leadingZeros a.val)
  modC c fun k => (k.setZN n).setA ⟨n, Tag.int⟩

/-- The register that a 2-bit field names: 0 A, 1 X, 2 Y (R146, R148). -/
def axyOf (f : BitVec 2) : Option Axy := if f == 0 then some .a else if f == 1 then some .x else if f == 2 then some .y else none

/-- TAGGET (R146). -/
def taggetInstr (r : BitVec 21) (c : CtxId) : M Unit := do
  needDef (fld r 0 19 == 0)
  match axyOf (fld r 19 2) with
  | none => undef
  | some g => modC c fun k => k.setA ⟨(k.axy g).tag.setWidth 64, Tag.int⟩

/-- The tags TAGSET can set (R105). -/
def tagSettable (t : Tag) : Bool := [0, 1, 2, 3, 4, 5, 8, 15].contains t

/-- TAGSET (R105, R146): any tag but a protected one may be replaced. -/
def tagsetInstr (f : BitVec 25) (c : CtxId) : M Unit := do
  needDef (fld f 0 19 == 0 && tagSettable (fld f 21 4))
  match axyOf (fld f 19 2) with
  | none => undef
  | some g =>
    let w := (← getC c).axy g
    if isProtected w.tag then tagFault w.tag
    modC c fun k => k.setAxy g ⟨w.val, fld f 21 4⟩

/-- ADD (R137, R138). -/
def execAdd (m : BitVec 3) (d : BitVec 22) (s : State) : Host.Outcome State Fault Refusal :=
  runSeq (sumInstr .add m d) s
/-- ADC (R137, R138). -/
def execAdc (m : BitVec 3) (d : BitVec 22) (s : State) : Host.Outcome State Fault Refusal :=
  runSeq (sumInstr .adc m d) s
/-- SUB (R137, R138). -/
def execSub (m : BitVec 3) (d : BitVec 22) (s : State) : Host.Outcome State Fault Refusal :=
  runSeq (sumInstr .sub m d) s
/-- SBC (R137, R138). -/
def execSbc (m : BitVec 3) (d : BitVec 22) (s : State) : Host.Outcome State Fault Refusal :=
  runSeq (sumInstr .sbc m d) s
/-- CMP (R137, R138). -/
def execCmp (m : BitVec 3) (d : BitVec 22) (s : State) : Host.Outcome State Fault Refusal :=
  runSeq (sumInstr .cmp m d) s
/-- AND (R137, R139). -/
def execBand (m : BitVec 3) (d : BitVec 22) (s : State) : Host.Outcome State Fault Refusal :=
  runSeq (logicInstr (fun a b => a &&& b) m d) s
/-- OR (R137, R139). -/
def execBor (m : BitVec 3) (d : BitVec 22) (s : State) : Host.Outcome State Fault Refusal :=
  runSeq (logicInstr (fun a b => a ||| b) m d) s
/-- XOR (R137, R139). -/
def execBxor (m : BitVec 3) (d : BitVec 22) (s : State) : Host.Outcome State Fault Refusal :=
  runSeq (logicInstr (fun a b => a ^^^ b) m d) s
/-- SHL (R137, R139). -/
def execShl (m : BitVec 3) (d : BitVec 22) (s : State) : Host.Outcome State Fault Refusal :=
  runSeq (logicInstr (fun a b => a <<< shiftCount b) m d) s
/-- SHR (R137, R139). -/
def execShr (m : BitVec 3) (d : BitVec 22) (s : State) : Host.Outcome State Fault Refusal :=
  runSeq (logicInstr (fun a b => a >>> shiftCount b) m d) s
/-- SAR (R137, R139). -/
def execSar (m : BitVec 3) (d : BitVec 22) (s : State) : Host.Outcome State Fault Refusal :=
  runSeq (logicInstr (fun a b => a.sshiftRight (shiftCount b)) m d) s
/-- ROL (R137, R139). -/
def execRol (m : BitVec 3) (d : BitVec 22) (s : State) : Host.Outcome State Fault Refusal :=
  runSeq (logicInstr (fun a b => a.rotateLeft (shiftCount b)) m d) s
/-- ROR (R137, R139). -/
def execRor (m : BitVec 3) (d : BitVec 22) (s : State) : Host.Outcome State Fault Refusal :=
  runSeq (logicInstr (fun a b => a.rotateRight (shiftCount b)) m d) s
/-- PERM (R140). -/
def execPerm (m : BitVec 3) (d : BitVec 22) (s : State) : Host.Outcome State Fault Refusal :=
  runSeq (logicInstr (permute) m d) s
/-- BFX (R141). -/
def execBfx (m : BitVec 3) (d : BitVec 22) (s : State) : Host.Outcome State Fault Refusal :=
  runSeq (bfxInstr m d) s
/-- BFI (R141). -/
def execBfi (m : BitVec 3) (d : BitVec 22) (s : State) : Host.Outcome State Fault Refusal :=
  runSeq (bfiInstr m d) s
/-- MUL (R117, R137). -/
def execMul (m : BitVec 3) (d : BitVec 22) (s : State) : Host.Outcome State Fault Refusal :=
  runSeq (mulInstr true m d) s
/-- MULU (R117, R137). -/
def execMulu (m : BitVec 3) (d : BitVec 22) (s : State) : Host.Outcome State Fault Refusal :=
  runSeq (mulInstr false m d) s
/-- DIV (R119, R137). -/
def execDiv (m : BitVec 3) (d : BitVec 22) (s : State) : Host.Outcome State Fault Refusal :=
  runSeq (divInstr true m d) s
/-- DIVU (R119, R137). -/
def execDivu (m : BitVec 3) (d : BitVec 22) (s : State) : Host.Outcome State Fault Refusal :=
  runSeq (divInstr false m d) s
/-- NEG (R146). -/
def execNeg (r : BitVec 21) (s : State) : Host.Outcome State Fault Refusal :=
  runSeq (negInstr r) s
/-- NOT (R146). -/
def execBnot (r : BitVec 21) (s : State) : Host.Outcome State Fault Refusal :=
  runSeq (notInstr r) s
/-- CLZ (R146). -/
def execClz (r : BitVec 21) (s : State) : Host.Outcome State Fault Refusal :=
  runSeq (clzInstr r) s
/-- TAGGET (R146). -/
def execTagget (r : BitVec 21) (s : State) : Host.Outcome State Fault Refusal :=
  runSeq (taggetInstr r) s
/-- TAGSET (R105). -/
def execTagset (f : BitVec 25) (s : State) : Host.Outcome State Fault Refusal :=
  runSeq (tagsetInstr f) s

end Sys2Proof.Machine
end

