-- ==== Sys2Proof/Machine/ChainRegs.lean ====
section
/-!
DEFINITION. The 32-bit registers of the management chain (01 R59 to R63, 02 R76 to R86, 14 R421, 15 R466, R479, 16): what a
read of each index returns. Supervisor code reads the same registers at the local ports of the same numbers (R58).
-/

namespace Sys2Proof.Machine

open Sys2Proof

/-- IDENT (R76). -/
def identWord : W32 := 0x3A7 ||| at' 12 (1 : BitVec 4) ||| at' 16 Config.stepping ||| at' 21 (1 : BitVec 7)

/-- FEAT0 (R77). -/
def feat0 (s : State) : W32 := 0x7FD ||| bAt 1 s.pins.cpPresent

/-- IDENT and FEAT0 to FEAT3 by selector; 0 for any other (R74, R78). -/
def identSel (s : State) (sel : Nat) : W32 :=
  match sel with | 0 => identWord | 1 => feat0 s | 2 => 0x04885530 | 3 => 0x00102210 | _ => 0

/-- CADDR (R79). -/
def caddrWord (k : Chain) : W32 := at' 0 k.caddr ||| bAt 12 k.cvalid ||| bAt 13 k.mismatch

/-- BOOT (R86). -/
def bootWord (s : State) : W32 :=
  let p := s.boot.phase
  let init := match p with | .coldReset | .heldByWrst | .drain _ | .afterDrain _ | .init => true | _ => false
  bAt 0 s.boot.go ||| bAt 1 init ||| bAt 2 (p == .held) ||| bAt 3 (p == .keys) ||| bAt 4 s.boot.keyfail |||
    bAt 5 (s.keys.wkv && s.keys.skv) ||| bAt 6 s.boot.locked

/-- MBSTAT (R60). -/
def mbstatWord (k : Chain) : W32 :=
  bAt 0 k.inFull ||| bAt 1 k.outFull ||| bAt 2 k.inOvr ||| bAt 3 k.outOvr ||| bAt 4 k.sealedOnly

/-- KSTAT (R493). -/
def kstatWord (k : Keys) : W32 := bAt 0 k.wkv ||| bAt 1 k.skv ||| bAt 2 k.alm

/-- SVCNT (R494). -/
def svcntWord (k : Keys) : W32 := at' 0 k.svFc ||| at' 8 k.svIr ||| at' 16 k.svTm

/-- XRSTAT (R479). -/
def xrstatWord (t : Trace) : W32 := bAt 0 t.xrFull ||| at' 4 t.xrCause ||| at' 8 t.xrMissed

/-- Word i of a table of 64-bit values read as 32-bit words (R482). -/
def half {n : Nat} (v : Vector W64 n) (i : Nat) : W32 := fld (vget v (i / 2) 0) (32 * (i % 2)) 32

/-- XRDATA: word IDX of the snapshot (R480). -/
def xrWord (t : Trace) : W32 := fld (t.xrData.getD (t.xrIdx.toNat / 2) 0) (32 * (t.xrIdx.toNat % 2)) 32

/-- The registers at 0x00 to 0x1F: none for an index without a register (R34). -/
def chainLow (s : State) (i : Nat) : Option W32 :=
  let k := s.chain
  if i < 5 then some (identSel s i)
  else if i = 0x05 then some (caddrWord k)
  else if i = 0x06 then some (s.boot.rcause.setWidth 32)
  else if i = 0x07 then some (k.privMode.setWidth 32)
  else if i = 0x08 then some (k.enable0.setWidth 32)
  else if i < 0x0C then some 0
  else if i = 0x0C then some k.rveclo
  else if i = 0x0D then some k.rvechi
  else if i = 0x0E then some k.entsrc
  else if i = 0x0F then some (bootWord s)
  else if i < 0x14 then some (vget k.mbin (i - 0x10) 0)
  else if i < 0x18 then some (vget k.mbout (i - 0x14) 0)
  else if i = 0x18 then some (mbstatWord k)
  else if i = 0x19 then some (k.bcfg.setWidth 32)
  else if i = 0x1A then some (bstat s)
  else if i = 0x1B then some (lameStat s)
  else if i = 0x1C then some (k.herdcfg.setWidth 32)
  else none

/-- The registers at 0x20 to 0x3F. -/
def chainMid (s : State) (i : Nat) : Option W32 :=
  let t := s.trace
  let g := s.toll
  if i = 0x20 then some t.trbase
  else if i = 0x21 then some (t.trsize.setWidth 32)
  else if i = 0x22 then some t.trhead
  else if i = 0x23 then some t.dmbase
  else if i = 0x24 then some (t.dmsize.setWidth 32)
  else if i = 0x25 then some t.dmhead
  else if i = 0x26 then some s.time.tsoffLo
  else if i = 0x27 then some s.time.tsoffHi
  else if i = 0x28 then some (fld s.time.tlat 0 32)
  else if i = 0x29 then some (fld s.time.tlat 32 32)
  else if i = 0x2A then some (t.xrcfg.setWidth 32)
  else if i = 0x2B then some (xrstatWord t)
  else if i = 0x2C then some (t.xrIdx.setWidth 32)
  else if i = 0x2D then some (xrWord t)
  else if i < 0x30 then none
  else if i = 0x30 then some (s.rel.fccfg.setWidth 32)
  else if i = 0x31 then some (s.keys.almcfg.setWidth 32)
  else if i = 0x32 then some (svcntWord s.keys)
  else if i = 0x33 then some (kstatWord s.keys)
  else if i = 0x34 then some g.ctl
  else if i = 0x35 then some g.rate
  else if i = 0x36 then some g.core
  else if i = 0x37 then some (at' 0 g.mref ||| at' 16 g.iref ||| bAt 24 g.held)
  else if i < 0x3C then some (vget g.wb (i - 0x38) 0)
  else some (vget g.wl (i - 0x3C) 0)

/-- What a read of chain register i returns; none where no register is assigned (R34). -/
def chainWord (s : State) (i : Nat) : Option W32 :=
  if i < 0x20 then chainLow s i
  else if i < 0x40 then chainMid s i
  else if i < 0x50 then some (half s.rel.wslast (i - 0x40))
  else if i < 0x60 then some (half s.rel.fcstat (i - 0x50))
  else none

/-- A read of XRDATA advances IDX, from the chain and from the core alike (R479, R480). -/
def chainReadEffect (i : Nat) (s : State) : State :=
  if i = 0x2D then { s with trace := { s.trace with xrIdx := s.trace.xrIdx + 1 } } else s

end Sys2Proof.Machine
end

