-- ==== Sys2Proof/Machine/Coop.lean ====
section
/-!
DEFINITION. I/O packets, the interprocessor interrupt, work counters and their notices (14 R423 to R434).
-/

namespace Sys2Proof.Machine

open Sys2Proof

/-! ## Packets (R423) -/

/-- What an I/O request says of its issuer: SUP, SEAL and CTX. -/
structure Issuer where
  sup : Bool
  sealed : Bool
  ctx : CtxId
  deriving DecidableEq, Repr

/-- SEAL of code in context k (R423): the Sealed world, or PCC with SYS. -/
def sealBit (s : State) (k : Ctx) : Bool := if capsConf s then bit k.pcc.hi.val 61 else k.world

/-- The issuer that context c is. -/
def issuerOf (s : State) (c : CtxId) : Issuer := ⟨(s.getCtx c).sup, sealBit s (s.getCtx c), c⟩

/-- A flit with a header word and a data word (R423). -/
def ioFlit (cls : BitVec 4) (w0 : W64) (w1 : TWord) : Flit :=
  ⟨vset (vset (Vector.replicate 8 TWord.zero) 0 ⟨w0, Tag.raw⟩) 1 w1, true, cls, true⟩

/-- Word 0 of an I/O request. -/
def ioHeader (addr : W32) (opc : IoOpc) (who : Issuer) (src : CoreId) (txid : BitVec 8) : W64 :=
  at' 0 addr ||| at' 32 opc.code ||| bAt 35 who.sup ||| bAt 36 who.sealed ||| at' 37 src ||| at' 49 who.ctx ||| at' 51 txid

/-- Send an I/O request. -/
def sendIoReq (addr : W32) (opc : IoOpc) (who : Issuer) (txid : BitVec 8) (data : TWord) (s : State) : State :=
  sendPacket [ioFlit 6 (ioHeader addr opc who s.chain.caddr txid) data] s

/-- Send an I/O response (R423, R424). -/
def sendIoResp (sts : BitVec 2) (opc : IoOpc) (q : IoReq) (data : TWord) (s : State) : State :=
  sendPacket [ioFlit 2 (at' 0 sts ||| at' 32 opc.code ||| at' 37 s.chain.caddr ||| at' 49 q.ctx ||| at' 51 q.txid) data] s

/-- Transaction numbers of I/O requests that are waited for. -/
def ioTxidsUsed (s : State) : List (BitVec 8) :=
  [s.ctx.q0, s.ctx.q1, s.ctx.q2, s.ctx.q3].filterMap (fun k => k.io.map (·.txid)) ++ s.keys.gen.txid.toList

/-- A transaction number for an I/O request that is waited for: below 0xF0, and not in use. -/
def ioTxid (s : State) : BitVec 8 :=
  (((List.range 256).map fun i => s.mesh.txid + BitVec.ofNat 8 i).find? fun t =>
    decide (t.toNat < 0xF0) && !(ioTxidsUsed s).contains t).getD 0

/-- The transaction number was used. -/
def bumpTxid (t : BitVec 8) (s : State) : State := { s with mesh := { s.mesh with txid := t + 1 } }

/-! ## Interprocessor interrupts (R427) -/

/-- A write to the IPI port by core `src`: IPEND bit 33 and the IPI event of the routed context. -/
def ipiArrive (src : CoreId) (s : State) : State :=
  let c := vecCtx s 33
  setEvent c 4 (setPend 33 (s.modCtx c fun k => { k with ev := { k.ev with ipiPeer := some src } }))

/-! ## Work counters (R428 to R434) -/

/-- Counter w. -/
def workCtr (s : State) (w : BitVec 3) : WorkCtr := vget s.coop.work w.toNat WorkCtr.reset

/-- Replace counter w. -/
def setWork (w : BitVec 3) (k : WorkCtr) (s : State) : State :=
  { s with coop := { s.coop with work := vset s.coop.work w.toNat k } }

/-- A claim word (R430). -/
def claimWord (isEnd : Bool) (w : BitVec 3) (core : CoreId) (epoch : BitVec 16) (index : W32) : TWord :=
  ⟨at' 0 index ||| at' 32 epoch ||| at' 48 core ||| at' 60 w ||| bAt 63 isEnd, Tag.epoch⟩

/-- CLAIM (R431). -/
def claimOp (w : BitVec 3) (s : State) : TWord × State :=
  let k := workCtr s w
  if k.limit ≤ k.next then (claimWord true w s.chain.caddr k.epoch k.limit, s)
  else (claimWord false w s.chain.caddr k.epoch k.next, setWork w { k with next := k.next + 1 } s)

/-- COMPLETE of claim c is accepted by counter w (R431). -/
def completeAccepts (s : State) (w : BitVec 3) (c : W64) : Bool :=
  let k := workCtr s w
  !bit c 63 && fld c 32 16 == k.epoch && fld c 48 12 == s.chain.caddr && fld c 60 3 == w && decide (fld c 0 32 < k.next)

/-- COMPLETE (R431). -/
def completeOp (w : BitVec 3) (c : W64) (s : State) : State :=
  let k := workCtr s w
  if completeAccepts s w c then setWork w { k with done := k.done + 1 } s
  else setWork w { k with rej := satInc k.rej } s

/-- A NOTICE of counter `port` on core `src` for context c of this core (R434). -/
def noticeArrive (src : CoreId) (w : BitVec 3) (c : CtxId) (s : State) : State :=
  setEvent c 5 (s.modCtx c fun k => { k with ev := { k.ev with claimPeer := some (src, w) } })

/-- Send a notice to one recorded pair (R434): inside the core, or as a request the Tollgate may refuse. One that goes onto the mesh is
counted (R458), under the context whose write to WCFG sends it. -/
def sendNotice (w : BitVec 3) (from? : Option CtxId) (p : CoreId × CtxId) (s : State) : State :=
  if p.1 == s.chain.caddr then noticeArrive s.chain.caddr w p.2 s
  else
    let a : W32 := at' 19 p.1
    if tollAllowsIo s a then
      let src := match from? with | some c => Requester.source s (.ctx c) | none => (none, .none)
      countEvent 2 7 1 src.1 src.2 none (sendIoReq a .notice ⟨false, false, p.2⟩ (0xF0#8 + w.setWidth 8) ⟨0, Tag.int⟩ s)
    else tollRefuse false 6 none s

/-- A WRITE to WCFG (R433): a new epoch, then the notices. -/
def wcfgOp (w : BitVec 3) (from? : Option CtxId) (v : W64) (s : State) : State :=
  let k := workCtr s w
  let t := setWork w { k with limit := fld v 0 32, next := 0, done := 0, epoch := k.epoch + 1, notices := [] } s
  k.notices.foldl (fun t p => sendNotice w from? p t) t

/-- A READ of WSUB (R434). DESIGN CHOICE (log 83): a pair that is recorded already reads 1 although the table is full. -/
def wsubOp (w : BitVec 3) (src : CoreId) (c : CtxId) (s : State) : TWord × State :=
  let k := workCtr s w
  if k.next < k.limit then (⟨2, Tag.int⟩, s)
  else if k.notices.contains (src, c) then (⟨1, Tag.int⟩, s)
  else if k.notices.length < 32 then (⟨1, Tag.int⟩, setWork w { k with notices := k.notices ++ [(src, c)] } s)
  else (⟨0, Tag.int⟩, s)

/-- A counter port: its counter and i of R428. -/
def workPort (port : Nat) : Option (BitVec 3 × Nat) :=
  if 0x400 ≤ port ∧ port < 0x480 ∧ port % 16 < 5 then some (BitVec.ofNat 3 ((port - 0x400) / 16), port % 16) else none

/-- WSTATE (R429). -/
def wstateWord (k : WorkCtr) : W64 := at' 0 k.next ||| at' 32 k.epoch
/-- WDONE (R429). -/
def wdoneWord (k : WorkCtr) : W64 := at' 0 k.done ||| at' 32 k.rej

/-- A READ of port i of counter w by a requester; none for STS 2 (R428). -/
def workRead (w : BitVec 3) (i : Nat) (src : CoreId) (c : CtxId) (s : State) : Option (TWord × State) :=
  let k := workCtr s w
  match i with
  | 1 => some (⟨k.limit.setWidth 64, Tag.int⟩, s)
  | 2 => some (⟨wstateWord k, Tag.int⟩, s)
  | 3 => some (⟨wdoneWord k, Tag.int⟩, s)
  | 4 => some (wsubOp w src c s)
  | _ => none

/-- A WRITE to port i of counter w, by a context of this core or by another core; none for STS 2 (R428). -/
def workWrite (w : BitVec 3) (i : Nat) (from? : Option CtxId) (v : W64) (s : State) : Option State :=
  match i with
  | 1 => some (wcfgOp w from? v s)
  | 2 | 3 => some s
  | _ => none

/-! ## Posts (R440) -/

/-- PWIN as it is stored: HI above 0xBF is stored as 0xBF. -/
def pwinStored (v : W64) : BitVec 48 :=
  let p : BitVec 48 := fld v 0 48 &&& 0xFFFF0001FFFF#48
  if 0xBF < fldN p 8 8 then setFld p 8 8 0xBF else p

end Sys2Proof.Machine
end

