-- ==== Sys2Proof/Machine/Channels.lean ====
section
/-!
DEFINITION. The registers of the Mover and Causeway channels at their local ports, and the checks that a start makes
(10 R326 to R332, R338; 14 R443, R444).
-/

namespace Sys2Proof.Machine

open Sys2Proof

/-- Mover channel ch. -/
def moverCh (s : State) (ch : BitVec 3) : MoverCh := vget s.mover ch.toNat MoverCh.reset
/-- Replace Mover channel ch. -/
def setMover (ch : BitVec 3) (m : MoverCh) (s : State) : State := { s with mover := vset s.mover ch.toNat m }
/-- Causeway channel ch. -/
def cwCh (s : State) (ch : BitVec 4) : CwCh := vget s.cw.ch ch.toNat CwCh.reset
/-- Replace Causeway channel ch. -/
def setCw (ch : BitVec 4) (k : CwCh) (s : State) : State := { s with cw := { s.cw with ch := vset s.cw.ch ch.toNat k } }

/-! ## Mover -/

/-- SK (R326): 0 SP, 1 DS, 2 TR. -/
def MoverCh.sk (m : MoverCh) : Nat := fldN m.ctl 0 2
/-- DK. -/
def MoverCh.dk (m : MoverCh) : Nat := fldN m.ctl 2 2
/-- Rows of the transfer. -/
def MoverCh.rowCount (m : MoverCh) : Nat := fldN m.geo 0 16 + 1
/-- Bytes of a row. -/
def MoverCh.rowBytes (m : MoverCh) : Nat := fldN m.geo 16 16 + 1
/-- Source stride. -/
def MoverCh.sstr (m : MoverCh) : Int := (fld m.str 0 32).toInt
/-- Destination stride. -/
def MoverCh.dstr (m : MoverCh) : Int := (fld m.str 32 32).toInt

/-- Every SP row lies wholly below 0xC_0000 (R332): the first and the last row do. -/
def spRowsOk (off : W64) (stride : Int) (rows bytes : Nat) : Bool :=
  let a : Int := (fldN off 0 20 : Nat)
  let z : Int := a + stride * ((rows : Int) - 1)
  decide (a + bytes ≤ spadSize) && decide (0 ≤ z) && decide (z + bytes ≤ spadSize)

/-- One endpoint: kind, address, DPTR mark and stride. -/
structure EndPoint where
  kind : Nat
  addr : W64
  isD : Bool
  stride : Int
  deriving DecidableEq, Repr

/-- The source endpoint. -/
def MoverCh.srcEnd (m : MoverCh) : EndPoint := ⟨m.sk, m.src, m.srcD, m.sstr⟩
/-- The destination endpoint. -/
def MoverCh.dstEnd (m : MoverCh) : EndPoint := ⟨m.dk, m.dst, m.dstD, m.dstr⟩

/-- The parameters of one endpoint are in order (R332). -/
def endOk (m : MoverCh) (e : EndPoint) : Bool :=
  decide (e.stride % 8 = 0) && (e.kind == 2 || e.addr.toNat % 8 == 0) && (e.kind != 1 || e.isD) &&
    (e.kind != 0 || spRowsOk e.addr e.stride m.rowCount m.rowBytes) &&
    (e.kind != 2 || (m.rowBytes == 64 && decide (m.rowCount ≤ 32) && !bit m.ctl 4))

/-- The pair of kinds is allowed (R326). -/
def pairOk (m : MoverCh) : Bool := [(0, 0), (0, 1), (1, 0), (0, 2), (2, 0)].contains (m.sk, m.dk)

/-- A TR endpoint is used. -/
def MoverCh.usesTile (m : MoverCh) : Bool := m.sk == 2 || m.dk == 2

/-- The checks of R332: the CAUSE of the failure. -/
def moverCheck (s : State) (m : MoverCh) : Option (BitVec 4) :=
  if !pairOk m || m.rowBytes % 8 != 0 || !endOk m m.srcEnd || !endOk m m.dstEnd then some 8
  else if m.usesTile && (s.drover.owner != m.ctx || !enabled s 2 || !s.tile.tpOn) then some 7
  else none

/-- GO (R332): capture, check, start from MPROG 0. -/
def moverStart (ch : BitVec 3) (c : CtxId) (s : State) : State :=
  let m := { moverCh s ch with
    ctx := c, cap := some (ctxRegime s c), mark := (s.getCtx c).sys.markr, rows := 0, blk := 0, state := 1, cause := 0 }
  match moverCheck s m with
  | some e => moverLeave ch { m with state := 3, cause := e } s
  | none => setMover ch m s

/-- CONT (R336, R338): the checks again, then on from MPROG. -/
def moverResume (ch : BitVec 3) (s : State) : State :=
  let m := { moverCh s ch with state := 1, cause := 0 }
  match moverCheck s m with
  | some e =>
    let e := if e == 7 && s.drover.owner != m.ctx then 8 else e
    moverLeave ch { m with state := 3, cause := e } s
  | none => setMover ch m s

/-- A write of MCTL by context c (R329, R331). -/
def mctlWrite (ch : BitVec 3) (c : CtxId) (v : W64) (s : State) : State :=
  let m := moverCh s ch
  let go := bit v 31
  let cont := bit v 30
  if m.state == 1 || (go && cont) || (cont && m.state != 3) then setMover ch { m with rej := true } s
  else
    let t := setMover ch { m with ctl := fld v 0 7 } s
    if go then moverStart ch c t else if cont then moverResume ch t else t

/-- A read of port i of Mover channel ch; none where no port is assigned. -/
def moverRead (ch : BitVec 3) (i : Nat) (s : State) : Option W64 :=
  let m := moverCh s ch
  match i with
  | 0 => some m.src
  | 1 => some m.dst
  | 2 => some (m.geo.setWidth 64)
  | 3 => some m.str
  | 4 => some (m.ctl.setWidth 64)
  | 5 => some (mstatWord m)
  | 6 => some (mprogWord m)
  | 7 => some m.fva
  | 8 => some m.fsr
  | 9 => some (m.kr.setWidth 64)
  | _ => none

/-- A write to port i of Mover channel ch by context c (R327 to R331). -/
def moverWrite (ch : BitVec 3) (i : Nat) (c : CtxId) (w : TWord) (s : State) : State :=
  let m := moverCh s ch
  let v := w.val
  let d := w.tag == Tag.dptr
  let idle := fun (m' : MoverCh) => setMover ch (if m.state == 1 then { m with rej := true } else m') s
  match i with
  | 0 => idle { m with src := v, srcD := d }
  | 1 => idle { m with dst := v, dstD := d }
  | 2 => idle { m with geo := fld v 0 32 }
  | 3 => idle { m with str := v }
  | 4 => mctlWrite ch c v s
  | 5 => setMover ch { m with rej := m.rej && !bit v 8 } s
  | 9 => setMover ch { m with kr := fld v 0 32 } s
  | _ => s

/-! ## Causeway -/

/-- FORM (R307). -/
def CwCh.form (k : CwCh) : BitVec 4 := fld k.hdr 0 4
/-- Elements of the contribution. -/
def CwCh.count (k : CwCh) : Nat := fldN k.hdr 48 16 + 1
/-- Bytes of an element (R444). -/
def CwCh.elemBytes (k : CwCh) : Nat := match k.form.toNat with | 1 => 2 | 3 => 8 | _ => 4

/-- The parameter checks of R444 and the CWMASK of R499 hold. -/
def cwParamsOk (s : State) (c : BitVec 4) (k : CwCh) : Bool :=
  decide (k.form.toNat < 4) && (k.form == 2 || fld k.hdr 8 8 == 0) && k.src.toNat % 8 == 0 && (!k.sk || k.srcD) &&
    (k.sk || decide (fldN k.src 0 20 + k.count * k.elemBytes ≤ spadSize)) &&
    (!bit s.toll.ctl 0 || bit s.toll.ctl (16 + c.toNat))

/-- GO (R444): capture and check. A scratchpad source needs no further check (R445). -/
def cwStart (ch : BitVec 4) (c : CtxId) (s : State) : State :=
  let k := { cwCh s ch with
    ctx := c, cap := some (ctxRegime s c), mark := (s.getCtx c).sys.markr, state := 1, cause := 0, sent := 0, lost := false
    zeros := false, checked := false }
  if cwParamsOk s ch k then setCw ch k s else cwLeave ch { k with state := 3, cause := 8 } s

/-- CSTAT (R443). -/
def cstatWord (k : CwCh) : W64 := at' 0 k.state ||| at' 4 k.cause ||| bAt 8 k.rej ||| at' 9 k.ctx ||| at' 16 k.credit

/-- A read of port i of Causeway channel ch. -/
def cwRead (ch : BitVec 4) (i : Nat) (s : State) : Option W64 :=
  let k := cwCh s ch
  match i with
  | 0 => some k.src
  | 1 => some k.hdr
  | 2 => some (k.rid.setWidth 64)
  | 3 => some (bAt 0 k.sk)
  | 4 => some (cstatWord k)
  | 5 => some k.fva
  | 6 => some k.fsr
  | 7 => some (k.kr.setWidth 64)
  | _ => none

/-- A write to port i of Causeway channel ch by context c (R443, R444). -/
def cwWrite (ch : BitVec 4) (i : Nat) (c : CtxId) (w : TWord) (s : State) : State :=
  let k := cwCh s ch
  let v := w.val
  let busy := k.state == 1
  let idle := fun (k' : CwCh) => setCw ch (if busy then { k with rej := true } else k') s
  match i with
  | 0 => idle { k with src := v, srcD := w.tag == Tag.dptr }
  | 1 => idle { k with hdr := setFld v 4 4 0 }
  | 2 => idle { k with rid := fld v 0 16 }
  | 3 =>
    let t := idle { k with sk := bit v 0 }
    if bit v 31 && !busy then cwStart ch c t else t
  | 4 => setCw ch { k with rej := k.rej && !bit v 8 } s
  | 7 => setCw ch { k with kr := fld v 0 32 } s
  | _ => s

end Sys2Proof.Machine
end

