-- ==== Sys2Proof/Machine/IoInstr.lean ====
section
/-!
DEFINITION. The I/O instructions (04 R152, R153): I/O protection (12 R396), the local ports (01 R58 to R60, 10 R319,
14 R425, R440), and requests on the mesh with their responses (R423 to R426).
-/

namespace Sys2Proof.Machine

open Sys2Proof

/-! ## I/O protection (R396) -/

/-- A valid window i covers an I/O address. -/
def iowCovers (s : State) (i : Nat) (a : W32) : Bool :=
  let w := vget s.intr.iow i 0
  bit w 48 && decide (fldN w 0 24 ≤ fldN a 8 24) && decide (fldN a 8 24 ≤ fldN w 24 24)

/-- The access is allowed by the windows and, in the capability configuration, by PCC. -/
def ioAllowed (s : State) (k : Ctx) (a : W32) : Bool :=
  let ws := (List.range 8).filter fun i => iowCovers s i a
  (!capsConf s || k.pcc.perm 6) &&
    (sealBit s k || !ws.any fun i => bit (vget s.intr.iow i 0) 50) &&
    (k.sup || ws.any fun i => bit (vget s.intr.iow i 0) 49)

/-- Row 5 of R132 for an I/O address: bits [63:32], the windows and, for a request on the mesh, the Tollgate (R499). -/
def needIo (c : CtxId) (a : W64) (mesh : Bool) (cls : BitVec 4) : M Unit := do
  let s ← get
  if fld a 32 32 != 0 then ioProtection
  if !ioAllowed s (s.getCtx c) (fld a 0 32) then ioProtection
  if mesh && !tollAllowsIo s (fld a 0 32) then
    modify (tollRefuse false cls (some c))
    ioProtection

/-- The address names this core (R107). -/
def isLocal (s : State) (a : W32) : Bool := !bit a 31 && fld a 19 12 == s.chain.caddr

/-! ## Local ports -/

/-- The chain registers are for supervisor code, and for Sealed code while SEALED_ONLY is 1 (R58). -/
def needChainPort (s : State) (k : Ctx) : M Unit :=
  if k.sup && (!s.chain.sealedOnly || sealBit s k) then pure () else ioProtection

/-- A port that its chapter reserves for supervisor code. -/
def needSupPort (k : Ctx) : M Unit := if k.sup then pure () else ioProtection

/-- An IN of a local port (R424: an unassigned port is an I/O protection fault). -/
def localRead (c : CtxId) (port : Nat) : M TWord := do
  let s ← get
  let k := s.getCtx c
  let int := fun (v : W64) => (⟨v, Tag.int⟩ : TWord)
  let orFault := fun (r : Option W64) => match r with | some v => (return int v : M TWord) | none => ioProtection
  if port < 0x60 then
    needChainPort s k
    modify (chainReadEffect port)
    orFault ((chainWord s port).map fun v => v.setWidth 64)
  else if port = 0x200 then return int 0
  else if 0x300 ≤ port ∧ port < 0x310 then return int ((vget s.coop.land (port - 0x300) 0).setWidth 64)
  else if port = 0x310 then
    needSupPort k
    return int (s.coop.pwin.setWidth 64)
  else if port = 0x311 then return int (at' 0 s.coop.pAcc ||| at' 32 s.coop.pDrop)
  else if port = 0x1000 then
    needSupPort k
    return int (s.caches.cctl.setWidth 64)
  else if 0x1100 ≤ port ∧ port < 0x1180 then
    if port % 16 = 9 then needSupPort k
    orFault (moverRead (BitVec.ofNat 3 ((port - 0x1100) / 16)) (port % 16) s)
  else if 0x1200 ≤ port ∧ port < 0x1300 then
    if port % 16 = 7 then needSupPort k
    orFault (cwRead (BitVec.ofNat 4 ((port - 0x1200) / 16)) (port % 16) s)
  else
    match workPort port with
    | none => ioProtection
    | some (w, i) =>
      match workRead w i s.chain.caddr c s with
      | none => ioProtection
      | some (v, t) => do
        set t
        return v

/-- A core write of MBOUTk (R60): ignored while OUT_FULL is 1. -/
def mboutWrite (k : Nat) (v : W32) (s : State) : State :=
  if s.chain.outFull then { s with chain := { s.chain with outOvr := true } }
  else { s with chain := { s.chain with mbout := vset s.chain.mbout k v, outFull := k == 3 } }

/-- A core write to chain register i: MBOUT, and the fields that the core may clear (R59, R60, R63); the rest is RO. -/
def chainPortWrite (i : Nat) (v : W32) (s : State) : State :=
  if 0x14 ≤ i ∧ i < 0x18 then mboutWrite (i - 0x14) v s
  else if i = 0x18 then
    { s with chain := { s.chain with inFull := s.chain.inFull && !bit v 0, inOvr := s.chain.inOvr && !bit v 2 } }
  else if i = 0x1A then
    { s with chain := { s.chain with refloss := s.chain.refloss && !bit v 2, stall := s.chain.stall && !bit v 3 } }
  else s

/-- A write of CCTL (R319): the INV bits are RO; every earlier access has been performed. -/
def cctlOp (v : W64) : M Unit := do
  let s ← get
  if ctxStoresInFlight s then wait
  set { s with caches := { s.caches with cctl := setFld s.caches.cctl 0 3 (fld v 0 3) } }

/-- An OUT to a local port. -/
def localWrite (c : CtxId) (port : Nat) (w : TWord) : M Unit := do
  let s ← get
  let k := s.getCtx c
  let v := w.val
  if port < 0x60 then
    needChainPort s k
    if (chainWord s port).isNone then ioProtection
    set (chainPortWrite port (fld v 0 32) s)
  else if port = 0x200 then set (ipiArrive s.chain.caddr s)
  else if 0x300 ≤ port ∧ port < 0x310 then
    set (settle { s with coop := { s.coop with land := vset s.coop.land (port - 0x300) (fld v 0 32) } })
  else if port = 0x310 then
    needSupPort k
    set { s with coop := { s.coop with pwin := pwinStored v } }
  else if port = 0x311 then set { s with coop := { s.coop with pAcc := fld v 0 32, pDrop := fld v 32 32 } }
  else if port = 0x1000 then
    needSupPort k
    cctlOp v
  else if 0x1100 ≤ port ∧ port < 0x1180 then
    if port % 16 = 9 then needSupPort k
    if (moverRead (BitVec.ofNat 3 ((port - 0x1100) / 16)) (port % 16) s).isNone then ioProtection
    set (moverWrite (BitVec.ofNat 3 ((port - 0x1100) / 16)) (port % 16) c w s)
  else if 0x1200 ≤ port ∧ port < 0x1300 then
    if port % 16 = 7 then needSupPort k
    if (cwRead (BitVec.ofNat 4 ((port - 0x1200) / 16)) (port % 16) s).isNone then ioProtection
    set (cwWrite (BitVec.ofNat 4 ((port - 0x1200) / 16)) (port % 16) c w s)
  else
    match workPort port with
    | none => ioProtection
    | some (wc, i) =>
      match workWrite wc i (some c) v s with
      | none => ioProtection
      | some t => set t

/-! ## The instructions -/

/-- The common part of the I/O instructions: rows 2, 4 and 5, then inside the core or onto the mesh. `true`: retired. -/
def ioAccess (opc : IoOpc) (m : BitVec 3) (d : BitVec 22) (accA : Tag → Bool) (here : CtxId → Nat → M Unit) (c : CtxId) :
    M Bool := do
  needMode c .io m d
  let k ← getC c
  if !accA k.getA.tag then tagFault k.getA.tag
  needBase c .io m
  let a ← addrOf c m d
  let loc := isLocal (← get) (fld a 0 32)
  needIo c a (!loc) 6
  if loc then
    here c (fldN a 0 19)
    postIncrement c m d
    advance c
    return true
  else
    needLane 2
    let s ← get
    let t := ioTxid s
    let data : TWord := match opc with | .write | .complete => k.getA | _ => ⟨0, Tag.int⟩
    let w : IoWait :=
      { addr := fld a 0 32, opc := opc, txid := t, since := s.time.tick, next := k.pc + 4
        dest := match opc with | .read | .claim => .a | _ => .none
        inc := if m == 2 then sext d 64 else 0 }
    modify fun s => countCtx 2 7 1 c none (bumpTxid t (sendIoReq (fld a 0 32) opc (issuerOf s c) t data s))
    modC c fun k => { k with io := some w }
    return false

/-- A local CLAIM at its counter's claim port (R424, R431). -/
def localClaim (c : CtxId) (port : Nat) : M Unit := do
  match workPort port with
  | some (w, 0) => do
    let (r, t) := claimOp w (← get)
    set (countCtx 6 (if bit r.val 63 then 3 else 2) 1 c none t)
    modC c fun k => k.setA r
  | _ => ioProtection

/-- A local COMPLETE (R431). -/
def localComplete (c : CtxId) (port : Nat) : M Unit := do
  match workPort port with
  | some (w, 0) => modify fun s => completeOp w (s.getCtx c).getA.val s
  | _ => ioProtection

/-- OUT (R152). -/
def outInstr (m : BitVec 3) (d : BitVec 22) : CtxId → M Bool :=
  ioAccess .write m d (fun t => t != Tag.poison) fun c port => do localWrite c port (← getC c).getA

/-- IN (R152). -/
def execIoIn (m : BitVec 3) (d : BitVec 22) (s : State) : Host.Outcome State Fault Refusal :=
  runHold (ioAccess .read m d (fun _ => true) fun c port => do
    let w ← localRead c port
    modC c fun k => k.setA w) s

/-- OUT (R152). -/
def execIoOut (m : BitVec 3) (d : BitVec 22) (s : State) : Host.Outcome State Fault Refusal := runHold (outInstr m d) s

/-- CLAIM (R152). -/
def execClaim (m : BitVec 3) (d : BitVec 22) (s : State) : Host.Outcome State Fault Refusal :=
  runHold (ioAccess .claim m d (fun _ => true) localClaim) s

/-- COMPLETE (R152). -/
def execComplete (m : BitVec 3) (d : BitVec 22) (s : State) : Host.Outcome State Fault Refusal :=
  runHold (ioAccess .complete m d (fun t => t == Tag.epoch) localComplete) s

/-! ## Writes of local ports with behaviour of their own -/

/-- An OUT of the running context to a local port, when A is a value that `p` picks; with another A it is not this command
(log 3). -/
def localOut (port : BitVec 22) (p : W64 → Bool) (s : State) : Host.Outcome State Fault Refusal :=
  match issuing s with
  | some c => if p (s.getCtx c).getA.val then runHold (outInstr 6 port) s else .next s
  | none => .next s

/-- A write of CCTL (R319). -/
def execCctlWrite (s : State) : Host.Outcome State Fault Refusal := localOut 0x1000 (fun _ => true) s
/-- A core write of MBOUTk (R60). -/
def execMboutWrite (k : BitVec 2) (s : State) : Host.Outcome State Fault Refusal :=
  localOut (0x14#22 + k.setWidth 22) (fun _ => true) s
/-- MCTL of channel ch with GO (R332). -/
def execMoverGo (ch : BitVec 3) (s : State) : Host.Outcome State Fault Refusal :=
  localOut (0x1104#22 + at' 4 ch) (fun v => bit v 31 && !bit v 30) s
/-- MCTL of channel ch with CONT (R338). -/
def execMoverCont (ch : BitVec 3) (s : State) : Host.Outcome State Fault Refusal :=
  localOut (0x1104#22 + at' 4 ch) (fun v => bit v 30 && !bit v 31) s
/-- CCTL of Causeway channel ch with GO (R444). -/
def execCausewayGo (ch : BitVec 4) (s : State) : Host.Outcome State Fault Refusal :=
  localOut (0x1203#22 + at' 4 ch) (fun v => bit v 31) s

/-! ## Responses (R425, R426) -/

/-- The word that a response delivers (R426). -/
def ioDeliver (opc : IoOpc) (w : TWord) : TWord :=
  match opc with
  | .claim => if w.tag == Tag.epoch then w else ⟨w.val, Tag.poison⟩
  | _ => if isProtected w.tag then ⟨w.val, Tag.raw⟩ else deliver w

end Sys2Proof.Machine
end

