-- ==== Sys2Proof/Machine/Rhaha.lean ====
section
/-!
DEFINITION. Rhaha words (05 R160 to R168): two moves that take effect together, then one control trigger.
-/

namespace Sys2Proof.Machine

open Sys2Proof

/-! ## Ports -/

/-- What the moves of a word have asked for so far. -/
structure RhWork where
  acts : List RhAct
  ctl : RhCtl
  slot : Bool
  deriving DecidableEq, Repr

/-- The value of a source port (R166); none for a port that is not listed. -/
def rhSource (k : Ctx) (p : BitVec 8) : Option TWord :=
  if p.toNat < 0x20 then (if k.hasSlot (fld p 0 5) then some (k.slot (fld p 0 5)) else none)
  else if 0xC0 ≤ p.toNat then some ⟨sext (fld p 0 6) 64, Tag.int⟩
  else match p.toNat with
    | 0x20 => some k.getA
    | 0x21 => some k.getX
    | 0x22 => some ⟨(fld k.st 0 4).setWidth 64, Tag.int⟩
    | 0x30 => some k.mh
    | 0x31 => some k.ml
    | 0x32 => some k.mq
    | 0x33 => some k.mr
    | 0x40 => some ⟨k.pc + 4, Tag.cptr⟩
    | _ => none

/-- A destination port is listed (R166) and its frame slot exists. -/
def rhDestOk (k : Ctx) (p : BitVec 8) : Bool :=
  if p.toNat < 0x20 then k.hasSlot (fld p 0 5)
  else decide (p.toNat ≤ 0x2A) || (decide (0x30 ≤ p.toNat) && decide (p.toNat ≤ 0x33)) ||
    [0x40, 0x41, 0x42, 0x43, 0x44, 0x48, 0x49].contains p.toNat ||
    ([0x38, 0x39, 0x3A, 0x3B, 0x50, 0x51].contains p.toNat && k.hasSlot 28 && k.hasSlot 31)

/-- A control-transfer or system trigger (R164). -/
def rhControl (p : BitVec 8) : Bool := decide (0x40 ≤ p.toNat) && decide (p.toNat ≤ 0x49)

/-- v is accepted as an address of this native tag (R167). -/
def rhAddr (t : Tag) (v : TWord) : M Unit := if isPlain v.tag || v.tag == t then pure () else tagFault v.tag

/-- v must be plain (R167). -/
def rhPlain (v : TWord) : M Unit := if isPlain v.tag then pure () else tagFault v.tag

/-- The source of a move: a read of a frame slot finds its error (R487). -/
def rhRead (c : CtxId) (p : BitVec 8) : M (Option TWord) := do
  if p.toNat < 0x20 && (← getC c).hasSlot (fld p 0 5) then
    let _ ← readSlot c (fld p 0 5)
  return rhSource (← getC c) p

/-! ## Memory -/

/-- A checked access to a translated address. -/
def rhMem (p : Phys) (n : Nat) : RhMem := ⟨p.va, p.pa, p.dev, p.str, n⟩

/-- Where a checked access leads. -/
def RhMem.phys (m : RhMem) : Phys := ⟨m.va, m.pa, m.dev, false, false, m.str⟩

/-- A word read at a physical address, with the bytes that the word's own stores will put over it. -/
def rhOverlay (acts : List RhAct) (pa : PAddr) (w : TWord) : TWord :=
  acts.foldl (fun w a =>
    match a with
    | .store m v =>
      if m.pa.toNat / 8 == pa.toNat / 8 && !m.dev then
        vget (mergeLine (wordLine pa w) (wordLine pa v) (byteMask (fldN m.pa 0 6) m.n)) (fldN pa 3 3) w
      else w
    | _ => w) w

/-- Check a load of n bytes at v (R132): it takes place after the checks of the whole word (R165). -/
def rhLoad (c : CtxId) (a : W64) (n : Nat) : M RhAct := do
  needRows c .read a n false false
  let p ← translateCtx c ⟨a, .read, none, none, false⟩
  return .load (rhMem p n) true

/-- Check a store of n bytes of w at v (R104, R132); none where the old word cannot be read, and the store is discarded (R503). -/
def rhStore (c : CtxId) (acts : List RhAct) (a : W64) (n : Nat) (w : TWord) : M (List RhAct) := do
  needRows c .write a n false (n == 8 && (w.tag == Tag.caph || w.tag == Tag.capl))
  let p ← translateCtx c ⟨a, .write, none, none, false⟩
  let v := placeBytes (fldN a 0 3) w.val
  if n == 8 then return [.store (rhMem p n) w]
  else if p.dev then return [.store (rhMem p n) ⟨v, if w.tag == Tag.poison then Tag.poison else Tag.raw⟩]
  else
    let gone := cacheLost (← get) p.pa
    let path ← prepPhys c p n
    match ← oldWord c path p with
    | none => return []
    | some (old, lost) =>
      let lost := lost || (gone && (path == .l1d || path == .l2))
      let old := rhOverlay acts p.pa old
      if p.ts && !lost && !isPlain old.tag then raise 3 (old.tag.setWidth 8 ||| 0x10)
      return [.store (rhMem p n) ⟨v, if lost then Tag.poison else subTag old.tag w.tag⟩]

/-! ## One move -/

/-- X op v into A, for the sums (R137). -/
def rhSum (c : CtxId) (o : SumOp) (v : TWord) : M Unit := do
  let k ← getC c
  let x := k.getX
  if !(isPlain x.tag || isPtr x.tag) then tagFault x.tag
  if !sumAccepts o x.tag v.tag then tagFault v.tag
  let r := sumOf o x.val v.val (bit k.st 0)
  modC c fun k =>
    let k1 := k.setSumFlags r
    if o == .cmp then k1 else k1.setA ⟨r.val, sumTag x.tag v.tag⟩

/-- X op v into A, for the logic row (R103). -/
def rhLogic (c : CtxId) (f : W64 → W64 → W64) (v : TWord) : M Unit := do
  let x := (← getC c).getX
  if !isLogic x.tag then tagFault x.tag
  if !isLogic v.tag then tagFault v.tag
  let r := f x.val v.val
  modC c fun k => (k.setZN r).setA ⟨r, logicTag [x.tag, v.tag]⟩

/-- X × v. -/
def rhMul (c : CtxId) (signed : Bool) (v : TWord) : M Unit := do
  let x := (← getC c).getX
  rhPlain x
  rhPlain v
  let p : BitVec 128 := if signed then BitVec.ofInt 128 (x.val.toInt * v.val.toInt)
    else BitVec.ofNat 128 (x.val.toNat * v.val.toNat)
  modC c fun k => { k with mh := ⟨fld p 64 64, Tag.int⟩, ml := ⟨fld p 0 64, Tag.int⟩ }

/-- X / v (R119). -/
def rhDiv (c : CtxId) (signed : Bool) (v : TWord) : M Unit := do
  let x := (← getC c).getX
  rhPlain x
  rhPlain v
  if v.val = 0 then raise 12
  if signed then
    let (q, r, o) := signedDiv x.val v.val
    modC c fun k => { k with mq := ⟨q, Tag.int⟩, mr := ⟨r, Tag.int⟩, st := setBit k.st 3 o }
  else
    modC c fun k => { k with mq := ⟨x.val / v.val, Tag.int⟩, mr := ⟨x.val % v.val, Tag.int⟩ }

/-- An I/O move: its checks; a local access is tried without effect, so that it cannot fault later. -/
def rhIo (c : CtxId) (write slot : Bool) (v data : TWord) : M RhIo := do
  rhAddr Tag.ioptr v
  if write && data.tag == Tag.poison then tagFault Tag.poison
  let a : W32 := fld v.val 0 32
  let loc := isLocal (← get) a
  needIo c v.val (!loc) 6
  if loc then
    let s ← get
    if write then localWrite c (fldN a 0 19) data
    else
      let _ ← localRead c (fldN a 0 19)
    set s
  return ⟨write, a, data, true, slot⟩

/-- Acts of which none puts its result into the slot that a later write of it overwrites: `io` for F31, else F29. -/
def rhUnkeep (io : Bool) (acts : List RhAct) : List RhAct :=
  acts.map fun a => match a with
    | .io q => if io then .io { q with keep := false } else a
    | .load m _ => if io then a else .load m false
    | a => a

/-- One move: v into the destination port p (R166). -/
def rhMove (c : CtxId) (slot : Bool) (p : BitVec 8) (v : TWord) (k : RhWork) : M RhWork := do
  let x ← getC c
  let ctl := fun (t : RhCtl) => { k with ctl := t, slot := slot }
  if p.toNat < 0x20 then
    modC c fun x => x.setSlot (fld p 0 5) v
    return { k with acts := if p == 0x1F then rhUnkeep true k.acts else if p == 0x1D then rhUnkeep false k.acts else k.acts }
  match p.toNat with
  | 0x20 => modC c (fun x => x.setX v); return k
  | 0x21 => rhSum c .add v; return k
  | 0x22 => rhSum c .sub v; return k
  | 0x23 => rhLogic c (· &&& ·) v; return k
  | 0x24 => rhLogic c (· ||| ·) v; return k
  | 0x25 => rhLogic c (· ^^^ ·) v; return k
  | 0x26 => rhLogic c (fun a b => a <<< shiftCount b) v; return k
  | 0x27 => rhLogic c (fun a b => a >>> shiftCount b) v; return k
  | 0x28 => rhLogic c (fun a b => a.sshiftRight (shiftCount b)) v; return k
  | 0x29 => rhSum c .cmp v; return k
  | 0x2A =>
    rhPlain x.getA
    rhPlain v
    modC c fun x => x.setA ⟨(x.getA.val <<< 6) ||| at' 0 (fld v.val 0 6), Tag.int⟩
    return k
  | 0x30 => rhMul c true v; return k
  | 0x31 => rhMul c false v; return k
  | 0x32 => rhDiv c true v; return k
  | 0x33 => rhDiv c false v; return k
  | 0x38 =>
    rhAddr Tag.dptr v
    return { k with acts := k.acts ++ [← rhLoad c v.val 8] }
  | 0x39 =>
    rhAddr Tag.dptr v
    return { k with acts := k.acts ++ [← rhLoad c v.val 4] }
  | 0x3A =>
    rhAddr Tag.dptr v
    return { k with acts := k.acts ++ (← rhStore c k.acts v.val 8 (← readSlot c 28)) }
  | 0x3B =>
    rhAddr Tag.dptr v
    return { k with acts := k.acts ++ (← rhStore c k.acts v.val 4 (← readSlot c 28)) }
  | 0x40 => rhAddr Tag.cptr v; return ctl (.jump v.val)
  | 0x41 => rhAddr Tag.cptr v; return ctl (.jumpx v.val)
  | 0x42 => rhAddr Tag.cptr v; return ctl (.call v.val)
  | 0x43 => rhPlain v; return ctl (.ret (fld v.val 0 8))
  | 0x44 => rhPlain v; return ctl (.skip (fld v.val 0 4))
  | 0x48 => rhPlain v; return ctl (.trap (fld v.val 0 8))
  | 0x49 =>
    rhPlain v
    needDef (fld v.val 0 4 != 0)
    return ctl (.fence (fld v.val 0 4))
  | 0x50 => return { k with acts := k.acts ++ [.io (← rhIo c false slot v ⟨0, Tag.int⟩)] }
  | 0x51 => return { k with acts := k.acts ++ [.io (← rhIo c true slot v (← readSlot c 30))] }
  | _ => undef

/-- A fault of move 1 saves the word's address + 2 (R165). -/
def inSlot {α : Type} (slot : Bool) (m : M α) : M α :=
  tryCatch m fun e => match e with
    | .exc i => throw (.exc { i with off := i.off + (if slot then 2 else 0) })
    | e => throw e

/-! ## The control trigger -/

/-- The target of a transfer: rows 5 and 6, then the target check (R149). -/
def rhTarget (c : CtxId) (v : W64) (rh : Option Bool) : M Phys := do
  needCanonical c v .exec
  needAligned v 4
  targetCheck c v rh

/-- Check the control trigger before the word takes effect: the store it makes, and where it leads. The word that a RET pops is read
now (log 69). -/
def rhPrepare (c : CtxId) (k : RhWork) : M (List RhAct × W64) := do
  let x ← getC c
  match k.ctl with
  | .jump v =>
    let _ ← rhTarget c v (some true)
    return ([], v)
  | .jumpx v =>
    let p ← rhTarget c v none
    if p.rh && !enabled (← get) 0 then undef
    return ([], if p.rh then 1 else 0)
  | .call v =>
    needDef (!x.fib)
    needCanonical c v .exec
    needAligned v 4
    let p ← pushPhys c
    let _ ← targetCheck c v (some true)
    needFreeWindow c
    return ([.store (rhMem p 8) ⟨x.pc + 4, Tag.cptr⟩], v)
  | .ret _ =>
    needDef (!x.fib)
    let a := x.stk.sp
    needRows c .read a 8 true false
    let p ← translateCtx c ⟨a, .read, none, none, false⟩
    let w := takeTag (← get) c (rhOverlay k.acts p.pa (← readPhys c p 8))
    if w.tag != Tag.cptr then tagFault w.tag
    needAligned w.val 4
    needCallerWindow c
    return ([], w.val)
  | _ => return ([], 0)

/-- Stage 4 of R164 for a trigger whose checks found `v`; a FENCE waits until its classes have been performed. `true`: the word
retires. -/
def rhEffect (c : CtxId) (ctl : RhCtl) (v : W64) : M Bool := do
  match ctl with
  | .none => advance c; return true
  | .jump t => modC c (fun k => { k with pc := t }); return true
  | .jumpx t => modC c (fun k => { k with pc := t, st := setBit k.st 15 (v != 0) }); return true
  | .call t =>
    modC c fun k => { rhahaZeroSlots (callWindow (k.setSp (k.stk.sp - 8))) with pc := t }
    return true
  | .ret n =>
    modC c fun k => { retWindow (k.setSp (k.stk.sp + 8 + 8 * n.setWidth 64)) with pc := v }
    return true
  | .skip cc =>
    modC c fun k => { k with pc := k.pc + (if skipCond k (cc.setWidth 5) 0 0 then 8 else 4) }
    return true
  | .trap n =>
    takeSync c ⟨if n.toNat < 16 then BitVec.ofNat 6 (48 + n.toNat) else 47, n, none, 4, false, false⟩
    return false
  | .fence f =>
    let s ← get
    let w := ((s.getCtx c).ev.fence).getD ⟨s.time.tick, f, none⟩
    if fenceDone s c f then
      modify (milestone c 9 0 none 0 (w.done.getD s.time.tick - w.since) (at' 0 f))
      modC c fun k => { k with ev := { k.ev with fence := none } }
      advance c
      return true
    else wait

/-- A FENCE trigger that waits notes when it began (R475). -/
def rhFenceNote (ctl : RhCtl) (now : W64) (e : Events) : Events :=
  match ctl with
  | .fence f => { e with fence := some (e.fence.getD ⟨now, f, none⟩) }
  | _ => e

/-- The Milestones of the INs of a word that ends (R475). -/
def rhMiles (c : CtxId) (ms : List InMile) (s : State) : State :=
  ms.foldl (fun t m => milestone c 10 0 m.peer 0 m.dur (m.addr.setWidth 64) t) s

/-- The end of a word: its trigger takes effect and, after it, the I/O timeout of one of its moves is taken (R165), which saves the PC as
the word has left it. Both or neither: what waits stays as the rest of the word. A word that a timeout ends has no Milestone (R475). -/
def rhFinish (c : CtxId) (r : RhRest) : M Bool := do
  let s ← get
  let go : M Bool := do
    modC c fun k => { k with rest := none }
    if !r.late then modify (rhMiles c r.miles)
    let done ← rhEffect c r.ctl r.v
    if r.late then takeSync c ⟨19, 0, none, 0, false, false⟩
    return done && !r.late
  match go s with
  | .ok true t => set t; return true
  | .ok false t => set (dropFills c t); return false
  | .error .wait t =>
    set ((rollback s t).modCtx c fun k =>
      { k with rest := some { r with acts := [] }, ev := rhFenceNote r.ctl s.time.tick k.ev })
    return false
  | .error e t => do
    set t
    throw e

/-! ## The accesses -/

/-- An I/O move to a port of this core. -/
def rhLocal (c : CtxId) (a : RhIo) : M Unit := do
  if a.write then localWrite c (fldN a.addr 0 19) a.data
  else
    let w ← localRead c (fldN a.addr 0 19)
    if a.keep then modC c fun k => k.setSlot 31 w

/-- An I/O move onto the mesh (R126). -/
def rhSend (c : CtxId) (a : RhIo) : M Unit := do
  needLane 2
  let s ← get
  let t := ioTxid s
  let opc : IoOpc := if a.write then .write else .read
  let w : IoWait :=
    { addr := a.addr, opc := opc, txid := t, since := s.time.tick, next := (s.getCtx c).pc + 4
      dest := if !a.write && a.keep then .slot 31 else .none, inc := 0 }
  modify fun s => countCtx 2 7 1 c none (bumpTxid t (sendIoReq a.addr opc (issuerOf s c) t a.data s))
  modC c fun k => { k with io := some w }

/-- Make one access whose checks have passed; `true` when it is done, `false` when a response must come. -/
def rhAct (c : CtxId) (a : RhAct) : M Bool := do
  match a with
  | .io q =>
    if isLocal (← get) q.addr then
      rhLocal c q
      return true
    else
      rhSend c q
      return false
  | .load m keep =>
    let w := takeTag (← get) c (← readPhys c m.phys m.n)
    let v : TWord := if m.n == 8 then w
      else ⟨pickBytes (fldN m.va 0 3) 4 false w.val, if w.tag == Tag.poison then Tag.poison else Tag.int⟩
    if keep then modC c fun k => k.setSlot 29 v
    return true
  | .store m w =>
    let path ← prepPhys c m.phys m.n
    commitPhys c path m.phys m.n w
    return true

/-- Make the accesses in order; whether all are done. One that waits, or goes onto the mesh, leaves the rest of the word. -/
def rhRun (c : CtxId) (r : RhRest) : List RhAct → M Bool
  | [] => return true
  | a :: rest => do
    let s ← get
    match rhAct c a s with
    | .ok true t =>
      set t
      rhRun c r rest
    | .ok false t =>
      set (t.modCtx c fun k => { k with
        rest := some { r with acts := rest, cur := match a with | .io q => q.slot | _ => false } })
      return false
    | .error .wait t =>
      set ((rollback s t).modCtx c fun k => { k with rest := some { r with acts := a :: rest } })
      return false
    | .error e t => do
      set t
      throw e

/-- The rest of a word whose checks have passed. -/
def rhRest (c : CtxId) (r : RhRest) : M Bool := do
  if ← rhRun c r r.acts then rhFinish c r else return false

/-- The registers that a word's moves may change (R165). -/
def rhUndo (d0 d1 : BitVec 8) (k : Ctx) : RhUndo where
  a := k.getA
  x := k.getX
  mh := k.mh
  ml := k.ml
  mq := k.mq
  mr := k.mr
  st := k.st
  slots := ([fld d0 0 5, fld d1 0 5, 29, 31] : List (BitVec 5)).map fun i => (i, k.slot i)

/-- The registers as they stood before the word. -/
def RhUndo.restore (u : RhUndo) (k : Ctx) : Ctx :=
  let k1 := (k.setA u.a).setX u.x
  u.slots.foldl (fun k e => if k.hasSlot e.1 then k.setSlot e.1 e.2 else k)
    { k1 with mh := u.mh, ml := u.ml, mq := u.mq, mr := u.mr, st := u.st }

/-- The accesses of a word in the order they are made. I/O moves go in their order (R126); when a response may still refuse one, the
accesses to data space, which R126 leaves unordered against them, come after (R165, log 69). -/
def rhOrder (s : State) (acts : List RhAct) : List RhAct :=
  let io := fun (a : RhAct) => match a with | .io _ => true | _ => false
  let onMesh := fun (a : RhAct) => match a with | .io q => !isLocal s q.addr | _ => false
  if acts.any onMesh then acts.filter io ++ acts.filter fun a => !io a else acts

/-- A Rhaha word (R163 to R165). `true`: it retires. DESIGN CHOICE (log 69): of two moves that both fault, an unlisted port of either
is reported first, then what move 0 meets, then move 1, then the checks of the control trigger, even where it stands in move 0. -/
def rhWord (w : W32) (c : CtxId) : M Bool := do
  let k ← getC c
  match k.rest with
  | some r => rhRest c r
  | none =>
    let d0 : BitVec 8 := fld w 16 8
    let d1 : BitVec 8 := fld w 0 8
    needDef (!(rhControl d0 && rhControl d1))
    match ← rhRead c (fld w 24 8), ← rhRead c (fld w 8 8) with
    | none, _ => undef
    | some _, none => inSlot true undef
    | some v0, some v1 =>
      needDef (rhDestOk k d0)
      inSlot true (needDef (rhDestOk k d1))
      let undo := rhUndo d0 d1 (← getC c)
      let k0 ← rhMove c false d0 v0 ⟨[], .none, false⟩
      let k1 ← inSlot true (rhMove c true d1 v1 k0)
      let (more, v) ← inSlot k1.slot (rhPrepare c k1)
      rhRest c ⟨rhOrder (← get) (k1.acts ++ more), false, k1.ctl, v, undo, false, []⟩

/-- RHAHA_WORD (R164): in Rhaha mode. -/
def execRhahaWord (w : W32) (s : State) : Host.Outcome State Fault Refusal :=
  match issuing s with
  | none => .next s
  | some c => .next (runBody false (rhWord w) c s)

/-! ## Responses to I/O requests (R425, R426) -/

/-- A context's I/O instruction ends with an exception, with the PC to return to `off` past PC; no move of a Rhaha word has any effect on
the registers (R165). While the entry waits for memory nothing has happened yet. DESIGN CHOICE (log 69): an I/O access that the word's
other move has made before stands; R126 has it made once, in its order, and R165 says that neither move has any effect. -/
def ioFail (c : CtxId) (vec : BitVec 6) (off : W64) (s : State) : State :=
  let back := fun (k : Ctx) => match k.rest with | some r => r.undo.restore k | none => k
  match takeSync c ⟨vec, 0, none, off, false, false⟩ (s.modCtx c fun k => { back k with io := none, rest := none }) with
  | .ok _ t => dropFills c (accountChange s t)
  | .error _ t => rollback s t

/-- Context c's request has ended in the state `t`: the rest of a Rhaha word goes on, or the instruction ends. -/
def ioFinish (c : CtxId) (w : IoWait) (late : Bool) (s t : State) : State :=
  match (t.getCtx c).rest with
  | none => retire c s (t.modCtx c fun k => { k with pc := w.next, skipPair := false })
  | some r =>
    match rhRest c { r with late := r.late || late } t with
    | .ok true u => retire c s u
    | .ok false u => accountChange s u
    | .error _ u => rollback s u

/-- The core whose response context c waits for (R107): none for the chip's I/O space. -/
def ioPeer (w : IoWait) : Option CoreId := if bit w.addr 31 then none else some (fld w.addr 19 12)

/-- The Milestone of an IN or CLAIM that has its response: now, or when the Rhaha word that it is a move of retires (R475). -/
def ioMile (c : CtxId) (m : InMile) (s : State) : State :=
  match (s.getCtx c).rest with
  | none => rhMiles c [m] s
  | some r => s.modCtx c fun k => { k with rest := some { r with miles := r.miles ++ [m] } }

/-- The response to context c's request. An IN or CLAIM to another core has a Milestone (R475). -/
def ioDone (c : CtxId) (w : IoWait) (r : IoResp) (s : State) : State :=
  if r.sts != 0 then
    ioFail c 10 (match (s.getCtx c).rest with | some q => if q.cur then 2 else 0 | none => 0) s
  else
    let v := ioDeliver w.opc r.data
    let t := s.modCtx c fun k =>
      let k1 := { k with io := none }
      let k2 := k1.setY ⟨k1.getY.val + w.inc, k1.getY.tag⟩
      k2.setDest w.dest v
    let t1 := if w.opc == .claim then countCtx 6 (if bit v.val 63 && v.tag == Tag.epoch then 3 else 2) 1 c none t else t
    let t2 := if (w.opc == .read || w.opc == .claim) && (ioPeer w).isSome then
        ioMile c ⟨ioPeer w, s.time.tick - w.since, w.addr⟩ t1
      else t1
    ioFinish c w false s t2

/-- The context that waits for transaction t. -/
def ioWaiter (s : State) (t : BitVec 8) : Option (CtxId × IoWait) :=
  ([0, 1, 2, 3] : List CtxId).findSome? fun c =>
    match (s.getCtx c).io with
    | some w => if w.txid == t then some (c, w) else none
    | none => none

/-- The request of context c will have no response (R153): its instruction ends with the exception, a Rhaha word after its other
move (R165). -/
def ioLate (c : CtxId) (w : IoWait) (s : State) : State :=
  if (s.getCtx c).rest.isSome then ioFinish c w true s (s.modCtx c fun k => { k with io := none }) else ioFail c 19 4 s

/-- IO_TIMEOUT (R153): the request of context c has waited for 1,048,576 ticks. -/
def execIoTimeout (c : CtxId) (s : State) : Host.Outcome State Fault Refusal :=
  match (s.getCtx c).io with
  | some w => if 1048576 ≤ (s.time.tick - w.since).toNat then .next (ioLate c w s) else .next s
  | none => .next s

end Sys2Proof.Machine
end

