-- ==== Sys2Proof/Machine/Boot.lean ====
section
/-!
DEFINITION. Resets and the start sequence (01 R56, R57, 02 R65 to R67, R80, R87 to R92), key generation (R89, R90, 16 R497)
and I/O responses (14 R426).
-/

namespace Sys2Proof.Machine

open Sys2Proof

/-! ## Cold reset -/

/-- COLD_RESET (R56, R66): every field takes its cold value; the input pins stay as they are driven, and the scratchpad's
contents become unknown again. -/
def coldState (s : State) : State :=
  { State.reset with
    pins := { Pins.reset with
      hfence := s.pins.hfence, frz := s.pins.frz, alarmIn := s.pins.alarmIn, paceHw := s.pins.paceHw, curHi := s.pins.curHi
      refclk := s.pins.refclk, cpPresent := s.pins.cpPresent, cpIready := s.pins.cpIready }
    boot := { Boot.reset with wrstLow := s.boot.wrstLow }
    coldCount := s.coldCount + 1
    free := s.free
    pending := s.pending }

/-- COLD_RESET. -/
def execColdReset (s : State) : Host.Outcome State Fault Refusal := .next (coldState s)

/-- The Init state begins (R88). -/
def enterInit (s : State) : State :=
  ackFence (paceApply { s with boot := { s.boot with phase := .init, rstTick := s.time.tick } })

/-- COLD_RESET_RELEASE (R88): while WRST_N is low the core stays in reset. -/
def execColdResetRelease (s : State) : Host.Outcome State Fault Refusal :=
  if s.boot.phase != .coldReset then .next s
  else if s.boot.wrstLow then .next { s with boot := { s.boot with phase := .heldByWrst } }
  else .next (enterInit s)

/-! ## Warm reset and core reset -/

/-- The alarms that fired during the Keys state are applied when it ends (R497). -/
def endKeys (s : State) : State :=
  let d := s.keys.deferred
  let t := { s with keys := { s.keys with gen := KeyGen.reset, deferred := 0 } }
  if d = 0 then t else alarmFire d t

/-- The reset vector (R85). -/
def resetVector (s : State) : W64 := at' 0 s.chain.rveclo ||| at' 32 s.chain.rvechi

/-- A work counter after a warm reset (R429): a new epoch. -/
def warmWork (k : WorkCtr) : WorkCtr := { WorkCtr.reset with epoch := k.epoch + 1, rej := k.rej }

/-- A Causeway channel as a warm reset finds it (R57, R446): a contribution of which a beat stands in the FIFO or has gone out goes on
with zeros; any other ends. The beats in the FIFO go out as they are. -/
def warmCw (k : CwCh) : CwCh :=
  if k.state == 1 && k.checked && k.sent != 0 then { k with zeros := true } else { CwCh.reset with credit := k.credit }

/-- What is left of the mesh's business (R57): the packets queued, the requests outstanding, whose answers nobody awaits, and
the snoops. A line that was held for want of room is given back. -/
def warmMesh (s : State) : State :=
  let held := s.mesh.fills.filter fun f => f.held && f.excl
  held.foldl (fun t f => letGo (lineNo f.req.addr) t)
    { s with mesh := { s.mesh with
      fills := []
      reqs := s.mesh.reqs.map fun r =>
        if r.op.isRead then { r with who := .evict, l1i := false, l1d := false, l2 := false } else r } }

/-- The state groups that a warm reset clears at once (R66, and the warm reset columns of every chapter). -/
def warmState (s : State) : State :=
  { s with
    ctx := resetCtxs (twoWorlds s) (resetVector s)
    chain := { s.chain with
      mbin := Vector.replicate 4 0, mbout := Vector.replicate 4 0, inFull := false, outFull := false, inOvr := false
      outOvr := false }
    pins := { s.pins with cpRstN := false }
    pace := Pace.reset
    time := { s.time with tlat := 0, tcmp := BitVec.allOnes 64, ten := false, timerArmed := true }
    perf := Perf.reset
    trace := { s.trace with
      dmpctl := 0, dmSeq := 0, dmSkip := 0, dmFull := false, dumpOut := none, trctl := 0, trFull := false, trLost := 0
      trq := [], trOut := false, trMissed := 0, copyOut := none, behind := 0 }
    intr := { Intr.reset with sentry := if bit s.intr.sentry 1 then s.intr.sentry else 0 }
    drover := Drover.reset
    pamb := Vector.replicate 16 0
    paml := Vector.replicate 16 0
    caches := { s.caches with cctl := 0, l1i := [] }
    tlbs := Tlbs.reset
    mover := Vector.replicate 8 MoverCh.reset
    cw := { s.cw with ch := s.cw.ch.map warmCw }
    coop := { s.coop with work := s.coop.work.map warmWork, land := Vector.replicate 16 0, pAcc := 0 }
    cp := Coproc.reset
    tile := Tile.reset }

/-- RCAUSE of a warm or core reset (R80); a reset within a reset keeps LAME_PRIOR. -/
def resetCause (s : State) (k : ResetKind) : BitVec 4 :=
  let lame := match s.boot.phase with | .drain _ | .afterDrain _ => bit s.boot.rcause 3 | _ => s.boot.lame
  let kind : BitVec 4 := match k with | .cold => 1 | .warm => 2 | .core => 4
  kind ||| bAt 3 lame

/-- A warm reset or core reset asserts (R57): everything stops and the drain begins. -/
def beginReset (k : ResetKind) (s : State) : State :=
  let b := { s.boot with
    phase := .drain k, rstTick := s.time.tick, rcause := resetCause s k, go := false, lame := false, lameWb := false }
  drainStep (warmMesh (warmState { endKeys s with boot := b }))

/-- WARM_RESET (R57, R66, R80): within a cold reset it merges into it. -/
def execWarmReset (s : State) : Host.Outcome State Fault Refusal :=
  let t := { s with boot := { s.boot with wrstLow := true } }
  match s.boot.phase with
  | .coldReset | .heldByWrst => .next t
  | _ => .next (beginReset .warm t)

/-- The Held state begins, or what follows it when GO is set. -/
def held (s : State) : State := { s with boot := { s.boot with phase := .held } }

/-- WARM_RESET_RELEASE (R57, R88). -/
def execWarmResetRelease (s : State) : Host.Outcome State Fault Refusal :=
  let t := { s with boot := { s.boot with wrstLow := false } }
  match s.boot.phase with
  | .heldByWrst => .next (enterInit t)
  | .afterDrain .warm => .next (enterInit t)
  | _ => .next t

/-- The drain has nothing left to do (R57). -/
def drainDone (s : State) : Bool :=
  cachesDrained s && egressIdle s && s.mesh.offered.isNone && s.cw.fifo.isEmpty &&
    !(List.range 16).any fun i => (vget s.cw.ch i CwCh.reset).state == 1

/-- The ports after the drain: of the Causeway channels their credit is left (R27, R443), and the egress signals have their reset
values (R17, R26). -/
def idlePorts (s : State) : State :=
  { s with
    mesh := { s.mesh with lastFlit := Flit.zero }
    cw := { s.cw with ch := s.cw.ch.map fun k => { CwCh.reset with credit := k.credit }, lastBeat := Beat.zero } }

/-- DRAIN_END (R57, R65): a core reset goes on to Held after at least 32 ticks, a warm reset to Init once WRST_N is released. -/
def execDrainEnd (s : State) : Host.Outcome State Fault Refusal :=
  match s.boot.phase with
  | .drain k =>
    if !drainDone s then .next s
    else
      let t := idlePorts s
      match k with
      | .core =>
        if 32 ≤ (s.time.tick - s.boot.rstTick).toNat then .next (held (paceApply t))
        else .next { t with boot := { t.boot with phase := .afterDrain .core } }
      | _ =>
        if t.boot.wrstLow then .next { t with boot := { t.boot with phase := .afterDrain .warm } } else .next (enterInit t)
  | _ => .next s

/-- CORE_RESET_END (R65): the 32 ticks have passed. -/
def execCoreResetEnd (s : State) : Host.Outcome State Fault Refusal :=
  match s.boot.phase with
  | .afterDrain .core =>
    if 32 ≤ (s.time.tick - s.boot.rstTick).toNat then .next (held (paceApply s)) else .next s
  | _ => .next s

/-- LAME_WRITEBACK_END (R381). -/
def execLameWritebackEnd (s : State) : Host.Outcome State Fault Refusal :=
  if s.boot.lame && s.boot.lameWb && cachesDrained s then .next { s with boot := { s.boot with lameWb := false } }
  else .next s

/-! ## Start -/

/-- The configuration locks at the first start after cold reset (R84, R87). -/
def lockConfig (s : State) : State :=
  if s.boot.locked then s
  else
    { s with
      boot := { s.boot with locked := true }
      chain := { s.chain with privMode := if s.chain.privMode == 0 then 1 else s.chain.privMode } }

/-- A context as the core starts (R91, R95): its ST, the PC at the reset vector and, in the capability configuration, root
capabilities. -/
def coreCtx (s : State) (c : CtxId) (k : Ctx) : Ctx :=
  { k with
    st := resetSt c (twoWorlds s)
    pc := resetVector s
    pcc := if capsConf s then rootCap s else k.pcc
    ddc := if capsConf s then rootCap s else k.ddc }

/-- The Start state (R87, R88, R91): the configuration locks and C0 fetches from the reset vector. -/
def startCore (s : State) : State :=
  let t := lockConfig s
  settle { t with
    boot := { t.boot with phase := .start }
    drover := { t.drover with ranSince := t.time.tick }
    ctx := ⟨coreCtx t 0 t.ctx.q0, coreCtx t 1 t.ctx.q1, coreCtx t 2 t.ctx.q2, coreCtx t 3 t.ctx.q3⟩ }

/-! ## Keys -/

/-- Key generation fails (R89): back to Held. Its record comes before that of an alarm, whose cause is higher (R491). -/
def keyFail (s : State) : State :=
  endKeys (wayside 3 none 0 { s with boot := { s.boot with phase := .held, keyfail := true, go := false } })

/-- Send one entropy read (R89), or fail: the Tollgate refuses it, with a record after that of the failure (R491), or the port is this
core's own. -/
def keyRead (s : State) : State :=
  let a := s.chain.entsrc
  if isLocal s a then keyFail s
  else if !tollAllowsIo s a then tollRefuse false 6 none (keyFail s)
  else
    let t := ioTxid s
    let g := { s.keys.gen with txid := some t, since := s.time.tick }
    bumpTxid t (sendIoReq a .read ⟨true, true, 0⟩ t ⟨0, Tag.int⟩ { s with keys := { s.keys with gen := g } })

/-- Four words as a key: word i in bits [64 i + 63 : 64 i] (log 40). -/
def keyOf (ws : List W64) : BitVec 256 := (ws.zipIdx).foldl (fun a p => a ||| at' (64 * p.2) p.1) 0

/-- The sixteen accepted words in order make the keys (R89). -/
def makeKeys (ws : List W64) (k : Keys) : Keys :=
  let x := (List.range 8).map fun i => ws.getD (2 * i) 0 ^^^ ws.getD (2 * i + 1) 0
  { k with worldKey := keyOf (x.take 4), sealKey := keyOf (x.drop 4), wkv := true, skv := true }

/-- The Keys state ends with sixteen words (R89). An alarm that fired meanwhile is applied, and the words are discarded (R497). -/
def keyDone (ws : List W64) (s : State) : State :=
  startCore (endKeys (if s.keys.deferred = 0 then { s with keys := makeKeys ws s.keys } else s))

/-- An entropy word has arrived (R89). -/
def keyWord (w : W64) (s : State) : State :=
  let g := s.keys.gen
  let bad := w == 0 || w == BitVec.allOnes 64 || g.last == some w
  let g' := { g with
    last := some w, txid := none, rej := if bad then g.rej + 1 else g.rej, got := if bad then g.got else w :: g.got }
  let t := { s with keys := { s.keys with gen := g' } }
  if 17 ≤ g'.rej then keyFail t
  else if g'.got.length = 16 then keyDone g'.got.reverse t
  else keyRead t

/-- A Held core with GO = 1 leaves Held (R88): to Keys while the keys are not valid and no alarm has fired, else to Start. -/
def goStart (s : State) : State :=
  if (s.keys.wkv && s.keys.skv) || s.keys.alm then startCore s
  else keyRead { s with boot := { s.boot with phase := .keys }, keys := { s.keys with gen := KeyGen.reset } }

/-- INIT_END (R88). -/
def execInitEnd (s : State) : Host.Outcome State Fault Refusal :=
  if s.boot.phase != .init then .next s
  else if s.boot.go then .next (goStart (held s)) else .next (held s)

/-- KEYGEN_TIMEOUT (R89): an entropy read has waited for 65,536 ticks. -/
def execKeygenTimeout (s : State) : Host.Outcome State Fault Refusal :=
  if s.boot.phase == .keys && s.keys.gen.txid.isSome && decide (65536 ≤ (s.time.tick - s.keys.gen.since).toNat) then
    .next (keyFail s)
  else .next s

/-! ## Responses -/

/-- IO_RESPONSE (R425, R426, R89): for the context that waits for it, or for the entropy read; any other is dropped. -/
def execIoResponse (r : IoResp) (s : State) : Host.Outcome State Fault Refusal :=
  if s.boot.phase == .keys then
    if s.keys.gen.txid == some r.txid then .next (if r.sts == 0 then keyWord r.data.val s else keyFail s) else .next s
  else if s.boot.phase == .start && !s.boot.lame then
    match ioWaiter s r.txid with
    | some (c, w) => .next (ioDone c w r s)
    | none => .next s
  else .next s

/-- CP_RESET_RELEASE (R39): after the core has left reset; without attached logic the port keeps its reset values (R37). -/
def execCpResetRelease (s : State) : Host.Outcome State Fault Refusal :=
  if inReset s then .next s
  else .next (if s.pins.cpPresent then { s with pins := { s.pins with cpRstN := true } } else s)

end Sys2Proof.Machine
end

