-- ==== Sys2Proof/Machine/Caps.lean ====
section
/-!
DEFINITION. The capability group (12 R391 to R395): inspection, derivation, loads and stores of capabilities, transfers
through them, and the sealing of values. The capability operand is X:Y.
-/

namespace Sys2Proof.Machine

open Sys2Proof

/-- X:Y. -/
def Ctx.capXY (k : Ctx) : CapPair := ⟨k.getX, k.getY⟩
/-- Write X:Y. -/
def Ctx.setCapXY (k : Ctx) (p : CapPair) : Ctx := (k.setX p.hi).setY p.lo

/-- The capability with fields replaced. -/
def CapPair.withBase (p : CapPair) (v : BitVec 54) : CapPair := { p with hi := { p.hi with val := setFld p.hi.val 0 54 v } }
/-- TOP replaced. -/
def CapPair.withTop (p : CapPair) (v : BitVec 54) : CapPair := { p with lo := { p.lo with val := setFld p.lo.val 0 54 v } }
/-- PERMS replaced. -/
def CapPair.withPerms (p : CapPair) (v : BitVec 8) : CapPair := { p with hi := { p.hi with val := setFld p.hi.val 54 8 v } }
/-- OTYPE replaced. -/
def CapPair.withOtype (p : CapPair) (v : BitVec 4) : CapPair := { p with lo := { p.lo with val := setFld p.lo.val 54 4 v } }
/-- PERMS. -/
def CapPair.perms (p : CapPair) : BitVec 8 := fld p.hi.val 54 8

/-- Row 2 of R132 for the group: the function exists, S and SEL are 0 where they are unused, and bits [11:0] are 0 (R391). -/
def needCapForm (always useS useSel : Bool) (r : BitVec 20) : M Unit := do
  let s ← get
  needDef ((always || capsConf s) && fld r 0 12 == 0 && (useS || fld r 15 5 == 0) && (useSel || fld r 12 3 == 0))

/-- X:Y must be a valid capability (R389). -/
def needXY (c : CtxId) : M CapPair := do
  let s ← get
  let p := (s.getCtx c).capXY
  needCap (capNeedValid s p)
  return p

/-- X:Y must be valid and unsealed. -/
def needUnsealed (c : CtxId) : M CapPair := do
  let p ← needXY c
  if p.otype != 0 then capFault 2 false
  return p

/-- A requirement of R391 that no code of R394 names has failed, the tag of A or the SEL of APUT: the capability fault with a free code
(DESIGN CHOICE, log 72). -/
def capFaultFree {α : Type} : M α := do
  let code : BitVec 8 := fld (← freeW) 0 8
  capFault code (code == 6)

/-- A must carry a tag that `ok` accepts (R391). -/
def needTagA (c : CtxId) (ok : Tag → Bool) : M W64 := do
  let a := (← getC c).getA
  if ok a.tag then return a.val else capFaultFree

/-- A must be plain: RAW or INT. -/
def needPlainA (c : CtxId) : M W64 := needTagA c isPlain

/-- Write the derived capability back to X:Y with a new CHK (R391). -/
def putXY (c : CtxId) (p : CapPair) : M Unit := modify fun s => s.modCtx c fun k => k.setCapXY (capSign s p)

/-- An integer result in A. -/
def putInt (c : CtxId) (v : W64) : M Unit := modC c fun k => k.setA ⟨v, Tag.int⟩

/-- An instruction of the group that only inspects X:Y. -/
def capInspect (f : CapPair → W64) (r : BitVec 20) (c : CtxId) : M Unit := do
  needCapForm false false false r
  let p ← needXY c
  putInt c (f p)

/-- ABASE (R391). -/
def execAbase (r : BitVec 20) (s : State) : Host.Outcome State Fault Refusal :=
  runSeq (capInspect (fun p => sext (BitVec.ofNat 56 (p.base * 4)) 64) r) s
/-- ATOP (R391). -/
def execAtop (r : BitVec 20) (s : State) : Host.Outcome State Fault Refusal :=
  runSeq (capInspect (fun p => sext (BitVec.ofNat 56 (p.top * 4 + 3)) 64) r) s
/-- APERM (R391). -/
def execAperm (r : BitVec 20) (s : State) : Host.Outcome State Fault Refusal :=
  runSeq (capInspect (fun p => at' 0 p.perms ||| at' 8 p.otype) r) s

/-- ANARB (R391): the new bound is a multiple of 4, not below the old one, within TOP. -/
def anarbInstr (r : BitVec 20) (c : CtxId) : M Unit := do
  needCapForm false false false r
  let v ← needPlainA c
  let p ← needUnsealed c
  if fld v 0 2 != 0 then capFault 7 false
  let b : BitVec 54 := fld v 2 54
  if b.toNat < p.base then capFault 5 false
  if p.top < b.toNat then capFault 3 false
  putXY c (p.withBase b)

/-- ANARB. -/
def execAnarb (r : BitVec 20) (s : State) : Host.Outcome State Fault Refusal := runSeq (anarbInstr r) s

/-- ANART (R391): A + 1 is a multiple of 4, not above the old bound, not below BASE. -/
def anartInstr (r : BitVec 20) (c : CtxId) : M Unit := do
  needCapForm false false false r
  let v ← needPlainA c
  let p ← needUnsealed c
  if fld v 0 2 != 3 then capFault 7 false
  let t : BitVec 54 := fld v 2 54
  if p.top < t.toNat then capFault 5 false
  if t.toNat < p.base then capFault 3 false
  putXY c (p.withTop t)

/-- ANART. -/
def execAnart (r : BitVec 20) (s : State) : Host.Outcome State Fault Refusal := runSeq (anartInstr r) s

/-- AMASK (R391). -/
def amaskInstr (r : BitVec 20) (c : CtxId) : M Unit := do
  needCapForm false false false r
  let a := (← getC c).getA
  if a.tag == Tag.poison then tagFault Tag.poison
  let p ← needUnsealed c
  putXY c (p.withPerms (p.perms &&& fld a.val 0 8))

/-- AMASK. -/
def execAmask (r : BitVec 20) (s : State) : Host.Outcome State Fault Refusal := runSeq (amaskInstr r) s

/-- TGRANT names an object type (R392). -/
def granted (k : Ctx) (t : BitVec 4) : Bool := t != 0 && bit k.sys.tgrant t.toNat

/-- ASEAL (R391). -/
def asealInstr (r : BitVec 20) (c : CtxId) : M Unit := do
  needCapForm false false false r
  let v ← needPlainA c
  let p ← needUnsealed c
  if !p.perm 5 then capFault 4 false
  if !granted (← getC c) (fld v 0 4) then capFault 6 true
  putXY c (p.withOtype (fld v 0 4))

/-- ASEAL. -/
def execAseal (r : BitVec 20) (s : State) : Host.Outcome State Fault Refusal := runSeq (asealInstr r) s

/-- AOPEN (R391). -/
def aopenInstr (r : BitVec 20) (c : CtxId) : M Unit := do
  needCapForm false false false r
  let p ← needXY c
  if p.otype == 0 then capFault 2 false
  if !granted (← getC c) p.otype then capFault 6 true
  putXY c (p.withOtype 0)

/-- AOPEN. -/
def execAopen (r : BitVec 20) (s : State) : Host.Outcome State Fault Refusal := runSeq (aopenInstr r) s

/-- The address of ALD and AST: A tagged DPTR, a multiple of 16, within DDC with the two permissions (R391). -/
def capAddress (c : CtxId) (kind : AccKind) (extra : Nat) : M W64 := do
  let a ← needTagA c (· == Tag.dptr)
  needCanonical c a kind
  if a.toNat % 16 != 0 then capFault 7 false
  needDdc c kind a 16
  let s ← get
  if !(s.getCtx c).ddc.perm extra then capFault 4 false
  return a

/-- ALD (R391). -/
def aldInstr (r : BitVec 20) (c : CtxId) : M Unit := do
  needCapForm false false false r
  let a ← capAddress c .read 3
  let p ← translateCtx c ⟨a, .read, none, none, false⟩
  let q ← translateCtx c ⟨a + 8, .read, none, none, false⟩
  let hi ← readPhys c p 8
  let lo ← readPhys c q 8
  modC c fun k => k.setCapXY ⟨hi, lo⟩

/-- ALD. -/
def execAld (r : BitVec 20) (s : State) : Host.Outcome State Fault Refusal := runSeq (aldInstr r) s

/-- AST (R391). -/
def astInstr (r : BitVec 20) (c : CtxId) : M Unit := do
  needCapForm false false false r
  let a ← needTagA c (· == Tag.dptr)
  needCanonical c a .write
  let x ← needXY c
  let a ← capAddress c .write 4
  let p ← translateCtx c ⟨a, .write, none, none, false⟩
  let q ← translateCtx c ⟨a + 8, .write, none, none, false⟩
  let wp ← prepPhys c p 8
  let wq ← prepPhys c q 8
  needPaths [(p, wp), (q, wq)]
  commitPhys c wp p 8 x.hi
  commitPhys c wq q 8 x.lo

/-- AST. -/
def execAst (r : BitVec 20) (s : State) : Host.Outcome State Fault Refusal := runSeq (astInstr r) s

/-- AGET (R391). -/
def agetInstr (r : BitVec 20) (c : CtxId) : M Unit := do
  needCapForm false false true r
  needDef (decide ((fld r 12 3).toNat < 4))
  modC c fun k => k.setCapXY (match (fld r 12 3).toNat with | 0 => k.pcc | 1 => k.ddc | 2 => k.hpcc | _ => k.hddc)

/-- AGET. -/
def execAget (r : BitVec 20) (s : State) : Host.Outcome State Fault Refusal := runSeq (agetInstr r) s

/-- APUT (R391). SEL = 0 names PCC, which APUT may not write: its requirement fails (log 72). -/
def aputInstr (r : BitVec 20) (c : CtxId) : M Unit := do
  let sel := (fld r 12 3).toNat
  needCapForm false false true r
  needDef (decide (sel < 4))
  needPriv (decide (sel < 2) || (← getC c).sup)
  if sel = 0 then capFaultFree
  let p ← needUnsealed c
  modC c fun k => match sel with
    | 1 => { k with ddc := p }
    | 2 => { k with hpcc := p }
    | _ => { k with hddc := p }

/-- APUT. -/
def execAput (r : BitVec 20) (s : State) : Host.Outcome State Fault Refusal := runSeq (aputInstr r) s

/-- AJMP (R391). Its target is checked by what R391 requires alone; the fetch there makes the checks of a fetch. -/
def ajmpInstr (r : BitVec 20) (c : CtxId) : M Unit := do
  needCapForm false false false r
  let a ← needTagA c (· == Tag.cptr)
  needCanonical c a .exec
  if fld a 0 2 != 0 then capFault 7 false
  let p ← needUnsealed c
  if !capWithin p a 4 then capFault 3 false
  if !p.perm 2 then capFault 4 false
  modC c fun k => { k with pcc := p, pc := a }

/-- AJMP. -/
def execAjmp (r : BitVec 20) (s : State) : Host.Outcome State Fault Refusal := runInstr (ajmpInstr r) s

/-- The gate of object type t (R392). -/
def gateOf (s : State) (t : BitVec 4) : CapPair := ⟨vget s.intr.gateh t.toNat TWord.zero, vget s.intr.gatel t.toNat TWord.zero⟩

/-- AGATE (R393). DESIGN CHOICE (log 72): a gate capability that carries X faults with code 0x04, as a permission that is not as required.
-/
def agateInstr (r : BitVec 20) (c : CtxId) : M Unit := do
  let f : BitVec 5 := fld r 15 5
  needCapForm false true false r
  needDef (!bit f 0 && (f == 0 || ((← getC c).hasSlot f && (← getC c).hasSlot (f + 1))))
  let p ← needXY c
  if p.otype == 0 then capFault 2 false
  if !p.perm 2 then capFault 4 false
  let s ← get
  let g := gateOf s p.otype
  needCap (capNeedValid s g)
  if g.otype != 0 then capFault 2 false
  if g.perm 2 then capFault 4 false
  let q := capSign s (p.withOtype 0)
  modC c fun k =>
    let k1 := if f == 0 then k else (k.setSlot f k.ddc.hi).setSlot (f + 1) k.ddc.lo
    { k1.setA ⟨k.pc + 4, Tag.cptr⟩ with pcc := q, ddc := g, pc := sext (BitVec.ofNat 56 (p.base * 4)) 64 }

/-- AGATE. -/
def execAgate (r : BitVec 20) (s : State) : Host.Outcome State Fault Refusal := runInstr (agateInstr r) s

/-- The permutation in force (R395). -/
def sealWith (s : State) (k : Ctx) : Equiv.Perm W64 := Config.sealPerm s.keys.sealKey k.world

/-- The seal key is valid (R395). -/
def needSealKey : M Unit := do if (← get).keys.skv then pure () else capFault 4 false

/-- SEAL (R395). -/
def sealInstr (r : BitVec 20) (c : CtxId) : M Unit := do
  needCapForm true false false r
  needPriv (← getC c).sup
  let a := (← getC c).getA
  if !isPlain a.tag then tagFault a.tag
  let v := a.val
  needSealKey
  if fld v 60 4 != 0 then capFault 8 false
  modify fun s => s.modCtx c fun k => k.setA ⟨sealWith s k v, Tag.sealed⟩

/-- SEAL. -/
def execSealA (r : BitVec 20) (s : State) : Host.Outcome State Fault Refusal := runSeq (sealInstr r) s

/-- UNSEAL (R395). -/
def unsealInstr (r : BitVec 20) (c : CtxId) : M Unit := do
  needCapForm true false false r
  let k ← getC c
  needPriv k.sup
  let a := k.getA
  if a.tag != Tag.sealed then tagFault a.tag
  needSealKey
  let v := (sealWith (← get) k).symm a.val
  if fld v 60 4 != 0 then capFault 6 true
  putInt c v

/-- UNSEAL. -/
def execUnsealA (r : BitVec 20) (s : State) : Host.Outcome State Fault Refusal := runSeq (unsealInstr r) s

/-- ACHK (R391). -/
def achkInstr (r : BitVec 20) (c : CtxId) : M Unit := do
  needCapForm true false false r
  let s ← get
  putInt c (bAt 0 (capValid s (s.getCtx c).capXY))

/-- ACHK. -/
def execAchk (r : BitVec 20) (s : State) : Host.Outcome State Fault Refusal := runSeq (achkInstr r) s

end Sys2Proof.Machine
end

