-- ==== Sys2Proof/Machine/Causeway.lean ====
section
/-!
DEFINITION. Checks and reads that a Mover or Causeway channel makes under the regime it captured (10 R334, 14 R445), and the
beats of the Causeway port (01 R26 to R28, 09 R307 to R309, 14 R445 to R447).
-/

namespace Sys2Proof.Machine

open Sys2Proof

/-! ## What a channel accesses -/

/-- Why a channel stops (R330): CAUSE, the address and syndrome it records, and whether its DDC is forged (R394). -/
structure ChStop where
  cause : BitVec 4
  fva : W64
  fsr : W64
  forged : Bool
  deriving DecidableEq, Repr

/-- CAUSE of a translation fault (R330). -/
def xlCause (f : XFault) : BitVec 4 :=
  match f.typ.toNat with
  | 3 => if f.pr == 4 || f.pr == 5 then 0xA else 1
  | 4 => 2
  | 5 => 3
  | 9 => 4
  | _ => 1

/-- What a channel does its accesses for: who it is, its regime and its key rights. -/
structure ChUser where
  who : Requester
  g : Regime
  kr : W32
  tags : Bool
  deriving DecidableEq, Repr

/-- Check n bytes at a in data space (R334, R445): DDC, then translation with rights, map, keys and marks, then tag-strict
pages. One block never crosses a page unless it starts in it; both pages are checked. -/
def chCheck (u : ChUser) (k : AccKind) (a : W64) (n : Nat) : M (Except ChStop (List (W64 × Phys))) := do
  let s ← get
  match (if capsConf s then capAccess s u.g.ddc (if k == .write then 1 else 0) a n else none) with
  | some e => return .error ⟨9, a, 0, e.2⟩
  | none => pure ()
  let next : W64 := (a ||| 0xFFF) + 1
  let starts := if a.toNat / 4096 == (a.toNat + n - 1) / 4096 then [a] else [a, next]
  let rec go : List W64 → M (Except ChStop (List (W64 × Phys)))
    | [] => return .ok []
    | v :: vs => do
      match ← translate u.who u.g ⟨v, k, none, some u.kr, true⟩ with
      | .error f => return .error ⟨xlCause f, v, f.fsr k, false⟩
      | .ok p =>
        if p.ts && !u.tags then return .error ⟨5, v, 0, false⟩
        match ← go vs with
        | .error e => return .error e
        | .ok ps => return .ok ((v, p) :: ps)
  go starts

/-- A channel stops for this reason: a forged DDC is counted as a security violation (R394, R494). -/
def noteForged (e : ChStop) (s : State) : State := if e.forged then violation 0 s else s

/-- A word that a channel reads: the word and whether it was lost to ERR (R503). -/
def chRead (u : ChUser) (stream : Bool) (ps : List (W64 × Phys)) (v : W64) : M (TWord × Bool) := do
  let pa := chAddr ps v
  if inSpad pa then return (deliver (← spadRead (!u.tags) (spadIndex pa)), false)
  else
    match ← readLine u.who .bulk (stream || pageStreams ps v) v (lineNo pa) with
    | some d => return (deliver (vget d (fldN pa 3 3) TWord.poison), false)
    | none => return (TWord.zero, true)

/-- The answers that a channel had are used up. -/
def dropChFills (who : Requester) (s : State) : State :=
  { s with mesh := { s.mesh with fills := s.mesh.fills.filter fun f => f.held || f.req.who != who } }

/-! ## Causeway sources -/

/-- The user that Causeway channel ch is. -/
def cwUser (ch : BitVec 4) (k : CwCh) (g : Regime) : ChUser := ⟨.cw ch, g, k.kr, false⟩

/-- Bytes of the source (R444). -/
def CwCh.bytes (k : CwCh) : Nat := k.count * k.elemBytes

/-- The first address of each page of n bytes from a on. -/
def pageStarts (a : W64) (n : Nat) : List W64 :=
  (List.range (((a.toNat % 4096) + n + 4095) / 4096)).map fun i =>
    if i = 0 then a else BitVec.ofNat 64 ((a.toNat / 4096 + i) * 4096)

/-- Check every page of the source (R445); the last page is checked as far as the source goes. -/
def cwCheckPages (u : ChUser) (a : W64) (n : Nat) : List W64 → M (Option ChStop)
  | [] => return none
  | v :: vs => do
    let left := n - (v - a).toNat
    match ← chCheck u .read v (min left (4096 - v.toNat % 4096)) with
    | .error e => return some e
    | .ok _ => cwCheckPages u a n vs

/-- Channel c awaits its checks, and the accesses that precede its GO have been performed (R444). -/
def cwAwaits (s : State) (c : BitVec 4) : Bool :=
  let k := cwCh s c
  k.state == 1 && !k.checked && ctxPerformed s k.ctx

/-- The checks of one channel (R445): it may send, or stops having sent nothing. They wait for table words; a scratchpad
source needs none. -/
def cwCheck (c : BitVec 4) (s : State) : State :=
  let k := cwCh s c
  match k.cap with
  | none => s
  | some g =>
    if !k.sk then setCw c { k with checked := true } s
    else match cwCheckPages (cwUser c k g) k.src k.bytes (pageStarts k.src k.bytes) s with
    | .ok none t => setCw c { cwCh t c with checked := true } (dropChFills (.cw c) t)
    | .ok (some e) t =>
      cwLeave c { cwCh t c with state := 3, cause := e.cause, fva := e.fva, fsr := e.fsr }
        (noteForged e (dropChFills (.cw c) t))
    | .error _ t => rollback s t

/-- Every channel that awaits its checks makes them as far as it can. -/
def cwChecks (s : State) : State :=
  (List.range 16).foldl (fun t i => if cwAwaits t (BitVec.ofNat 4 i) then cwCheck (BitVec.ofNat 4 i) t else t) s

/-! ## Beats -/

/-- A source word of channel c was lost (R446): it is sent as zero, and the channel will end with CAUSE 0x6. -/
def cwLose (c : BitVec 4) : M W64 := do
  modify fun s => setCw c { cwCh s c with lost := true } s
  return 0

/-- A scratchpad word of the source. -/
def cwSpad (c : BitVec 4) (i : Nat) : M W64 := do
  let lost := match spadLook (← get) i with | .uncorrectable => true | _ => false
  let w ← spadRead false i
  if lost then cwLose c else return w.val

/-- The read of this word, the first of its beat to look the line up, finds an uncorrectable error in a word of a dirty cached line that
the source has from here on: it is delivered as 0 (R322), and the contribution has lost it (R446). -/
def cwErrs (s : State) (pa : PAddr) (left : Nat) : Bool :=
  (List.range (8 - fldN pa 3 3)).any fun j => decide (8 * j < left) && cacheLost s (pa + BitVec.ofNat 52 (8 * j))

/-- One word of the source at byte offset o; an access of data space has its rights, keys and marks checked again (R352, R361). -/
def cwWord (c : BitVec 4) (k : CwCh) (o : Nat) : M W64 := do
  if k.sk then
    match k.cap with
    | none => cwLose c
    | some g =>
      let v := k.src + BitVec.ofNat 64 o
      match ← translate (.cw c) g ⟨v, .read, none, some k.kr, true⟩ with
      | .error _ => cwLose c
      | .ok p =>
        if inSpad p.pa then cwSpad c (spadIndex p.pa)
        else
          if cwErrs (← get) p.pa (k.bytes - o) then modify fun s => setCw c { cwCh s c with lost := true } s
          match ← readLine (.cw c) .peek p.str p.va (lineNo p.pa) with
          | some d => return (vget d (fldN p.pa 3 3) TWord.zero).val
          | none => cwLose c
  else cwSpad c ((fldN k.src 0 20 + o) / 8)

/-- The payload of data beat j (R308): the source's bytes as they stand, zero beyond the last element. -/
def cwBeatData (c : BitVec 4) (k : CwCh) (j : Nat) : Nat → M (BitVec 256)
  | 0 => return 0
  | i + 1 => do
    let acc ← cwBeatData c k j i
    let o := 32 * j + 8 * i
    if k.bytes ≤ o || k.zeros then return acc
    else
      let w ← cwWord c k o
      let w' := if k.bytes < o + 8 then w &&& BitVec.ofNat 64 (2 ^ (8 * (k.bytes - o)) - 1) else w
      return acc ||| at' (64 * i) w'

/-- Channel c puts a beat into the egress FIFO (R16); the last of the contribution carries SEAL (R445). -/
def cwPush (c : BitVec 4) (data : BitVec 256) (s : State) : State :=
  let k := cwCh s c
  let t := setCw c { k with sent := k.sent + 1 } s
  { t with cw := { t.cw with last := c, fifo := t.cw.fifo ++ [⟨c, k.rid, data, k.sent + 1 == cwTotal k.hdr⟩] } }

/-- The next beat of channel c: whether it went into the FIFO. It waits for its source words; a word that was lost meanwhile stays
lost. -/
def cwBeat (c : BitVec 4) (s : State) : Bool × State :=
  let k := cwCh s c
  if k.sent = 0 then (true, cwPush c (k.hdr.setWidth 256) s)
  else
    match cwBeatData c k (k.sent - 1) 4 s with
    | .ok d t => (true, cwPush c d (dropChFills (.cw c) t))
    | .error _ t => (false, setCw c { k with lost := (cwCh t c).lost } (rollback s t))

/-- The first channel in round-robin order that has credit and a beat ready (R28). -/
def cwServe : List (BitVec 4) → State → State
  | [], s => s
  | c :: cs, s =>
    match cwBeat c s with
    | (true, t) => t
    | (false, t) => cwServe cs t

/-- The channels with credit and a beat to send, in round-robin order (R28). -/
def cwReady (s : State) : List (BitVec 4) :=
  ((List.range 16).map fun i => s.cw.last + 1 + BitVec.ofNat 4 i).filter fun c => cwPending s c && cwHasCredit s c

/-- The FIFO takes a beat while it has room (R16). -/
def cwFill (s : State) : State := if 8 ≤ s.cw.fifo.length then s else cwServe (cwReady s) s

/-- The first beat transfers with one credit (R27); after the SEAL beat its channel leaves STATE 1 (R446). -/
def cwTake (s : State) : State :=
  match s.cw.fifo with
  | [] => s
  | b :: q =>
    let k := cwCh s b.ch
    let k' := { k with credit := k.credit - 1 }
    let t := { setCw b.ch k' { s with cw := { s.cw with fifo := q, offered := false, lastBeat := b } } with
      pins := { s.pins with stallCw := 0 }
      toll := if cwLimited s then { s.toll with tokC := s.toll.tokC - 1024 } else s.toll }
    let u := countEvent 6 4 1 (k.cap.map fun g => (g.sup, g.sealed)) (.cw b.ch) none t
    if b.isSeal then
      cwLeave b.ch (if k.lost then { k' with state := 3, cause := 6 } else { k' with state := 2 }) u
    else u

/-- Channels make their checks, the next beat goes into the FIFO, and the first one is offered (R26, R28, R43, R500). -/
def cwOffer (s : State) : State := offerBeat (cwFill (if s.boot.phase == .start then cwChecks s else s))

/-- CAUSEWAY_BEAT (R26 to R28, R43, R445, R446, R500): the beat that is offered, if one is, transfers. -/
def execCausewayBeat (s : State) : Host.Outcome State Fault Refusal :=
  let t := cwOffer s
  .next (ackFence (accountChange s (if t.cw.offered then cwTake t else t)))

/-- CREDIT_RETURN (R27). -/
def execCreditReturn (ch : BitVec 4) (s : State) : Host.Outcome State Fault Refusal :=
  if inColdReset s then .next s
  else
    let k := cwCh s ch
    .next (accountChange s (setCw ch { k with credit := satInc k.credit } s))

end Sys2Proof.Machine
end

