-- ==== Sys2Proof/Machine/Chain.lean ====
section
/-!
DEFINITION. The management chain: frames, enumeration and identity (01 R29 to R35, 02 R69 to R74), and the registers that
the host writes over it (01 R60 to R63, 02 R79 to R86, 14 R421, 15 R466, R479, 16 R483 to R500).
-/

namespace Sys2Proof.Machine

open Sys2Proof

/-! ## Frames (R30) -/

/-- The commands of a frame that have a meaning here. -/
inductive ChainCmd where
  | enum | identq | read | write | corerst | bwrite
  deriving DecidableEq, Repr

/-- CMD (R30). -/
def ChainCmd.code (c : ChainCmd) : BitVec 4 :=
  match c with | .enum => 1 | .identq => 2 | .read => 3 | .write => 4 | .corerst => 6 | .bwrite => 7

/-- One bit of CRC-8 with polynomial 0x07. -/
def crcStep (c : BitVec 8) (b : Bool) : BitVec 8 := if bit c 7 != b then (c <<< 1) ^^^ 0x07#8 else c <<< 1

/-- CRC over bits [63:9] of a frame, in send order (R30). -/
def crcOf (w : W64) : BitVec 8 := (List.range 55).foldl (fun c i => crcStep c (bit w (63 - i))) 0

/-- The bits of a frame that the CRC covers. -/
def frameBody (cmd : BitVec 4) (addr : CoreId) (reg : BitVec 7) (data : W32) : W64 :=
  at' 60 cmd ||| at' 48 addr ||| at' 41 reg ||| at' 9 data

/-- A whole frame with a good CRC. -/
def frameOf (cmd : BitVec 4) (addr : CoreId) (reg : BitVec 7) (data : W32) (tk : Bool) : W64 :=
  let b := frameBody cmd addr reg data
  b ||| at' 1 (crcOf b) ||| bAt 0 tk

/-- A received frame as it is forwarded with this TK. -/
def forwardOf (cmd : ChainCmd) (f : ChainFrame) (tk : Bool) : W64 :=
  frameBody cmd.code f.addr f.reg f.data ||| at' 1 f.crc ||| bAt 0 tk

/-- The CRC of a received frame is good. -/
def crcGood (cmd : ChainCmd) (f : ChainFrame) : Bool := crcOf (frameBody cmd.code f.addr f.reg f.data) == f.crc

/-- Drive one frame slot (R31), its bit 63 marked on MC_FRO (R29): a delayed ENUM frame takes the slot in place of `w`. -/
def driveSlot (w : W64) (s : State) : State :=
  let k := s.chain
  match k.mcDelayed with
  | some e => { s with chain := { k with mcOut := e, mcFro := true, mcDelayed := none, sinceEnum := 0 } }
  | none => { s with chain := { k with mcOut := w, mcFro := true, sinceEnum := min 64 (k.sinceEnum + 1) } }

/-- The core is in warm or core reset, and takes no request (R35, R88). -/
def chainReset (s : State) : Bool :=
  match s.boot.phase with | .heldByWrst | .drain _ | .afterDrain _ => true | _ => false

/-- The core can queue a request: at most four wait (R31, R32). -/
def chainRoom (s : State) : Bool := !chainReset s && decide (s.chain.resp.length < 4)

/-- The frame names this core. -/
def chainMine (s : State) (f : ChainFrame) : Bool := s.chain.cvalid && f.addr == s.chain.caddr

/-- Queue the answer to a read (R32). -/
def queueResp (addr : CoreId) (reg : BitVec 7) (data : W32) (s : State) : State :=
  { s with chain := { s.chain with resp := s.chain.resp ++ [⟨addr, reg, data⟩] } }

/-- A frame with a bad CRC is counted (R33). -/
def countCrc (s : State) : State := { s with chain := { s.chain with mcCrcerr := satInc s.chain.mcCrcerr } }

/-- A frame whose CRC is bad: counted and forwarded unchanged (R33). An ENUM frame still keeps responses away (R32). -/
def badFrame (cmd : ChainCmd) (f : ChainFrame) (s : State) : State :=
  let t := driveSlot (forwardOf cmd f f.tk) (countCrc s)
  if cmd == .enum then { t with chain := { t.chain with sinceEnum := 0 } } else t

/-- An IDLE frame arrives (R32): the first waiting response takes its place, but not in the 64 slots that follow an ENUM frame, nor in
the slot of a delayed one. -/
def respAct (w : W64) (s : State) : State :=
  match s.chain.resp with
  | [] => driveSlot w s
  | r :: rs =>
    if s.chain.mcDelayed.isSome || decide (s.chain.sinceEnum < 64) then driveSlot w s
    else driveSlot (frameOf 5 r.addr r.reg r.data true) { s with chain := { s.chain with resp := rs } }

/-- A frame that asks nothing of any core (R31, R33): an IDLE frame, or a RESP or reserved one, which goes on unchanged. A frame of
another CMD is one of the commands above (log 3). -/
def idleFrame (w : W64) (s : State) : State :=
  let cmd := fldN w 60 4
  if cmd != 0 && cmd != 5 && decide (cmd < 8) then s
  else if crcOf w != fld w 1 8 then driveSlot w (countCrc s)
  else if cmd = 0 then respAct w s
  else driveSlot w s

/-- The form of every chain command: nothing in cold reset (R35); else the frames before it, then a bad CRC, or `act`. -/
def chainFrame (cmd : ChainCmd) (f : ChainFrame) (act : State → State) (s : State) : State :=
  if s.boot.phase == .coldReset then s
  else
    let t := f.ahead.foldl (fun t w => idleFrame w t) s
    if crcGood cmd f then act t else badFrame cmd f t

/-- RESP_SEND (R32): an IDLE frame arrives. -/
def execRespSend (s : State) : Host.Outcome State Fault Refusal :=
  .next (if s.boot.phase == .coldReset then s else idleFrame 0 s)

/-! ## ENUM and IDENTQ -/

/-- ENUM (R70, R71): take the address, or compare it; the frame follows one slot later with ADDR incremented. DESIGN CHOICE (log 46): of
an ENUM frame in the slot right after another one, which the host must not send, R72 says that it goes no further, and R31 and R71
that it follows one slot later; the model has it follow. -/
def enumAct (f : ChainFrame) (s : State) : State :=
  let k := s.chain
  let k1 := if k.cvalid then { k with mismatch := k.mismatch || f.addr != k.caddr } else { k with caddr := f.addr, cvalid := true }
  let t := driveSlot 0 { s with chain := k1 }
  { t with chain := { t.chain with mcDelayed := some (frameOf 1 (f.addr + 1) f.reg f.data f.tk) } }

/-- ENUM. -/
def execEnum (f : ChainFrame) (s : State) : Host.Outcome State Fault Refusal := .next (chainFrame .enum f (enumAct f) s)

/-- IDENTQ (R74). -/
def identAct (f : ChainFrame) (s : State) : State :=
  let anon := bit f.reg 6
  let mine := if anon then !s.chain.cvalid && !f.tk else chainMine s f
  if !mine then driveSlot (forwardOf .identq f f.tk) s
  else if chainRoom s then
    driveSlot (forwardOf .identq f true)
      (queueResp (if anon then 0 else s.chain.caddr) f.reg (identSel s (fldN f.reg 0 6)) s)
  else driveSlot (forwardOf .identq f false) s

/-- IDENTQ. -/
def execIdentq (f : ChainFrame) (s : State) : Host.Outcome State Fault Refusal := .next (chainFrame .identq f (identAct f) s)

/-! ## READ -/

/-- What a chain READ does beside returning a value: TLATLO latches TICK (R478), XRDATA advances (R480). -/
def chainReadBefore (i : Nat) (s : State) : State :=
  if i = 0x28 then { s with time := { s.time with tlat := s.time.tick } } else s

/-- READ (R31, R32, R34): taken, the answer is made ready. -/
def readAct (f : ChainFrame) (s : State) : State :=
  if !chainMine s f then driveSlot (forwardOf .read f f.tk) s
  else if !chainRoom s then driveSlot (forwardOf .read f false) s
  else
    let t := chainReadBefore f.reg.toNat s
    let v := (chainWord t f.reg.toNat).getD 0
    driveSlot (forwardOf .read f true) (chainReadEffect f.reg.toNat (queueResp s.chain.caddr f.reg v t))

/-- CHAIN_READ. -/
def execChainRead (f : ChainFrame) (s : State) : Host.Outcome State Fault Refusal := .next (chainFrame .read f (readAct f) s)

/-- TLATLO_READ (R478): the READ names TLATLO. -/
def execTlatloRead (f : ChainFrame) (s : State) : Host.Outcome State Fault Refusal :=
  .next (if f.reg == 0x28 then chainFrame .read f (readAct f) s else s)

/-- XRDATA_READ (R480): the READ names XRDATA. -/
def execXrdataRead (f : ChainFrame) (s : State) : Host.Outcome State Fault Refusal :=
  .next (if f.reg == 0x2D then chainFrame .read f (readAct f) s else s)

/-! ## Register writes -/

/-- A write of the boot group (R79 to R86); RWL fields are ignored once locked (R9, R87). -/
def writeBoot (i : Nat) (v : W32) (s : State) : State :=
  let k := s.chain
  let open_ := fun (k' : Chain) => if s.boot.locked then s else { s with chain := k' }
  if i = 0x05 then { s with chain := { k with mismatch := k.mismatch && !bit v 13 } }
  else if i = 0x07 then open_ { k with privMode := if fld v 0 2 == 3 then 0 else fld v 0 2 }
  else if i = 0x08 then
    let f : BitVec 9 := fld v 0 9 &&& fld (feat0 s) 0 9
    open_ { k with enable0 := if bit v 2 then f else f &&& 0x107#9 }
  else if i = 0x0C then open_ { k with rveclo := v &&& 0xFFFFFFFC#32 }
  else if i = 0x0D then open_ { k with rvechi := v &&& 0x000FFFFF#32 }
  else if i = 0x0E then open_ { k with entsrc := v }
  else s

/-- A write of BOOT (R86): KEYFAIL W1C; GO of a Held core starts it, and is kept during Init. -/
def writeGo (v : W32) (s : State) : State :=
  let t := if bit v 4 then { s with boot := { s.boot with keyfail := false } } else s
  if !bit v 0 then t
  else
    let u := { t with boot := { t.boot with go := true } }
    match t.boot.phase with
    | .init => u
    | .held => goStart u
    | _ => t

/-- A chain write of MBIN k (R60): ignored while IN_FULL is 1. -/
def writeMbin (k : Nat) (v : W32) (s : State) : State :=
  if s.chain.inFull then { s with chain := { s.chain with inOvr := true } }
  else
    let t := { s with chain := { s.chain with mbin := vset s.chain.mbin k v, inFull := k == 3 } }
    if k == 3 then setPend 34 t else t

/-- A chain write of MBSTAT (R60), BCFG (R62), BSTAT (R63) or HERDCFG (R421). -/
def writeBoundary (i : Nat) (v : W32) (s : State) : State :=
  let k := s.chain
  if i = 0x18 then
    { s with chain := { k with
      outFull := k.outFull && !bit v 1, outOvr := k.outOvr && !bit v 3
      sealedOnly := if s.boot.locked then k.sealedOnly else bit v 4 } }
  else if i = 0x19 then { s with chain := { k with bcfg := fld v 0 17 } }
  else if i = 0x1A then { s with chain := { k with refloss := k.refloss && !bit v 2, stall := k.stall && !bit v 3 } }
  else if i = 0x1C then { s with chain := { k with herdcfg := fld v 0 13 } }
  else s

/-- A chain write of the trace region (R466), ignored while TRACE is disabled (R83). -/
def writeTrace (i : Nat) (v : W32) (s : State) : State :=
  let t := s.trace
  if !enabled s 8 then s
  else if i = 0x20 then { s with trace := { t with trbase := v } }
  else if i = 0x21 then { s with trace := { t with trsize := fld v 0 17 } }
  else { s with trace := { t with trhead := v, trFull := false } }

/-- A chain write of XRSTAT (R479, R480): clearing FULL clears MISSED; then TRIG. -/
def writeXrstat (v : W32) (s : State) : State :=
  let t := if bit v 0 then { s with trace := { s.trace with xrFull := false, xrMissed := 0 } } else s
  if bit v 1 then snapTrigger 1 t else t

/-- A chain write of the dump, timestamp and snapshot registers (R450, R466, R479). -/
def writeDump (i : Nat) (v : W32) (s : State) : State :=
  let t := s.trace
  if i = 0x23 then { s with trace := { t with dmbase := v } }
  else if i = 0x24 then { s with trace := { t with dmsize := fld v 0 17 } }
  else if i = 0x25 then { s with trace := { t with dmhead := v, dmFull := false } }
  else if i = 0x26 then { s with time := { s.time with tsoffLo := v } }
  else if i = 0x27 then
    { s with time := { s.time with tsoffHi := v, tsoff := at' 0 s.time.tsoffLo ||| at' 32 v } }
  else if i = 0x2A then { s with trace := { t with xrcfg := fld v 0 5 } }
  else if i = 0x2B then writeXrstat v s
  else if i = 0x2C then { s with trace := { t with xrIdx := fld v 0 7 } }
  else s

/-- A chain write of FCCFG (R483, R485): every CNT is cleared and a new window begins. -/
def writeFccfg (v : W32) (s : State) : State :=
  let w := fldN v 0 16
  let win : BitVec 16 := if w = 0 then 1 else if 64000 < w then 64000 else fld v 0 16
  { s with rel := { s.rel with
    fccfg := setFld (fld v 0 25) 0 16 win
    fcstat := s.rel.fcstat.map fun f => setFld f 0 8 0
    fcWin := 0, fcDeclCount := 0, fcDeclUnc := 0 } }

/-- A chain write of ALMCFG (R495): ignored once LOCK is 1. -/
def writeAlmcfg (v : W32) (s : State) : State :=
  if bit s.keys.almcfg 22 then s else { s with keys := { s.keys with almcfg := fld v 0 23 } }

/-- The tokens of a bucket after a change of EN or RATE (R500): a limit that takes effect starts full; else capped. -/
def bucketAfter (was on : Bool) (oldRate rate : BitVec 16) (tok : Nat) : Nat :=
  let full := rate.toNat * 1024
  if !on || rate == 0 || !was || oldRate == 0 then full else min tok full

/-- The Tollgate with new TGCTL and TGRATE. -/
def setToll (ctl rate : W32) (s : State) : State :=
  let g := s.toll
  { s with toll := { g with
    ctl := ctl, rate := rate
    tokM := bucketAfter (bit g.ctl 0) (bit ctl 0) (fld g.rate 0 16) (fld rate 0 16) g.tokM
    tokC := bucketAfter (bit g.ctl 0) (bit ctl 0) (fld g.rate 16 16) (fld rate 16 16) g.tokC } }

/-- A chain write of the reliability, alarm and Tollgate registers (R483, R494, R495, R498). -/
def writeSafety (i : Nat) (v : W32) (s : State) : State :=
  let g := s.toll
  if i = 0x30 then writeFccfg v s
  else if i = 0x31 then writeAlmcfg v s
  else if i = 0x32 then
    { s with keys := { s.keys with svFc := fld v 0 8, svIr := fld v 8 8, svTm := fld v 16 4 } }
  else if i = 0x34 then setToll (v &&& 0xFFFF001F#32) g.rate s
  else if i = 0x35 then setToll g.ctl v s
  else if i = 0x36 then { s with toll := { g with core := v &&& 0x01FFFFFF#32 } }
  else if i = 0x37 then { s with toll := { g with mref := 0, iref := 0, held := false } }
  else if 0x38 ≤ i ∧ i < 0x3C then { s with toll := { g with wb := vset g.wb (i - 0x38) v } }
  else if 0x3C ≤ i ∧ i < 0x40 then { s with toll := { g with wl := vset g.wl (i - 0x3C) v } }
  else s

/-- A chain write of FCSTATn's high word: LAST is W1C (R484). -/
def writeFcstat (i : Nat) (v : W32) (s : State) : State :=
  let n := (i - 0x50) / 2
  let f := vget s.rel.fcstat n 0
  if i % 2 = 1 ∧ bit v 8 = true then { s with rel := { s.rel with fcstat := vset s.rel.fcstat n (setBit f 40 false) } } else s

/-- A chain write to register i (R9, R34): an index without a register, or a read-only one, changes nothing. -/
def writeReg (i : Nat) (v : W32) (s : State) : State :=
  if i < 0x0F then writeBoot i v s
  else if i = 0x0F then writeGo v s
  else if i < 0x14 then writeMbin (i - 0x10) v s
  else if i < 0x18 then s
  else if i < 0x20 then writeBoundary i v s
  else if i < 0x23 then writeTrace i v s
  else if i < 0x30 then writeDump i v s
  else if i < 0x40 then writeSafety i v s
  else if 0x50 ≤ i ∧ i < 0x60 then writeFcstat i v s
  else s

/-- WRITE (R31): taken with TK = 1 by the core it names. -/
def writeAct (f : ChainFrame) (s : State) : State :=
  if !chainMine s f then driveSlot (forwardOf .write f f.tk) s
  else if chainRoom s then writeReg f.reg.toNat f.data (driveSlot (forwardOf .write f true) s)
  else driveSlot (forwardOf .write f false) s

/-- BWRITE (R31): taken by every addressed core; TK is cleared by one that misses it. -/
def bwriteAct (f : ChainFrame) (s : State) : State :=
  if !s.chain.cvalid then driveSlot (forwardOf .bwrite f f.tk) s
  else if chainRoom s then writeReg f.reg.toNat f.data (driveSlot (forwardOf .bwrite f f.tk) s)
  else driveSlot (forwardOf .bwrite f false) s

/-- A register write by WRITE, or by BWRITE. -/
def writeFrame (f : ChainFrame) (bc : Bool) (s : State) : State :=
  if bc then chainFrame .bwrite f (bwriteAct f) s else chainFrame .write f (writeAct f) s

/-- A register write that names one register of those that `p` picks; another is not this command (log 3). -/
def writeTo (p : BitVec 7 → Bool) (f : ChainFrame) (bc : Bool) (s : State) : Host.Outcome State Fault Refusal :=
  .next (if p f.reg then writeFrame f bc s else s)

/-- CHAIN_WRITE. -/
def execChainWrite (f : ChainFrame) (s : State) : Host.Outcome State Fault Refusal := .next (writeFrame f false s)
/-- BWRITE. -/
def execBwrite (f : ChainFrame) (s : State) : Host.Outcome State Fault Refusal := .next (writeFrame f true s)
/-- BOOT_GO (R86). -/
def execBootGo (f : ChainFrame) (bc : Bool) (s : State) : Host.Outcome State Fault Refusal :=
  writeTo (fun r => r == 0x0F && bit f.data 0) f bc s
/-- ENABLE0_WRITE (R82). -/
def execEnable0Write (f : ChainFrame) (bc : Bool) (s : State) : Host.Outcome State Fault Refusal :=
  writeTo (fun r => r == 0x08) f bc s
/-- MBIN_WRITE (R60). -/
def execMbinWrite (f : ChainFrame) (bc : Bool) (s : State) : Host.Outcome State Fault Refusal :=
  writeTo (fun r => fld r 2 5 == 4) f bc s
/-- TSOFFHI_WRITE (R450). -/
def execTsoffhiWrite (f : ChainFrame) (bc : Bool) (s : State) : Host.Outcome State Fault Refusal :=
  writeTo (fun r => r == 0x27) f bc s
/-- TRHEAD_WRITE (R466). -/
def execTrheadWrite (f : ChainFrame) (bc : Bool) (s : State) : Host.Outcome State Fault Refusal :=
  writeTo (fun r => r == 0x22) f bc s
/-- DMHEAD_WRITE (R466). -/
def execDmheadWrite (f : ChainFrame) (bc : Bool) (s : State) : Host.Outcome State Fault Refusal :=
  writeTo (fun r => r == 0x25) f bc s
/-- XRSTAT_TRIG (R480). -/
def execXrstatTrig (f : ChainFrame) (bc : Bool) (s : State) : Host.Outcome State Fault Refusal :=
  writeTo (fun r => r == 0x2B && bit f.data 1) f bc s
/-- FCCFG_WRITE (R485). -/
def execFccfgWrite (f : ChainFrame) (bc : Bool) (s : State) : Host.Outcome State Fault Refusal :=
  writeTo (fun r => r == 0x30) f bc s
/-- ALMCFG_WRITE (R495). -/
def execAlmcfgWrite (f : ChainFrame) (bc : Bool) (s : State) : Host.Outcome State Fault Refusal :=
  writeTo (fun r => r == 0x31) f bc s
/-- TGRATE_WRITE (R500). -/
def execTgrateWrite (f : ChainFrame) (bc : Bool) (s : State) : Host.Outcome State Fault Refusal :=
  writeTo (fun r => r == 0x35) f bc s
/-- TGSTAT_WRITE (R498). -/
def execTgstatWrite (f : ChainFrame) (bc : Bool) (s : State) : Host.Outcome State Fault Refusal :=
  writeTo (fun r => r == 0x37) f bc s

/-! ## CORERST -/

/-- CORERST (R65): taken with TK = 1 it starts a core reset. -/
def corerstAct (f : ChainFrame) (s : State) : State :=
  if !chainMine s f then driveSlot (forwardOf .corerst f f.tk) s
  else if chainRoom s then beginReset .core (driveSlot (forwardOf .corerst f true) s)
  else driveSlot (forwardOf .corerst f false) s

/-- CORERST. -/
def execCorerst (f : ChainFrame) (s : State) : Host.Outcome State Fault Refusal :=
  .next (chainFrame .corerst f (corerstAct f) s)

end Sys2Proof.Machine
end

