-- ==== Sys2Proof/Machine/Sched.lean ====
section
/-!
DEFINITION. Interrupts (12 R370, R376, R382) and the Drover (13 R404 to R406).
-/

namespace Sys2Proof.Machine

open Sys2Proof

/-! ## Interrupts -/

/-- The core runs contexts: it has started and is not lame. -/
def droverActive (s : State) : Bool := s.boot.phase == .start && !s.boot.lame

/-- A tile instruction of context c has a row check in progress, or a row whose check has passed and that is not performed: both are
ended before an interrupt or a switch (R221). -/
def rowsDue (s : State) (c : CtxId) : Bool := s.tile.part.any fun p => p.ctx == c && (p.checking || !p.checked.isEmpty)

/-- The running context, if it is at a boundary of a core that has started and is not lame. -/
def interruptible (s : State) : Option CtxId :=
  match (if droverActive s then runningCtx s else none) with
  | some c => if atBoundary (s.getCtx c) && !rowsDue s c then some c else none
  | none => none

/-- The instruction of context c that had not retired is discarded (R159); a pure coprocessor instruction keeps its tag until
its result comes (R171). -/
def discard (c : CtxId) (s : State) : State :=
  let w := (s.getCtx c).cp
  let t := s.modCtx c fun k => { k with cp := none, ev := { k.ev with fence := none } }
  match w with
  | some w => { t with cp := { t.cp with out := t.cp.out.map fun o => if o.tag == w.tag then { o with squashed := true } else o } }
  | none => t

/-- ECAUSE.CODE of an interrupt (R367). -/
def irqCode (s : State) (v : BitVec 6) : BitVec 8 := if v == 35 then s.intr.moverVec.setWidth 8 else 0

/-- INTERRUPT_ENTRY (R376): the takeable interrupt of level 1 to 6 enters its handler. -/
def execInterruptEntry (s : State) : Host.Outcome State Fault Refusal :=
  match interruptible s with
  | none => .next s
  | some c =>
    match bestVector s c with
    | none => .next s
    | some v =>
      if vecLevel s v == 7 then .next s
      else
        let k := s.getCtx c
        let world := twoWorlds s && vecSealed s v
        let r : EntryReq :=
          { vec := v, code := irqCode s v, stl := false, world := world, level := some (vecLevel s v), retPc := k.pc
            pc := handlerPc k world v, irq := true, far := ⟨0, Tag.int⟩ }
        let t := discard c s
        match enter c r t with
        | .ok _ u => .next (dropFills c (accountChange s (fireAlarm s u)))
        | .error _ u => .next (rollback t u)

/-- ST of a level-7 handler (R382): C, Z, N, V, RM, the sticky flags and CTX stay. -/
def fastSt (st : W32) (world : Bool) : W32 :=
  (st &&& 0x03FB000F#32) ||| 0x00004F00#32 ||| (if world then 0x1000#32 else 0)

/-- The registers of a context that takes vector v into its fast bank (R382). -/
def enterFast (s : State) (world : Bool) (pc ecause : W64) (k : Ctx) : Ctx :=
  { k with
    fast := { k.fast with
      fbpc := k.pc, fbst := k.st, fbpcc := k.pcc, fbddc := k.ddc, orig := ⟨k.sup, k.world, k.mask⟩ }
    st := fastSt k.st world
    pcc := if capsConf s then k.hpcc else k.pcc
    ddc := if capsConf s then k.hddc else k.ddc
    sys := { k.sys with ecause := ecause }
    pc := pc
    skipPair := false }

/-- FAST_INTERRUPT_ENTRY (R382): the takeable interrupt of level 7. -/
def execFastInterruptEntry (s : State) : Host.Outcome State Fault Refusal :=
  match interruptible s with
  | none => .next s
  | some c =>
    match bestVector s c with
    | none => .next s
    | some v =>
      if vecLevel s v != 7 then .next s
      else
        let k := s.getCtx c
        let world := twoWorlds s && vecSealed s v
        let ecause := ecauseWord (irqCode s v) v false 0 0
        let t := (discard c s).modCtx c (enterFast s world (handlerPc k world v) ecause)
        .next (dropFills c (accountChange s (entryRecords c k false ecause k.pc
          { t with intr := { t.intr with ipend := setBit t.intr.ipend v.toNat false } })))

/-! ## The Drover -/

/-- The Drover ranks context c: RUNNING or READY (R404). -/
def candidate (s : State) (c : CtxId) : Bool :=
  match (s.getCtx c).run with
  | .running | .ready => true
  | .waiting | .stopped => false

/-- DPRI of a context (R402). -/
def dpriOf (s : State) (c : CtxId) : Nat := fldN s.drover.dpri (2 * c.toNat) 2

/-- The rank of a context under points 1 and 2 of R404. -/
def rankOf (s : State) (c : CtxId) : Nat := (if (bestVector s c).isSome then 4 else 0) + dpriOf s c

/-- The contexts in the order of point 3 of R404: from the one numbered next after the latest to run. -/
def droverOrder (s : State) : List CtxId :=
  [s.drover.lastRan + 1, s.drover.lastRan + 2, s.drover.lastRan + 3, s.drover.lastRan]

/-- The top-ranked context (R404). -/
def topRanked (s : State) : Option CtxId :=
  let cs := (droverOrder s).filter fun c => candidate s c
  cs.find? fun c => cs.all fun d => decide (rankOf s d ≤ rankOf s c)

/-- The context that a switch takes out of RUNNING (R473): the running one, or one that has just left RUNNING. -/
def outgoing (s : State) : Option CtxId := match runningCtx s with | some o => some o | none => s.drover.leaving

/-- The Drover switches to context c (R405), with its record (R473) and its count (R458). The steps before the switch are accounted as they
passed (R459). -/
def switchTo (c : CtxId) (s : State) : State :=
  let t := match runningCtx s with
    | some o => dropFills o ((discard o s).modCtx o fun k => { k with run := .ready })
    | none => s
  let u := { t.modCtx c (fun k => { k with run := .running }) with
    drover := { t.drover with lastRan := c, ranSince := s.time.tick, leaving := none } }
  let p0 : W64 := match outgoing s with | some o => at' 0 o ||| bAt 2 true | none => 0
  countCtx 0 9 1 c none (traceCtx 4 c p0 (u.getCtx c).pc (accountChange s u))

/-- Context c has left RUNNING (R404): the Drover will switch, if another context can run. -/
def leftRunning (c : CtxId) (s : State) : State :=
  { s with drover := { s.drover with leaving := (topRanked s).map fun _ => c } }

/-- The Drover may preempt the context, at a boundary (R404, R405). -/
def preemptible (k : Ctx) : Bool := atBoundary k && !k.inEsc && !k.fib

/-- The context that outranks the running context r (R404). -/
def outranks (s : State) (r : CtxId) : Option CtxId :=
  match topRanked s with
  | some c => if preemptible (s.getCtx r) && decide (rankOf s r < rankOf s c) then some c else none
  | none => none

/-- The context that follows the running context r when the quantum of r has passed (R404). -/
def quantumOver (s : State) (r : CtxId) : Option CtxId :=
  match topRanked s with
  | some c =>
    if preemptible (s.getCtx r) && s.drover.dquant != 0 && c != r && rankOf s c == rankOf s r &&
        decide (s.drover.dquant.toNat * 256 ≤ (s.time.tick - s.drover.ranSince).toNat) then some c
    else none
  | none => none

/-- An interrupt or a switch is due at the boundary before the instruction of the running context c (R221, R370, R404, R405). -/
def boundaryDue (s : State) (c : CtxId) : Bool :=
  (atBoundary (s.getCtx c) && (bestVector s c).isSome) || (outranks s c).isSome || (quantumOver s c).isSome

/-- DROVER_SWITCH (R404, R405): the running context has left RUNNING, or a READY context outranks it. -/
def execDroverSwitch (s : State) : Host.Outcome State Fault Refusal :=
  if !droverActive s then .next s
  else
    match runningCtx s with
    | none => match topRanked s with
      | some c => .next (switchTo c s)
      | none => .next s
    | some r => match outranks s r with
      | some c => if rowsDue s r then .next s else .next (switchTo c s)
      | none => .next s

/-- DROVER_QUANTUM (R404): the quantum has passed and a READY context ranks equal. -/
def execDroverQuantum (s : State) : Host.Outcome State Fault Refusal :=
  if !droverActive s then .next s
  else
    match runningCtx s with
    | none => .next s
    | some r => match quantumOver s r with
      | some c => if rowsDue s r then .next s else .next (switchTo c s)
      | none => .next s

/-- TIMER_INTERRUPT (R403): the armed crossing of TCMP. -/
def timerCross (s : State) : State :=
  if s.time.timerArmed && s.time.ten && decide (s.time.tcmp ≤ s.time.tick) then
    setPend 32 { s with time := { s.time with timerArmed := false } }
  else s

/-- TIMER_INTERRUPT. -/
def execTimerInterrupt (s : State) : Host.Outcome State Fault Refusal := .next (timerCross s)

/-- TIME_EVENT (R407): the tick counter is at or above WDL of context c. -/
def execTimeEvent (c : CtxId) (s : State) : Host.Outcome State Fault Refusal :=
  .next (if levelHolds s c 3 then setEvent c 3 s else s)

end Sys2Proof.Machine
end

