-- ==== Sys2Proof/Machine/Context.lean ====
section
/-!
DEFINITION. The context and watch group (13 R410 to R414, R418).
-/

namespace Sys2Proof.Machine

open Sys2Proof

/-! ## WAIT, YIELD, CWAKE -/

/-- The Milestone of a WAIT that retires with the events `got` (R475). -/
def waitMilestone (c : CtxId) (got : BitVec 8) (s : State) : State :=
  let k := s.getCtx c
  let e := k.ev
  match e.waitDur with
  | none => s
  | some d =>
    if e.waitPc != k.pc then s
    else
      let kind := if e.waitMask == 0 then 8 else ((List.range 8).find? fun i => bit got i).getD 8
      let fin := BitVec.ofNat 3 (((List.range 8).find? fun n =>
        bit e.wmov n && (vget s.mover n MoverCh.reset).state != 1).getD 0)
      let t := match kind with
        | 0 => milestone c 0 0 none 0 d (e.waddr &&& ~~~(0x3F : W64)) s
        | 1 => milestone c 1 (fld e.wland 0 4) e.landPeer 0 d ((vget s.coop.land (fldN e.wland 0 4) 0).setWidth 64) s
        | 2 => milestone c 2 (fin.setWidth 4) none 0 d (mstatWord (vget s.mover fin.toNat MoverCh.reset)) s
        | 4 => milestone c 4 0 e.ipiPeer 0 d 0 s
        | 5 => milestone c 5 0 (e.claimPeer.map Prod.fst) 0 d
            (match e.claimPeer with
              | some (core, w) => at' 19 core ||| (0x400 + at' 4 w)
              | none => 0) s
        | 7 => milestone c 7 0 (some s.chain.caddr) e.swakeFrom d 0 s
        | n => milestone c (BitVec.ofNat 4 n) 0 none 0 d 0 s
      t.modCtx c fun k => { k with ev := { k.ev with waitDur := none } }

/-- WAIT (R410). Of r, bits [7:0] are MASK; the rest must be 0. -/
def waitInstr (r : BitVec 21) (c : CtxId) : M Bool := do
  let m : BitVec 8 := fld r 0 8
  needDef (fld r 8 13 == 0 && m != 0)
  modify settle
  let s ← get
  let k := s.getCtx c
  let got := k.ev.evpend &&& m
  if got != 0 then
    modify (waitMilestone c got)
    modC c fun k => ({ k with ev := { k.ev with evpend := k.ev.evpend &&& ~~~got } }).setA ⟨got.setWidth 64, Tag.int⟩
    modify settle
    advance c
    return true
  else
    modC c fun k => { k with
      run := .waiting
      ev := { k.ev with waitMask := m, waitSince := some s.time.tick, waitDur := none, waitPc := k.pc } }
    modify fun t => leftRunning c (wakeByIrq c t)
    return false

/-- WAIT. -/
def execWait (r : BitVec 21) (s : State) : Host.Outcome State Fault Refusal := runHold (waitInstr r) s

/-- What the Drover does at a YIELD of context c (R404): it switches if another context is READY and ranks first. This is
no preemption (R400), so ST.ESC and ST.FIB do not matter. -/
def afterYield (c : CtxId) (s : State) : State :=
  match topRanked s with
  | some d => if d != c then switchTo d s else s
  | none => s

/-- YIELD (R404). -/
def yieldInstr (r : BitVec 21) (c : CtxId) : M Unit := do
  needDef (r == 0)
  advance c
  modify (afterYield c)

/-- YIELD. -/
def execYield (r : BitVec 21) (s : State) : Host.Outcome State Fault Refusal := runInstr (yieldInstr r) s

/-- CWAKE (R412). Of r, bits [20:19] are C; the rest must be 0. -/
def cwakeInstr (r : BitVec 21) (c : CtxId) : M Unit := do
  needDef (fld r 0 19 == 0)
  needPriv (← getC c).sup
  let d : CtxId := fld r 19 2
  if d != c then
    modify fun s => setEvent d 7 (s.modCtx d fun k => { k with ev := { k.ev with swakeFrom := c } })

/-- CWAKE. -/
def execCwake (r : BitVec 21) (s : State) : Host.Outcome State Fault Refusal := runSeq (cwakeInstr r) s

/-! ## CSTART and CSTOP -/

/-- The tags of the start block (R413). -/
def startTags (caps : Bool) : List (Tag → Bool) :=
  [(· == Tag.dptr), (· == Tag.dptr), (· == Tag.dptr), (· == Tag.dptr), (· == Tag.dptr), (· == Tag.cptr),
    (if caps then (· == Tag.raw) else (· == Tag.cptr)), isPlain]

/-- The first word of the start block whose tag differs from the table. -/
def startBadTag (caps : Bool) (ws : List TWord) : Option Tag :=
  ((ws.zip (startTags caps)).find? fun e => !e.2 e.1.tag).map fun e => e.1.tag

/-- EVPEND of a context with every watch disarmed: the level kinds whose condition holds all the same (R407). -/
def disarmedEvents (s : State) : BitVec 8 :=
  (if s.time.tick = BitVec.allOnes 64 then 0x08 else 0) |||
    (if s.tile.tileq.isEmpty && (s.tile.tpPowered || !s.tile.tpOn) then 0x40 else 0)

/-- Context d as CSTART initializes it (R413): `i` is the issuer, `pc` the entry point, `w` the block. -/
def startCtx (s : State) (i : Ctx) (d : CtxId) (pc : W64) (w : Nat → W64) (k : Ctx) : Ctx :=
  let caps := capsConf s
  let st : W32 := 0x800#32 ||| (d.setWidth 32 <<< 24) ||| bAt 12 i.world ||| at' 8 (fld (w 7) 8 3)
  { k with
    a := TWord.poison, x := TWord.poison, y := TWord.poison
    mh := TWord.poison, ml := TWord.poison, mq := TWord.poison, mr := TWord.poison
    pc := pc
    st := st
    banks := k.banks.set (bankNo true i.world) ⟨w 0, w 1 &&& ~~~(7 : W64), w 2 &&& ~~~(7 : W64)⟩
    sys := { k.sys with
      esp := at' 4 (fld (w 3) 4 48), esplo := at' 4 (fld (w 4) 4 48)
      vbar := sext56 (w 5) &&& ~~~(0x7FF : W64)
      svbar := if caps then 0 else sext56 (w 6) &&& ~~~(0x7FF : W64)
      tcr := i.sys.tcr, ttb1 := i.sys.ttb1, ttb2 := i.sys.ttb2
      tgrant := if caps then i.sys.tgrant else k.sys.tgrant }
    pcc := if caps then i.pcc else k.pcc
    ddc := if caps then i.ddc else k.ddc
    hpcc := if caps then i.hpcc else k.hpcc
    hddc := if caps then i.hddc else k.hddc
    win := Windows.reset, slotErrs := k.slotErrs.filter fun e => decide (256 ≤ e.1)
    ev := { Events.reset with evpend := disarmedEvents s }
    run := .ready
    skipPair := false }

/-- CSTART (R413). -/
def cstartInstr (r : BitVec 21) (c : CtxId) : M Unit := do
  needDef (fld r 0 19 == 0)
  let s ← get
  let k := s.getCtx c
  needPriv (stage2Owner s k)
  let a := k.getA
  let x := k.getX
  if a.tag != Tag.cptr then tagFault a.tag
  if x.tag != Tag.dptr then tagFault x.tag
  needCanonical c x.val .read
  needAligned a.val 4
  needAligned x.val 64
  needDdc c .read x.val 64
  let ws ← frameRead c x.val 8
  match startBadTag (capsConf s) ws with
  | some t => tagFault t
  | none =>
    let d : CtxId := fld r 19 2
    if ((← get).getCtx d).run != .stopped then modC c fun k => k.setA ⟨0, Tag.int⟩
    else
      modC c fun k => k.setA ⟨1, Tag.int⟩
      modify fun t => t.modCtx d (startCtx t k d a.val fun i => (ws.getD i TWord.zero).val)

/-- CSTART. -/
def execCstart (r : BitVec 21) (s : State) : Host.Outcome State Fault Refusal := runSeq (cstartInstr r) s

/-- A context stops (R414): its latest WAIT is abandoned. -/
def Ctx.stop (k : Ctx) : Ctx :=
  { k with run := .stopped, ev := { k.ev with waitMask := 0, waitSince := none, waitDur := none, fence := none } }

/-- CSTOP (R414). -/
def cstopInstr (r : BitVec 21) (c : CtxId) : M Unit := do
  needDef (fld r 0 19 == 0)
  let s ← get
  needPriv (stage2Owner s (s.getCtx c))
  let d : CtxId := fld r 19 2
  let others := ([0, 1, 2, 3] : List CtxId).any fun e => e != d && (s.getCtx e).run != .stopped
  needDef others
  modC d fun k => k.stop
  if d == c then modify (leftRunning c)

/-- CSTOP. -/
def execCstop (r : BitVec 21) (s : State) : Host.Outcome State Fault Refusal := runSeq (cstopInstr r) s

/-! ## FSPILL and FFILL (R418) -/

/-- (a - b) mod 7. -/
def subMod7 (a b : Nat) : Nat := (a + 14 - b) % 7

/-- Rows 5 to 8 for the 256 bytes of a window image. -/
def needWindowStack (c : CtxId) (k : AccKind) (a : W64) (give : Bool) : M Unit := do
  needCanonical c a k
  needDdc c k a 256 give

/-- FSPILL. -/
def fspillInstr (r : BitVec 21) (c : CtxId) : M Unit := do
  needDef (r == 0)
  let k ← getC c
  needPriv k.sup
  let w := subMod7 (k.win.cur.toNat + 1) k.win.res.toNat
  needDef (decide (2 ≤ k.win.res.toNat) && !bit k.win.link w)
  let a := k.win.fsptr - 256
  modify fun s => (List.range 32).foldl (fun t i => meetSlot c (32 * w + i) t) s
  let k ← getC c
  let ws := (List.range 32).map fun i => k.winSlot w i
  needWindowStack c .write a (ws.any fun x => x.tag == Tag.caph || x.tag == Tag.capl)
  match ← translateWords (.ctx c) (ctxRegime (← get) c) .write a 32 with
  | .error (f, va) => raiseX f .write va
  | .ok ps =>
    let paths ← prepWords c ps
    needPaths paths
    commitWords (some c) c paths ws
    modC c fun k => { k with win := { k.win with fsptr := a, res := k.win.res - 1, fsd := k.win.fsd + 1 } }

/-- FSPILL. -/
def execFspill (r : BitVec 21) (s : State) : Host.Outcome State Fault Refusal := runSeq (fspillInstr r) s

/-- FFILL. -/
def ffillInstr (r : BitVec 21) (c : CtxId) : M Unit := do
  needDef (r == 0)
  let k ← getC c
  needPriv k.sup
  needDef (decide (k.win.res.toNat ≤ 6) && k.win.fsd != 0)
  let a := k.win.fsptr
  needWindowStack c .read a false
  match ← translateWords (.ctx c) (ctxRegime (← get) c) .read a 32 with
  | .error (f, va) => raiseX f .read va
  | .ok _ =>
    let ws ← frameRead c a 32
    let w := subMod7 k.win.cur.toNat k.win.res.toNat
    modC c fun k =>
      let k1 := (List.range 32).foldl (fun k i => k.setWinSlot w i (ws.getD i TWord.poison)) k
      { k1 with win := { k1.win with fsptr := a + 256, res := k1.win.res + 1, fsd := k1.win.fsd - 1 } }

/-- FFILL. -/
def execFfill (r : BitVec 21) (s : State) : Host.Outcome State Fault Refusal := runSeq (ffillInstr r) s

end Sys2Proof.Machine
end

