-- ==== Sys2Proof/Machine/Copro.lean ====
section
/-!
DEFINITION. The coprocessor block (05 R169 to R176, 01 R36 to R39).
-/

namespace Sys2Proof.Machine

open Sys2Proof

/-- The operand that SA or SB names, where 3 is the given word; an absent operand is 0 tagged RAW (R169). -/
def cpOperand (k : Ctx) (code : BitVec 2) (third : TWord) : TWord :=
  if code = 0 then TWord.zero else if code = 1 then k.getA else if code = 2 then k.getX else third

/-- The destination that DR names. -/
def cpDest (code : BitVec 2) : Dest := if code = 0 then .none else if code = 1 then .a else if code = 2 then .x else .y

/-- An operand may be sent (R170). -/
def cpAccepts (w : TWord) : M Unit := if w.tag == Tag.poison || isReserved w.tag then tagFault w.tag else pure ()

/-- A free issue tag (R38). -/
def cpFreeTag (s : State) : Option (BitVec 3) :=
  ((List.range 8).map fun i => BitVec.ofNat 3 i).find? fun t => !s.cp.out.any fun o => o.tag == t

/-- The first issue of the FIFO is offered (R36): its signals are driven. -/
def cpOffer (s : State) : State :=
  match s.cp.issueQ with
  | [] => s
  | i :: _ => { s with cp := { s.cp with lastIssue := i } }

/-- The issue that is offered transfers while CP_IREADY is high (R36, R37). -/
def cpTransfer (s : State) : State :=
  if s.pins.cpIready then cpOffer { s with cp := { s.cp with issueQ := s.cp.issueQ.drop 1 } } else s

/-- Issue an instruction of context c: behind the others in the FIFO (R16), and outstanding from now on (R38, R64). -/
def cpIssue (c : CtxId) (ord : Bool) (i : CpIssue) (s : State) : State :=
  cpOffer { s with cp := { s.cp with
    out := s.cp.out ++ [⟨i.itag, c, false, ord, s.time.tick⟩]
    issueQ := s.cp.issueQ ++ [i]
    stallFrom := if s.cp.out.isEmpty then s.time.tick else s.cp.stallFrom } }

/-- CP_INSN (R169 to R172): issue on the port; the context then waits for the result. Of w, bits [26:25] are OP[1:0]. -/
def cpInstr (w : BitVec 27) (c : CtxId) : M Bool := do
  let s ← get
  let k := s.getCtx c
  let sb : BitVec 2 := fld w 21 2
  let fs : BitVec 5 := fld w 14 5
  needDef (s.pins.cpPresent && enabled s 1 && (if sb = 3 then k.hasSlot fs else fs == 0))
  let f ← if sb = 3 then readSlot c fs else pure TWord.zero
  let a := cpOperand k (fld w 23 2) k.getY
  let b := cpOperand k sb f
  cpAccepts a
  cpAccepts b
  match (if s.pins.cpRstN then cpFreeTag s else none) with
  | none => wait
  | some t =>
    modify (cpIssue c (bit w 13) ⟨0xF8000000#32 ||| w.setWidth 32, a, b, t, c, bAt 0 k.sup ||| bAt 1 k.world⟩)
    modC c fun k => { k with cp := some ⟨t, cpDest (fld w 19 2), bit w 13⟩ }
    return false

/-- CP_INSN (R169). -/
def execCpInsn (w : BitVec 27) (s : State) : Host.Outcome State Fault Refusal := runHold (cpInstr w) s

/-- The word that a result is written as (R170). -/
def cpResultWord (w : TWord) : TWord :=
  if isPlain w.tag || w.tag == Tag.flt || isPtr w.tag || w.tag == Tag.shape || w.tag == Tag.poison then w
  else ⟨w.val, Tag.poison⟩

/-- The outstanding instruction with this tag is answered: the logic has taken its issue, and those before it (DEDUCED from R36: no
result comes before its issue, log 71). The watchdog counts for the next oldest from its own issue (R64). -/
def cpAnswered (tag : BitVec 3) (s : State) : State :=
  let rest := s.cp.out.filter fun o => o.tag != tag
  let q := if s.cp.issueQ.any fun i => i.itag == tag then (s.cp.issueQ.dropWhile fun i => i.itag != tag).drop 1 else s.cp.issueQ
  cpOffer { s with cp := { s.cp with
    out := rest, issueQ := q
    stallFrom := if (s.cp.out.head?.map fun o => o.tag) == some tag then (rest.head?.map fun o => o.since).getD s.time.tick
      else s.cp.stallFrom } }

/-- The result of the instruction that context c waits for (R173, R174). A fault gives way to an interrupt that is takeable before
the instruction (R370): the instruction is then discarded, and issued again after the return. -/
def cpTake (c : CtxId) (w : CpWait) (res : TWord) (bad : Bool) (code : BitVec 8) (s : State) : State :=
  let t := (cpAnswered w.tag s).modCtx c fun k => { k with cp := none }
  if bad && atBoundary (s.getCtx c) && (bestVector s c).isSome then dropFills c (accountChange s t)
  else if bad then
    match takeSync c ⟨18, code, none, 0, false, false⟩ t with
    | .ok _ u => dropFills c (accountChange s u)
    | .error _ u => rollback s u
  else
    let u := t.modCtx c fun k =>
      let k1 := k.setDest w.dest (cpResultWord res)
      { k1 with pc := k1.pc + 4, skipPair := false }
    countCtx 0 11 1 c none (retire c s u)

/-- CP_RESULT (R173 to R175): dropped while CP_RST_N is low (R39). -/
def execCpResult (tag : BitVec 3) (res : TWord) (bad : Bool) (code : BitVec 8) (s : State) :
    Host.Outcome State Fault Refusal :=
  if !s.pins.cpRstN then .next s
  else
    match s.cp.out.find? fun o => o.tag == tag with
    | none => .next (machineCheck 3 0 0 s)
    | some o =>
      let k := s.getCtx o.ctx
      match k.cp with
      | some w =>
        if w.tag == tag && !o.squashed && k.run == .running then .next (cpTake o.ctx w res bad code s)
        else .next (cpAnswered tag s)
      | none => .next (cpAnswered tag s)

end Sys2Proof.Machine
end

