-- ==== Sys2Proof/Machine/Fp.lean ====
section
/-!
DEFINITION. Binary floating point by exact arithmetic and one rounding: formats, values, rounding (03 R120 to R122). The
scalar instructions and the tile unit both use it.
-/

namespace Sys2Proof.Machine

/-- An IEEE 754 binary format: exponent and fraction bits. -/
structure FpFmt where
  ebits : Nat
  mbits : Nat
  deriving DecidableEq, Repr

/-- binary64. -/
def fp64 : FpFmt := ⟨11, 52⟩
/-- binary32. -/
def fp32 : FpFmt := ⟨8, 23⟩

/-- Bias. -/
def FpFmt.bias (f : FpFmt) : Nat := 2 ^ (f.ebits - 1) - 1
/-- Smallest exponent of a normal number. -/
def FpFmt.emin (f : FpFmt) : Int := 1 - (f.bias : Int)
/-- Exponent of the unit in the last place of the smallest normal number. -/
def FpFmt.qmin (f : FpFmt) : Int := f.emin - f.mbits
/-- Position of the sign bit. -/
def FpFmt.signBit (f : FpFmt) : Nat := f.ebits + f.mbits
/-- Bits of +infinity. -/
def FpFmt.infBits (f : FpFmt) : Nat := (2 ^ f.ebits - 1) * 2 ^ f.mbits
/-- Bits of the largest finite number. -/
def FpFmt.maxBits (f : FpFmt) : Nat := f.infBits - 1
/-- The default quiet NaN. -/
def FpFmt.qnan (f : FpFmt) : Nat := f.infBits + 2 ^ (f.mbits - 1)

/-- What a bit pattern stands for: (-1)^s × m × 2^e, an infinity, or a NaN that may signal. -/
inductive FpVal where
  | nan (signalling : Bool)
  | inf (neg : Bool)
  | fin (neg : Bool) (m : Nat) (e : Int)
  deriving DecidableEq, Repr

/-- Decode a bit pattern. -/
def FpFmt.decode (f : FpFmt) (b : Nat) : FpVal :=
  let s := b / 2 ^ f.signBit % 2 == 1
  let e := b / 2 ^ f.mbits % 2 ^ f.ebits
  let m := b % 2 ^ f.mbits
  if e = 2 ^ f.ebits - 1 then (if m = 0 then .inf s else .nan (decide (m < 2 ^ (f.mbits - 1))))
  else if e = 0 then .fin s m f.qmin
  else .fin s (m + 2 ^ f.mbits) (f.qmin + e - 1)

/-- Exceptions of an operation. -/
structure FpFlags where
  nx : Bool := false
  uf : Bool := false
  of : Bool := false
  dz : Bool := false
  nv : Bool := false
  deriving DecidableEq, Repr

/-- Both sets of exceptions. -/
def FpFlags.or (a b : FpFlags) : FpFlags := ⟨a.nx || b.nx, a.uf || b.uf, a.of || b.of, a.dz || b.dz, a.nv || b.nv⟩

/-- Rounding directions (ST.RM). -/
inductive FpRound where
  | nearest | zero | up | down
  deriving DecidableEq, Repr

/-- ST.RM. -/
def roundOf (rm : BitVec 2) : FpRound := if rm == 0 then .nearest else if rm == 1 then .zero else if rm == 2 then .up else .down

/-- The number of bits of a natural number. -/
def bitLen (m : Nat) : Nat := if m = 0 then 0 else m.log2 + 1

/-- Whether a magnitude q with a remainder rounds up: `half` compares the remainder with half a unit. -/
def roundsUp (r : FpRound) (neg : Bool) (q : Nat) (half : Ordering) (exact : Bool) : Bool :=
  !exact && match r with
    | .nearest => half == .gt || (half == .eq && q % 2 == 1)
    | .zero => false
    | .up => !neg
    | .down => neg

/-- m × 2^e in units of 2^q, rounded: the magnitude and whether it is inexact. -/
def roundAt (r : FpRound) (neg : Bool) (m : Nat) (e q : Int) : Nat × Bool :=
  if q ≤ e then (m * 2 ^ (e - q).toNat, false)
  else
    let sh := (q - e).toNat
    let u := m / 2 ^ sh
    let rem := m % 2 ^ sh
    let exact := rem == 0
    (if roundsUp r neg u (compare (2 * rem) (2 ^ sh)) exact then u + 1 else u, !exact)

/-- Bits of u × 2^q, where u is at most 2^(mbits + 1); beyond the largest number they go on counting. -/
def FpFmt.pack (f : FpFmt) (u : Nat) (q : Int) : Nat :=
  if u < 2 ^ f.mbits then u else ((q - f.qmin).toNat) * 2 ^ f.mbits + u

/-- m × 2^e, not zero, rounded to the format without an upper limit: the magnitude's bits, whether it is inexact and
whether it is tiny, detected after rounding (R120, R265). -/
def FpFmt.roundMag (f : FpFmt) (r : FpRound) (neg : Bool) (m : Nat) (e : Int) : Nat × Bool × Bool :=
  let qn : Int := e + bitLen m - 1 - f.mbits
  let q := max qn f.qmin
  let (u, inexact) := roundAt r neg m e q
  let (un, _) := roundAt r neg m e qn
  (f.pack u q, inexact, decide (qn < f.qmin) && !(qn + 1 == f.qmin && un == 2 ^ (f.mbits + 1)))

/-- Round (-1)^neg × m × 2^e to the format (R120): the IEEE 754 result with its exceptions; tininess after rounding. -/
def FpFmt.round (f : FpFmt) (r : FpRound) (neg : Bool) (m : Nat) (e : Int) : Nat × FpFlags :=
  let sign := if neg then 2 ^ f.signBit else 0
  if m = 0 then (sign, {})
  else
    let (mag, inexact, tiny) := f.roundMag r neg m e
    if f.infBits ≤ mag then
      let toInf := match r with | .nearest => true | .zero => false | .up => !neg | .down => neg
      (sign + (if toInf then f.infBits else f.maxBits), { nx := true, of := true })
    else (sign + mag, { nx := inexact, uf := tiny && inexact })

/-! ## Operations -/

/-- A quiet NaN with the payload and sign of a NaN (R121). -/
def FpFmt.quiet (f : FpFmt) (b : Nat) : Nat := if b / 2 ^ (f.mbits - 1) % 2 = 1 then b else b + 2 ^ (f.mbits - 1)

/-- The first NaN among the operands, quietened (R121). -/
def FpFmt.firstNan (f : FpFmt) (bs : List Nat) : Option Nat :=
  (bs.find? fun b => match f.decode b with | .nan _ => true | _ => false).map f.quiet

/-- Some operand is a signalling NaN. -/
def FpFmt.anySignal (f : FpFmt) (bs : List Nat) : Bool := bs.any fun b => f.decode b == .nan true

/-- A signed sum of finite values as sign, magnitude and exponent; the sign of an exact zero follows the rounding (R120). -/
def addFin (r : FpRound) (s1 : Bool) (m1 : Nat) (e1 : Int) (s2 : Bool) (m2 : Nat) (e2 : Int) : Bool × Nat × Int :=
  let e := min e1 e2
  let v := fun (s : Bool) (m : Nat) (x : Int) => (if s then -1 else 1) * (m : Int) * 2 ^ (x - e).toNat
  let t : Int := v s1 m1 e1 + v s2 m2 e2
  if t = 0 then ((if m1 = 0 ∧ m2 = 0 ∧ s1 = s2 then s1 else r == .down), 0, e)
  else (decide (t < 0), t.natAbs, e)

/-- The sign bit alone. -/
def FpFmt.signed (f : FpFmt) (neg : Bool) (mag : Nat) : Nat := (if neg then 2 ^ f.signBit else 0) + mag

/-- A NaN result: the first NaN operand's or the default; NV for a signalling one or an invalid operation. -/
def FpFmt.nanResult (f : FpFmt) (bs : List Nat) (invalid : Bool) : Nat × FpFlags :=
  ((f.firstNan bs).getD f.qnan, { nv := invalid || f.anySignal bs })

/-- a + b. -/
def FpFmt.add (f : FpFmt) (r : FpRound) (a b : Nat) : Nat × FpFlags :=
  match f.decode a, f.decode b with
  | .fin s1 m1 e1, .fin s2 m2 e2 =>
    let (s, m, e) := addFin r s1 m1 e1 s2 m2 e2
    f.round r s m e
  | .inf s1, .inf s2 => if s1 = s2 then (a, {}) else f.nanResult [a, b] true
  | .inf _, .fin .. => (a, {})
  | .fin .., .inf _ => (b, {})
  | _, _ => f.nanResult [a, b] false

/-- Negation of a bit pattern that is no NaN. -/
def FpFmt.neg (f : FpFmt) (b : Nat) : Nat :=
  match f.decode b with
  | .nan _ => b
  | _ => if b / 2 ^ f.signBit % 2 = 1 then b - 2 ^ f.signBit else b + 2 ^ f.signBit

/-- a - b. -/
def FpFmt.sub (f : FpFmt) (r : FpRound) (a b : Nat) : Nat × FpFlags := f.add r a (f.neg b)

/-- a × b. -/
def FpFmt.mul (f : FpFmt) (r : FpRound) (a b : Nat) : Nat × FpFlags :=
  match f.decode a, f.decode b with
  | .fin s1 m1 e1, .fin s2 m2 e2 => f.round r (s1 != s2) (m1 * m2) (e1 + e2)
  | .inf s1, .inf s2 => (f.signed (s1 != s2) f.infBits, {})
  | .inf s1, .fin s2 m _ => if m = 0 then f.nanResult [a, b] true else (f.signed (s1 != s2) f.infBits, {})
  | .fin s1 m _, .inf s2 => if m = 0 then f.nanResult [a, b] true else (f.signed (s1 != s2) f.infBits, {})
  | _, _ => f.nanResult [a, b] false

/-- m1 × 2^e1 / (m2 × 2^e2) with enough bits to round once: the last bit says that the quotient is not exact. -/
def divFin (extra m1 : Nat) (e1 : Int) (m2 : Nat) (e2 : Int) : Nat × Int :=
  let k := extra + bitLen m2 - bitLen m1
  let n := m1 * 2 ^ k
  (2 * (n / m2) + (if n % m2 = 0 then 0 else 1), e1 - e2 - k - 1)

/-- a / b. -/
def FpFmt.div (f : FpFmt) (r : FpRound) (a b : Nat) : Nat × FpFlags :=
  match f.decode a, f.decode b with
  | .fin s1 m1 e1, .fin s2 m2 e2 =>
    if m2 = 0 then (if m1 = 0 then f.nanResult [a, b] true else (f.signed (s1 != s2) f.infBits, { dz := true }))
    else
      let (m, e) := divFin (f.mbits + 4) m1 e1 m2 e2
      f.round r (s1 != s2) m e
  | .inf _, .inf _ => f.nanResult [a, b] true
  | .inf s1, .fin s2 _ _ => (f.signed (s1 != s2) f.infBits, {})
  | .fin s1 _ _, .inf s2 => (f.signed (s1 != s2) 0, {})
  | _, _ => f.nanResult [a, b] false

/-- Bits k - 1 to 0 of the integer square root of n, above r. -/
def isqrtFrom (n : Nat) : (k r : Nat) → Nat
  | 0, r => r
  | k + 1, r => isqrtFrom n k (if (r + 2 ^ k) * (r + 2 ^ k) ≤ n then r + 2 ^ k else r)

/-- Square root. -/
def FpFmt.sqrt (f : FpFmt) (r : FpRound) (a : Nat) : Nat × FpFlags :=
  match f.decode a with
  | .fin s m e =>
    if m = 0 then (a, {})
    else if s then f.nanResult [a] true
    else
      let k := 2 * (f.mbits + 4) + (if e % 2 = 0 then 0 else 1)
      let n := m * 2 ^ k
      let q := isqrtFrom n (bitLen n / 2 + 1) 0
      f.round r false (2 * q + (if q * q = n then 0 else 1)) ((e - k) / 2 - 1)
  | .inf s => if s then f.nanResult [a] true else (a, {})
  | .nan _ => f.nanResult [a] false

/-- a + x × b with one rounding; the operand order for NaN is a, b, x (R121). -/
def FpFmt.fma (f : FpFmt) (r : FpRound) (a x b : Nat) : Nat × FpFlags :=
  let bs := [a, b, x]
  let bad := match f.decode x, f.decode b with
    | .inf _, .fin _ m _ => m == 0
    | .fin _ m _, .inf _ => m == 0
    | _, _ => false
  match f.decode a, f.decode x, f.decode b with
  | .fin s m e, .fin s1 m1 e1, .fin s2 m2 e2 =>
    let (t, u, v) := addFin r s m e (s1 != s2) (m1 * m2) (e1 + e2)
    f.round r t u v
  | .nan _, _, _ => f.nanResult bs bad
  | _, .nan _, _ => f.nanResult bs bad
  | _, _, .nan _ => f.nanResult bs bad
  | va, vx, vb =>
    if bad then f.nanResult bs true
    else
      let sgn := fun (v : FpVal) => match v with | .inf s => s | .fin s _ _ => s | .nan _ => false
      let isInf := fun (v : FpVal) => match v with | .inf _ => true | _ => false
      let ps := sgn vx != sgn vb
      if isInf vx || isInf vb then
        (if isInf va && sgn va != ps then f.nanResult bs true else (f.signed ps f.infBits, {}))
      else (a, {})

/-- Order of two values that are no NaN: -0 equals +0. -/
def FpFmt.compare (f : FpFmt) (a b : Nat) : Ordering :=
  let key := fun (v : FpVal) => match v with
    | .inf s => (if s then -1 else 1 : Int)
    | _ => 0
  match f.decode a, f.decode b with
  | .fin s1 m1 e1, .fin s2 m2 e2 =>
    let e := min e1 e2
    let v := fun (s : Bool) (m : Nat) (x : Int) => (if s then -1 else 1) * (m : Int) * 2 ^ (x - e).toNat
    Ord.compare (v s1 m1 e1) (v s2 m2 e2)
  | va, vb => Ord.compare (key va) (key vb)

/-- The sign bit of a pattern. -/
def FpFmt.isNeg (f : FpFmt) (b : Nat) : Bool := b / 2 ^ f.signBit % 2 == 1

/-- Minimum or maximum of IEEE 754: NaN propagates, -0 is below +0 (R120). -/
def FpFmt.minMax (f : FpFmt) (isMax : Bool) (a b : Nat) : Nat × FpFlags :=
  if (f.firstNan [a, b]).isSome then f.nanResult [a, b] false
  else
    let aLess := match f.compare a b with | .lt => true | .gt => false | .eq => f.isNeg a
    (if aLess != isMax then a else b, {})

/-- A value rounded to an integer; none for NaN and the infinities. -/
def FpFmt.toInteger (f : FpFmt) (r : FpRound) (a : Nat) : Option (Int × Bool) :=
  match f.decode a with
  | .fin s m e =>
    let (u, inexact) := roundAt r s m e 0
    some (if s then -(u : Int) else u, inexact)
  | _ => none

/-- Convert to an integer between lo and hi (R144). -/
def FpFmt.toInt (f : FpFmt) (r : FpRound) (lo hi : Int) (a : Nat) : Int × FpFlags :=
  match f.toInteger r a with
  | some (i, inexact) =>
    if i < lo then (lo, { nv := true }) else if hi < i then (hi, { nv := true }) else (i, { nx := inexact })
  | none =>
    match f.decode a with
    | .inf s => (if s then lo else hi, { nv := true })
    | _ => (0, { nv := true })

/-- Convert an integer. -/
def FpFmt.ofInt (f : FpFmt) (r : FpRound) (i : Int) : Nat × FpFlags := f.round r (decide (i < 0)) i.natAbs 0

/-- Convert between formats: a NaN keeps its sign and its highest payload bits, quietened (R121). -/
def FpFmt.convert (f g : FpFmt) (r : FpRound) (a : Nat) : Nat × FpFlags :=
  match f.decode a with
  | .fin s m e => g.round r s m e
  | .inf s => (g.signed s g.infBits, {})
  | .nan sig =>
    let payload := a % 2 ^ (f.mbits - 1)
    let p := if g.mbits ≤ f.mbits then payload / 2 ^ (f.mbits - g.mbits) else payload * 2 ^ (g.mbits - f.mbits)
    (g.signed (f.isNeg a) (g.qnan + p), { nv := sig })

end Sys2Proof.Machine
end

