-- ==== Sys2Proof/Machine/Float.lean ====
section
/-!
DEFINITION. Scalar floating point (03 R120 to R122, 04 R142 to R144).
-/

namespace Sys2Proof.Machine

open Sys2Proof

/-- FP64 or FP32 (the suffixes .D and .S). -/
inductive FpSize where
  | d | s
  deriving DecidableEq, Repr

/-- The format of a size. -/
def FpSize.fmt (z : FpSize) : FpFmt := match z with | .d => fp64 | .s => fp32

/-- The pattern an instruction reads: an FP32 value that is not boxed is the default NaN (R121). -/
def FpSize.unbox (z : FpSize) (w : W64) : Nat :=
  match z with
  | .d => w.toNat
  | .s => if fld w 32 32 == BitVec.allOnes 32 then fldN w 0 32 else fp32.qnan

/-- The word an instruction writes (R121). -/
def FpSize.box (z : FpSize) (b : Nat) : W64 :=
  match z with
  | .d => BitVec.ofNat 64 b
  | .s => BitVec.ofNat 64 (b % 2 ^ 32) ||| 0xFFFFFFFF00000000#64

/-- The sticky bits of ST that exceptions set (R97, R120). -/
def FpFlags.sticky (g : FpFlags) : W32 := bAt 19 g.nx ||| bAt 20 g.uf ||| bAt 21 g.of ||| bAt 22 g.dz ||| bAt 23 g.nv

/-- Set the sticky bits. -/
def Ctx.setSticky (k : Ctx) (g : FpFlags) : Ctx := { k with st := k.st ||| g.sticky }

/-- ST.RM. -/
def Ctx.rm (k : Ctx) : FpRound := roundOf (fld k.st 16 2)

/-- FLT. -/
def isFlt (t : Tag) : Bool := t == Tag.flt

/-- A := f RM A operand. -/
def fpInstr (z : FpSize) (f : FpRound → Nat → Nat → Nat × FpFlags) (m : BitVec 3) (d : BitVec 22) (c : CtxId) : M Unit := do
  let (a, b) ← readPair c m d isFlt (fun _ t => isFlt t) (pure ())
  let (r, g) := f (← getC c).rm (z.unbox a.val) (z.unbox b.val)
  postIncrement c m d
  modC c fun k => (k.setSticky g).setA ⟨z.box r, Tag.flt⟩
  modify (countCtx 0 10 1 c)

/-- FMAC: A := A + X × operand, rounded once. -/
def fmacInstr (z : FpSize) (m : BitVec 3) (d : BitVec 22) (c : CtxId) : M Unit := do
  let (a, b) ← readPair c m d isFlt (fun _ t => isFlt t) (needX c isFlt)
  let k ← getC c
  let (r, g) := z.fmt.fma k.rm (z.unbox a.val) (z.unbox k.getX.val) (z.unbox b.val)
  postIncrement c m d
  modC c fun k => (k.setSticky g).setA ⟨z.box r, Tag.flt⟩
  modify (countCtx 0 10 1 c)

/-- The flags and exceptions of a comparison (R122): C greater, Z equal, N less, V unordered. -/
def fpCompare (f : FpFmt) (ordered : Bool) (st : W32) (a b : Nat) : W32 × FpFlags :=
  if (f.firstNan [a, b]).isSome then (stFlags st false false false true, { nv := ordered || f.anySignal [a, b] })
  else match f.compare a b with
    | .eq => (stFlags st false true false false, {})
    | .lt => (stFlags st false false true false, {})
    | .gt => (stFlags st true false false false, {})

/-- FCMP and FCMPO. -/
def fcmpInstr (z : FpSize) (ordered : Bool) (m : BitVec 3) (d : BitVec 22) (c : CtxId) : M Unit := do
  let (a, b) ← readPair c m d isFlt (fun _ t => isFlt t) (pure ())
  postIncrement c m d
  modC c fun k =>
    let (st, g) := fpCompare z.fmt ordered k.st (z.unbox a.val) (z.unbox b.val)
    ({ k with st := st }).setSticky g
  modify (countCtx 0 10 1 c)

/-- The FOP1 group (R143): A := f RM A with the result's tag; `rz` allows the RZ bit, which rounds toward zero. -/
def fop1Instr (accepts : Tag → Bool) (rz : Bool) (f : FpRound → W64 → W64 × FpFlags) (t : Tag) (r : BitVec 21) (c : CtxId) :
    M Unit := do
  needDef (fld r 0 20 == 0 && (rz || !bit r 20))
  let k ← getC c
  let a := k.getA
  if !accepts a.tag then tagFault a.tag
  let (v, g) := f (if bit r 20 then .zero else k.rm) a.val
  modC c fun k => (k.setSticky g).setA ⟨v, t⟩
  modify (countCtx 0 10 1 c)

/-- Square root. -/
def fsqrtInstr (z : FpSize) : BitVec 21 → CtxId → M Unit :=
  fop1Instr isFlt false (fun rm a => let (b, g) := z.fmt.sqrt rm (z.unbox a); (z.box b, g)) Tag.flt

/-- Conversion of an integer. -/
def fromIntInstr (z : FpSize) (signed : Bool) : BitVec 21 → CtxId → M Unit :=
  fop1Instr isPlain false
    (fun rm a => let (b, g) := z.fmt.ofInt rm (if signed then a.toInt else a.toNat); (z.box b, g)) Tag.flt

/-- Conversion to an integer (R144). -/
def toIntInstr (z : FpSize) (signed : Bool) : BitVec 21 → CtxId → M Unit :=
  fop1Instr isFlt true
    (fun rm a =>
      let (i, g) := if signed then z.fmt.toInt rm (-(2 ^ 63)) (2 ^ 63 - 1) (z.unbox a)
        else z.fmt.toInt rm 0 (2 ^ 64 - 1) (z.unbox a)
      (BitVec.ofInt 64 i, g)) Tag.int

/-- Conversion between the formats (R121). -/
def fcvtInstr (x z : FpSize) : BitVec 21 → CtxId → M Unit :=
  fop1Instr isFlt false (fun rm a => let (b, g) := x.fmt.convert z.fmt rm (x.unbox a); (z.box b, g)) Tag.flt

/-- FADD.D (R142). -/
def execFaddD (m : BitVec 3) (d : BitVec 22) (s : State) : Host.Outcome State Fault Refusal :=
  runSeq (fpInstr .d fp64.add m d) s
/-- FADD.S (R142). -/
def execFaddS (m : BitVec 3) (d : BitVec 22) (s : State) : Host.Outcome State Fault Refusal :=
  runSeq (fpInstr .s fp32.add m d) s
/-- FSUB.D (R142). -/
def execFsubD (m : BitVec 3) (d : BitVec 22) (s : State) : Host.Outcome State Fault Refusal :=
  runSeq (fpInstr .d fp64.sub m d) s
/-- FSUB.S (R142). -/
def execFsubS (m : BitVec 3) (d : BitVec 22) (s : State) : Host.Outcome State Fault Refusal :=
  runSeq (fpInstr .s fp32.sub m d) s
/-- FMUL.D (R142). -/
def execFmulD (m : BitVec 3) (d : BitVec 22) (s : State) : Host.Outcome State Fault Refusal :=
  runSeq (fpInstr .d fp64.mul m d) s
/-- FMUL.S (R142). -/
def execFmulS (m : BitVec 3) (d : BitVec 22) (s : State) : Host.Outcome State Fault Refusal :=
  runSeq (fpInstr .s fp32.mul m d) s
/-- FDIV.D (R142). -/
def execFdivD (m : BitVec 3) (d : BitVec 22) (s : State) : Host.Outcome State Fault Refusal :=
  runSeq (fpInstr .d fp64.div m d) s
/-- FDIV.S (R142). -/
def execFdivS (m : BitVec 3) (d : BitVec 22) (s : State) : Host.Outcome State Fault Refusal :=
  runSeq (fpInstr .s fp32.div m d) s
/-- FMAC.D (R120, R142). -/
def execFmacD (m : BitVec 3) (d : BitVec 22) (s : State) : Host.Outcome State Fault Refusal :=
  runSeq (fmacInstr .d m d) s
/-- FMAC.S (R120, R142). -/
def execFmacS (m : BitVec 3) (d : BitVec 22) (s : State) : Host.Outcome State Fault Refusal :=
  runSeq (fmacInstr .s m d) s
/-- FMIN.D (R120). -/
def execFminD (m : BitVec 3) (d : BitVec 22) (s : State) : Host.Outcome State Fault Refusal :=
  runSeq (fpInstr .d (fun _ => fp64.minMax false) m d) s
/-- FMIN.S (R120). -/
def execFminS (m : BitVec 3) (d : BitVec 22) (s : State) : Host.Outcome State Fault Refusal :=
  runSeq (fpInstr .s (fun _ => fp32.minMax false) m d) s
/-- FMAX.D (R120). -/
def execFmaxD (m : BitVec 3) (d : BitVec 22) (s : State) : Host.Outcome State Fault Refusal :=
  runSeq (fpInstr .d (fun _ => fp64.minMax true) m d) s
/-- FMAX.S (R120). -/
def execFmaxS (m : BitVec 3) (d : BitVec 22) (s : State) : Host.Outcome State Fault Refusal :=
  runSeq (fpInstr .s (fun _ => fp32.minMax true) m d) s
/-- FCMP.D (R122). -/
def execFcmpD (m : BitVec 3) (d : BitVec 22) (s : State) : Host.Outcome State Fault Refusal :=
  runSeq (fcmpInstr .d false m d) s
/-- FCMPO.D (R122). -/
def execFcmpoD (m : BitVec 3) (d : BitVec 22) (s : State) : Host.Outcome State Fault Refusal :=
  runSeq (fcmpInstr .d true m d) s
/-- FCMP.S (R122). -/
def execFcmpS (m : BitVec 3) (d : BitVec 22) (s : State) : Host.Outcome State Fault Refusal :=
  runSeq (fcmpInstr .s false m d) s
/-- FCMPO.S (R122). -/
def execFcmpoS (m : BitVec 3) (d : BitVec 22) (s : State) : Host.Outcome State Fault Refusal :=
  runSeq (fcmpInstr .s true m d) s
/-- FSQRT.D (R143). -/
def execFsqrtD (r : BitVec 21) (s : State) : Host.Outcome State Fault Refusal :=
  runSeq (fsqrtInstr .d r) s
/-- FSQRT.S (R143). -/
def execFsqrtS (r : BitVec 21) (s : State) : Host.Outcome State Fault Refusal :=
  runSeq (fsqrtInstr .s r) s
/-- FCVT.D.L (R143). -/
def execFcvtDL (r : BitVec 21) (s : State) : Host.Outcome State Fault Refusal :=
  runSeq (fromIntInstr .d true r) s
/-- FCVT.D.LU (R143). -/
def execFcvtDLu (r : BitVec 21) (s : State) : Host.Outcome State Fault Refusal :=
  runSeq (fromIntInstr .d false r) s
/-- FCVT.S.L (R143). -/
def execFcvtSL (r : BitVec 21) (s : State) : Host.Outcome State Fault Refusal :=
  runSeq (fromIntInstr .s true r) s
/-- FCVT.S.LU (R143). -/
def execFcvtSLu (r : BitVec 21) (s : State) : Host.Outcome State Fault Refusal :=
  runSeq (fromIntInstr .s false r) s
/-- FCVT.L.D (R144). -/
def execFcvtLD (r : BitVec 21) (s : State) : Host.Outcome State Fault Refusal :=
  runSeq (toIntInstr .d true r) s
/-- FCVT.LU.D (R144). -/
def execFcvtLuD (r : BitVec 21) (s : State) : Host.Outcome State Fault Refusal :=
  runSeq (toIntInstr .d false r) s
/-- FCVT.L.S (R144). -/
def execFcvtLS (r : BitVec 21) (s : State) : Host.Outcome State Fault Refusal :=
  runSeq (toIntInstr .s true r) s
/-- FCVT.LU.S (R144). -/
def execFcvtLuS (r : BitVec 21) (s : State) : Host.Outcome State Fault Refusal :=
  runSeq (toIntInstr .s false r) s
/-- FCVT.S.D (R121). -/
def execFcvtSD (r : BitVec 21) (s : State) : Host.Outcome State Fault Refusal :=
  runSeq (fcvtInstr .d .s r) s
/-- FCVT.D.S (R121). -/
def execFcvtDS (r : BitVec 21) (s : State) : Host.Outcome State Fault Refusal :=
  runSeq (fcvtInstr .s .d r) s

end Sys2Proof.Machine
end

