-- ==== Sys2Proof/Machine/IoServe.lean ====
section
/-!
DEFINITION. Requests and posts that arrive from the mesh: the IPI port, the work-counter ports, notices (14 R423 to R434)
and posts (R439, R440).
-/

namespace Sys2Proof.Machine

open Sys2Proof

/-! ## I/O requests -/

/-- The core takes packets of lanes 2 and 3 (R24, R56): it is out of reset. -/
def takesLanes (s : State) : Bool :=
  match s.boot.phase with | .coldReset | .heldByWrst | .drain _ | .afterDrain _ => false | _ => true

/-- The core acts on requests (R381, R425). -/
def servesIo (s : State) : Bool := takesLanes s && !s.boot.lame

/-- PORT of an I/O address (R107). -/
def portOf (a : W32) : Nat := fldN a 0 19

/-- The data word of a response that returns none. -/
def noData : TWord := ⟨0, Tag.int⟩

/-- Answer a request, and count it (R458). -/
def answerIo (sts : BitVec 2) (opc : IoOpc) (q : IoReq) (w : TWord) (s : State) : State :=
  countEvent 5 5 1 none .none none (sendIoResp sts opc q w s)

/-- Serve a READ (R424, R425, R427, R428): STS 2 for every other port. -/
def serveRead (q : IoReq) (s : State) : State :=
  if portOf q.addr = 0x200 then answerIo 0 .read q noData s
  else
    match workPort (portOf q.addr) with
    | none => answerIo 2 .read q noData s
    | some (w, i) =>
      match workRead w i q.src q.ctx s with
      | none => answerIo 2 .read q noData s
      | some (v, t) => answerIo 0 .read q v t

/-- Serve a WRITE (R424, R425, R427, R428): answered after its effect. -/
def serveWrite (q : IoReq) (v : TWord) (s : State) : State :=
  if portOf q.addr = 0x200 then
    answerIo 0 .write q noData (countEvent 5 6 1 none .none none (ipiArrive q.src s))
  else
    match workPort (portOf q.addr) with
    | none => answerIo 2 .write q noData s
    | some (w, i) =>
      match workWrite w i none v.val s with
      | none => answerIo 2 .write q noData s
      | some t => answerIo 0 .write q noData t

/-- Serve a CLAIM (R424, R431). -/
def serveClaim (q : IoReq) (s : State) : State :=
  match workPort (portOf q.addr) with
  | some (w, 0) =>
    let (r, t) := claimOp w s
    answerIo 0 .claim q r (countEvent 5 3 1 none .none none t)
  | _ => answerIo 2 .claim q noData s

/-- Serve a COMPLETE (R424, R431). -/
def serveComplete (q : IoReq) (v : TWord) (s : State) : State :=
  match workPort (portOf q.addr) with
  | some (w, 0) =>
    let t := completeOp w v.val s
    answerIo 0 .complete q noData (if completeAccepts s w v.val then t else countEvent 5 4 1 none .none none t)
  | _ => answerIo 2 .complete q noData s

/-- A command of the mesh that the core serves while it is out of reset and not lame. -/
def serve (f : State → State) (s : State) : Host.Outcome State Fault Refusal := .next (if servesIo s then f s else s)

/-- IO_READ_SERVE. -/
def execIoReadServe (q : IoReq) (s : State) : Host.Outcome State Fault Refusal := serve (serveRead q) s
/-- IO_WRITE_SERVE. -/
def execIoWriteServe (q : IoReq) (w : TWord) (s : State) : Host.Outcome State Fault Refusal := serve (serveWrite q w) s

/-- IPI (R427): the WRITE goes to the IPI port. -/
def execIpi (q : IoReq) (w : TWord) (s : State) : Host.Outcome State Fault Refusal :=
  if portOf q.addr = 0x200 then serve (serveWrite q w) s else .next s

/-- WCFG_WRITE (R433): the WRITE goes to a WCFG port. -/
def execWcfgWrite (q : IoReq) (w : TWord) (s : State) : Host.Outcome State Fault Refusal :=
  match workPort (portOf q.addr) with
  | some (_, 1) => serve (serveWrite q w) s
  | _ => .next s

/-- WSUB (R434): the READ goes to a WSUB port. -/
def execWsub (q : IoReq) (s : State) : Host.Outcome State Fault Refusal :=
  match workPort (portOf q.addr) with
  | some (_, 4) => serve (serveRead q) s
  | _ => .next s

/-- CLAIM_SERVE. -/
def execClaimServe (q : IoReq) (s : State) : Host.Outcome State Fault Refusal := serve (serveClaim q) s
/-- COMPLETE_SERVE. -/
def execCompleteServe (q : IoReq) (w : TWord) (s : State) : Host.Outcome State Fault Refusal := serve (serveComplete q w) s

/-- NOTICE (R434): the CLAIM event of the context it names, whatever its PORT, SUP and SEAL. The packet does not name its
counter, which a later Milestone tells (R475): a free value (log 1). -/
def execNotice (q : IoReq) (s : State) : Host.Outcome State Fault Refusal :=
  serve (fun s =>
    let w : BitVec 3 := BitVec.ofNat 3 (Config.freeNat s.free)
    answerIo 0 .notice q noData (noticeArrive q.src w q.ctx { s with free := s.free + 1 })) s

/-! ## Posts -/

/-- The bytes of a post: n words from DOFF on. -/
def postSpan (h : PostHdr) : Nat × Nat := (h.doff.toNat / 8 * 8, h.doff.toNat / 8 * 8 + 8 * (h.wm1.toNat + 1))

/-- The first bytes of the scratchpad pages that a span touches. -/
def spanPages (a z : Nat) : List Nat := (List.range ((z - 1) / 4096 + 1)).filter fun p => decide (a / 4096 ≤ p)

/-- The post is accepted (R439). -/
def postAccepted (h : PostHdr) (s : State) : Bool :=
  let p := s.coop.pwin
  let (a, z) := postSpan h
  servesIo s && bit p 16 && bit p (32 + h.lc.toNat) && decide (fldN p 0 8 ≤ a / 4096) &&
    decide ((z - 1) / 4096 ≤ fldN p 8 8) &&
    (h.sealed || (spanPages a z).all fun i => !mapSealed s (BitVec.ofNat 52 (spadBase + 4096 * i)))

/-- Write words upward from scratchpad word i. -/
def postWords (tags : Bool) : List TWord → Nat → State → State
  | [], _, s => s
  | w :: ws, i, s => postWords tags ws (i + 1) (spadPut s i (if tags then w else ⟨w.val, Tag.raw⟩))

/-- The lines of a span, as physical line numbers. -/
def spanLines (a z : Nat) : List Nat := (List.range ((z - 1) / 64 - a / 64 + 1)).map fun i => spadBase / 64 + a / 64 + i

/-- An accepted post (R439, R441): its words, the watches of its lines, its landing counter. -/
def acceptPost (h : PostHdr) (ws : List TWord) (s : State) : State :=
  let (a, z) := postSpan h
  let t := (spanLines a z).foldl (fun t n => hitWatch none n t) (postWords h.tags ws (a / 8) s)
  let v := vget t.coop.land h.lc.toNat 0 + BitVec.ofNat 32 ws.length
  let u := { t with coop := { t.coop with land := vset t.coop.land h.lc.toNat v, pAcc := t.coop.pAcc + 1 } }
  let met := fun (x : State) (c : CtxId) => levelHolds x c 1
  let w := ([0, 1, 2, 3] : List CtxId).foldl (fun x c =>
    if met u c && !met s c then x.modCtx c fun k => { k with ev := { k.ev with landPeer := some h.src } } else x) u
  countEvent 5 1 1 none .none none (settle w)

/-- A discarded post (R439). -/
def dropPost (s : State) : State :=
  countEvent 5 2 1 none .none none { s with coop := { s.coop with pDrop := satInc s.coop.pDrop } }

/-- POST_RECEIVE (R439): a core in reset, or lame, discards the post and counts it; in cold reset PSTAT keeps its reset value. -/
def execPostReceive (h : PostHdr) (ws : List TWord) (s : State) : Host.Outcome State Fault Refusal :=
  if ws.length != h.wm1.toNat + 1 then .refused .illFormed
  else if inColdReset s then .next s
  else .next (if postAccepted h s then acceptPost h ws s else dropPost s)

end Sys2Proof.Machine
end

