-- ==== Sys2Proof/Machine/MeshIn.lean ====
section
/-!
DEFINITION. What arrives on the mesh for the caches: answers to memory requests (10 R318, R325, R503), snoops (R324) and
packets that are discarded (01 R25).
-/

namespace Sys2Proof.Machine

open Sys2Proof

/-! ## Snoops -/

/-- A fill that will put line n into L1D or L2 is on its way (R324). -/
def fillInFlight (s : State) (n : Nat) : Bool :=
  s.mesh.reqs.any fun r => (r.op == .fillS || r.op == .fillO) && (r.l1d || r.l2) && lineNo r.addr == n

/-- Answer a snoop (R325): the response names the requester that the snoop named. -/
def snoopResp (opc : BitVec 4) (q : Snoop) (s : State) : State :=
  sendPacket (packet 1 (memHeader (lineAddr q.line) opc q.src q.txid 0 0) []) s

/-- Answer a snoop with the line's data, in a data response (R324). -/
def snoopDirty (q : Snoop) (d : Line) (s : State) : State :=
  sendPacket (packet 0 (memHeader (lineAddr q.line) 1 q.src q.txid 0 0) [d]) (snoopResp 2 q s)

/-- Remove line n from a cache, or leave it clean and shared. -/
def snoopCache (q : Snoop) (c : CacheId) (s : State) : State :=
  match cacheFind s c q.line with
  | none => s
  | some (k, l) => if q.kill then cacheDel s c k else cachePut s c k { l with st := .shared }

/-- Line n in this cache, if the cache is initialized (R320). -/
def snoopFind (s : State) (c : CacheId) (n : Nat) : Option CLine :=
  if cacheUninit s c then none else (cacheFind s c n).map (·.2)

/-- The newest cached copy of line n and whether it is dirty. -/
def snoopCopy (s : State) (n : Nat) : Option (Line × Bool) :=
  match snoopFind s .l1d n, snoopFind s .l2 n with
  | some d, some e => some (d.data, d.st == .modified || e.st == .modified)
  | some d, none => some (d.data, d.st == .modified)
  | none, some e => some (e.data, e.st == .modified)
  | none, none => none

/-- The watches of line n see an invalidating snoop, whether or not the core holds the line (R409, log 39). -/
def snoopWatch (q : Snoop) (s : State) : State := if q.kill then hitWatch none q.line (lineGone q.line s) else s

/-- A snoop acts on a line that waits for room in an eviction buffer: it is clean. -/
def snoopHeld (q : Snoop) (s : State) : State :=
  let hit := fun (f : Fill) => f.held && lineNo f.req.addr == q.line
  { s with mesh := { s.mesh with
    fills := if q.kill then s.mesh.fills.filter fun f => !hit f
      else s.mesh.fills.map fun f => if hit f then { f with excl := false } else f } }

/-- A snoop looks its line up in the data caches: it finds their errors (R322). -/
def snoopMeets (n : Nat) (s : State) : State := meetLine .l2 n (meetLine .l1d n s)

/-- A write-back of line n is on the mesh. -/
def lineOutInFlight (s : State) (n : Nat) : Bool := s.mesh.reqs.any fun r => r.op == .lineOut && lineNo r.addr == n

/-- Act on a snoop and answer it (R318, R324). -/
def answerSnoop (q : Snoop) (s0 : State) : State :=
  let s := snoopMeets q.line s0
  match s.caches.ebuf.find? fun e => e.line == q.line with
  | some e =>
    if e.started then snoopResp 3 q (snoopWatch q s)
    else
      snoopDirty q e.data (snoopWatch q
        (retryHeld { s with caches := { s.caches with ebuf := s.caches.ebuf.filter fun x => x.line != q.line } }))
  | none =>
    match snoopCopy s q.line with
    | some (d, dirty) =>
      let t := snoopWatch q (snoopHeld q (snoopCache q .l2 (snoopCache q .l1d s)))
      if dirty then snoopDirty q d t
      else if lineOutInFlight s q.line then snoopResp 3 q t
      else snoopResp 1 q t
    | none =>
      if heldFill s q.line then snoopResp 1 q (snoopWatch q (snoopHeld q s)) else snoopResp 0 q (snoopWatch q s)

/-- The directory may snoop line n for a fill of this core's own, which waits for the answer: the core holds the only valid data of the
line, in a cache or an eviction buffer, or a copy in a disabled cache alone (R321). -/
def snoopServesFill (s : State) (n : Nat) : Bool :=
  (s.caches.ebuf.any fun e => e.line == n) ||
    match snoopCopy s n with
    | some (_, dirty) => dirty || !(([CacheId.l1d, .l2]).any fun id => cacheOn s id && (cacheFind s id n).isSome)
    | none => false

/-- A snoop of line n waits behind a fill of the line that is on its way (R324). DEDUCED (log 70): not one that the fill itself may wait
for. -/
def snoopWaits (s : State) (n : Nat) : Bool := fillInFlight s n && !snoopServesFill s n

/-- A snoop is taken (R24, R324): in cold reset it is answered as not held; behind a fill of its line it waits. -/
def takeSnoop (q : Snoop) (s : State) : State :=
  if inColdReset s then snoopResp 0 q s
  else
    let t := countEvent 5 0 1 none .none (some ((lineAddr q.line).setWidth 64)) s
    if snoopWaits t q.line then { t with mesh := { t.mesh with snoops := t.mesh.snoops ++ [q] } }
    else drainStep (answerSnoop q t)

/-- PROBE_S. -/
def execProbeS (addr : PAddr) (src : CoreId) (txid : BitVec 8) (s : State) : Host.Outcome State Fault Refusal :=
  .next (takeSnoop ⟨lineNo addr, src, txid, false⟩ s)

/-- PROBE_K. -/
def execProbeK (addr : PAddr) (src : CoreId) (txid : BitVec 8) (s : State) : Host.Outcome State Fault Refusal :=
  .next (takeSnoop ⟨lineNo addr, src, txid, true⟩ s)

/-- The snoops that waited for line n act now, if no further fill of it is on its way. -/
def wakeSnoops (n : Nat) (s : State) : State :=
  if fillInFlight s n then s
  else
    (s.mesh.snoops.filter fun q => q.line == n).foldl (fun t q => answerSnoop q t)
      { s with mesh := { s.mesh with snoops := s.mesh.snoops.filter fun q => q.line != n } }

/-! ## Answers -/

/-- The outstanding request with this transaction number. -/
def reqOf (s : State) (txid : BitVec 8) : Option Req := s.mesh.reqs.find? fun r => r.txid == txid

/-- The request has been answered. -/
def endReq (r : Req) (s : State) : State :=
  { s with mesh := { s.mesh with reqs := s.mesh.reqs.filter fun x => x.txid != r.txid } }

/-- A data response (R325). -/
def dataArrives (excl : Bool) (txid : BitVec 8) (d : Line) (s : State) : State :=
  match reqOf s txid with
  | none => s
  | some r =>
    let t := endReq r s
    match r.op with
    | .fillS => wakeSnoops (lineNo r.addr) (placeFill r excl d t)
    | .fillO => wakeSnoops (lineNo r.addr) (placeFill r true d t)
    | .peek | .devRd => noteFill ⟨r, false, false, false, d⟩ t
    | _ => s

/-- DATA_S. -/
def execDataS (txid : BitVec 8) (line : Line) (s : State) : Host.Outcome State Fault Refusal :=
  .next (dataArrives false txid line s)

/-- DATA_X. -/
def execDataX (txid : BitVec 8) (line : Line) (s : State) : Host.Outcome State Fault Refusal :=
  .next (dataArrives true txid line s)

/-- A promoted line becomes exclusive in each cache that holds it (R325). -/
def promoted (n : Nat) (s : State) : State :=
  let up := fun (c : CacheId) (t : State) =>
    match cacheFind t c n with
    | some (k, l) => if l.st == .shared then cachePut t c k { l with st := .exclusive } else t
    | none => t
  up .l2 (up .l1d s)

/-- The write-back of line n is acknowledged: its entry is free (R318), unless a later write-back of the line is still on
its way. -/
def freeEntry (n : Nat) (s : State) : State :=
  if s.mesh.reqs.any fun r => r.op == .lineOut && lineNo r.addr == n then s
  else { s with caches := { s.caches with ebuf := s.caches.ebuf.filter fun e => !(e.line == n && e.started) } }

/-- A store that request r carried has been performed (R457, R458). -/
def storeDone (r : Req) (s : State) : State :=
  match r.store with
  | some n => countEvent 2 0 1 (some (n.sup, n.world)) (.ctx n.ctx) (some n.va) s
  | none => s

/-- An acknowledgement ends request r (R325). -/
def acknowledged (r : Req) (s : State) : State :=
  let t := endReq r s
  match r.op with
  | .promote => promoted (lineNo r.addr) t
  | .lineOut => drainStep (retryHeld (freeEntry (lineNo r.addr) t))
  | _ => noteFences (storeDone r t)

/-- ACK (R318, R325). -/
def execAck (txid : BitVec 8) (s : State) : Host.Outcome State Fault Refusal :=
  match reqOf s txid with
  | none => .next s
  | some r =>
    match r.op with
    | .promote | .lineOut | .poke | .devWr => .next (acknowledged r s)
    | _ => .next s

/-- ERR (R503): a read request ends with no line allocated; any other ends as by ACK. -/
def execErr (txid : BitVec 8) (s : State) : Host.Outcome State Fault Refusal :=
  match reqOf s txid with
  | none => .next s
  | some r =>
    match r.op with
    | .fillS | .fillO | .peek | .devRd =>
      .next (wakeSnoops (lineNo r.addr)
        (noteFill ⟨r, true, false, false, Vector.replicate 8 TWord.poison⟩ (endReq r s)))
    | _ => .next (acknowledged r s)

/-- BAD_PACKET (R25): discarded, and counted outside cold reset (R24). -/
def execBadPacket (cls opc : BitVec 4) (s : State) : Host.Outcome State Fault Refusal :=
  if !packetBad cls opc then .refused .illFormed
  else if inColdReset s then .next s
  else .next { s with chain := { s.chain with mrxBad := satInc s.chain.mrxBad } }

end Sys2Proof.Machine
end

