-- ==== Sys2Proof/Machine/TileRegs.lean ====
section
/-!
DEFINITION. Tile state as instructions see it (06 R177 to R203, 07 R250 to R253): register rows and quarters, Fold slots and
their parts, exponents, sticky flags, RMAX and the latch banks.
-/

namespace Sys2Proof.Machine

open Sys2Proof

/-! ## Streams (R250) -/

/-- The stream of an instruction: none outside Q-split. -/
abbrev Stream := Option (BitVec 2)

namespace Stream
/-- The number of its PROG and of its byte in TFLAGS. -/
def no (v : Stream) : Nat := (v.getD 0).toNat
/-- The first row of its part of a slot (R191). -/
def row0 (v : Stream) : Nat := match v with | none => 0 | some q => 16 * (q.toNat / 2)
/-- The first column of its part of a slot. -/
def col0 (v : Stream) : Nat := match v with | none => 0 | some q => 16 * (q.toNat % 2)
/-- Rows and columns of its part. -/
def side (v : Stream) : Nat := match v with | none => 32 | some _ => 16
/-- The part of a slot that element [m][n] of this stream's tile lies in (R191, R192). -/
def part (v : Stream) (m n : Nat) : Nat := match v with | none => 2 * (m / 16) + n / 16 | some q => q.toNat
end Stream

/-! ## Register rows -/

/-- A row of zeros with scale 0. -/
abbrev TRow.zero : TRow := ⟨0, 0⟩

/-- A latch bank holds rows of register n: for MXFP6 also of the second register of the pair (R207). -/
def Latch.uses (l : Latch) (n : Nat) : Bool :=
  l.reg.toNat == n || ((l.fmt == 6 || l.fmt == 7) && l.reg.toNat + 1 == n)

namespace Tile

/-- A row of free values: row r of Tn while a Mover channel uses the register (R336). -/
def freeRow (k n r : Nat) : TRow :=
  let w := fun (i : Nat) => (Config.freeW64 (k + 9 * (32 * n + r) + i)).toNat
  ⟨BitVec.ofNat 512 ((List.range 8).foldl (fun a i => a + w i * 2 ^ (64 * i)) 0), BitVec.ofNat 32 (w 8)⟩

/-- Free values that the rows of the eight registers take. -/
def veilSize : Nat := 9 * 256

/-- Register row r of Tn: zero while TUSE bit n is 0 (R198). -/
def row (t : Tile) (n r : Nat) : TRow :=
  if bit t.veil n then freeRow t.veilNo n r
  else if bit t.tuse n then (SMap.find? t.trow (32 * n + r)).getD TRow.zero else TRow.zero

/-- Errors of structure n at the places that `p` picks are gone: found, or overwritten. -/
def clearErrs (t : Tile) (n : BitVec 3) (p : Nat → Bool) : Tile :=
  if t.errs.isEmpty then t else { t with errs := t.errs.filter fun e => !(e.str == n && p e.loc) }

/-- Write those of the 64-bit units of register row r of Tn that `new` names; v is the whole row then. A register that was not in use
becomes so, its other rows zero (R197, R198), and the latches filled from it are invalid (R207). -/
def setUnits (t : Tile) (n r : Nat) (v : TRow) (new : Nat → Bool) : Tile :=
  let rows := if bit t.tuse n then t.trow else t.trow.filter fun e => e.1 / 32 != n
  let mine := fun (loc : Nat) => (loc / 16 == 32 * n + r && new (loc % 16)) || (!bit t.tuse n && loc / 512 == n)
  clearErrs { t with
    tuse := setBit t.tuse n true, trow := SMap.putD rows TRow.zero (32 * n + r) v
    latch := t.latch.filter fun l => !l.uses n } 4 mine

/-- Write register row r of Tn. -/
def setRow (t : Tile) (n r : Nat) (v : TRow) : Tile := t.setUnits n r v fun _ => true

/-- Clear TUSE bit n: Tn reads as zero (R198, R242). -/
def killReg (t : Tile) (n : Nat) : Tile :=
  clearErrs { t with
    tuse := setBit t.tuse n false, trow := t.trow.filter fun e => e.1 / 32 != n
    latch := t.latch.filter fun l => !l.uses n } 4 fun loc => loc / 512 == n

end Tile

/-- A logical row (R181, R182, R251): its bits as a number, bit 0 first, and its scales. -/
structure LRow where
  bits : Nat
  scale : Nat
  deriving DecidableEq, Repr

namespace Tile

/-- Logical row r of Tn in stream v: of a pair for MXFP6 (R182), of a quarter in Q-split (R251). -/
def lrow (t : Tile) (v : Stream) (mx6 : Bool) (n r : Nat) : LRow :=
  match v with
  | none =>
    let a := t.row n r
    if mx6 then ⟨a.bits.toNat + (t.row (n + 1) r).bits.toNat % 2 ^ 256 * 2 ^ 512, a.scale.toNat⟩
    else ⟨a.bits.toNat, a.scale.toNat⟩
  | some q =>
    let a := t.row n (8 * q.toNat + r / 2)
    ⟨a.bits.toNat / 2 ^ (256 * (r % 2)) % 2 ^ 256, a.scale.toNat / 2 ^ (16 * (r % 2)) % 2 ^ 16⟩

/-- Write logical row r of Tn with its scales (R184). A row of a quarter is half of the units; the unit of the scales keeps its error. -/
def setLrow (t : Tile) (v : Stream) (mx6 : Bool) (n r : Nat) (x : LRow) : Tile :=
  match v with
  | none =>
    let u := t.setRow n r ⟨BitVec.ofNat 512 x.bits, BitVec.ofNat 32 x.scale⟩
    if mx6 then u.setRow (n + 1) r ⟨BitVec.ofNat 512 (x.bits / 2 ^ 512 % 2 ^ 256), 0⟩ else u
  | some q =>
    let k := 8 * q.toNat + r / 2
    let a := t.row n k
    t.setUnits n k ⟨setFld a.bits (256 * (r % 2)) 256 (BitVec.ofNat 256 x.bits),
      setFld a.scale (16 * (r % 2)) 16 (BitVec.ofNat 16 x.scale)⟩ fun u => u / 4 == r % 2

end Tile

/-- The first c elements of b bits each (R181). -/
def elems (b c bits : Nat) : List Nat := (List.range c).map fun i => bits / 2 ^ (b * i) % 2 ^ b

/-- Elements of b bits each, packed. -/
def packElems (b : Nat) : List Nat → Nat
  | [] => 0
  | x :: xs => x % 2 ^ b + 2 ^ b * packElems b xs

/-! ## The Fold -/

namespace Tile

/-- Element [m][n] of slot i: zero while FUSE bit i is 0 (R198). -/
def foldAt (t : Tile) (i m n : Nat) : W32 :=
  if bit t.fuse i then (SMap.find? t.fold (1024 * i + 32 * m + n)).getD 0 else 0

/-- Slot i is written: if it was not in use its elements and exponents become zero (R192, R197, R198). -/
def useSlot (t : Tile) (i : Nat) : Tile :=
  if bit t.fuse i then t
  else clearErrs { t with
    fuse := setBit t.fuse i true, fold := t.fold.filter fun e => e.1 / 1024 != i, acx := vset t.acx i 0 } 5 fun loc => loc / 512 == i

/-- Write element [m][n] of slot i. -/
def setFold (t : Tile) (i m n : Nat) (v : W32) : Tile :=
  let u := t.useSlot i
  clearErrs { u with fold := SMap.putD u.fold 0 (1024 * i + 32 * m + n) v } 5 fun loc => loc == 512 * i + 16 * m + n / 2

/-- Clear FUSE bit i: slot i and its exponents read as zero (R192, R198). -/
def killSlot (t : Tile) (i : Nat) : Tile :=
  clearErrs { t with
    fuse := setBit t.fuse i false, fold := t.fold.filter fun e => e.1 / 1024 != i, acx := vset t.acx i 0 } 5 fun loc => loc / 512 == i

/-- Element [m][n] of stream v's tile in slot i (R191). -/
def acc (t : Tile) (v : Stream) (i m n : Nat) : W32 := t.foldAt i (v.row0 + m) (v.col0 + n)

/-- Write element [m][n] of stream v's tile in slot i. -/
def setAcc (t : Tile) (v : Stream) (i m n : Nat) (x : W32) : Tile := t.setFold i (v.row0 + m) (v.col0 + n) x

/-- Write elements [m][n], [m][n + 1], … of stream v's tile. -/
def setAccRow (v : Stream) (i m : Nat) : List W32 → Nat → Tile → Tile
  | [], _, t => t
  | x :: xs, n, t => setAccRow v i m xs (n + 1) (t.setAcc v i m n x)

/-- The exponent of part p of slot i (R192). -/
def exponent (t : Tile) (i p : Nat) : Nat := if bit t.fuse i then fldN (vget t.acx i 0) (8 * p) 8 else 0

/-- The parts of a slot whose exponents belong to stream v. -/
def partsOf (v : Stream) : List Nat := match v with | none => [0, 1, 2, 3] | some q => [q.toNat]

/-- Replace the exponents of stream v's parts of slot i. -/
def setExponents (t : Tile) (v : Stream) (i : Nat) (f : Nat → Nat) : Tile :=
  { t with acx := vset t.acx i ((partsOf v).foldl (fun (w : W32) p =>
      setFld w (8 * p) 8 (BitVec.ofNat 8 (f (fldN w (8 * p) 8)))) (vget t.acx i 0)) }

/-- Apply f to every element of stream v's part of slot i. -/
def mapPart (t : Tile) (v : Stream) (i : Nat) (f : W32 → W32) : Tile :=
  { t with fold := t.fold.filterMap fun e =>
      let k := e.1 % 1024
      let inPart := match v with | none => true | some q => q.toNat == 2 * (k / 512) + k % 32 / 16
      if e.1 / 1024 != i || !inPart then some e
      else if f e.2 = 0 then none else some (e.1, f e.2) }

/-! ## Flags, RMAX, latches -/

/-- Set sticky flags in byte i of TFLAGS (R194, R280): bit 0 OV, 1 UF, 2 NX, 3 NV, 4 FZ, 5 SR. -/
def orFlags (t : Tile) (i : Nat) (f : BitVec 6) : Tile := { t with tflags := t.tflags ||| at' (8 * i) f }

/-- Raise RMAX entry r to an FP32 magnitude or to the canonical NaN (R301). -/
def raiseMax (t : Tile) (r : Nat) (x : Nat) : Tile :=
  let old := (vget t.rmax r 0).toNat
  if 0x7F800000 < old || x ≤ old then t else { t with rmax := vset t.rmax r (BitVec.ofNat 32 x) }

/-- The bank that serves a multiply of stream v from Tb without a fill (R207). -/
def findLatch (t : Tile) (v : Stream) (tb : BitVec 3) (fmt : BitVec 4) (em1 : BitVec 7) : Option Latch :=
  t.latch.find? fun l => l.quad == v && l.reg == tb && l.fmt == fmt && l.em1 == em1

/-- The bank that a fill takes: one that is not kept, else the one kept earlier. -/
def freeBank (t : Tile) (v : Stream) : Bool :=
  match t.latch.filter fun l => l.quad == v with
  | a :: b :: _ => if a.order ≤ b.order then a.bank else b.bank
  | [a] => !a.bank
  | [] => false

/-- A place of structure 4 is of stream v's part of this latch bank. -/
def inBank (v : Stream) (bank : Bool) (loc : Nat) : Bool :=
  decide (4096 ≤ loc) && bank == decide (4608 ≤ loc) && v.all fun q => loc % 512 / 128 == q.toNat

/-- A multiply of stream v takes its B operand from Tb (R207): the banks it leaves kept, and whether one served it. DESIGN CHOICE (log
75): a bank that serves a multiply which keeps it again counts as kept since its fill, as the spec does not say which of two banks is then
the one kept earlier. -/
def serveLatch (t : Tile) (v : Stream) (tb : BitVec 3) (fmt : BitVec 4) (em1 : BitVec 7) (keep : Bool) : Tile × Bool :=
  match t.findLatch v tb fmt em1 with
  | some l => ((if keep then t else { t with latch := t.latch.filter fun x => x != l }), true)
  | none =>
    let b := t.freeBank v
    let others := t.latch.filter fun l => !(l.quad == v && l.bank == b)
    let new : List Latch := if keep then [⟨tb, fmt, em1, v, b, t.latchNo, []⟩] else []
    (clearErrs { t with latch := others ++ new, latchNo := t.latchNo + 1 } 4 (inBank v b), false)

/-! ## Storage errors (R487) -/

/-- Register row r of Tn with 64-bit unit u zero, unit 8 its scale. -/
def zeroUnit (t : Tile) (n r u : Nat) : Tile :=
  if !bit t.tuse n then t
  else
    let x := t.row n r
    let y : TRow := if u < 8 then ⟨setFld x.bits (64 * u) 64 (0 : W64), x.scale⟩ else ⟨x.bits, 0⟩
    { t with trow := SMap.putD t.trow TRow.zero (32 * n + r) y }

/-- The registers as a multiply sees them through a bank: what the bank lost is zero. -/
def through (t : Tile) (l : Latch) : Tile :=
  l.zeros.foldl (fun u z =>
    if z % 16 < 9 then u.zeroUnit l.reg.toNat (z / 16) (z % 16) else u.zeroUnit (l.reg.toNat + 1) (z / 16) (z % 16 - 9)) t

/-- An uncorrectable error of structure 4 or 5 has been found: its 64 bits are zero from now on. -/
def lose (t : Tile) (str : BitVec 3) (loc : Nat) : Tile :=
  if str == 5 then
    { t with fold := SMap.putD (SMap.putD t.fold 0 (2 * loc) 0) 0 (2 * loc + 1) 0 }
  else if loc < 4096 then t.zeroUnit (loc / 512) (loc / 16 % 32) (loc % 16)
  else
    let hit := fun (l : Latch) => if inBank l.quad l.bank loc then { l with zeros := (loc % 512) :: l.zeros } else l
    { t with latch := t.latch.map hit }

end Tile

/-- The errors of structure `str` at the places that `p` picks are found (R484, R487). -/
def meetTile (str : BitVec 3) (p : Nat → Bool) (s : State) : State :=
  (s.tile.errs.filter fun e => e.str == str && p e.loc).foldl (fun t e =>
    let u := countError str 0 e.uncorrectable t
    if e.uncorrectable then { u with tile := u.tile.lose str e.loc } else u) { s with tile := s.tile.clearErrs str p }

/-- A read of Tn, or for MXFP6 of the pair it begins, finds the errors of its rows from `a` to `b` (and not b). -/
def meetReg (n : Nat) (pair : Bool) (a b : Nat) (s : State) : State :=
  meetTile 4 (fun loc =>
    let r := loc / 16 % 32
    decide (loc < 4096) && (loc / 512 == n || (pair && loc / 512 == n + 1)) && decide (a ≤ r) && decide (r < b)) s

/-- A read of logical row r of Tn in stream v finds the errors of the register row that holds it. -/
def meetLrow (v : Stream) (mx6 : Bool) (n r : Nat) (s : State) : State :=
  let k := match v with | none => r | some q => 8 * q.toNat + r / 2
  meetReg n mx6 k (k + 1) s

/-- A read of row m of stream v's part of slot i finds the errors of its pairs. -/
def meetFold (v : Stream) (i m : Nat) (s : State) : State :=
  meetTile 5 (fun loc =>
    loc / 16 == 32 * i + v.row0 + m && decide (v.col0 / 2 ≤ loc % 16) && decide (loc % 16 < v.col0 / 2 + v.side / 2)) s

/-- A multiply served by a bank finds the bank's errors. -/
def meetLatch (l : Latch) (s : State) : State := meetTile 4 (Tile.inBank l.quad l.bank) s

/-- The registers that a busy Mover channel reads or writes (R336). -/
def moverRegs (s : State) : BitVec 8 :=
  s.mover.toList.foldl (fun a m =>
    if m.state != 1 then a
    else
      let x := if fldN m.ctl 0 2 = 2 then setBit a (fldN m.src 0 3) true else a
      if fldN m.ctl 2 2 = 2 then setBit x (fldN m.dst 0 3) true else x) 0

/-- The tile state as an instruction sees it: the registers that a busy Mover channel uses read as free values (R336). -/
def veiled (s : State) : Tile := if moverRegs s = 0 then s.tile else { s.tile with veil := moverRegs s, veilNo := s.free }

/-- s with the tile state that an instruction leaves, which saw it veiled. -/
def unveil (s : State) (t : Tile) : State :=
  if moverRegs s = 0 then { s with tile := t } else { s with tile := { t with veil := 0, veilNo := 0 }, free := s.free + Tile.veilSize }

/-- Apply f to the tile state. -/
def modTile (f : Tile → Tile) : M Unit := modify fun s => unveil s (f (veiled s))

/-- The tile state to read; free values that it shows are taken. -/
def readTile : M Tile := do
  let s ← get
  set (unveil s s.tile)
  return veiled s

end Sys2Proof.Machine
end

