-- ==== Sys2Proof/Machine/Mover.lean ====
section
/-!
DEFINITION. A Mover block (10 R334 to R336): its checks, its reads, its writes, and the stops of R330.
-/

namespace Sys2Proof.Machine

open Sys2Proof

/-! ## Where a block lies -/

/-- The row, the block and the bytes of the block that MPROG names. -/
structure MvBlock where
  row : Nat
  blk : Nat
  len : Nat
  deriving DecidableEq, Repr

/-- The block that MPROG names (R334). -/
def MoverCh.block (m : MoverCh) : MvBlock :=
  let b := m.blk.toNat
  ⟨m.rows.toNat, b, min 64 (m.rowBytes - 64 * b)⟩

/-- The address of a block of a data-space or scratchpad endpoint. -/
def EndPoint.blockAddr (e : EndPoint) (b : MvBlock) : W64 :=
  e.addr + BitVec.ofInt 64 (e.stride * (b.row : Int) + 64 * (b.blk : Int))

/-- The scratchpad word at byte o of a block. -/
def EndPoint.spWord (e : EndPoint) (b : MvBlock) (o : Nat) : Nat :=
  (Int.toNat ((fldN e.addr 0 20 : Int) + e.stride * (b.row : Int)) + 64 * b.blk + o) / 8

/-! ## Reading and writing -/

/-- The user that Mover channel ch is. -/
def mvUser (ch : BitVec 3) (m : MoverCh) (g : Regime) : ChUser := ⟨.mover ch, g, m.kr, bit m.ctl 4⟩

/-- A word as a load through the channel's DDC delivers it (R390). -/
def mvTake (s : State) (u : ChUser) (w : TWord) : TWord :=
  if capsConf s && u.tags && !u.g.ddc.perm 3 && (w.tag == Tag.caph || w.tag == Tag.capl || w.tag == Tag.sealed) then ⟨w.val, Tag.raw⟩
  else w

/-- The first of the words from a on that the channel's DDC may not store (R390): a capability word without GIVE. DEDUCED (log 73): R390
speaks of channels, and of a load and a store through DDC; a channel that may not store a word stops as for any capability fault. -/
def mvGive (s : State) (u : ChUser) (a : W64) : List TWord → Option ChStop
  | [] => none
  | w :: ws =>
    if capsConf s && u.tags && !u.g.ddc.perm 4 && (w.tag == Tag.caph || w.tag == Tag.capl) then some ⟨9, a, 0, false⟩
    else mvGive s u (a + 8) ws

/-- The words of a data-space source: none, with the stop, when a line of it ended with ERR (R334). -/
def mvReadDs (u : ChUser) (stream : Bool) (ps : List (W64 × Phys)) (a : W64) : Nat → M (Except ChStop (List TWord))
  | 0 => return .ok []
  | n + 1 => do
    let (w, lost) ← chRead u stream ps a
    if lost then return .error ⟨6, a, 0, false⟩
    else
      match ← mvReadDs u stream ps (a + 8) n with
      | .error e => return .error e
      | .ok ws => return .ok (mvTake (← get) u w :: ws)

/-- The words of a scratchpad source. -/
def mvReadSp (u : ChUser) (i : Nat) : Nat → M (List TWord)
  | 0 => return []
  | n + 1 => do
    let w ← spadRead (!u.tags) i
    return deliver w :: (← mvReadSp u (i + 1) n)

/-- A word as the destination takes it (R335). -/
def mvWord (u : ChUser) (w : TWord) : TWord := if u.tags then w else ⟨w.val, Tag.raw⟩

/-- Write words to the scratchpad from word i on, with the watches of their lines. -/
def mvWriteSp : List TWord → Nat → State → State
  | [], _, s => s
  | w :: ws, i, s => mvWriteSp ws (i + 1) (hitWatch none (spadBase / 64 + i / 8) (spadPut s i w))

/-- The parts of a block of data space: one for each line of 64 bytes, with the addresses of its first word and the words that fall in it.
-/
def mvParts (ps : List (W64 × Phys)) (a : W64) : List TWord → List (W64 × PAddr × List TWord)
  | [] => []
  | w :: ws =>
    let pa := chAddr ps a
    match mvParts ps (a + 8) ws with
    | (b, pb, us) :: rest => if lineNo pa == lineNo pb then (a, pa, w :: us) :: rest else (a, pa, [w]) :: (b, pb, us) :: rest
    | [] => [(a, pa, [w])]

/-- A part as a line and its byte mask. -/
def mvLine (pa : PAddr) (ws : List TWord) : Line × W64 :=
  let i := fldN pa 3 3
  (lineOf (List.replicate i TWord.zero ++ ws), byteMask (8 * i) (8 * ws.length))

/-- Prepare the parts of a destination, then write them all. -/
def mvPrepDs (u : ChUser) : List (W64 × PAddr × List TWord) → M (List (PAddr × List TWord × WPath))
  | [] => return []
  | (v, pa, ws) :: rest => do
    let path ← if inSpad pa then pure WPath.spad else prepBulkLine u.who u.who v (lineNo pa)
    return (pa, ws, path) :: (← mvPrepDs u rest)

/-- No prepared line has left its cache while another was prepared. -/
def mvPathsOk (parts : List (PAddr × List TWord × WPath)) : M Bool := do
  let s ← get
  return parts.all fun e => match e.2.2 with
    | .l1d => (cacheFind s .l1d (lineNo e.1)).isSome
    | .l2 => (cacheFind s .l2 (lineNo e.1)).isSome
    | _ => true

/-- Write prepared parts. -/
def mvCommitDs (u : ChUser) (parts : List (PAddr × List TWord × WPath)) (s : State) : State :=
  parts.foldl (fun t e =>
    let (d, mask) := mvLine e.1 e.2.1
    commitLine u.who none e.2.2 (lineAddr (lineNo e.1)) mask d t) s

/-! ## One block -/

/-- The words of the source of a block whose checks passed. -/
def mvSource (u : ChUser) (m : MoverCh) (b : MvBlock) (ps : List (W64 × Phys)) : M (Except ChStop (List TWord)) := do
  let e := m.srcEnd
  if e.kind = 1 then mvReadDs u (!bit m.ctl 5) ps (e.blockAddr b) (b.len / 8)
  else if e.kind = 0 then return .ok (← mvReadSp u (e.spWord b 0) (b.len / 8))
  else
    modify (meetReg (fldN e.addr 0 3) false b.row (b.row + 1))
    let row := ((← get).tile.row (fldN e.addr 0 3) b.row).bits
    return .ok ((List.range 8).map fun i => ⟨fld row (64 * i) 64, Tag.raw⟩)

/-- The checks of one endpoint of a block: none is needed but in data space (R334). -/
def mvCheck (u : ChUser) (k : AccKind) (e : EndPoint) (b : MvBlock) : M (Except ChStop (List (W64 × Phys))) :=
  if e.kind = 1 then chCheck u k (e.blockAddr b) b.len else return .ok []

/-- Write the words of a block to its destination. -/
def mvDest (u : ChUser) (m : MoverCh) (b : MvBlock) (ps : List (W64 × Phys)) (ws : List TWord) : M Unit := do
  let e := m.dstEnd
  let vs := ws.map (mvWord u)
  if e.kind = 1 then
    let parts ← mvPrepDs u (mvParts ps (e.blockAddr b) vs)
    if !(← mvPathsOk parts) then wait
    modify (mvCommitDs u parts)
  else if e.kind = 0 then modify (mvWriteSp vs (e.spWord b 0))
  else
    let row : BitVec 512 := (vs.zipIdx).foldl (fun a p => a ||| at' (64 * p.2) p.1.val) 0
    modify fun s => { s with tile := s.tile.setRow (fldN e.addr 0 3) b.row ⟨row, 0⟩ }

/-- Check, read and write the block that MPROG names: the stop, if one comes (R334). The source's failure comes first. -/
def mvBlock (u : ChUser) (m : MoverCh) : M (Option ChStop) := do
  let b := m.block
  match ← mvCheck u .read m.srcEnd b with
  | .error e => return some e
  | .ok ps =>
    match ← mvSource u m b ps with
    | .error e => return some e
    | .ok ws =>
      match ← mvCheck u .write m.dstEnd b with
      | .error e => return some e
      | .ok pd =>
        let s ← get
        match (if m.dstEnd.kind = 1 then mvGive s u (m.dstEnd.blockAddr b) ws else none) with
        | some e => return some e
        | none =>
          mvDest u m b pd ws
          return none

/-- MPROG after a block is written (R330). -/
def MoverCh.next (m : MoverCh) : MoverCh :=
  if 64 * (m.blk.toNat + 1) < m.rowBytes then { m with blk := m.blk + 1 } else { m with blk := 0, rows := m.rows + 1 }

/-- That block was the last: MPROG.ROWS has 16 bits, so the last row is told before it advances. DESIGN CHOICE (log 74): a CONT whose
MPROG names no block of the geometry that MGEO gives by then goes on from there, and meets no last block; the spec says nothing of it. -/
def MoverCh.lastBlock (m : MoverCh) : Bool :=
  m.rows.toNat + 1 == m.rowCount && decide (m.rowBytes ≤ 64 * (m.blk.toNat + 1))

/-- The next block of channel ch, which runs under the regime g. A block that waits or stops has changed the tile unit in no other way than
by finding its errors. -/
def mvRun (ch : BitVec 3) (m : MoverCh) (g : Regime) (s : State) : State :=
  match mvBlock (mvUser ch m g) m s with
  | .error _ t => { rollback s t with tile := t.tile }
  | .ok (some e) t =>
    moverLeave ch { m with state := 3, cause := e.cause, fva := e.fva, fsr := e.fsr }
      (noteForged e (dropChFills (.mover ch) { rollback s t with tile := t.tile }))
  | .ok none t =>
    let u := countEvent 6 6 1 (some (g.sup, g.sealed)) (.mover ch) none (dropChFills (.mover ch) t)
    if m.lastBlock then moverLeave ch { m.next with state := 2 } u else setMover ch m.next u

/-- MOVER_BLOCK (R333, R334): the channel is busy, and what its GO followed has been performed. A storage error may
strike first, which its reads or later ones find (log 49). -/
def execMoverBlock (ch : BitVec 3) (ecc : Option EccEvent) (s : State) : Host.Outcome State Fault Refusal :=
  let m := moverCh s ch
  if m.state != 1 || s.boot.phase != .start || s.boot.lame || !ctxPerformed s m.ctx then .next s
  else
    match m.cap with
    | none => .next s
    | some g => .next (mvRun ch m g (strike m.ctx ecc s))

end Sys2Proof.Machine
end

