-- ==== Sys2Proof/Machine/Pins.lean ====
section
/-!
DEFINITION. Events of the pins (01 R40 to R50, R55), the watchdog (R64), the Wayside path (R52), and what the observation
plane does over time: fault windows (16 R485), dumps, trace writes and the snapshot copy (15 R467 to R480).
-/

namespace Sys2Proof.Machine

open Sys2Proof

/-! ## Fence and freeze -/

/-- HFENCE_RISE (R43, R44). -/
def execHfenceRise (s : State) : Host.Outcome State Fault Refusal :=
  let t := { s with pins := { s.pins with hfence := true } }
  .next (if inColdReset s then t else ackFence (accountChange s t))

/-- HFENCE_FALL (R43, R44). -/
def execHfenceFall (s : State) : Host.Outcome State Fault Refusal :=
  .next (accountChange s { s with pins := { s.pins with hfence := false, fenceAck := false } })

/-- FRZ_RISE (R42, R464): the stop instant; a line that is already high does not rise. -/
def execFrzRise (s : State) : Host.Outcome State Fault Refusal :=
  if s.pins.frz then .next s
  else if inColdReset s then .next { s with pins := { s.pins with frz := true } }
  else .next (stopCounters (accountSteps s))

/-- FRZ_FALL (R42, R473): the counters resume, with a FREEZE record. -/
def execFrzFall (s : State) : Host.Outcome State Fault Refusal :=
  let t := { s with pins := { s.pins with frz := false } }
  if s.pins.frz && !inColdReset s then .next (traceRec 8 none 0 s.time.tick t) else .next t

/-! ## Alarm, reference clock, pace -/

/-- TAMPER_EVENT (R45, R494): ALARM_IN is low at two sampling points, then high at two, and stays high. No sample is taken in cold
reset. -/
def execTamperEvent (s : State) : Host.Outcome State Fault Refusal :=
  let line := fun (b : Bool) (t : State) => { t with pins := { t.pins with alarmIn := b } }
  .next (if inColdReset s then line true s else sampleAlarm (sampleAlarm (line true (sampleAlarm (sampleAlarm (line false s))))))

/-- REFCLK_LOSS (R55): REFLOSS, a machine check, and the tick counter holds. -/
def execRefclkLoss (s : State) : Host.Outcome State Fault Refusal :=
  let t := { s with pins := { s.pins with refclk := false } }
  if !s.pins.refclk || inColdReset s then .next t
  else .next (machineCheck 1 0 0 { t with chain := { t.chain with refloss := true } })

/-- REFCLK_RETURN (R55). -/
def execRefclkReturn (s : State) : Host.Outcome State Fault Refusal :=
  .next { s with pins := { s.pins with refclk := true } }

/-- The pace lines have changed (R49, R50, R502). In reset PACE_ACT keeps its reset value. -/
def paceLines (s : State) : State :=
  if inReset s then s else paceApply s

/-- PACE_HW_CHANGE (R49). -/
def execPaceHwChange (v : BitVec 4) (s : State) : Host.Outcome State Fault Refusal :=
  .next (paceLines { s with pins := { s.pins with paceHw := v } })

/-- CUR_HI_RISE (R50). -/
def execCurHiRise (s : State) : Host.Outcome State Fault Refusal :=
  .next (paceLines { s with pins := { s.pins with curHi := true } })

/-- CUR_HI_FALL (R50). -/
def execCurHiFall (s : State) : Host.Outcome State Fault Refusal :=
  .next (paceLines { s with pins := { s.pins with curHi := false } })

/-! ## The stall watchdog -/

/-- The ticks that source `src` has waited (R64): 0 mesh egress, 1 Causeway egress, 2 coprocessor result. -/
def stallCount (s : State) (src : BitVec 2) : Nat :=
  match src.toNat with
  | 0 => s.pins.stallMesh
  | 1 => s.pins.stallCw
  | 2 => if s.cp.out.isEmpty then 0 else (s.time.tick - s.cp.stallFrom).toNat
  | _ => 0

/-- The count of a source starts again. -/
def stallRestart (src : BitVec 2) (s : State) : State :=
  match src.toNat with
  | 0 => { s with pins := { s.pins with stallMesh := 0 } }
  | 1 => { s with pins := { s.pins with stallCw := 0 } }
  | _ => { s with cp := { s.cp with stallFrom := s.time.tick } }

/-- STALL_WATCHDOG (R64): the count of a source has reached STALL_LIM × 1,024 ticks. -/
def execStallWatchdog (src : BitVec 2) (s : State) : Host.Outcome State Fault Refusal :=
  let lim := fldN s.chain.bcfg 0 16
  if lim = 0 || src == 3 || decide (stallCount s src < lim * 1024) || inColdReset s then .next s
  else
    let t := machineCheck 2 0 0 { s with chain := { s.chain with stall := true, stallSrc := src } }
    let u := freezeTrigger 18 (wayside 2 none (src.setWidth 32) t)
    .next (stallRestart src (if bit u.trace.xrcfg 2 then snapTrigger 4 u else u))

/-! ## Windows, dumps, trace, snapshot -/

/-- FC_WINDOW_END (R485): WIN × 1,000,000 ticks have passed; every CNT is cleared. -/
def execFcWindowEnd (s : State) : Host.Outcome State Fault Refusal :=
  if inColdReset s || decide (s.rel.fcWin.toNat < fldN s.rel.fccfg 0 16 * 1000000) then .next s
  else .next { s with rel := { s.rel with
    fcstat := s.rel.fcstat.map fun f => setFld f 0 8 0
    fcWin := s.rel.fcWin - BitVec.ofNat 64 (fldN s.rel.fccfg 0 16 * 1000000), fcDeclCount := 0, fcDeclUnc := 0 } }

/-- TSTAMP has become a multiple of the dump interval (R469): a tick has one periodic dump at most. -/
def dumpTick (s : State) : Bool :=
  let n := fldN s.trace.dmpctl 8 32 * 1024
  bit s.trace.dmpctl 0 && n != 0 && (tstamp s).toNat % n == 0 && s.trace.dumpAt != some s.time.tick

/-- DUMP_DUE (R469): the steps up to the sampling instant are accounted first (R470). -/
def execDumpDue (s : State) : Host.Outcome State Fault Refusal :=
  .next (if dumpTick s && !inReset s then
    let t := account s s
    dumpDue 0 { t with trace := { t.trace with dumpAt := some t.time.tick } }
  else s)

/-- DUMP_COMPLETE (R470, R473): every line is acknowledged. -/
def execDumpComplete (s : State) : Host.Outcome State Fault Refusal := .next (dumpDone s)

/-- The lines of a trace record: half a line, in its place. -/
def traceLine (h : Nat) (r : TrRecord) : Line × W64 :=
  let ws := (List.range 4).map fun i => (⟨vget r i 0, Tag.raw⟩ : TWord)
  if h % 2 = 0 then (lineOf ws, 0xFFFFFFFF) else (lineOf (List.replicate 4 TWord.zero ++ ws), 0xFFFFFFFF00000000)

/-- The record on its way has been acknowledged (R474): TRHEAD advances. -/
def traceDone (s : State) : State :=
  let t := s.trace
  if !t.trOut || regionBusy s .trace then s
  else
    let units := regionUnits t.trsize 32
    let h0 := headOf t.trhead units
    let (h, full) := nextHead h0 1 units (bit t.trsize 16)
    let u := { s with trace := { t with
      trOut := false, trq := t.trq.drop 1, trhead := h
      trFull := t.trFull || full } }
    if full then traceFull u else u

/-- The first waiting record goes out (R467, R474), as the egress FIFO has room (R16); the watches of its line see it (R409). -/
def traceSend (s : State) : State :=
  let t := s.trace
  match t.trq with
  | [] => s
  | r :: _ =>
    if t.trOut || t.trFull || fld t.trsize 0 16 == 0 || !enabled s 8 || laneFull s 2 then s
    else
      let h := headOf t.trhead (regionUnits t.trsize 32)
      let a := t.trbase.toNat * 2 ^ 20 + 32 * h
      let (d, mask) := traceLine h r
      hitWatch none (a / 64)
        (sendWrite .poke (BitVec.ofNat 52 (a / 64 * 64)) .trace 0 mask d true { s with trace := { t with trOut := true } })

/-- TRACE_RECORD_WRITE (R467, R474): a record that has been acknowledged is finished, and the next one goes out. -/
def execTraceRecordWrite (s : State) : Host.Outcome State Fault Refusal :=
  .next (if inReset s then s else traceSend (traceDone s))

/-- The dump slots that a snapshot copy takes: two consecutive ones (R480). -/
def copySlots (s : State) : Option (Nat × Nat) :=
  let units := regionUnits s.trace.dmsize 256
  let h := headOf s.trace.dmhead units
  if h + 1 < units then some (h, h + 1) else if bit s.trace.dmsize 16 then some (h, 0) else none

/-- The first snapshot that waits is copied (R480), as the egress FIFO has room (R16): without a region, or with a full one, it is not; a
dump on its way goes first. A copy that reaches the end of the region sets FULL as it starts (log 47). -/
def copyStart (s : State) : State :=
  let t := s.trace
  match t.copyQ with
  | [] => s
  | ws :: rest =>
    if t.dumpOut.isSome || laneFull s 2 then s
    else if fld t.dmsize 0 16 == 0 || t.dmFull then { s with trace := { t with copyQ := rest } }
    else
      match copySlots s with
      | none => { s with trace := { t with copyQ := rest, dmFull := true } }
      | some (a, b) =>
        let base := t.dmbase.toNat * 2 ^ 20
        let u := sendLines .snap (base + 256 * a) (rawLines (ws.take 32) 4)
          { s with trace := { t with
            copyOut := some (BitVec.ofNat 32 a), dmFull := (nextHead a 2 (regionUnits t.dmsize 256) (bit t.dmsize 16)).2 } }
        sendLines .snap (base + 256 * b) (rawLines (ws.drop 32) 4) u

/-- SNAPSHOT_COPY (R480): a copy goes out; once it is acknowledged DMHEAD advances by 2, and past the dumps that are complete behind it. In
reset egress takes nothing new (R56). -/
def execSnapshotCopy (s : State) : Host.Outcome State Fault Refusal :=
  let t := s.trace
  if inReset s then .next s
  else match t.copyOut with
  | none => .next (copyStart s)
  | some h =>
    if regionBusy s .snap then .next s
    else
      .next { s with trace := { t with
        copyOut := none, copyQ := t.copyQ.drop 1, behind := 0
        dmhead := (nextHead h.toNat (2 + t.behind) (regionUnits t.dmsize 256) (bit t.dmsize 16)).1 } }

/-- One MC_CLK cycle of the Wayside path (R51): the offered beat transfers if WS_READY is high; the eighth ends its record. -/
def waysideBeat (ready : Bool) (s : State) : State :=
  let r := if s.rel.wsBeat = 0 then { s.rel with wsNow := s.rel.wsNow.filter fun x => s.rel.wsbuf.head? != some x } else s.rel
  if r.wsbuf.isEmpty || !ready then s
  else if r.wsBeat = 7 then { s with rel := { r with wsbuf := r.wsbuf.drop 1, wsBeat := 0 } }
  else { s with rel := { r with wsBeat := r.wsBeat + 1 } }

/-- WAYSIDE_SEND (R51, R52): the beats of the first record that have not gone yet are taken. In cold reset the path is empty. -/
def execWaysideSend (s : State) : Host.Outcome State Fault Refusal :=
  .next ((List.range (8 - s.rel.wsBeat.toNat)).foldl (fun t _ => waysideBeat true t) s)

end Sys2Proof.Machine
end

