-- ==== Sys2Proof/Machine/Post.lean ====
section
/-!
DEFINITION. Posts as the sender makes them (14 R435 to R438), and the MARK and counter group (15 R476).
-/

namespace Sys2Proof.Machine

open Sys2Proof

/-! ## POST -/

/-- Word 0 of the header of a post (R438), from its descriptor (R435). -/
def postHeader (x : W64) (src : CoreId) (sealed : Bool) : W64 :=
  at' 0 (fld x 20 20) ||| at' 20 (fld x 0 12) ||| at' 32 (fld x 12 4) ||| at' 36 src ||| at' 48 (fld x 40 10) |||
    bAt 58 (bit x 16) ||| bAt 59 sealed

/-- The data flits of a post. -/
def postLines (ws : List TWord) : List Line :=
  (List.range ((ws.length + 7) / 8)).map fun i => lineOf ((ws.drop (8 * i)).take 8)

/-- Read n words from an address on, with the checks of each word. -/
def loadWords (c : CtxId) (a : W64) : Nat → M (List TWord)
  | 0 => return []
  | n + 1 => do
    let w ← loadAt c a 8
    return w :: (← loadWords c (a + 8) n)

/-- POST (R435 to R438). -/
def postInstr (r : BitVec 21) (c : CtxId) : M Unit := do
  needDef (r == 0)
  let s ← get
  let k := s.getCtx c
  let a := k.getA
  let x := k.getX
  if a.tag != Tag.dptr then tagFault a.tag
  if !isPlain x.tag then tagFault x.tag
  let n := fldN x.val 40 10 + 1
  let doff := fldN x.val 20 20
  if spadSize < doff + 8 * n then ioProtection
  needIo c (at' 19 (fld x.val 0 12) ||| 0x40000) true 7
  needCanonical c a.val .read
  needAligned a.val 8
  if doff % 8 != 0 then misaligned
  needDdc c .read a.val (8 * n)
  match ← translateWords (.ctx c) (ctxRegime (← get) c) .read a.val n with
  | .error (f, va) => raiseX f .read va
  | .ok _ =>
    let ws ← loadWords c a.val n
    needLane 3
    modify fun s =>
      let post : PostOut := ⟨c, n, k.sup, k.world⟩
      let p := packet 7 ((postHeader x.val s.chain.caddr (sealBit s k)).setWidth 512) (postLines ws)
      sendPacket p { s with mesh := { s.mesh with posts := s.mesh.posts ++ [post] } }

/-- POST. -/
def execPost (r : BitVec 21) (s : State) : Host.Outcome State Fault Refusal := runSeq (postInstr r) s

/-! ## MARK, TREC, XSNAP, FREEZE (R476) -/

/-- MARK: MARKR := A[31:0], with its record (R473). -/
def markInstr (r : BitVec 21) (c : CtxId) : M Unit := do
  needDef (r == 0)
  let k ← getC c
  let a := k.getA
  if !isPlain a.tag then tagFault a.tag
  modC c fun k => { k with sys := { k.sys with markr := fld a.val 0 32 } }
  modify (traceCtx 1 c (k.sys.markr.setWidth 64) k.pc)

/-- MARK. -/
def execMark (r : BitVec 21) (s : State) : Host.Outcome State Fault Refusal := runSeq (markInstr r) s

/-- TREC: a SOFT record of A and X. -/
def trecInstr (r : BitVec 21) (c : CtxId) : M Unit := do
  needDef (r == 0)
  let s ← get
  let k := s.getCtx c
  needPriv (k.sup || bit s.perf.pmctl 2)
  if k.getA.tag == Tag.poison then tagFault Tag.poison
  if k.getX.tag == Tag.poison then tagFault Tag.poison
  modify (traceCtx 5 c k.getA.val k.getX.val)

/-- TREC. -/
def execTrec (r : BitVec 21) (s : State) : Host.Outcome State Fault Refusal := runSeq (trecInstr r) s

/-- XSNAP: the snapshot, if XRCFG.SW is 1 (R480). -/
def xsnapInstr (r : BitVec 21) (c : CtxId) : M Unit := do
  needDef (r == 0)
  needPriv (← getC c).sup
  modify fun s => if bit s.trace.xrcfg 0 then snapTrigger 2 s else s

/-- XSNAP. -/
def execXsnap (r : BitVec 21) (s : State) : Host.Outcome State Fault Refusal := runSeq (xsnapInstr r) s

/-- FREEZE: the SW freeze trigger (R463). -/
def freezeInstr (r : BitVec 21) (c : CtxId) : M Unit := do
  needDef (r == 0)
  needPriv (← getC c).sup
  modify (freezeTrigger 16)

/-- FREEZE. -/
def execFreeze (r : BitVec 21) (s : State) : Host.Outcome State Fault Refusal := runSeq (freezeInstr r) s

end Sys2Proof.Machine
end

