-- ==== Sys2Proof/Machine/TileFmt.lean ====
section
/-!
DEFINITION. Tile number formats (06 R181, 08 R256 to R269): containers, exact values, flushing, rounding and the conversions
that TCVT and the output path share.
-/

namespace Sys2Proof.Machine

open Sys2Proof

/-! ## Format codes (R181) -/

/-- Container width. -/
def fmtBits (f : BitVec 4) : Nat :=
  match f.toNat with
  | 0 | 1 => 16
  | 2 | 3 | 11 => 32
  | 4 | 5 | 9 => 8
  | 6 | 7 => 6
  | _ => 4

/-- Elements of a logical row (R181, R251). -/
def fmtElems (qs : Bool) (f : BitVec 4) : Nat :=
  let n := match f.toNat with
    | 0 | 1 => 32
    | 2 | 3 | 11 => 16
    | 4 | 5 | 9 => 64
    | _ => 128
  if qs then n / 2 else n

/-- A reserved code. -/
def fmtReserved (f : BitVec 4) : Bool := decide (12 ≤ f.toNat)
/-- MXFP8, MXFP6 or MXFP4. -/
def fmtMx (f : BitVec 4) : Bool := decide (4 ≤ f.toNat) && decide (f.toNat ≤ 8)
/-- MXFP6. -/
def fmtMx6 (f : BitVec 4) : Bool := f == 6 || f == 7
/-- INT8, INT4 or INT32. -/
def fmtInt (f : BitVec 4) : Bool := f == 9 || f == 10 || f == 11
/-- BF16, FP16, F19 or FP32. -/
def fmtFp (f : BitVec 4) : Bool := decide (f.toNat < 4)

/-- BF16. -/
abbrev fBF16 : BitVec 4 := 0
/-- F19. -/
abbrev fF19 : BitVec 4 := 2
/-- FP32. -/
abbrev fFP32 : BitVec 4 := 3
/-- INT8. -/
abbrev fINT8 : BitVec 4 := 9
/-- INT4. -/
abbrev fINT4 : BitVec 4 := 10
/-- INT32. -/
abbrev fINT32 : BitVec 4 := 11

/-- Exponent and fraction widths (R256). -/
def fmtFloat (f : BitVec 4) : FpFmt :=
  match f.toNat with
  | 0 => ⟨8, 7⟩
  | 1 => ⟨5, 10⟩
  | 2 => ⟨8, 10⟩
  | 3 => ⟨8, 23⟩
  | 4 => ⟨4, 3⟩
  | 5 => ⟨5, 2⟩
  | 6 => ⟨2, 3⟩
  | 7 => ⟨3, 2⟩
  | _ => ⟨2, 1⟩

/-- Sticky flags of one engine (R194): bit 0 OV, 1 UF, 2 NX, 3 NV, 4 FZ, 5 SR. -/
abbrev TFlags := BitVec 6
/-- OV. -/
abbrev tOV : TFlags := 1
/-- UF. -/
abbrev tUF : TFlags := 2
/-- NX. -/
abbrev tNX : TFlags := 4
/-- NV. -/
abbrev tNV : TFlags := 8
/-- FZ. -/
abbrev tFZ : TFlags := 16
/-- SR. -/
abbrev tSR : TFlags := 32

/-- A flag, if b. -/
def tIf (b : Bool) (f : TFlags) : TFlags := if b then f else 0

/-! ## Exact values (R257, R260, R261) -/

/-- The value of an encoding that is neither infinity nor NaN (R257). -/
def FpFmt.decodeFin (f : FpFmt) (b : Nat) : FpVal :=
  let s := b / 2 ^ f.signBit % 2 == 1
  let e := b / 2 ^ f.mbits % 2 ^ f.ebits
  let m := b % 2 ^ f.mbits
  if e = 0 then .fin s m f.qmin else .fin s (m + 2 ^ f.mbits) (f.qmin + e - 1)

/-- Two's complement of w bits. -/
def intOf (w b : Nat) : Int := if b % 2 ^ w < 2 ^ (w - 1) then (b % 2 ^ w : Nat) else ((b % 2 ^ w : Nat) : Int) - 2 ^ w

/-- An integer as an exact value. -/
def intVal (i : Int) : FpVal := .fin (decide (i < 0)) i.natAbs 0

/-- The exact value of an element, without a block scale (R257, R261). Bits above the value are ignored (R258). A NaN is
`.nan false`: the tile unit does not tell its kinds apart (R262), and `.nan true` is kept for a NaN that an operation makes. -/
def elemVal (f : BitVec 4) (b : Nat) : FpVal :=
  if fmtInt f then intVal (intOf (fmtBits f) b)
  else
    let g := fmtFloat f
    let x := b % 2 ^ (g.signBit + 1)
    if fmtFp f || f == 5 then (match g.decode x with | .nan _ => .nan false | v => v)
    else if f == 4 && x % 128 == 127 then .nan false
    else g.decodeFin x

/-- v × 2^k. -/
def shiftVal (k : Int) (v : FpVal) : FpVal := match v with | .fin s m e => .fin s m (e + k) | v => v

/-- A value under an E8M0 block scale (R260). -/
def scaleVal (code : Nat) (v : FpVal) : FpVal :=
  if code = 255 then .nan false else shiftVal ((code : Int) - 127) v

/-- A value below the smallest normal of BF16, FP16, F19 or FP32 reads as a zero of its sign while the engine flushes (R277, R278). -/
def flushVal (fz : Bool) (f : BitVec 4) (v : FpVal) : FpVal × TFlags :=
  match v with
  | .fin s m e =>
    if fz && fmtFp f && m != 0 && decide (e < (fmtFloat f).emin) && decide (m < 2 ^ ((fmtFloat f).emin - e).toNat) then
      (.fin s 0 e, tFZ)
    else (v, 0)
  | _ => (v, 0)

/-- An element as its engine reads it. -/
def readElem (fz : Bool) (f : BitVec 4) (b : Nat) : FpVal × TFlags := flushVal fz f (elemVal f b)

/-- The first c elements of a logical row, under the block scales of an MX format, each with its flags. -/
def readEach (fz : Bool) (f : BitVec 4) (c bits scale : Nat) : List (FpVal × TFlags) :=
  (List.range c).map fun i =>
    let b := bits / 2 ^ (fmtBits f * i) % 2 ^ fmtBits f
    let (v, g) := readElem fz f b
    (if fmtMx f then scaleVal (scale / 2 ^ (8 * (i / 32)) % 256) v else v, g)

/-- The flags of all of them. -/
def orAll {α : Type} (xs : List (α × TFlags)) : TFlags := xs.foldl (fun a p => a ||| p.2) 0

/-- The first c elements of a logical row, and the flags of reading them. -/
def readRow (fz : Bool) (f : BitVec 4) (c bits scale : Nat) : List FpVal × TFlags :=
  let xs := readEach fz f c bits scale
  (xs.map (·.1), orAll xs)

/-! ## Arithmetic on exact values (R262 to R264) -/

namespace FpVal
/-- A NaN. -/
def isNan (v : FpVal) : Bool := match v with | .nan _ => true | _ => false
/-- An infinity. -/
def isInf (v : FpVal) : Bool := match v with | .inf _ => true | _ => false
/-- A finite value. -/
def isFin (v : FpVal) : Bool := match v with | .fin .. => true | _ => false
/-- Its sign. -/
def neg? (v : FpVal) : Bool := match v with | .nan _ => false | .inf s => s | .fin s _ _ => s

/-- The product; `.nan true` stands for 0 × ∞, which is invalid, `.nan false` for a NaN factor. -/
def mul (a b : FpVal) : FpVal :=
  match a, b with
  | .nan _, _ => .nan false
  | _, .nan _ => .nan false
  | .inf s, .inf t => .inf (s != t)
  | .inf s, .fin t m _ => if m = 0 then .nan true else .inf (s != t)
  | .fin s m _, .inf t => if m = 0 then .nan true else .inf (s != t)
  | .fin s m e, .fin t n f => .fin (s != t) (m * n) (e + f)

/-- The sum; `.nan true` stands for ∞ + (−∞). -/
def add (a b : FpVal) : FpVal :=
  match a, b with
  | .nan _, _ => .nan false
  | _, .nan _ => .nan false
  | .inf s, .inf t => if s == t then .inf s else .nan true
  | .inf s, .fin .. => .inf s
  | .fin .., .inf t => .inf t
  | .fin s m e, .fin t n f =>
    let (x, y, z) := addFin .nearest s m e t n f
    .fin x y z

/-- −a. -/
def negate (a : FpVal) : FpVal :=
  match a with
  | .nan i => .nan i
  | .inf s => .inf (!s)
  | .fin s m e => .fin (!s) m e

/-- NV, when an operation made this NaN from inputs that are not NaN. -/
def invalid (v : FpVal) : TFlags := match v with | .nan true => tNV | _ => 0

/-- Order of two values that are no NaN: -0 equals +0. -/
def cmp (a b : FpVal) : Ordering :=
  match a, b with
  | .fin s m e, .fin t n f =>
    let q := min e f
    let v := fun (s : Bool) (m : Nat) (x : Int) => (if s then -1 else 1) * (m : Int) * 2 ^ (x - q).toNat
    compare (v s m e) (v t n f)
  | .inf s, .inf t => if s == t then .eq else if s then .lt else .gt
  | .inf s, _ => if s then .lt else .gt
  | _, .inf t => if t then .gt else .lt
  | _, _ => .eq

/-- a comes before b when -0 is ordered below +0. -/
def before (a b : FpVal) : Bool :=
  match a.cmp b with
  | .lt => true
  | .gt => false
  | .eq => a.neg? && !b.neg?
end FpVal

/-- The exact sum of a list, special values as in R275 and R298: NaN first, then infinities of both signs, then one. -/
def sumVals (xs : List FpVal) : FpVal :=
  if xs.any FpVal.isNan then (if xs.all fun x => x != .nan false then .nan true else .nan false)
  else if xs.contains (.inf true) && xs.contains (.inf false) then .nan true
  else if xs.contains (.inf true) then .inf true
  else if xs.contains (.inf false) then .inf false
  else match xs with
    | [] => .fin false 0 0
    | x :: rest => rest.foldl FpVal.add x

/-! ## Results (R262 to R266, R278) -/

/-- The canonical NaN (R256). -/
def canonNan (f : BitVec 4) : Nat := if f == 4 then 0x7F else (fmtFloat f).qnan

/-- A value as a result in BF16, FP16, F19 or FP32, rounded once (R265, R266) and flushed (R278). A result that is not zero is tiny when
its rounded magnitude is below the smallest normal (R265). -/
def roundElem (f : BitVec 4) (zero fz : Bool) (v : FpVal) : Nat × TFlags :=
  let g := fmtFloat f
  match v with
  | .nan _ => (canonNan f, v.invalid)
  | .inf s => (g.signed s g.infBits, 0)
  | .fin s m e =>
    let (b, x) := g.round (if zero then .zero else .nearest) s m e
    let mag := b % 2 ^ g.signBit
    if fz && mag != 0 && decide (mag < 2 ^ g.mbits) then (g.signed s 0, tFZ ||| tUF ||| tNX)
    else (b, tIf x.nx tNX ||| tIf x.of tOV ||| tIf (x.nx && decide (mag < 2 ^ g.mbits)) tUF)

/-- FP32 results, to nearest even. -/
def round32 (fz : Bool) (v : FpVal) : Nat × TFlags := roundElem fFP32 false fz v

/-- An integer that may not fit w bits: saturated or wrapped, with OV (R266). -/
def fitInt (w : Nat) (sat : Bool) (i : Int) : Int × TFlags :=
  let lo : Int := -(2 ^ (w - 1))
  let hi : Int := 2 ^ (w - 1) - 1
  if lo ≤ i ∧ i ≤ hi then (i, 0)
  else if sat then (if i < lo then lo else hi, tOV)
  else (intOf w (i % 2 ^ w).toNat, tOV)

/-- The bits of an integer in w bits. -/
def intBits (w : Nat) (i : Int) : Nat := (i % 2 ^ w).toNat

/-- A value as a result in INT8, INT4 or INT32 (R267). -/
def toIntElem (f : BitVec 4) (zero sat : Bool) (v : FpVal) : Nat × TFlags :=
  let w := fmtBits f
  match v with
  | .nan _ => (0, tNV)
  | .inf s => (intBits w (if s then -(2 ^ (w - 1)) else 2 ^ (w - 1) - 1), tOV)
  | .fin s m e =>
    let (u, inexact) := roundAt (if zero then .zero else .nearest) s m e 0
    let i : Int := if s then -(u : Int) else u
    let (j, ov) := fitInt w sat i
    (intBits w j, if ov = 0 then tIf inexact tNX else ov)

/-! ## MX blocks (R268, R269) -/

/-- The largest finite magnitude of an MX element format. -/
def mxMax (f : BitVec 4) : Nat := match f.toNat with | 4 => 0x7E | 5 => 0x7B | 6 => 0x1F | 7 => 0x1F | _ => 7

/-- emax (R268). -/
def mxEmax (f : BitVec 4) : Int := match f.toNat with | 4 => 8 | 5 => 15 | 6 => 2 | 7 => 4 | _ => 2

/-- An ordinary element under the scale 2^x (R268). -/
def mxElem (f : BitVec 4) (zero : Bool) (x : Int) (s : Bool) (m : Nat) (e : Int) : Nat × TFlags :=
  let g := fmtFloat f
  if m = 0 then (g.signed s 0, 0)
  else
    let (mag, inexact, _) := g.roundMag (if zero then .zero else .nearest) s m (e - x)
    if mxMax f < mag then (g.signed s (mxMax f), tNX)
    else (g.signed s mag, tIf inexact tNX ||| tIf (inexact && decide (mag < 2 ^ g.mbits)) tUF)

/-- ⌊log2 |x|⌋ of an ordinary element that is not zero. -/
def logFloor (v : FpVal) : Option Int :=
  match v with
  | .fin _ m e => if m = 0 then none else some (e + bitLen m - 1)
  | _ => none

/-- The scale exponent X of a block (R268). -/
def mxScale (f : BitVec 4) (xs : List FpVal) : Int :=
  match xs.filterMap logFloor with
  | [] => 0
  | a :: rest => max (-127) (min 127 (rest.foldl max a - mxEmax f))

/-- An element format without a NaN: E2M3, E3M2 or E2M1 (R269). -/
def mxNarrow (f : BitVec 4) : Bool := fmtMx f && f != 4 && f != 5

/-- One block: its E8M0 code, its elements and the flags it sets. -/
def mxBlock (f : BitVec 4) (zero : Bool) (xs : List FpVal) : Nat × List Nat × TFlags :=
  if mxNarrow f && xs.any FpVal.isNan then (255, xs.map fun _ => 0, 0)
  else
    let g := fmtFloat f
    let x := mxScale f xs
    let ys := xs.map fun v => match v with
      | .nan _ => (canonNan f, (0 : TFlags))
      | .inf s => if f == 5 then (g.signed s g.infBits, 0) else (g.signed s (mxMax f), tOV)
      | .fin s m e => mxElem f zero x s m e
    ((x + 127).toNat, ys.map (·.1), ys.foldl (fun a p => a ||| p.2) 0)

/-- The blocks of a row, each of 32 elements (R260): scales packed by block, elements, flags. -/
def mxBlocks (f : BitVec 4) (zero : Bool) : Nat → List FpVal → Nat × List Nat × TFlags
  | 0, _ => (0, [], 0)
  | n + 1, xs =>
    if xs.isEmpty then (0, [], 0)
    else
      let (sc, ys, g) := mxBlock f zero (xs.take 32)
      let (sr, yr, gr) := mxBlocks f zero n (xs.drop 32)
      (sc + 256 * sr, ys ++ yr, g ||| gr)

/-! ## A converted row (R267) -/

/-- Values converted to format f: the packed elements, the scales of an MX format, and the flags. `fz` flushes results. -/
def convertRow (f : BitVec 4) (zero sat fz : Bool) (xs : List FpVal) : (List Nat × Nat) × TFlags :=
  if fmtMx f then
    let (sc, ys, g) := mxBlocks f zero 4 xs
    ((ys, sc), g)
  else
    let ys := xs.map fun v => if fmtInt f then toIntElem f zero sat v else roundElem f zero fz v
    ((ys.map (·.1), 0), ys.foldl (fun a p => a ||| p.2) 0)

/-- The flags of reading a row that is converted to format f: no element of a block that becomes NaN sets any (R269). -/
def sourceFlags (f : BitVec 4) : (blocks : Nat) → List (FpVal × TFlags) → TFlags
  | 0, _ => 0
  | n + 1, xs =>
    let b := xs.take 32
    (if mxNarrow f && b.any fun e => e.1.isNan then 0 else orAll b) ||| sourceFlags f n (xs.drop 32)

/-! ## RMAX (R301) -/

/-- |x| rounded toward +∞ to FP32; a NaN gives the canonical quiet NaN. -/
def maxBits32 (v : FpVal) : Nat :=
  match v with
  | .nan _ => 0x7FC00000
  | .inf _ => 0x7F800000
  | .fin _ m e => (fp32.round .up false m e).1

/-- The largest of a row: the NaN wins. -/
def rowMax (xs : List FpVal) : Nat := xs.foldl (fun a v => max a (maxBits32 v)) 0

end Sys2Proof.Machine
end

