-- ==== Sys2Proof/Machine/TileAcc.lean ====
section
/-!
DEFINITION. Products, groups and accumulation into the Fold (08 R271 to R278, 09 R282 to R294).
-/

namespace Sys2Proof.Machine

open Sys2Proof

/-! ## Groups (R272 to R275, R282) -/

/-- Products of a group (R272). -/
def groupSize (qs : Bool) (f : BitVec 4) : Nat :=
  match f.toNat with
  | 0 | 1 => if qs then 16 else 32
  | 2 | 3 => if qs then 8 else 16
  | _ => 32

/-- Groups that a column completes in one step (R272). -/
def groupCount (qs : Bool) (f : BitVec 4) : Nat :=
  match f.toNat with
  | 4 | 5 | 9 => if qs then 1 else 2
  | 6 | 7 | 8 | 10 => if qs then 2 else 4
  | _ => 1

/-- Take n groups of k entries, each filled up with d (R272). -/
def chunks {α : Type} (d : α) (k : Nat) : Nat → List α → List (List α)
  | 0, _ => []
  | n + 1, xs => (xs.take k ++ List.replicate (k - xs.length) d) :: chunks d k n (xs.drop k)

/-- The largest exponent among the products that are finite and not zero (R274). -/
def topExp (ps : List FpVal) : Option Int :=
  (ps.filterMap fun p => match p with | .fin _ m e => if m = 0 then none else some e | _ => none).max?

/-- A product on the group's scale 2^l: bits below are discarded, the magnitude truncated (R274). -/
def alignProd (l : Int) (p : FpVal) : Int :=
  match p with
  | .fin s m e => (if s then -1 else 1) * (if l ≤ e then (m * 2 ^ (e - l).toNat : Nat) else (m / 2 ^ (l - e).toNat : Nat) : Int)
  | _ => 0

/-- The result of a group of products (R274, R275, R282). A product m × 2^e has exponent e + 2f, so the least significant
bit of the common scale weighs 2^(e_max − 3) in terms of e. `.nan true` stands for a NaN that sets NV. -/
def groupSum (ps : List FpVal) : FpVal :=
  if ps.any fun p => !p.isFin then sumVals ps
  else match topExp ps with
    | none => .fin (ps.all FpVal.neg?) 0 0
    | some e =>
      let l := e - 3
      let t := ps.foldl (fun (a : Int) p => a + alignProd l p) 0
      .fin (decide (t < 0)) t.natAbs l

/-- The group results of one output element (R234). -/
def groupSums (qs : Bool) (f : BitVec 4) (a b : List FpVal) : List FpVal :=
  (chunks (FpVal.fin false 0 0) (groupSize qs f) (groupCount qs f) (List.zipWith FpVal.mul a b)).map groupSum

/-! ## FP32 and twin accumulation (R283 to R287, R294) -/

/-- An FP32 pattern of the Fold as the array reads it. -/
def foldVal (fz : Bool) (b : W32) : FpVal × TFlags := readElem fz fFP32 b.toNat

/-- Single use: RN(AC + S) (R283, R285). -/
def accSingle (fz : Bool) (old : W32) (s : FpVal) : W32 × TFlags :=
  let (v, f) := foldVal fz old
  let (b, g) := round32 fz (FpVal.add v s)
  (BitVec.ofNat 32 b, f ||| g ||| s.invalid)

/-- A result of FP32 flushed when it is written (R277, R278). -/
def flush32 (fz : Bool) (b : Nat) : Nat × TFlags :=
  let mag := b % 2 ^ 31
  if fz && mag != 0 && decide (mag < 2 ^ 23) then (b - mag, tFZ ||| tUF ||| tNX) else (b, 0)

/-- The exact value of a pair in an accumulation: a high part that is not finite stands alone (R287). -/
def pairVal (hi lo : FpVal) : FpVal := if hi.isFin then FpVal.add hi lo else hi

/-- Twin use: v = hi + lo + S exactly, then hi = RN(v) and lo = RN(v − hi) (R286, R287). -/
def accTwin (fz : Bool) (hi lo : W32) (s : FpVal) : W32 × W32 × TFlags :=
  let (h, f1) := foldVal fz hi
  let (l, f2) := foldVal fz lo
  let f := f1 ||| (if h.isFin then f2 else 0) ||| s.invalid
  let v := FpVal.add (pairVal h l) s
  let (hb, g) := round32 false v
  let hv := elemVal fFP32 hb
  if !hv.isFin then (BitVec.ofNat 32 hb, 0, f ||| (g &&& (tOV ||| tNX ||| tNV)))
  else
    let rest := FpVal.add v hv.negate
    let (lb, gl) := match rest with
      | .fin _ 0 _ => (0, (0 : TFlags))
      | _ => round32 false rest
    let inexact := gl &&& tNX != 0
    let tiny := g &&& tUF != 0 || (decide (hb % 2 ^ 31 < 2 ^ 23) && hb % 2 ^ 31 != 0)
    let (h', f3) := flush32 fz hb
    let (l', f4) := flush32 fz lb
    (BitVec.ofNat 32 h', BitVec.ofNat 32 l', f ||| f3 ||| f4 ||| tIf inexact tNX ||| tIf (tiny && inexact) tUF)

/-- Add the groups of one element in ascending order, single use (R284). -/
def accSingles (fz : Bool) : List FpVal → W32 × TFlags → W32 × TFlags
  | [], r => r
  | s :: ss, (old, f) =>
    let (b, g) := accSingle fz old s
    accSingles fz ss (b, f ||| g)

/-- Add the groups of one element in ascending order, twin use. -/
def accTwins (fz : Bool) : List FpVal → W32 × W32 × TFlags → W32 × W32 × TFlags
  | [], r => r
  | s :: ss, (hi, lo, f) =>
    let (h, l, g) := accTwin fz hi lo s
    accTwins fz ss (h, l, f ||| g)

/-! ## Integer accumulation (R289 to R291) -/

/-- p >> E, rounding toward −∞ (R289). -/
def shiftProd (e : Nat) (p : Int) : Int := p >>> e

/-- The step total of one element (R289). -/
def stepTotal (e : Nat) (a b : List Int) : Int := (List.zipWith (fun x y => shiftProd e (x * y)) a b).foldl (· + ·) 0

/-- Fits INT32. -/
def fits32 (i : Int) : Bool := decide (-(2 ^ 31) ≤ i) && decide (i < 2 ^ 31)

/-- A retry (R291): the part shifts right by k, its exponents rise by k, SR is set. -/
def retryPart (v : Stream) (i k : Nat) (t : Tile) : Tile :=
  ((t.mapPart v i fun x => x.sshiftRight k).setExponents v i (· + k)).orFlags v.no tSR

/-- Write a row of integer results: out of range saturates, or wraps (R290). -/
def writeInts (v : Stream) (i m : Nat) (sat : Bool) (xs : List Int) (t : Tile) : Tile :=
  let ys := xs.map (fitInt 32 sat)
  (Tile.setAccRow v i m (ys.map fun y => BitVec.ofInt 32 y.1) 0 t).orFlags v.no (ys.foldl (fun a y => a ||| y.2) 0)

/-- One array step of integers: row a against the rows of B into row m of slot i (R289 to R291). `left` is how many retries
the step may still make. The number of retries made comes with the result. -/
def intStep (v : Stream) (i m ovp k : Nat) (a : List Int) (b : List (List Int)) : (left : Nat) → Tile → Tile × Nat
  | left, t =>
    let new := (b.zipIdx).map fun e =>
      (t.acc v i m e.2).toInt + stepTotal (t.exponent i (v.part m e.2)) a e.1
    match left with
    | 0 => (writeInts v i m (ovp != 1) new t, 0)
    | left + 1 =>
      if ovp = 2 && new.any (fun x => !fits32 x) && (Tile.partsOf v).all fun p => decide (t.exponent i p + k ≤ 255) then
        let (u, n) := intStep v i m ovp k a b left (retryPart v i k (t.useSlot i))
        (u, n + 1)
      else (writeInts v i m (ovp != 1) new t, 0)

/-! ## One row of a multiply (R234) -/

/-- One array step of a floating-point format, single use: row a against the rows of B into row m of slot i. -/
def singleStep (v : Stream) (f : BitVec 4) (fz : Bool) (i m : Nat) (a : List FpVal) (b : List (List FpVal)) (t : Tile) : Tile :=
  let rs := (b.zipIdx).map fun e => accSingles fz (groupSums v.isSome f a e.1) (t.acc v i m e.2, 0)
  (Tile.setAccRow v i m (rs.map (·.1)) 0 t).orFlags v.no (rs.foldl (fun x r => x ||| r.2) 0)

/-- One array step of a floating-point format, twin use. -/
def twinStep (v : Stream) (f : BitVec 4) (fz : Bool) (i m : Nat) (a : List FpVal) (b : List (List FpVal)) (t : Tile) : Tile :=
  let rs := (b.zipIdx).map fun e =>
    accTwins fz (groupSums v.isSome f a e.1) (t.acc v i m e.2, t.acc v (i + 16) m e.2, 0)
  (Tile.setAccRow v (i + 16) m (rs.map (·.2.1)) 0 (Tile.setAccRow v i m (rs.map (·.1)) 0 t)).orFlags v.no
    (rs.foldl (fun x r => x ||| r.2.2) 0)

/-! ## The FP32 split (R271) -/

/-- The high F19 part of an FP32 pattern, as an F19 pattern. -/
def splitHigh (b : Nat) : Nat :=
  match elemVal fFP32 b with
  | .nan _ => canonNan fF19
  | .inf s => (fmtFloat fF19).signed s (fmtFloat fF19).infBits
  | v =>
    let h := (roundElem fF19 false false v).1
    if (elemVal fF19 h).isFin then h else b / 2 ^ 13 % 2 ^ 19

/-- The low F19 part. -/
def splitLow (b : Nat) : Nat :=
  match elemVal fFP32 b with
  | .fin s m e => (roundElem fF19 false false (FpVal.add (.fin s m e) (elemVal fF19 (splitHigh b)).negate)).1
  | _ => 0

/-- The factors of a row in one pass: the F19 parts of an FP32 row, or the elements (R236, R271). `high`: the high part. -/
def factors (fz : Bool) (f : BitVec 4) (c : Nat) (high : Bool) (x : LRow) : List FpVal × TFlags :=
  if f == fFP32 then
    let xs := (elems 32 c x.bits).map fun b => readElem fz fF19 (if high then splitHigh b else splitLow b)
    (xs.map (·.1), xs.foldl (fun a p => a ||| p.2) 0)
  else readRow fz f c x.bits x.scale

end Sys2Proof.Machine
end

