-- ==== Sys2Proof/Machine/TileMem.lean ====
section
/-!
DEFINITION. How a tile instruction runs (07 R216 to R230): the form of its meaning, its rows and their progress, the check of a
row in data space, and the bytes it reads and writes there.
-/

namespace Sys2Proof.Machine

open Sys2Proof

/-! ## Footprints in data space (R228, R230) -/

/-- The kind of its access. -/
def Foot.kind (f : Foot) : AccKind := if f.write then .write else .read

/-- Row 11 of R230 for the pages of a footprint. -/
def translatePages (c : CtxId) (k : AccKind) : List W64 → M (List (W64 × Phys))
  | [] => return []
  | v :: vs => do
    let p ← translateCtx c ⟨v, k, none, none, true⟩
    return (v, p) :: (← translatePages c k vs)

/-- Row 11 for each footprint of a row. -/
def translateFeet (c : CtxId) : List Foot → M RowPages
  | [] => return []
  | f :: fs => do
    let ps ← translatePages c f.kind f.pages
    return (f, ps) :: (← translateFeet c fs)

/-- Rows 9 to 12 of R230 for the footprints of one row: a check of every footprint comes before the next check. The answer
is where each footprint's pages lie. -/
def rowCheck (c : CtxId) (fs : List Foot) : M RowPages := do
  for f in fs do
    for v in f.pages do needCanonical c v f.kind
  for f in fs do needDdc c f.kind f.addr f.len
  let row ← translateFeet c fs
  if row.any fun e => e.2.any fun p => p.2.ts then raise 3 0x10
  return row

/-! ## Bytes -/

/-- A line as a number, byte 0 first. -/
def lineNat (d : Line) : Nat := packElems 64 (d.toList.map fun w => w.val.toNat)

/-- A number as a line of words tagged RAW. -/
def natLine (x : Nat) : Line := Vector.ofFn fun i => ⟨BitVec.ofNat 64 (x / 2 ^ (64 * i.val)), Tag.raw⟩

/-- The words from i on of a scratchpad line, as the tile path reads them (R314). -/
def spadLine (i : Nat) : (n : Nat) → M (List Nat)
  | 0 => return []
  | n + 1 => do
    let w ← spadRead true i
    return w.val.toNat :: (← spadLine (i + 1) n)

/-- m, or none where it would wait. -/
def soft {α : Type} (m : M α) : M (Option α) := fun s =>
  match m s with
  | .ok a t => .ok (some a) t
  | .error .wait t => .ok none t
  | .error e t => .error e t

/-- What a piece reads: its bytes, an error, or nothing yet. -/
inductive Piece where
  | bytes (x : Nat)
  | failed (line : Nat)
  | missing
  deriving DecidableEq, Repr

/-- Read one piece of k bytes at v (R316): the scratchpad at once, normal memory through the caches. The fill
of a miss is streaming for a streaming page too (R317). -/
def readPiece (c : CtxId) (stream : Bool) (ps : List (W64 × Phys)) (v : W64) (k : Nat) : M Piece := do
  let pa := chAddr ps v
  let b := pa.toNat % 64
  if inSpad pa then
    let ws ← spadLine (spadIndex pa) ((b % 8 + k + 7) / 8)
    return .bytes (packElems 64 ws / 2 ^ (8 * (b % 8)) % 2 ^ (8 * k))
  else
    match ← soft (readLine (.tile c) .bulk (stream || pageStreams ps v) v (lineNo pa)) with
    | some (some d) => return .bytes (lineNat d / 2 ^ (8 * b) % 2 ^ (8 * k))
    | some none => return .failed (lineNo pa)
    | none => return .missing

/-- Read every piece, or ask for it. -/
def readPieces (c : CtxId) (stream : Bool) (ps : List (W64 × Phys)) : List (W64 × Nat × Nat) → M (List (Nat × Piece))
  | [] => return []
  | (v, k, i) :: rest => do
    let p ← readPiece c stream ps v k
    return (i, p) :: (← readPieces c stream ps rest)

/-- The bytes of a checked footprint as a number. It waits until every line is there; a line that ended with the error gives
zero bytes and a machine check (R503). -/
def readFoot (c : CtxId) (tmp : Bool) (e : Foot × List (W64 × Phys)) : M Nat := do
  let xs ← readPieces c (!tmp) e.2 (pieces e.1.addr e.1.len)
  if xs.any fun x => x.2 == .missing then wait
  for x in xs do
    match x.2 with
    | .failed n => modify (machineCheck 7 0 (BitVec.ofNat 64 (64 * n)))
    | _ => pure ()
  return xs.foldl (fun a x => match x.2 with | .bytes b => a + b * 2 ^ (8 * x.1) | _ => a) 0

/-- A write prepared: the line, the bytes in it and where it goes. -/
structure PiecePath where
  pa : PAddr
  mask : W64
  data : Line
  path : WPath
  deriving DecidableEq, Repr

/-- Prepare the pieces of a write: tile stores go into a cache that holds the line, else to memory (R316). -/
def prepPieces (c : CtxId) (ps : List (W64 × Phys)) (x : Nat) : List (W64 × Nat × Nat) → M (List PiecePath)
  | [] => return []
  | (v, k, i) :: rest => do
    let pa := chAddr ps v
    let b := pa.toNat % 64
    let path ← if inSpad pa then pure WPath.spad else prepBulkLine (.ctx c) (.tile c) v (lineNo pa)
    let d := x / 2 ^ (8 * i) % 2 ^ (8 * k)
    return ⟨lineAddr (lineNo pa), byteMask b k, natLine (d * 2 ^ (8 * b)), path⟩ :: (← prepPieces c ps x rest)

/-- No prepared line has left its cache while another was prepared. -/
def PiecePath.ok (s : State) (p : PiecePath) : Bool :=
  match p.path with
  | .l1d => (cacheFind s .l1d (lineNo p.pa)).isSome
  | .l2 => (cacheFind s .l2 (lineNo p.pa)).isSome
  | _ => true

/-- Context c reads line n anew: a write has changed it. -/
def forgetLine (c : CtxId) (n : Nat) (s : State) : State :=
  { s with mesh := { s.mesh with
    fills := s.mesh.fills.filter fun f => f.held || f.req.who != .tile c || lineNo f.req.addr != n } }

/-- Write a prepared piece. A tile store hits every watch of the line, its own context's too (R409). -/
def commitPiece (c : CtxId) (p : PiecePath) (s : State) : State :=
  forgetLine c (lineNo p.pa) (commitLine (.ctx c) none p.path p.pa p.mask p.data s)

/-- Prepare the write of a checked footprint; nothing is written yet. -/
def prepFoot (c : CtxId) (e : Foot × List (W64 × Phys)) (x : Nat) : M (List PiecePath) := do
  let qs ← prepPieces c e.2 x (pieces e.1.addr e.1.len)
  let s ← get
  if qs.any fun q => !q.ok s then wait
  return qs

/-- Write what was prepared. -/
def commitFoot (c : CtxId) (qs : List PiecePath) : M Unit := modify fun s => qs.foldl (fun t q => commitPiece c q t) s

/-! ## The form of a tile instruction -/

/-- How far a tile instruction came in this step: it has committed, or stops before that. -/
inductive TileEnd where
  | done
  | stopped (e : Stop)
  deriving DecidableEq, Repr

/-- The meaning of a tile instruction: what has been performed when it waits or faults part-way stays (R200, R219). -/
def runTile (ecc : Option EccEvent) (body : CtxId → M TileEnd) (s0 : State) : Host.Outcome State Fault Refusal :=
  match issuing s0 with
  | none => .next s0
  | some c =>
    let s := strike c ecc s0
    let go : M TileEnd := do
      fetchCheck c
      body c
    if (s.getCtx c).rh then .next s
    else match go s with
      | .ok .done t => .next (retire c s t)
      | .ok (.stopped .wait) t => .next (accountChange s t)
      | .ok (.stopped e) t => .next (afterStop c t t e)
      | .error e t => .next (afterStop c s t e)

/-- The word of a tile instruction (R225). -/
def tileWord (op : BitVec 7) (f : BitVec 25) : W32 := op ++ f

/-- Row 2 of R132 for a tile instruction. -/
def needTile (ok : Bool) : M Unit := do needDef (enabled (← get) 2 && ok)

/-- A twin use (TW = 1) selects the feature TWIN (R83). -/
def needTwin (twin : Bool) : M Unit := do needDef (!twin || enabled (← get) 4)

/-- PROG q is of this instruction (R201). -/
def progMatches (c : CtxId) (w : W32) (pc p : W64) : Bool := bit p 8 && fld p 9 2 == c && fld p 16 16 == fld pc 2 16 && fld p 32 32 == w

/-- Row 4 of R230: ownership (R179), progress pending (R202), power (R214, R215). `free`: TSAVE, TRESTORE and TKILL, which a
pending instruction does not stop. A TSAVE or TRESTORE under way comes first, as it settles every PROG (R180, R203); the three, which touch
all of the tile state, wait for every earlier instruction (R217). The answer is where the instruction starts (R201), or how far it has
come. -/
def tileGate (c : CtxId) (w : W32) (q : BitVec 2) (free : Bool) : M TilePart := do
  let s ← get
  let pc := (s.getCtx c).pc
  let t := s.tile
  if s.drover.owner != c then tileTrap 0
  if t.imaging then wait
  let p := t.prog.get q
  let cont := progMatches c w pc p
  let others := progPending { t with prog := t.prog.set q 0 }
  if !free && (others || (bit p 8 && !cont)) then tileTrap 2
  if !t.tpOn then tileTrap 1
  if !t.tpPowered || (free && t.busy) then wait
  match t.part with
  | some x => if x.ctx == c && x.pc == pc && x.word == w then return x
  | none => pure ()
  return ⟨c, pc, w, q, if cont && !free then fldN p 6 2 else 0, if cont && !free then fldN p 0 6 else 0, false, false, [], !free⟩

/-- An instruction that completes writes 0 to the PROG that it continued (R201). -/
def endProg (c : CtxId) (w : W32) (q : BitVec 2) (pc : W64) (t : Tile) : Tile :=
  if progMatches c w pc (t.prog.get q) then { t with prog := t.prog.set q 0 } else t

/-- The job of an instruction that a context commits: its events have the privilege and world of that context's ST (R454). -/
def TileJob.causedBy (j : TileJob) (k : Ctx) : TileJob := { j with op := { j.op with sup := k.sup, world := k.world } }

/-- A tile instruction commits and retires (R216): it stands in the tile unit's queue, with the rows it has still to perform, until it
completes. -/
def commitJob (job : Option TileJob) (c : CtxId) : M TileEnd := do
  modify fun s => countCtx 0 0x0C 1 c none { s with tile := { s.tile with
    part := none, tileq := match job with | some j => s.tile.tileq ++ [j.causedBy (s.getCtx c)] | none => s.tile.tileq } }
  modC c fun k => { k with pc := k.pc + 4, skipPair := false }
  return .done

/-- The job of an instruction that has performed all of its rows; its cause is noted as it commits. -/
def doneJob (c : CtxId) (w : W32) (q : BitVec 2) : TileJob := ⟨⟨c, w, q, false, 0, 0, 0, false, false⟩, 0, 0, []⟩

/-! ## Order among tile instructions (R180, R217, R254) -/

/-- The parts of registers and slots that are of an instruction's stream: all four outside Q-split. -/
def TileOp.parts (o : TileOp) : Nat := if o.split then 2 ^ o.stream.toNat else 15

/-- The tile state that an instruction touches, as a set of bits: quarter p of Tn is bit 4 × n + p, part p of slot i is bit 32 + 4 × i + p,
RMAX entry r is bit 160 + r, and the latches of part p are bit 192 + p. Sticky flags are left out: the order of what sets them is not seen.
-/
def TileOp.touches (o : TileOp) : Nat :=
  let f := fun (lo n : Nat) => fldN o.word lo n
  let reg := fun (lo : Nat) (fmt : Nat) =>
    (o.parts ||| (if fmt == 6 || fmt == 7 then o.parts <<< 4 else 0)) <<< (4 * f lo 3)
  let slots := fun (lo tw : Nat) => (o.parts ||| (if bit o.word tw then o.parts <<< 64 else 0)) <<< (32 + 4 * f lo 5)
  let rmax := fun (gm : Nat) =>
    if !bit o.word gm then 0
    else if o.split then 0xFFFF <<< (160 + 16 * (o.stream.toNat / 2)) else 0xFFFFFFFF <<< 160
  let fmt := fldN o.desc 12 4
  match f 25 7 with
  | 0x60 | 0x61 => reg 20 fmt
  | 0x62 => slots 18 4 ||| reg 12 fmt ||| (if bit o.word 2 then 0 else reg 15 fmt) ||| o.parts <<< 192
  | 0x63 => reg 15 0 ||| slots 18 10
  | 0x64 | 0x65 => slots 18 13
  | 0x66 => match f 21 2 with
    | 0 => (List.range 8).foldl (fun a n => if bit o.word n then a ||| 15 <<< (4 * n) else a) 0
    | 1 | 2 => slots 16 15
    | _ => 2 ^ 196 - 1
  | 0x67 => reg 20 0 ||| reg 17 0 ||| reg 14 0
  | 0x68 => reg 20 (fldN o.desc 47 4) ||| reg 17 fmt ||| rmax 12
  | 0x69 | 0x6A => reg 20 0 ||| reg 17 0
  | 0x6B =>
    let scales := if o.split then 3 <<< (2 * (o.stream.toNat % 2)) else 15
    slots 18 17 ||| (if bit o.word 10 then scales <<< (4 * f 7 3) else 0) ||| rmax 6
  | 0x6D => 0
  | _ => 2 ^ 196 - 1

/-- A later instruction waits for job j with this row of it: j has work to do and touches tile state that the later one touches (R254), or
has a row to perform in the same bytes of its context (R224). -/
def TileJob.holdsUp (j : TileJob) (o : TileOp) (row : RowPages) : Bool :=
  !j.rest.isEmpty && (j.op.touches &&& o.touches != 0 || (j.op.ctx == o.ctx && j.rest.any fun r => rowsMeet r row))

/-- Perform rows of o in their turn, behind the jobs that go before it. -/
def inTurn (before : List TileJob) (o : TileOp) (perform : Nat → Nat → RowPages → M Unit) (p r : Nat) (row : RowPages) : M Unit := do
  if before.any fun j => j.holdsUp o row then wait
  perform p r row

/-- A tile instruction without row checks commits (R218), having changed the tile state already; `queued`: it completes later. -/
def commitTile (c : CtxId) (w : W32) (q : BitVec 2) (queued : Bool) : M TileEnd := do
  let pc := (← getC c).pc
  modify fun s => { s with tile := endProg c w q pc s.tile }
  commitJob (if queued then some (doneJob c w q) else none) c

/-- A tile instruction without row checks commits (R218). It does its work at once, or in its turn, where an earlier instruction holds it up
(R216, R254). `eff`: its work from a pass and a row on. -/
def tileWhole (o : TileOp) (x : TilePart) (eff : Nat → Nat → M Unit) : M TileEnd := do
  let s ← get
  if s.tile.tileq.any fun j => j.holdsUp o [] then
    modify fun t => { t with tile := endProg o.ctx o.word o.stream x.pc t.tile }
    commitJob (some ⟨o, x.pass, x.rows, [[]]⟩) o.ctx
  else
    eff x.pass x.rows
    commitTile o.ctx o.word o.stream true

/-! ## Rows (R219 to R222) -/

/-- How the rows of a tile instruction are checked and performed. `finish` is done once the last row has been performed. -/
structure RowWork where
  passes : Nat
  rows : Nat
  check : Nat → Nat → M RowPages
  perform : Nat → Nat → RowPages → M Unit
  finish : M Unit

/-- The work of an instruction without row checks, as one row. -/
def wholeWork (eff : Nat → Nat → M Unit) : RowWork where
  passes := 1
  rows := 1
  check _ _ := return []
  perform p r _ := eff p r
  finish := pure ()

/-- Perform checked rows in order, as far as their data has come and their writes can go (R219). -/
def performRows (perform : Nat → Nat → RowPages → M Unit) (p : Nat) : (r : Nat) → List RowPages → M (Nat × List RowPages)
  | r, [] => return (r, [])
  | r, row :: rest => do
    match ← soft (perform p r row) with
    | none => return (r, row :: rest)
    | some _ => performRows perform p (r + 1) rest

/-- Check and perform rows as far as possible (R219): all of them (`done`: every check has passed, and the rows left are of the last pass),
or up to a wait or a failed check before which every row is performed (R220). Once an interrupt or a switch is due no further check begins
(R221, R405). -/
def rowLoop (c : CtxId) (k : RowWork) : (fuel : Nat) → TilePart → M (TileEnd × TilePart)
  | 0, x => return (.stopped .wait, x)
  | fuel + 1, x => do
    let (r, left) ← performRows k.perform x.pass x.rows x.checked
    let y := { x with rows := r, checked := left, any := x.any || x.rows != r }
    let next := r + left.length
    let last := decide (k.passes ≤ x.pass + 1)
    if k.rows ≤ next && last then return (.done, y)
    else if k.rows ≤ next then
      if left.isEmpty then rowLoop c k fuel { y with pass := y.pass + 1, rows := 0 } else return (.stopped .wait, y)
    else if !y.checking && boundaryDue (← get) c then return (.stopped .wait, y)
    else fun s => match k.check y.pass next s with
      | .ok row t => rowLoop c k fuel { y with checked := left ++ [row], checking := false } t
      | .error .wait t => .ok (.stopped .wait, { y with checking := true }) t
      | .error e t => .ok (if left.isEmpty then .stopped e else .stopped .wait, { y with checking := false }) t

/-- Run a tile instruction that goes row by row from where it stands (R219): it commits once every check has passed (R216), with the rows
that it has still to perform; else it stops, and its progress is kept. -/
def tileRows (o : TileOp) (x : TilePart) (k : RowWork) : M TileEnd := do
  let before := (← get).tile.tileq
  match ← rowLoop o.ctx { k with perform := inTurn before o k.perform } (k.passes * (k.rows + 1) + 1) x with
  | (.done, y) =>
    if y.checked.isEmpty then k.finish
    modify fun s => if y.records then { s with tile := endProg o.ctx o.word o.stream y.pc s.tile } else s
    commitJob (some ⟨o, y.pass, y.rows, y.checked⟩) o.ctx
  | (e, y) =>
    let begun := y.any || y.checking || !y.checked.isEmpty
    modify fun s => { s with tile := { s.tile with part := if begun then some y else none } }
    return e

/-- A committed instruction performs rows that it has still to perform, in its turn (R216). -/
def workJob (before : List TileJob) (perform : Nat → Nat → RowPages → M Unit) (finish : M Unit) (j : TileJob) : M TileJob := do
  let (r, left) ← performRows (inTurn before j.op perform) j.pass j.row j.rest
  if left.isEmpty then finish
  return { j with row := r, rest := left }

/-! ## Base registers (R227, R230) -/

/-- The register that BR names. -/
def Ctx.baseReg (k : Ctx) (br : BitVec 2) : TWord := if br == 0 then k.getA else if br == 1 then k.getX else k.getY

/-- Rows 7 and 8 of R230 for the bases of an instruction: every tag, then every alignment. -/
def needBases (c : CtxId) (align : Nat) (brs : List (BitVec 2)) : M Unit := do
  let k ← getC c
  for br in brs do
    let t := (k.baseReg br).tag
    if t != Tag.dptr then tagFault t
  for br in brs do needAligned (k.baseReg br).val align

/-- Row 5 of R230. -/
def needShape (ok : Bool) : M Unit := if ok then pure () else raise 14

/-- Row 6 of R230: the name of an accumulator tile is valid in its use (R190). -/
def needFold (n : BitVec 5) (twin : Bool) : M Unit := do
  let t := (← get).tile.ntw.toNat
  let i := n.toNat
  let ok := if twin then decide (i < t) else (decide (t ≤ i) && decide (i ≤ 15)) || decide (16 + t ≤ i)
  if ok then pure () else raise 15 (n.setWidth 8 ||| bAt 5 twin)

end Sys2Proof.Machine
end

