-- ==== Sys2Proof/Machine/TileShape.lean ====
section
/-!
DEFINITION. Shape descriptors (06 R185 to R188), what a captured one must satisfy (07 R231) and the features it selects (02 R83).
-/

namespace Sys2Proof.Machine

open Sys2Proof

/-- A shape descriptor (R185). -/
structure Shape where
  bits : W64
  deriving DecidableEq, Repr

namespace Shape
/-- Rows. -/
def rows (d : Shape) : Nat := fldN d.bits 0 5 + 1
/-- Elements per row. -/
def count (d : Shape) : Nat := fldN d.bits 5 7 + 1
/-- Element format. -/
def fmt (d : Shape) : BitVec 4 := fld d.bits 12 4
/-- Bytes from one row to the next. -/
def stride (d : Shape) : Nat := fldN d.bits 16 20
/-- Scale mode. -/
def scm (d : Shape) : Nat := fldN d.bits 36 2
/-- Overflow policy. -/
def ovp (d : Shape) : Nat := fldN d.bits 38 2
/-- Retry shift k. -/
def shift (d : Shape) : Nat := fldN d.bits 40 3 + 1
/-- Retries per step. -/
def limit (d : Shape) : Nat := fldN d.bits 43 4
/-- Output conversion format. -/
def ocv (d : Shape) : BitVec 4 := fld d.bits 47 4
/-- Container width. -/
def width (d : Shape) : Nat := fmtBits d.fmt
/-- Integer results saturate (R185). -/
def sat (d : Shape) : Bool := d.ovp != 1
/-- Where row r begins (R228). -/
def rowAt (d : Shape) (base : W64) (r : Nat) : W64 := base + BitVec.ofNat 64 (d.stride * r)
/-- Bytes of scales in a footprint (R228). -/
def scaleBytes (d : Shape) : Nat := if d.scm = 1 then (d.count + 31) / 32 else if d.scm = 2 then 4 else 0
/-- Bytes of a footprint of TLD, TST and TMMA (R228). -/
def rowBytes (d : Shape) : Nat := d.count * d.width / 8 + d.scaleBytes

/-- R188, and the conditions of R231 for every instruction with a descriptor. -/
def ok (d : Shape) (qs : Bool) : Bool :=
  !fmtReserved d.fmt && decide (d.count ≤ fmtElems false d.fmt) && d.stride % 16 == 0 &&
  d.scm != 3 && d.ovp != 3 && (d.scm == 1) == fmtMx d.fmt && (d.scm != 2 || d.fmt == fINT8 || d.fmt == fINT4) &&
  !fmtReserved d.ocv && d.count * d.width % 8 == 0 &&
  (!qs || (decide (d.rows ≤ 16) && decide (d.count ≤ fmtElems true d.fmt) && !fmtMx6 d.fmt && d.scm != 2))

/-- The logical row that a footprint holds. -/
def split (d : Shape) (x : Nat) : LRow :=
  ⟨x % 2 ^ (d.count * d.width), x / 2 ^ (d.count * d.width) % 2 ^ (8 * d.scaleBytes)⟩

/-- The footprint of a logical row. -/
def join (d : Shape) (x : LRow) : Nat :=
  x.bits % 2 ^ (d.count * d.width) + x.scale % 2 ^ (8 * d.scaleBytes) * 2 ^ (d.count * d.width)
end Shape

/-- The feature that a format selects is enabled (R83). -/
def fmtEnabled (s : State) (f : BitVec 4) : Bool :=
  (f != fF19 || enabled s 5) && (!fmtMx f || enabled s 6) && (f != fINT4 || enabled s 7)

/-- Capture descriptor n at decode (R187), as the instructions before leave it: a TRESTORE under way is yet to load it (R180). -/
def captureShape (n : BitVec 2) : M Shape := do
  let s ← get
  if s.tile.imaging then wait
  return ⟨s.tile.sd.get n⟩

/-- Row 2 of R132 for a tile instruction with a descriptor: `ocv` when it uses OCV, `mma` for TMMA (R83). -/
def needTileShape (wordOk : Bool) (d : Shape) (ocv mma : Bool) : M Unit := do
  let s ← get
  needTile (wordOk && fmtEnabled s d.fmt && (!ocv || fmtEnabled s d.ocv) && !(mma && d.fmt == fFP32 && !enabled s 5))

/-- Q-split mode (R195). -/
def qsplit (s : State) : Bool := bit s.tile.tcfg 0

/-- The stream of an instruction. A Q that is not zero outside Q-split is a tile-shape fault (R226). -/
def needStream (q : BitVec 2) : M Stream := do
  let qs := qsplit (← get)
  needShape (qs || q == 0)
  return if qs then some q else none

/-- The flush bit of an engine (R195): 1 array, 2 row engine, 3 output path. -/
def flushing (s : State) (i : Nat) : Bool := bit s.tile.tcfg i

end Sys2Proof.Machine
end

