-- ==== Sys2Proof/Machine/TileArray.lean ====
section
/-!
DEFINITION. Tile loads and stores, multiplies, moves and clears (07 R232 to R242).
-/

namespace Sys2Proof.Machine

open Sys2Proof

/-! ## What a captured instruction does row by row -/

/-- The operands of a row-by-row instruction. -/
structure RowArgs where
  f : BitVec 25
  c : CtxId
  v : Stream
  d : Shape
  base : W64
  base2 : W64
  sup : Bool
  world : Bool
  deriving DecidableEq, Repr

/-- The operands that a captured instruction names (R187, R223). -/
def TileOp.args (o : TileOp) : RowArgs :=
  ⟨fld o.word 0 25, o.ctx, if o.split then some o.stream else none, ⟨o.desc⟩, o.base, o.base2, o.sup, o.world⟩

/-- The instruction as it is captured. -/
def RowArgs.op (g : RowArgs) (opc : BitVec 7) : TileOp :=
  ⟨g.c, tileWord opc g.f, fld g.f 23 2, g.v.isSome, g.d.bits, g.base, g.base2, g.sup, g.world⟩

/-- The cause of its events (R454). -/
def RowArgs.cause (g : RowArgs) : Option (Bool × Bool) := some (g.sup, g.world)

/-- The operands of an instruction of context c, with its base and a second one, or 0. -/
def rowArgs (f : BitVec 25) (c : CtxId) (v : Stream) (d : Shape) (base base2 : W64) : M RowArgs := do
  let k ← getC c
  return ⟨f, c, v, d, base, base2, k.sup, k.world⟩

/-- The bytes of the part of a row with this number, or 0. `tmp`: fills are of normal age; DEDUCED (log 80): so are those of instructions
without a TMP bit. -/
def readPart (c : CtxId) (tmp : Bool) (row : RowPages) (i : Nat) : M Nat :=
  match row[i]? with
  | some e => readFoot c tmp e
  | none => return 0

/-- Prepare the part of a row with this number to be written. -/
def prepPart (c : CtxId) (row : RowPages) (i x : Nat) : M (List PiecePath) :=
  match row[i]? with
  | some e => prepFoot c e x
  | none => return []

/-! ## TLD and TST (R232) -/

/-- Tn of TLD and TST. -/
def RowArgs.tn (g : RowArgs) : Nat := fldN g.f 20 3

/-- A row of TLD. -/
def tldWork (g : RowArgs) : RowWork where
  passes := 1
  rows := g.d.rows
  check _ r := rowCheck g.c [⟨g.d.rowAt g.base r, g.d.rowBytes, false⟩]
  perform _ r row := do
    let x ← readPart g.c (bit g.f 15) row 0
    modTile fun t => t.setLrow g.v (fmtMx6 g.d.fmt) g.tn r (g.d.split x)
  finish := pure ()

/-- TLD: bit 15 is TMP. -/
def tldBody (f : BitVec 25) (c : CtxId) : M TileEnd := do
  let q := fld f 23 2
  let br := fld f 16 2
  let d ← captureShape (fld f 18 2)
  needTileShape (br != 3 && fld f 0 15 == 0) d false false
  let x ← tileGate c (tileWord 0x60 f) q false
  let v ← needStream q
  needShape (d.ok v.isSome && !(fmtMx6 d.fmt && bit f 20))
  needBases c 16 [br]
  let g ← rowArgs f c v d ((← getC c).baseReg br).val 0
  tileRows (g.op 0x60) x (tldWork g)

/-- A row of TST. -/
def tstWork (g : RowArgs) : RowWork where
  passes := 1
  rows := g.d.rows
  check _ r := rowCheck g.c [⟨g.d.rowAt g.base r, g.d.rowBytes, true⟩]
  perform _ r row := do
    let s := meetLrow g.v (fmtMx6 g.d.fmt) g.tn r (← get)
    let ps ← prepPart g.c row 0 (g.d.join ((veiled s).lrow g.v (fmtMx6 g.d.fmt) g.tn r))
    modify fun t => meetLrow g.v (fmtMx6 g.d.fmt) g.tn r t
    let _ ← readTile
    commitFoot g.c ps
  finish := pure ()

/-- TST. -/
def tstBody (f : BitVec 25) (c : CtxId) : M TileEnd := do
  let q := fld f 23 2
  let br := fld f 16 2
  let d ← captureShape (fld f 18 2)
  needTileShape (br != 3 && fld f 0 16 == 0) d false false
  let x ← tileGate c (tileWord 0x61 f) q false
  let v ← needStream q
  needShape (d.ok v.isSome && !(fmtMx6 d.fmt && bit f 20))
  needBases c 16 [br]
  let g ← rowArgs f c v d ((← getC c).baseReg br).val 0
  tileRows (g.op 0x61) x (tstWork g)

/-! ## TMMA (R233 to R238) -/

/-- The fields of TMMA. -/
structure MmaArgs where
  v : Stream
  d : Shape
  ac : Nat
  tb : Nat
  n : Nat
  twin : Bool
  deriving DecidableEq, Repr

/-- The master of the array's events (R453, R454): the quadrant in Q-split. -/
def arrayMaster (v : Stream) : Master := match v with | none => .none | some q => .quad q

/-- Count n events of the array, with the privilege and world of their cause. -/
def countArray (evt n : Nat) (v : Stream) (cause : Option (Bool × Bool)) (s : State) : State :=
  countEvent 3 evt n cause (arrayMaster v) none s

/-- A row of stream v is accumulated after n retries: the array's slots (R460), its events (R458) and the steps it took (R452), while the
counters run. The rows behind it that each retry replays, seven at most, and the steps of the shifts are free numbers (R292, R3). -/
def countRow (v : Stream) (cause : Option (Bool × Bool)) (n : Nat) (s : State) : State :=
  if !counting s then s
  else
    let replays := if n = 0 then 0 else Config.freeNat s.free % (7 * n + 1)
    let shifts := if n = 0 then 0 else Config.freeNat (s.free + 1)
    let q := v.getD 0
    let wasted := n + replays + shifts
    let t := { s with
      free := if n = 0 then s.free else s.free + 2
      perf := { s.perf with
        rowDebt := s.perf.rowDebt.set q (s.perf.rowDebt.get q + 1 + wasted)
        shiftDebt := s.perf.shiftDebt.set q (s.perf.shiftDebt.get q + shifts) } }
    countArray 5 n v cause (countArray 4 1 v cause (countArray 1 wasted v cause (countArray 0 1 v cause t)))

/-- The high parts of A serve passes 0 and 1, those of B passes 0 and 2 (R236). -/
def mmaHigh (isB : Bool) (pass : Nat) : Bool := if isB then pass != 1 else pass != 2

/-- EM1 of the captured descriptor: what a latch bank is known by (R207). -/
def MmaArgs.em1 (g : MmaArgs) : BitVec 7 := fld g.d.bits 5 7

/-- The bank that serves the multiply, if one does (R207). -/
def MmaArgs.bank (g : MmaArgs) (t : Tile) : Option Latch := t.findLatch g.v (BitVec.ofNat 3 g.tb) g.d.fmt g.em1

/-- Tb, or its quarter, is read whole into a bank (R207, R253), or read from the bank that serves the multiply: the errors are found. -/
def meetB (g : MmaArgs) (s : State) : State :=
  match g.bank s.tile with
  | some l => meetLatch l s
  | none => match g.v with
    | none => meetReg g.tb (fmtMx6 g.d.fmt) 0 32 s
    | some q => meetReg g.tb false (8 * q.toNat) (8 * q.toNat + 8) s

/-- The elements of slots that row m accumulates into are read: their errors are found. -/
def meetAcc (g : MmaArgs) (m : Nat) (s : State) : State :=
  let t := meetFold g.v g.ac m s
  if g.twin then meetFold g.v (g.ac + 16) m t else t

/-- Row m of the A operand, multiplied and accumulated in one pass (R234). -/
def mmaRow (g : MmaArgs) (cause : Option (Bool × Bool)) (pass m : Nat) (a : LRow) : M Unit := do
  modify fun s => meetAcc g m (meetB g s)
  let s ← get
  let t ← readTile
  let d := g.d
  let tb := match g.bank t with | some l => t.through l | none => t
  let brows := (List.range g.n).map fun n => tb.lrow g.v (fmtMx6 d.fmt) g.tb n
  if fmtInt d.fmt then
    let ints := fun (x : LRow) => (elems d.width d.count x.bits).map (intOf d.width)
    let (u, n) := intStep g.v g.ac m d.ovp d.shift (ints a) (brows.map ints) d.limit s.tile
    modify fun t => countRow g.v cause n { t with tile := u }
  else
    let fz := flushing s 1
    let (xs, fa) := factors fz d.fmt d.count (mmaHigh false pass) a
    let bs := brows.map fun x => factors fz d.fmt d.count (mmaHigh true pass) x
    let fb := bs.foldl (fun x b => x ||| b.2) 0
    let u := if g.twin then twinStep g.v d.fmt fz g.ac m xs (bs.map (·.1)) s.tile
      else singleStep g.v d.fmt fz g.ac m xs (bs.map (·.1)) s.tile
    modify fun t => countRow g.v cause 0 { t with tile := u.orFlags g.v.no (fa ||| fb) }

/-- The latch banks after the multiply (R206, R207, R237). -/
def mmaLatch (g : MmaArgs) (keep : Bool) (cause : Option (Bool × Bool)) : M Unit := modify fun s =>
  let (t, served) := s.tile.serveLatch g.v (BitVec.ofNat 3 g.tb) g.d.fmt g.em1 keep
  countArray (if served then 7 else 6) 1 g.v cause { s with tile := t }

/-- The multiply that a captured TMMA is. -/
def RowArgs.mma (g : RowArgs) : MmaArgs := ⟨g.v, g.d, fldN g.f 18 5, fldN g.f 12 3, fldN g.f 5 5 + 1, bit g.f 4⟩

/-- Passes of a multiply (R236). -/
def Shape.passes (d : Shape) : Nat := if d.fmt == fFP32 then 3 else 1

/-- A row of TMMA with MA = 1. -/
def tmmaWork (g : RowArgs) : RowWork where
  passes := g.d.passes
  rows := g.d.rows
  check _ m := rowCheck g.c [⟨g.d.rowAt g.base m, g.d.rowBytes, false⟩]
  perform p m row := do
    let x ← readPart g.c true row 0
    mmaRow g.mma g.cause p m (g.d.split x)
  finish := mmaLatch g.mma (bit g.f 3) g.cause

/-- The rows of an instruction without row checks, from the pass and the row where it starts (R201). -/
def rowsFrom (pass row passes rows : Nat) : List (Nat × Nat) :=
  ((List.range passes).flatMap fun p => (List.range rows).map fun r => (p, r)).filter fun e =>
    decide (pass < e.1) || (e.1 == pass && decide (row ≤ e.2))

/-- What TMMA with MA = 0 does. -/
def tmmaEff (g : RowArgs) (pass row : Nat) : M Unit := do
  let mx6 := fmtMx6 g.d.fmt
  for e in rowsFrom pass row g.d.passes g.d.rows do
    modify (meetLrow g.v mx6 (fldN g.f 15 3) e.2)
    mmaRow g.mma g.cause e.1 e.2 ((← readTile).lrow g.v mx6 (fldN g.f 15 3) e.2)
  mmaLatch g.mma (bit g.f 3) g.cause

/-- TMMA. -/
def tmmaBody (f : BitVec 25) (c : CtxId) : M TileEnd := do
  let q := fld f 23 2
  let br := fld f 0 2
  let ma := bit f 2
  let twin := bit f 4
  let d ← captureShape (fld f 10 2)
  needTileShape (if ma then br != 3 && fld f 15 3 == 0 else br == 0) d false true
  needTwin twin
  let x ← tileGate c (tileWord 0x62 f) q false
  let v ← needStream q
  needShape (d.ok v.isSome && d.fmt != fINT32 && (d.fmt != fFP32 || twin) && !(twin && fmtInt d.fmt) &&
    decide (fldN f 5 5 + 1 ≤ v.side) && !(fmtMx6 d.fmt && (bit f 15 || bit f 12)))
  needFold (fld f 18 5) twin
  if ma then
    needBases c 16 [br]
    let g ← rowArgs f c v d ((← getC c).baseReg br).val 0
    tileRows (g.op 0x62) x (tmmaWork g)
  else
    let g ← rowArgs f c v d 0 0
    tileWhole (g.op 0x62) x (tmmaEff g)

/-! ## TMOVA (R239) -/

/-- One row of a move. -/
def movaRow (v : Stream) (dir : Bool) (slot col count t r : Nat) (x : Tile) : Tile :=
  if dir then Tile.setAccRow v slot r ((elems 32 count (x.lrow v false t r).bits).map (BitVec.ofNat 32)) col x
  else
    x.setLrow v false t r ⟨packElems 32 ((List.range count).map fun i => (x.acc v slot r (col + i)).toNat), 0⟩

/-- The slot that TMOVA names: in twin use bit 9 picks the low one. -/
def RowArgs.movaSlot (g : RowArgs) : Nat := if bit g.f 9 then fldN g.f 18 5 + 16 else fldN g.f 18 5

/-- What TMOVA does. -/
def tmovaEff (g : RowArgs) (pass row : Nat) : M Unit := do
  let dir := bit g.f 12
  let ac := fldN g.f 18 5
  let slot := g.movaSlot
  let col := if bit g.f 11 then g.v.side / 2 else 0
  let rows := (rowsFrom pass row 1 g.d.rows).map (·.2)
  modify fun s => rows.foldl (fun t r => if dir then meetLrow g.v false (fldN g.f 15 3) r t else meetFold g.v slot r t) s
  modTile fun t =>
    let t := if dir && bit g.f 10 then (t.useSlot ac).useSlot (ac + 16) else t
    rows.foldl (fun x r => movaRow g.v dir slot col g.d.count (fldN g.f 15 3) r x) t

/-- TMOVA. -/
def tmovaBody (f : BitVec 25) (c : CtxId) : M TileEnd := do
  let q := fld f 23 2
  let twin := bit f 10
  let d ← captureShape (fld f 13 2)
  needTileShape (fld f 0 9 == 0 && (twin || !bit f 9)) d false false
  needTwin twin
  let x ← tileGate c (tileWord 0x63 f) q false
  let v ← needStream q
  needShape (d.ok v.isSome && (d.fmt == fFP32 || d.fmt == fINT32) && d.scm == 0 && decide (d.count ≤ v.side / 2))
  needFold (fld f 18 5) twin
  let g ← rowArgs f c v d 0 0
  tileWhole (g.op 0x63) x (tmovaEff g)

/-! ## TLDAC and TSTAC (R240, R241, R294) -/

/-- One row of a tile from data space: high parts or elements xs, and the low parts ys in twin use. -/
def ldacRow (d : Shape) (v : Stream) (fz twin add : Bool) (ac m : Nat) (xs ys : List Nat) (t : Tile) : Tile :=
  let w := fun (zs : List Nat) => zs.map (BitVec.ofNat 32)
  if !add then
    let u := Tile.setAccRow v ac m (w xs) 0 t
    if twin then Tile.setAccRow v (ac + 16) m (w ys) 0 u else u
  else if d.fmt == fINT32 then
    writeInts v ac m d.sat ((xs.zipIdx).map fun e => (t.acc v ac m e.2).toInt + intOf 32 e.1) t
  else if twin then
    let rs := ((xs.zip ys).zipIdx).map fun e =>
      let (h, f1) := readElem fz fFP32 e.1.1
      let (l, f2) := readElem fz fFP32 e.1.2
      let (a, b, f) := accTwin fz (t.acc v ac m e.2) (t.acc v (ac + 16) m e.2) (pairVal h l)
      (a, b, f ||| f1 ||| (if h.isFin then f2 else 0))
    (Tile.setAccRow v (ac + 16) m (rs.map (·.2.1)) 0 (Tile.setAccRow v ac m (rs.map (·.1)) 0 t)).orFlags v.no
      (rs.foldl (fun x r => x ||| r.2.2) 0)
  else
    let rs := (xs.zipIdx).map fun e =>
      let (x, f1) := readElem fz fFP32 e.1
      let (a, f) := accSingle fz (t.acc v ac m e.2) x
      (a, f ||| f1)
    (Tile.setAccRow v ac m (rs.map (·.1)) 0 t).orFlags v.no (rs.foldl (fun x r => x ||| r.2) 0)

/-- The shape checks of TLDAC and TSTAC (R231). -/
def acShapeOk (d : Shape) (v : Stream) (twin : Bool) (nc : Nat) : Bool :=
  d.ok v.isSome && (d.fmt == fFP32 || d.fmt == fINT32) && d.scm == 0 && !(twin && d.fmt == fINT32) && decide (nc ≤ v.side)

/-- Columns of TLDAC and TSTAC. -/
def RowArgs.acCols (g : RowArgs) : Nat := fldN g.f 6 5 + 1
/-- TW of TLDAC and TSTAC. -/
def RowArgs.acTwin (g : RowArgs) : Bool := bit g.f 13
/-- The slot of TLDAC and TSTAC. -/
def RowArgs.acSlot (g : RowArgs) : Nat := fldN g.f 18 5
/-- The footprint of a row of TLDAC and TSTAC. -/
def RowArgs.acFoot (g : RowArgs) (write : Bool) (r : Nat) : Foot :=
  ⟨g.d.rowAt g.base r, (if g.acTwin then 8 else 4) * g.acCols, write⟩

/-- The Fold rows of row r are read: their errors are found. -/
def RowArgs.meetAc (g : RowArgs) (r : Nat) (s : State) : State :=
  let t := meetFold g.v g.acSlot r s
  if g.acTwin then meetFold g.v (g.acSlot + 16) r t else t

/-- A row of TLDAC. -/
def tldacWork (g : RowArgs) : RowWork where
  passes := 1
  rows := g.d.rows
  check _ r := rowCheck g.c [g.acFoot false r]
  perform _ r row := do
    let x ← readPart g.c (bit g.f 11) row 0
    if bit g.f 12 then modify (g.meetAc r)
    let fz := flushing (← get) 1
    let nc := g.acCols
    modTile fun t => ldacRow g.d g.v fz g.acTwin (bit g.f 12) g.acSlot r (elems 32 nc x) (elems 32 nc (x / 2 ^ (32 * nc))) t
  finish := pure ()

/-- TLDAC. -/
def tldacBody (f : BitVec 25) (c : CtxId) : M TileEnd := do
  let q := fld f 23 2
  let br := fld f 14 2
  let d ← captureShape (fld f 16 2)
  needTileShape (br != 3 && fld f 0 6 == 0) d false false
  needTwin (bit f 13)
  let x ← tileGate c (tileWord 0x64 f) q false
  let v ← needStream q
  needShape (acShapeOk d v (bit f 13) (fldN f 6 5 + 1))
  needFold (fld f 18 5) (bit f 13)
  needBases c 16 [br]
  let g ← rowArgs f c v d ((← getC c).baseReg br).val 0
  tileRows (g.op 0x64) x (tldacWork g)

/-- A row of TSTAC. -/
def tstacWork (g : RowArgs) : RowWork where
  passes := 1
  rows := g.d.rows
  check _ r := rowCheck g.c [g.acFoot true r]
  perform _ r row := do
    let t := (g.meetAc r (← get)).tile
    let part := fun (i : Nat) => (List.range g.acCols).map fun n => (t.acc g.v i r n).toNat
    let xs := if g.acTwin then part g.acSlot ++ part (g.acSlot + 16) else part g.acSlot
    let ps ← prepPart g.c row 0 (packElems 32 xs)
    modify (g.meetAc r)
    commitFoot g.c ps
  finish := pure ()

/-- TSTAC. -/
def tstacBody (f : BitVec 25) (c : CtxId) : M TileEnd := do
  let q := fld f 23 2
  let br := fld f 14 2
  let d ← captureShape (fld f 16 2)
  needTileShape (br != 3 && fld f 0 6 == 0 && fld f 11 2 == 0) d false false
  needTwin (bit f 13)
  let x ← tileGate c (tileWord 0x65 f) q false
  let v ← needStream q
  needShape (acShapeOk d v (bit f 13) (fldN f 6 5 + 1))
  needFold (fld f 18 5) (bit f 13)
  needBases c 16 [br]
  let g ← rowArgs f c v d ((← getC c).baseReg br).val 0
  tileRows (g.op 0x65) x (tstacWork g)

/-! ## Clearing (R242) -/

/-- The word of opcode 0x66 from Q, FN and the rest. -/
def clearWord (q fn : BitVec 2) (r : BitVec 21) : W32 := tileWord 0x66 (q ++ (fn ++ r))

/-- Zero to every element of stream v's part of slot i, and to its exponents: a write (R197), which its errors do not outlive (R487). -/
def clearPart (v : Stream) (i : Nat) (t : Tile) : Tile :=
  (((t.useSlot i).mapPart v i fun _ => 0).setExponents v i fun _ => 0).clearErrs 5 fun loc =>
    loc / 512 == i && v.all fun q => q.toNat == 2 * (loc % 512 / 256) + loc % 16 / 8

/-- What TZERO.T, TZERO.A and TCLR.A do. -/
def clearEff (g : RowArgs) : M Unit := modTile fun t =>
  let n := fldN g.f 16 5
  let one := fun (i : Nat) (x : Tile) => if fldN g.f 21 2 = 1 then x.killSlot i else clearPart g.v i x
  if fldN g.f 21 2 = 0 then (List.range 8).foldl (fun u n => if bit g.f n then u.killReg n else u) t
  else if bit g.f 15 then one (n + 16) (one n t) else one n t

/-- TZERO.T. -/
def tzeroTBody (q : BitVec 2) (r : BitVec 21) (c : CtxId) : M TileEnd := do
  needTile (fld r 8 13 == 0)
  let x ← tileGate c (clearWord q 0 r) q false
  let v ← needStream q
  let g ← rowArgs (q ++ (0#2 ++ r)) c v ⟨0⟩ 0 0
  tileWhole (g.op 0x66) x fun _ _ => clearEff g

/-- TZERO.A: not in Q-split (R231). -/
def tzeroABody (q : BitVec 2) (r : BitVec 21) (c : CtxId) : M TileEnd := do
  needTile (fld r 0 15 == 0)
  needTwin (bit r 15)
  let x ← tileGate c (clearWord q 1 r) q false
  let v ← needStream q
  needShape v.isNone
  needFold (fld r 16 5) (bit r 15)
  let g ← rowArgs (q ++ (1#2 ++ r)) c v ⟨0⟩ 0 0
  tileWhole (g.op 0x66) x fun _ _ => clearEff g

/-- TCLR.A. -/
def tclrABody (q : BitVec 2) (r : BitVec 21) (c : CtxId) : M TileEnd := do
  needTile (fld r 0 15 == 0)
  needTwin (bit r 15)
  let x ← tileGate c (clearWord q 2 r) q false
  let v ← needStream q
  needFold (fld r 16 5) (bit r 15)
  let g ← rowArgs (q ++ (2#2 ++ r)) c v ⟨0⟩ 0 0
  tileWhole (g.op 0x66) x fun _ _ => clearEff g

/-- TKILL: it runs while an instruction is part-way, too (R202). -/
def tkillBody (q : BitVec 2) (r : BitVec 21) (c : CtxId) : M TileEnd := do
  needTile (q == 0 && r == 0)
  let w := clearWord q 3 r
  let _ ← tileGate c w q true
  modTile fun t => clearProg { t with
    trow := [], tuse := 0, fold := [], fuse := 0, acx := Vector.replicate 32 0, latch := [], errs := [] }
  commitTile c w q true

/-! ## The meanings -/

/-- TLD (R232). -/
def execTld (f : BitVec 25) (ecc : Option EccEvent) (s : State) : Host.Outcome State Fault Refusal := runTile ecc (tldBody f) s
/-- TST (R232). -/
def execTst (f : BitVec 25) (s : State) : Host.Outcome State Fault Refusal := runTile none (tstBody f) s
/-- TMMA (R234). -/
def execTmma (f : BitVec 25) (s : State) : Host.Outcome State Fault Refusal := runTile none (tmmaBody f) s
/-- TMOVA (R239). -/
def execTmova (f : BitVec 25) (s : State) : Host.Outcome State Fault Refusal := runTile none (tmovaBody f) s
/-- TLDAC (R241). -/
def execTldac (f : BitVec 25) (s : State) : Host.Outcome State Fault Refusal := runTile none (tldacBody f) s
/-- TSTAC (R241). -/
def execTstac (f : BitVec 25) (s : State) : Host.Outcome State Fault Refusal := runTile none (tstacBody f) s
/-- TZERO.T (R242). -/
def execTzeroT (q : BitVec 2) (r : BitVec 21) (s : State) : Host.Outcome State Fault Refusal := runTile none (tzeroTBody q r) s
/-- TZERO.A (R242). -/
def execTzeroA (q : BitVec 2) (r : BitVec 21) (s : State) : Host.Outcome State Fault Refusal := runTile none (tzeroABody q r) s
/-- TCLR.A (R242). -/
def execTclrA (q : BitVec 2) (r : BitVec 21) (s : State) : Host.Outcome State Fault Refusal := runTile none (tclrABody q r) s
/-- TKILL (R242). -/
def execTkill (q : BitVec 2) (r : BitVec 21) (s : State) : Host.Outcome State Fault Refusal := runTile none (tkillBody q r) s

end Sys2Proof.Machine
end

