-- ==== Sys2Proof/Machine/TileFn.lean ====
section
/-!
DEFINITION. The functions of TFN (07 R245). A result is a free value within its bound of the exact one (log 1, log 60). The exact
value is known as an interval, in units of 2^-640, narrower than 2^-300 of it.
-/

namespace Sys2Proof.Machine

open Sys2Proof

/-- Fraction bits of the fixed-point numbers of this file. -/
def fxW : Nat := 640

/-- ln 2, truncated. -/
def fxLn2 : Int :=
  0xb17217f7d1cf79abc9e3b39803f2f6af40f343267298b62d8a0d175b8baafa2be7b876206debac98559552fb4afa1b10ed2eae35c138214427573b291169b8253e96ca16224ae8c51acbda11317c387e

/-- 2 / √π, truncated. -/
def fxTwoOverSqrtPi : Int :=
  0x120dd750429b6d11ae3a914fed7fd8688281341d7587cea2e7342b06199cc416180eb39f0b24e1e2281806c12d98f35d77a3e9ddc91c394f0e9eedf0efffd84a2a4ac3b98489b8cbd3845e8fef6ff6af9

/-- √(2 / π), truncated. -/
def fxSqrtTwoOverPi : Int :=
  0xcc42299ea1b284687e59e2805d5c717fa7053e60a24e0db1808e369004c73a5d3bf158aa88fa7b6e47eba75766e9d11bd6284ef2e17c2a264f1d32688be119ff30505c3fb28f9c969d9b7adccb84672b

/-- An interval that holds a value. -/
structure FxRange where
  lo : Int
  hi : Int
  deriving DecidableEq, Repr

/-- v ± d. -/
def FxRange.around (v d : Int) : FxRange := ⟨v - d, v + d⟩

/-- A product. -/
def fxMul (a b : Int) : Int := a * b / 2 ^ fxW

/-- The Taylor sum of exp from the k-th term on. -/
def expTerms (z : Int) : (n k : Nat) → (term sum : Int) → Int
  | 0, _, _, sum => sum
  | n + 1, k, term, sum =>
    let t := fxMul term z / (k : Int)
    expTerms z n (k + 1) t (sum + t)

/-- Square n times. -/
def squareTimes : Nat → Int → Int
  | 0, y => y
  | n + 1, y => squareTimes n (fxMul y y)

/-- exp x for |x| < 2^11: exp(x / 2^20), squared 20 times. -/
def fxExp (x : Int) : FxRange :=
  let y := squareTimes 20 (expTerms (x / 2 ^ 20) 70 1 (2 ^ fxW) (2 ^ fxW))
  .around y (y / 2 ^ 400 + 2 ^ 160)

/-- Σ (−1)^k x^(2k+1) / (d^k k! (2k + 1)) from the k-th term on. -/
def erfTerms (x2 : Int) (d : Nat) : (n k : Nat) → (term sum : Int) → Int
  | 0, _, _, sum => sum
  | n + 1, k, term, sum =>
    let t := -(fxMul term x2) / ((d * k : Nat) : Int)
    erfTerms x2 d n (k + 1) t (sum + t / ((2 * k + 1 : Nat) : Int))

/-- erf x for |x| ≤ 4. -/
def fxErf (x : Int) : FxRange := .around (fxMul fxTwoOverSqrtPi (erfTerms (fxMul x x) 1 300 1 x x)) (2 ^ 140)

/-- 1 + erf (x / √2) for |x| ≤ 14. -/
def fxPhi2 (x : Int) : FxRange :=
  .around (2 ^ fxW + fxMul fxSqrtTwoOverPi (erfTerms (fxMul x x) 2 700 1 x x)) (2 ^ 140)

/-- The fraction bits of log2 y for y in [1, 2), one squaring a bit. -/
def logBits : Nat → (y acc : Int) → Int
  | 0, _, acc => acc
  | n + 1, y, acc =>
    let z := fxMul y y
    if 2 ^ (fxW + 1) ≤ z then logBits n (z / 2) (2 * acc + 1) else logBits n z (2 * acc)

/-- log2 of m × 2^e. -/
def fxLog2 (m : Nat) (e : Int) : FxRange :=
  let l := bitLen m - 1
  let y : Int := (m * 2 ^ (fxW - l) : Nat)
  let whole : Int := (e + l) * 2 ^ fxW
  if m = 2 ^ l then ⟨whole, whole⟩ else .around (whole + logBits 420 y 0 * 2 ^ (fxW - 420)) (2 ^ (fxW - 400))

/-- floor √n with whether it is exact. -/
def fxSqrt (n : Nat) (exact : Bool) : FxRange :=
  let q := isqrtFrom n (bitLen n / 2 + 1) 0
  ⟨q, if exact && q * q == n then q else q + 1⟩

/-- What a function of one element is: a value the spec fixes, or one within the bound around an interval of magnitudes. -/
inductive FnVal where
  | fixed (v : FpVal) (flags : TFlags)
  | near (neg : Bool) (r : FxRange)
  deriving DecidableEq, Repr

/-- A signed interval as a sign and magnitudes. -/
def FnVal.ofRange (r : FxRange) : FnVal :=
  if r.hi ≤ 0 ∧ r.lo < 0 then .near true ⟨-r.hi, -r.lo⟩ else .near false ⟨max r.lo 0, max r.hi 0⟩

/-- A limit that stands for an inexact value; `tiny`: the value is below the smallest normal. -/
def FnVal.limit (v : FpVal) (tiny : Bool) : FnVal := .fixed v (tNX ||| tIf tiny tUF)

/-- The interval of x × r for x and r of known sign. -/
def FxRange.scale (r : FxRange) (x : Int) : FxRange :=
  let a := fxMul r.lo x
  let b := fxMul r.hi x
  ⟨min a b - 1, max a b + 1⟩

/-- 1 / (1 + 1/E) for E = exp x. -/
def fxSigmoid (x : Int) : FxRange :=
  let e := fxExp x
  let q := fun (v : Int) => v * 2 ^ fxW / (v + 2 ^ fxW)
  ⟨q e.lo, q e.hi + 1⟩

/-- tanh x = (exp 2x − 1) / (exp 2x + 1). -/
def fxTanh (x : Int) : FxRange :=
  let e := fxExp (2 * x)
  let q := fun (v : Int) => (v - 2 ^ fxW) * 2 ^ fxW / (v + 2 ^ fxW)
  ⟨q e.lo, q e.hi + 1⟩

/-- The functions of x that are finite and not zero: x is the fixed-point value of ±m × 2^e, `lowest` the smallest normal. -/
def fnFinite (fn : Nat) (s : Bool) (m : Nat) (e : Int) (lowest : Int) : FnVal :=
  let v : FpVal := .fin s m e
  let big := v.cmp (.fin false 1 10) == .gt
  let low := v.cmp (.fin true 1 10) == .lt
  let x : Int := (if s then -1 else 1) * ((m : Int) * 2 ^ (fxW + e).toNat)
  let one : Int := 2 ^ fxW
  let pm : FpVal := .fin s 1 0
  let tiny := fun (r : FxRange) => decide (-lowest < r.lo)
  match fn with
  | 0 => if big then .fixed (.inf false) (tOV ||| tNX) else if low then .limit (.fin false 0 0) true else .ofRange (fxExp x)
  | 1 =>
    if big then .fixed (.inf false) (tOV ||| tNX)
    else if low then .limit (.fin false 0 0) true
    else if x % one = 0 then
      let n := x / one
      if n < -(fxW : Int) then .limit (.fin false 0 0) true else .near false ⟨2 ^ ((fxW : Int) + n).toNat, 2 ^ ((fxW : Int) + n).toNat⟩
    else .ofRange (fxExp (fxMul x fxLn2))
  | 2 => if s then .fixed (.nan true) 0 else .ofRange (fxLog2 m e)
  | 3 =>
    let q := 2 ^ ((fxW : Int) - e).toNat / m
    .near s ⟨q, if 2 ^ ((fxW : Int) - e).toNat % m = 0 then q else q + 1⟩
  | 4 => if s then .fixed (.nan true) 0
    else
      let n := 2 ^ (2 * (fxW : Int) - e).toNat
      .near false (fxSqrt (n / m) (n % m == 0))
  | 5 => if s then .fixed (.nan true) 0 else .near false (fxSqrt (m * 2 ^ (2 * (fxW : Int) + e).toNat) true)
  | 6 => if 9 * one ≤ x.natAbs then .limit pm false else .ofRange (fxTanh x)
  | 7 =>
    if 17 * one < x then .limit (.fin false 1 0) false
    else if x < -88 * one then .limit (.fin false 0 0) true
    else .ofRange (fxSigmoid x)
  | 8 =>
    if 9 * one < x then .limit v false
    else if x < -14 * one then .limit (.fin true 0 0) true
    else if x < -9 * one then .limit (.fin true 0 0) (tiny ((fxPhi2 x).scale (x / 2)))
    else .ofRange ((fxPhi2 x).scale (x / 2))
  | 9 =>
    if 17 * one < x then .limit v false
    else if low then .limit (.fin true 0 0) true
    else if x < -88 * one then .limit (.fin true 0 0) (tiny ((fxSigmoid x).scale x))
    else .ofRange ((fxSigmoid x).scale x)
  | _ => if 4 * one ≤ x.natAbs then .limit pm false else .ofRange (fxErf x)

/-- The function of any value (R245): NaN gives NaN, an infinity its limit, zero as the table says. -/
def fnValue (fn : Nat) (lowest : Int) (v : FpVal) : FnVal :=
  let fix := fun (x : FpVal) => FnVal.fixed x 0
  let zero := fun (s : Bool) => FpVal.fin s 0 0
  let half : FxRange := ⟨2 ^ (fxW - 1), 2 ^ (fxW - 1)⟩
  let unit : FxRange := ⟨2 ^ fxW, 2 ^ fxW⟩
  match v with
  | .nan _ => fix (.nan true)
  | .inf s =>
    match fn with
    | 0 | 1 => fix (if s then zero false else .inf false)
    | 2 | 5 => fix (if s then .nan true else .inf false)
    | 3 => fix (zero s)
    | 4 => fix (if s then .nan true else zero false)
    | 7 => fix (if s then zero false else .fin false 1 0)
    | 8 | 9 => fix (if s then zero true else .inf false)
    | _ => fix (.fin s 1 0)
  | .fin s m e =>
    if m = 0 then
      match fn with
      | 0 | 1 => .near false unit
      | 2 => fix (.inf true)
      | 3 | 4 => fix (.inf s)
      | 7 => .near false half
      | _ => fix (zero s)
    else fnFinite fn s m e lowest

/-- The largest distance from the exact value in units in the last place (R245). -/
def fnBound (f : BitVec 4) : Int := if f == fFP32 then 4 else 1

/-- The magnitude that TFN delivers: `Config.tfnSlip` places from the nearest one if that is within the bound, else the nearest. -/
def fnPick (f : BitVec 4) (slip : Int) (near : Nat) (r : FxRange) : Nat :=
  let g := fmtFloat f
  let cand := (near : Int) + slip
  let fix := fun (b : Nat) => match g.decode b with | .fin _ m e => (m : Int) * 2 ^ ((fxW : Int) + e).toNat | _ => 0
  let ulp : Int := match g.decode near with | .fin _ _ e => 2 ^ ((fxW : Int) + e).toNat | _ => 0
  let b := fnBound f
  if near < g.infBits ∧ 0 ≤ cand ∧ cand < g.infBits ∧ fix cand.toNat - r.hi ≤ b * ulp ∧ r.lo - fix cand.toNat ≤ b * ulp then
    cand.toNat
  else near

/-- TFN of one element (R245): its bits and its flags. EXP and EXP2 below the format's range give +0. -/
def fnElem (fn : Nat) (f : BitVec 4) (fz : Bool) (b : Nat) : Nat × TFlags :=
  let g := fmtFloat f
  let (v, fi) := readElem fz f b
  let lowest : Int := 2 ^ ((fxW : Int) + g.emin).toNat
  match fnValue fn lowest v with
  | .fixed x fl =>
    let (y, fr) := roundElem f false fz x
    (y, fi ||| fl ||| fr)
  | .near s r =>
    let (y, fr) := roundElem f false false (.fin false r.lo.toNat (-(fxW : Int)))
    let z := if fn < 2 ∧ y = 0 then 0 else fnPick f (Config.tfnSlip fn f.toNat (BitVec.ofNat 32 b)) y r
    let exact := r.lo == r.hi && (match g.decode z with
      | .fin _ m e => (m : Int) * 2 ^ ((fxW : Int) + e).toNat == r.lo
      | _ => false)
    let sub := decide (z < 2 ^ g.mbits)
    if fz && sub && z != 0 then (g.signed s 0, fi ||| tFZ ||| tUF ||| tNX)
    else (g.signed s z, fi ||| (fr &&& tOV) ||| tIf (!exact) tNX ||| tIf (!exact && sub) tUF)

end Sys2Proof.Machine
end

