-- ==== Sys2Proof/Machine/TileRow.lean ====
section
/-!
DEFINITION. The row engine (07 R243 to R246, 09 R296 to R301) and the epilogue (07 R247, 09 R302 to R306).
-/

namespace Sys2Proof.Machine

open Sys2Proof

/-! ## TROW (R243) -/

/-- An element of a comparison: all ones or zero in the container. -/
def cmpBits (w : Nat) (b : Bool) : Nat := if b then 2 ^ w - 1 else 0

/-- A function that has one source. -/
def rowUnary (fn : Nat) : Bool := fn == 8 || fn == 9 || fn == 10

/-- An element of a floating-point function: a, b, and the old element d. DESIGN CHOICE (log 77): where d is a NaN, MAC sets no NV for
0 × ∞, as R285 has it for an accumulation; R263 does not say. -/
def rowFloat (fn : Nat) (f : BitVec 4) (fz : Bool) (ab bb db : Nat) : Nat × TFlags :=
  let (a, fa) := readElem fz f ab
  let (b, fb) := if rowUnary fn then (a, 0) else readElem fz f bb
  let (d, fd) := if fn = 11 then readElem fz f db else (a, 0)
  let out := fun (v : FpVal) =>
    let (y, g) := roundElem f false fz v
    (y, g ||| fa ||| fb ||| fd)
  let nan := a.isNan || b.isNan
  let test := fun (p : Bool) => (cmpBits (fmtBits f) (!nan && p), fa ||| fb)
  match fn with
  | 0 => out (a.add b)
  | 1 => out (a.add b.negate)
  | 2 => out (a.mul b)
  | 3 => out (if nan then .nan false else if a.before b then b else a)
  | 4 => out (if nan then .nan false else if b.before a then b else a)
  | 5 => test (a.cmp b == .eq)
  | 6 => test (a.cmp b == .lt)
  | 7 => test (a.cmp b != .gt)
  | 8 => out (if a.neg? then a.negate else a)
  | 9 => out a.negate
  | 10 => out a
  | _ =>
    let p := a.mul b
    let (y, g) := out (d.add p)
    (y, g ||| (if d.isNan then 0 else p.invalid))

/-- An element of an integer function. -/
def rowInt (fn w : Nat) (sat : Bool) (ab bb db : Nat) : Nat × TFlags :=
  let a := intOf w ab
  let b := intOf w bb
  let out := fun (i : Int) =>
    let (j, g) := fitInt w sat i
    (intBits w j, g)
  let test := fun (p : Bool) => (cmpBits w p, (0 : TFlags))
  match fn with
  | 0 => out (a + b)
  | 1 => out (a - b)
  | 2 => out (a * b)
  | 3 => out (max a b)
  | 4 => out (min a b)
  | 5 => test (a == b)
  | 6 => test (decide (a < b))
  | 7 => test (decide (a ≤ b))
  | 8 => out a.natAbs
  | 9 => out (-a)
  | 10 => out a
  | _ => out (intOf w db + a * b)

/-- Row r of TROW; `brow` is row 0 of TB under BC. -/
def rowStep (d : Shape) (v : Stream) (fn : Nat) (sat fz : Bool) (td ta tb : Nat) (brow : Option LRow) (r : Nat) (t : Tile) : Tile :=
  let get := fun (x : LRow) => elems d.width d.count x.bits
  let as := get (t.lrow v false ta r)
  let bs := get (brow.getD (t.lrow v false tb r))
  let ds := get (t.lrow v false td r)
  let ys := (as.zip (bs.zip ds)).map fun e =>
    if fmtInt d.fmt then rowInt fn d.width sat e.1 e.2.1 e.2.2 else rowFloat fn d.fmt fz e.1 e.2.1 e.2.2
  (t.setLrow v false td r ⟨packElems d.width (ys.map (·.1)), 0⟩).orFlags 4 (ys.foldl (fun a y => a ||| y.2) 0)

/-- What TROW does. -/
def trowEff (g : RowArgs) (pass row : Nat) : M Unit := do
  let fn := fldN g.f 8 4
  let bc := bit g.f 7
  let (td, ta, tb) := (fldN g.f 20 3, fldN g.f 17 3, fldN g.f 14 3)
  let rows := (rowsFrom pass row 1 g.d.rows).map (·.2)
  modify fun s => rows.foldl (fun t r =>
    let u := meetLrow g.v false ta r t
    let u := if rowUnary fn then u else meetLrow g.v false tb (if bc then 0 else r) u
    if fn = 11 then meetLrow g.v false td r u else u) s
  let s ← get
  modTile fun t =>
    let brow := if bc then some (t.lrow g.v false tb 0) else none
    rows.foldl (fun t r => rowStep g.d g.v fn (bit g.f 6) (flushing s 2) td ta tb brow r t) t

/-- TROW. -/
def trowBody (f : BitVec 25) (c : CtxId) : M TileEnd := do
  let q := fld f 23 2
  let fn := fldN f 8 4
  let bc := bit f 7
  let d ← captureShape (fld f 12 2)
  needTileShape (fld f 0 6 == 0 && decide (fn ≤ 11) && (!rowUnary fn || (fld f 14 3 == 0 && !bc))) d false false
  let x ← tileGate c (tileWord 0x67 f) q false
  let v ← needStream q
  needShape (d.ok v.isSome && (fmtFp d.fmt || d.fmt == fINT8 || d.fmt == fINT32) && d.scm == 0)
  let g ← rowArgs f c v d 0 0
  tileWhole (g.op 0x67) x (trowEff g)

/-! ## TCVT (R244) -/

/-- The RMAX entry of a row (R193). -/
def maxEntry (v : Stream) (r : Nat) : Nat := v.row0 + r

/-- Row r of TCVT. -/
def cvtStep (d : Shape) (v : Stream) (zero gm sat fz : Bool) (td ta r : Nat) (t : Tile) : Tile :=
  let x := t.lrow v (fmtMx6 d.fmt) ta r
  let es := readEach fz d.fmt d.count x.bits x.scale
  let xs := es.map (·.1)
  let ((ys, sc), fo) := convertRow d.ocv zero sat fz xs
  let u := (t.setLrow v (fmtMx6 d.ocv) td r ⟨packElems (fmtBits d.ocv) ys, sc⟩).orFlags 4 (sourceFlags d.ocv 4 es ||| fo)
  if gm then u.raiseMax (maxEntry v r) (rowMax xs) else u

/-- What TCVT does. -/
def tcvtEff (g : RowArgs) (pass row : Nat) : M Unit := do
  let rows := (rowsFrom pass row 1 g.d.rows).map (·.2)
  modify fun s => rows.foldl (fun t r => meetLrow g.v (fmtMx6 g.d.fmt) (fldN g.f 17 3) r t) s
  let s ← get
  modTile fun t => rows.foldl (fun t r =>
    cvtStep g.d g.v (bit g.f 13) (bit g.f 12) (bit g.f 11) (flushing s 2) (fldN g.f 20 3) (fldN g.f 17 3) r t) t

/-- TCVT. -/
def tcvtBody (f : BitVec 25) (c : CtxId) : M TileEnd := do
  let q := fld f 23 2
  let rnd := fld f 13 2
  let d ← captureShape (fld f 15 2)
  needTileShape (fld f 0 11 == 0 && !bit rnd 1) d true false
  let x ← tileGate c (tileWord 0x68 f) q false
  let v ← needStream q
  needShape (d.ok v.isSome && decide (d.count ≤ fmtElems v.isSome d.ocv) && !(v.isSome && fmtMx6 d.ocv) &&
    !(fmtMx6 d.ocv && bit f 20) && !(fmtMx6 d.fmt && bit f 17))
  let g ← rowArgs f c v d 0 0
  tileWhole (g.op 0x68) x (tcvtEff g)

/-! ## TFN (R245) -/

/-- Row r of TFN. -/
def fnStep (d : Shape) (v : Stream) (fn : Nat) (fz : Bool) (td ta r : Nat) (t : Tile) : Tile :=
  let ys := (elems d.width d.count (t.lrow v false ta r).bits).map (fnElem fn d.fmt fz)
  (t.setLrow v false td r ⟨packElems d.width (ys.map (·.1)), 0⟩).orFlags 4 (ys.foldl (fun a y => a ||| y.2) 0)

/-- What TFN does. -/
def tfnEff (g : RowArgs) (pass row : Nat) : M Unit := do
  let rows := (rowsFrom pass row 1 g.d.rows).map (·.2)
  modify fun s => rows.foldl (fun t r => meetLrow g.v false (fldN g.f 17 3) r t) s
  let s ← get
  modTile fun t => rows.foldl (fun t r =>
    fnStep g.d g.v (fldN g.f 11 4) (flushing s 2) (fldN g.f 20 3) (fldN g.f 17 3) r t) t

/-- TFN. -/
def tfnBody (f : BitVec 25) (c : CtxId) : M TileEnd := do
  let q := fld f 23 2
  let d ← captureShape (fld f 15 2)
  needTileShape (fld f 0 11 == 0 && decide (fldN f 11 4 ≤ 10)) d false false
  let x ← tileGate c (tileWord 0x69 f) q false
  let v ← needStream q
  needShape (d.ok v.isSome && fmtFp d.fmt && d.fmt != fF19 && d.scm == 0)
  let g ← rowArgs f c v d 0 0
  tileWhole (g.op 0x69) x (tfnEff g)

/-! ## TRED (R246, R296 to R300) -/

/-- Entry r of result i of TD: the place of its 32 bits (R297). -/
def redPlace (v : Stream) (i r : Nat) : Nat × Nat :=
  let per := v.side / 2
  (2 * i + r / per, r % per)

/-- The old entry. -/
def redOld (v : Stream) (td i r : Nat) (t : Tile) : Nat :=
  let (row, el) := redPlace v i r
  (t.lrow v false td row).bits / 2 ^ (32 * el) % 2 ^ 32

/-- Write result i of every row: entries beyond the last are zero, or keep their values under ACC (R297), as do those of rows that were done
before (R201). -/
def redWrite (v : Stream) (td i : Nat) (acc : Bool) (done : Nat) (xs : List Nat) (t : Tile) : Tile :=
  let per := v.side / 2
  [0, 1].foldl (fun u h =>
    let row := 2 * i + h
    let old := elems 32 per (t.lrow v false td row).bits
    let ys := (List.range per).map fun k =>
      let r := h * per + k
      if r < done then old.getD k 0
      else match xs[r]? with
        | some x => x
        | none => if acc then old.getD k 0 else 0
    u.setLrow v false td row ⟨packElems 32 ys, 0⟩) t

/-- n / d × 2^e as an exact value with a last bit that says that more follows. -/
def ratVal (neg : Bool) (n : Nat) (e : Int) (d : Nat) : FpVal :=
  let (m, x) := divFin 64 n e d 0
  .fin neg m x

/-- v / d. -/
def FpVal.divNat (v : FpVal) (d : Nat) : FpVal :=
  match v with
  | .fin s m e => if m = 0 then v else ratVal s m e d
  | v => v

/-- Σ (x − μ)² = (c Σ x² − (Σ x)²) / c with the exact mean μ (R300). -/
def sumDev (xs : List FpVal) : FpVal :=
  let c := xs.length
  let s := sumVals xs
  if xs.any FpVal.isNan then .nan false
  else if !s.isFin then .nan true
  else
    let sq := sumVals (xs.map fun x => x.mul x)
    ((sq.mul (.fin false c 0)).add (s.mul s).negate).divNat c

/-- The old element, one rounding, FP32 with FZR: an operation of the merge (R300). -/
def op32 (fz : Bool) (g : FpVal → FpVal → FpVal) (a b : Nat) : Nat × TFlags :=
  let (x, fa) := readElem fz fFP32 a
  let (y, fb) := readElem fz fFP32 b
  let (z, f) := round32 fz (g x y)
  (z, fa ||| fb ||| f)

/-- A quotient of two FP32 values. -/
def FpVal.div (a b : FpVal) : FpVal :=
  match a, b with
  | .fin s m e, .fin t n f => if n = 0 then (if m = 0 then .nan true else .inf (s != t)) else if m = 0 then .fin (s != t) 0 0
      else ratVal (s != t) m (e - f) n
  | .nan _, _ => .nan false
  | _, .nan _ => .nan false
  | .inf _, .inf _ => .nan true
  | .inf s, .fin t _ _ => .inf (s != t)
  | .fin s _ _, .inf t => .fin (s != t) 0 0

/-- A triple (n, μ, M2): an INT32 and two FP32 patterns (R300). -/
structure Triple where
  n : Nat
  mu : Nat
  m2 : Nat
  deriving DecidableEq, Repr

/-- fp32(i): an integer rounded to FP32. -/
def fp32Of (fz : Bool) (i : Int) : Nat × TFlags := round32 fz (intVal i)

/-- The merge of two triples (R300). -/
def mergeTriple (fz : Bool) (a b : Triple) : Triple × TFlags :=
  let na := intOf 32 a.n
  let nb := intOf 32 b.n
  if na = 0 then (b, 0)
  else
    let isNan := fun (x : Nat) => (elemVal fFP32 x).isNan
    let (n, f0) := fitInt 32 true (na + nb)
    let (d, f1) := op32 fz (fun x y => x.add y.negate) b.mu a.mu
    let (fb, g1) := fp32Of fz nb
    let (fn, g2) := fp32Of fz n
    let (fa, g3) := fp32Of fz na
    let (w, f2) := op32 fz FpVal.div fb fn
    let (dw, f3) := op32 fz FpVal.mul d w
    let (mu, f4) := op32 fz FpVal.add a.mu dw
    let (sum, f5) := op32 fz FpVal.add a.m2 b.m2
    let (dd, f6) := op32 fz FpVal.mul d d
    let (aw, f7) := op32 fz FpVal.mul fa w
    let (cross, f8) := op32 fz FpVal.mul dd aw
    let (m2, f9) := op32 fz FpVal.add sum cross
    let f := f0 ||| f1 ||| f2 ||| f3 ||| f4 ||| f5 ||| f6 ||| f7 ||| f8 ||| f9 ||| g1 ||| g2 ||| g3
    if [a.mu, a.m2, b.mu, b.m2, d, w, dw, mu, sum, dd, aw, cross, m2].any isNan then (⟨intBits 32 n, canonNan fFP32, canonNan fFP32⟩, f)
    else (⟨intBits 32 n, mu, m2⟩, f)

/-- The one-value results of a row of floating-point elements: SUM, SUMSQ, MAX, MIN (R298, R299). -/
def redFloat (fn : Nat) (fz : Bool) (xs : List FpVal) : Nat × TFlags :=
  match fn with
  | 0 => round32 fz (sumVals xs)
  | 1 => round32 fz (sumVals xs)
  | _ =>
    if xs.any FpVal.isNan then (canonNan fFP32, 0)
    else match xs with
      | [] => (0, 0)
      | x :: rest => round32 fz (rest.foldl (fun m y => if fn = 3 then (if m.before y then y else m) else (if y.before m then y else m)) x)

/-- The one-value result of a row of integers: SUM, MAX, MIN (R298, R299). -/
def redInt (fn : Nat) (sat : Bool) (xs : List Int) : Nat × TFlags :=
  match fn with
  | 0 =>
    let (i, f) := fitInt 32 sat (xs.foldl (· + ·) 0)
    (intBits 32 i, f)
  | _ => match xs with
    | [] => (0, 0)
    | x :: rest => (intBits 32 (rest.foldl (if fn = 3 then max else min) x), 0)

/-- The triple of a row: a NaN anywhere makes both values the canonical NaN (R300). -/
def newTriple (n mu m2 : Nat) : Triple :=
  if [mu, m2].any fun x => (elemVal fFP32 x).isNan then ⟨n, canonNan fFP32, canonNan fFP32⟩ else ⟨n, mu, m2⟩

/-- The results of one row: one value, or the mean, M2 and the count (R297). DESIGN CHOICE (log 76): with ACC = 1 the old FP32 result is
flushed under FZR as a source element is, with FZ; R298 names the source elements and the results. -/
def redRow (d : Shape) (v : Stream) (fn : Nat) (acc fz : Bool) (td ta r : Nat) (t : Tile) : List Nat × TFlags :=
  let x := t.lrow v false ta r
  let old := redOld v td 0 r t
  if fmtInt d.fmt then
    let xs := (elems d.width d.count x.bits).map (intOf d.width)
    let (y, f) := redInt fn d.sat (if acc then intOf 32 old :: xs else xs)
    ([y], f)
  else
    let (xs, fi) := readRow fz d.fmt d.count x.bits x.scale
    if fn = 2 then
      let (mu, f1) := round32 fz ((sumVals xs).divNat d.count)
      let (m2, f2) := round32 fz (sumDev xs)
      let b := newTriple d.count mu m2
      let (y, f3) := if acc then mergeTriple fz ⟨redOld v td 2 r t, old, redOld v td 1 r t⟩ b else (b, 0)
      ([y.mu, y.m2, y.n], fi ||| f1 ||| f2 ||| f3)
    else
      let zs := if fn = 1 then xs.map fun x => x.mul x else xs
      let (o, fo) := readElem fz fFP32 old
      let (y, f) := redFloat fn fz (if acc then o :: zs else zs)
      ([y], fi ||| f ||| (if acc then fo else 0))

/-- What TRED does. -/
def tredEff (g : RowArgs) (pass row : Nat) : M Unit := do
  let fn := fldN g.f 12 3
  let acc := bit g.f 11
  let (td, ta) := (fldN g.f 20 3, fldN g.f 17 3)
  let done := if pass = 0 then row else g.d.rows
  let results := if fn = 2 then 3 else 1
  modify fun s =>
    let t := (List.range g.d.rows).foldl (fun t r => if r < done then t else meetLrow g.v false ta r t) s
    if acc || done ≠ 0 then (List.range (2 * results)).foldl (fun t r => meetLrow g.v false td r t) t else t
  let s ← get
  modTile fun t =>
    let rs := (List.range g.d.rows).map fun r => if r < done then ([], 0) else redRow g.d g.v fn acc (flushing s 2) td ta r t
    let u := (List.range results).foldl (fun u i => redWrite g.v td i acc done (rs.map fun x => x.1.getD i 0) u) t
    u.orFlags 4 (orAll rs)

/-- TRED. -/
def tredBody (f : BitVec 25) (c : CtxId) : M TileEnd := do
  let q := fld f 23 2
  let fn := fldN f 12 3
  let d ← captureShape (fld f 15 2)
  needTileShape (fld f 0 11 == 0 && decide (fn ≤ 4)) d false false
  let x ← tileGate c (tileWord 0x6A f) q false
  let v ← needStream q
  needShape (d.ok v.isSome && (fmtFp d.fmt || d.fmt == fINT8 || d.fmt == fINT32) && d.scm == 0 &&
    !((fn == 1 || fn == 2) && fmtInt d.fmt))
  let g ← rowArgs f c v d 0 0
  tileWhole (g.op 0x6A) x (tredEff g)

/-! ## TEPI (R247, R302 to R306) -/

/-- The fields of TEPI. -/
structure EpiArgs where
  v : Stream
  d : Shape
  ac : Nat
  twin : Bool
  opr : Nat
  cs : Bool
  ts : Nat
  gm : Bool
  nc : Nat
  deriving DecidableEq, Repr

/-- The format of the operand tile (R303). -/
def EpiArgs.opFmt (g : EpiArgs) : BitVec 4 :=
  if fmtMx g.d.ocv || g.d.ocv == fINT8 || g.d.ocv == fINT4 then fBF16 else g.d.ocv

/-- Bytes of an output row (R303). -/
def EpiArgs.outBytes (g : EpiArgs) : Nat := g.nc * fmtBits g.d.ocv / 8 + if fmtMx g.d.ocv then 1 else 0

/-- The Fold value v of [m][n]; FZO flushes v, in twin use the exact sum of the pair by IEEE 754 (R304): R287's "by its hi alone" is
said of accumulations. -/
def epiFold (g : EpiArgs) (fz : Bool) (m n : Nat) (t : Tile) : FpVal × TFlags :=
  let x := t.acc g.v g.ac m n
  if g.d.fmt == fINT32 then
    (shiftVal (t.exponent g.ac (g.v.part m n)) (intVal x.toInt), 0)
  else if g.twin then
    flushVal fz fFP32 (FpVal.add (elemVal fFP32 x.toNat) (elemVal fFP32 (t.acc g.v (g.ac + 16) m n).toNat))
  else foldVal fz x

/-- c[n]: the FP32 value in the scale field of a register row of TS (R305). -/
def epiScale (g : EpiArgs) (fz : Bool) (n : Nat) (t : Tile) : FpVal × TFlags :=
  let r := match g.v with | none => n | some q => 16 * (q.toNat % 2) + n
  readElem fz fFP32 (t.row g.ts r).scale.toNat

/-- y of [m][n] (R304): exact; `ob` is the operand element. Its flags: FZ of the inputs that are flushed, and NV of the operations. DESIGN
CHOICE (log 77): 0 × ∞ of a value and its scale sets NV although the operand is a NaN; R263 does not say. -/
def epiValue (g : EpiArgs) (fz : Bool) (m n ob : Nat) (t : Tile) : (FpVal × TFlags) × TFlags :=
  let (x, f1) := epiFold g fz m n t
  let (k, f2) := if g.cs then epiScale g fz n t else (x, 0)
  let y := if g.cs then x.mul k else x
  let (o, f3) := if g.opr = 0 then (x, 0) else readElem fz g.opFmt ob
  let z := match g.opr with | 0 => y | 1 => y.add o | _ => y.mul o
  ((z, f1 ||| f2 ||| f3), x.invalid ||| y.invalid ||| (if g.opr = 0 then 0 else z.invalid))

/-- An output row from the bytes of its operand row: its bytes, the RMAX candidate and the flags. DEDUCED (log 54): no input of an E2M3,
E3M2 or E2M1 block that becomes NaN sets FZ (R269 against R278), and the NV of the operation that made the NaN stays (R263). -/
def epiRow (g : EpiArgs) (fz : Bool) (m ops : Nat) (t : Tile) : Nat × Nat × TFlags :=
  let w := fmtBits g.opFmt
  let ys := (List.range g.nc).map fun n => epiValue g fz m n (ops / 2 ^ (w * n) % 2 ^ w) t
  let vals := (ys.map (·.1.1)).map fun v => match v with | .nan _ => FpVal.nan false | v => v
  let ((zs, sc), fo) := convertRow g.d.ocv false g.d.sat fz vals
  let b := fmtBits g.d.ocv
  (packElems b zs + sc % 256 * 2 ^ (b * g.nc), rowMax vals,
    sourceFlags g.d.ocv 1 (ys.map (·.1)) ||| orAll ys ||| fo)

/-- The epilogue that a captured TEPI is. -/
def RowArgs.epi (g : RowArgs) : EpiArgs :=
  ⟨g.v, g.d, fldN g.f 18 5, bit g.f 17, fldN g.f 11 2, bit g.f 10, fldN g.f 7 3, bit g.f 6, fldN g.f 1 5 + 1⟩

/-- The footprints of an output row: of its operand row, if it has one, and its own. -/
def RowArgs.epiFeet (g : RowArgs) (m : Nat) : List Foot :=
  let e := g.epi
  let out : Foot := ⟨g.d.rowAt g.base m, e.outBytes, true⟩
  if e.opr = 0 then [out] else [⟨g.d.rowAt g.base2 m, (e.nc * fmtBits e.opFmt + 7) / 8, false⟩, out]

/-- The Fold rows, and the scales, that output row m reads: their errors are found. -/
def meetEpi (g : EpiArgs) (m : Nat) (s : State) : State :=
  let t := meetFold g.v g.ac m s
  let u := if g.twin then meetFold g.v (g.ac + 16) m t else t
  if g.cs then meetReg g.ts false 0 32 u else u

/-- A row of TEPI. -/
def tepiWork (g : RowArgs) : RowWork where
  passes := 1
  rows := g.d.rows
  check _ m := rowCheck g.c (g.epiFeet m)
  perform _ m row := do
    let e := g.epi
    let ops ← if e.opr = 0 then pure 0 else readPart g.c true row 0
    let s := meetEpi e m (← get)
    let (x, mx, fl) := epiRow e (flushing s 3) m ops (veiled s)
    let ps ← prepPart g.c row (if e.opr = 0 then 0 else 1) x
    modify (meetEpi e m)
    let _ ← readTile
    modify fun t => { t with tile :=
      let u := t.tile.orFlags 5 fl
      if e.gm then u.raiseMax (maxEntry g.v m) mx else u }
    commitFoot g.c ps
  finish := pure ()

/-- TEPI. -/
def tepiBody (f : BitVec 25) (c : CtxId) : M TileEnd := do
  let q := fld f 23 2
  let br := fld f 13 2
  let opr := fldN f 11 2
  let twin := bit f 17
  let d ← captureShape (fld f 15 2)
  needTileShape (br != 3 && opr != 3 && (bit f 10 || fld f 7 3 == 0) && !bit f 0) d true false
  needTwin twin
  let x ← tileGate c (tileWord 0x6B f) q false
  let v ← needStream q
  let k ← getC c
  let g ← rowArgs f c v d (k.baseReg br).val k.getY.val
  needShape (d.ok v.isSome && (d.fmt == fFP32 || d.fmt == fINT32) && d.scm == 0 && !(twin && d.fmt == fINT32) &&
    g.epi.nc * fmtBits d.ocv % 8 == 0 && decide (g.epi.nc ≤ v.side) && !(v.isSome && fmtMx6 d.ocv))
  needFold (fld f 18 5) twin
  needBases c 16 (if opr = 0 then [br] else [br, 2])
  tileRows (g.op 0x6B) x (tepiWork g)

/-! ## The meanings -/

/-- TROW (R243). -/
def execTrow (f : BitVec 25) (s : State) : Host.Outcome State Fault Refusal := runTile none (trowBody f) s
/-- TCVT (R244). -/
def execTcvt (f : BitVec 25) (s : State) : Host.Outcome State Fault Refusal := runTile none (tcvtBody f) s
/-- TFN (R245). -/
def execTfn (f : BitVec 25) (s : State) : Host.Outcome State Fault Refusal := runTile none (tfnBody f) s
/-- TRED (R246). -/
def execTred (f : BitVec 25) (s : State) : Host.Outcome State Fault Refusal := runTile none (tredBody f) s
/-- TEPI (R304). -/
def execTepi (f : BitVec 25) (s : State) : Host.Outcome State Fault Refusal := runTile none (tepiBody f) s

end Sys2Proof.Machine
end

