-- ==== Sys2Proof/Machine/TileSave.lean ====
section
/-!
DEFINITION. Saving and restoring the tile state (06 R208 to R211), descriptors and TSYNC (07 R249), the completion of tile
instructions (07 R216) and the power of the unit (06 R212 to R214).
-/

namespace Sys2Proof.Machine

open Sys2Proof

/-! ## The image (R208), in blocks of 64 bytes -/

/-- Eight words as a block. -/
def wordBlock (ws : List W64) : Nat := packElems 64 (ws.map BitVec.toNat)

/-- Sixteen 32-bit values as a block. -/
def halfBlock (ws : List W32) : Nat := packElems 32 (ws.map BitVec.toNat)

/-- The header. -/
def imageHeader (t : Tile) : W64 := 1 ||| at' 8 t.tuse ||| at' 16 t.fuse ||| at' 48 t.ntw

/-- The registers that TUSE, or the slots that FUSE, names. -/
def usedOf {n : Nat} (use : BitVec n) : List Nat := (List.range n).filter (bit use ·)

/-- The blocks of a register: its rows, then its scale column. -/
def regBlocks (t : Tile) (n : Nat) : List Nat :=
  ((List.range 32).map fun r => (t.row n r).bits.toNat) ++
    [0, 16].map fun b => halfBlock ((List.range 16).map fun r => (t.row n (b + r)).scale)

/-- The blocks of a slot: two to a row. -/
def slotBlocks (t : Tile) (i : Nat) : List Nat :=
  (List.range 64).map fun k => halfBlock ((List.range 16).map fun j => t.foldAt i (k / 2) (16 * (k % 2) + j))

/-- The image of a tile state. -/
def imageBlocks (t : Tile) : List Nat :=
  let acx := fun (b : Nat) => halfBlock ((List.range 16).map fun i => if bit t.fuse (b + i) then vget t.acx (b + i) 0 else 0)
  let rmax := fun (b : Nat) => halfBlock ((List.range 16).map fun i => vget t.rmax (b + i) 0)
  [wordBlock [imageHeader t, t.tflags, t.tcfg.setWidth 64, 0, t.sd.q0, t.sd.q1, t.sd.q2, t.sd.q3],
    wordBlock [t.prog.q0, t.prog.q1, t.prog.q2, t.prog.q3], acx 0, acx 16, rmax 0, rmax 16, 0, 0] ++
    (usedOf t.tuse).flatMap (regBlocks t) ++ (usedOf t.fuse).flatMap (slotBlocks t)

/-- Blocks of an image with these flags. -/
def imageLen (tuse : BitVec 8) (fuse : BitVec 32) : Nat := 8 + 34 * (usedOf tuse).length + 64 * (usedOf fuse).length

/-- Word i of a block. -/
def blockWord (x i : Nat) : W64 := BitVec.ofNat 64 (x / 2 ^ (64 * i))

/-- 32-bit value i of a block. -/
def blockHalf (x i : Nat) : W32 := BitVec.ofNat 32 (x / 2 ^ (32 * i))

/-- The fields of PROG without VALID. -/
def progMask : W64 := 0xFFFFFFFFFFFF07FF#64

/-- The rows that an image gives, in rising order; `rows n r` reads row r of Tn. -/
def loadRows (tuse : BitVec 8) (rows : Nat → Nat → TRow) : SMap TRow :=
  (List.range 256).filterMap fun k =>
    if bit tuse (k / 32) && rows (k / 32) (k % 32) != TRow.zero then some (k, rows (k / 32) (k % 32)) else none

/-- The elements that an image gives, in rising order. -/
def loadFold (fuse : BitVec 32) (el : Nat → Nat → W32) : SMap W32 :=
  (usedOf fuse).flatMap fun i => (List.range 1024).filterMap fun k =>
    if el i k = 0 then none else some (1024 * i + k, el i k)

/-- The tile state that an image holds (R211), under the ENABLE0 rules of R189 and R195 and with RMAX normalized (R193). -/
def restoreTile (s : State) (bs : List Nat) : Tile :=
  let b := fun (i : Nat) => bs.getD i 0
  let h := blockWord (b 0) 0
  let tuse : BitVec 8 := fld h 8 8
  let fuse : BitVec 32 := fld h 16 32
  let rank := fun {n : Nat} (u : BitVec n) (i : Nat) => ((usedOf u).filter fun j => decide (j < i)).length
  let regAt := fun (n : Nat) => 8 + 34 * rank tuse n
  let slotAt := fun (i : Nat) => 8 + 34 * (usedOf tuse).length + 64 * rank fuse i
  let t := (setTcfg s (fld (blockWord (b 0) 2) 0 4)).tile
  { t with
    tuse := tuse, fuse := fuse, ntw := ntwStored s (fld h 48 5), tflags := blockWord (b 0) 1 &&& 0x3F3F3F3F3F3F#64
    sd := ⟨at' 0 (fld (blockWord (b 0) 4) 0 51), at' 0 (fld (blockWord (b 0) 5) 0 51), at' 0 (fld (blockWord (b 0) 6) 0 51),
      at' 0 (fld (blockWord (b 0) 7) 0 51)⟩
    prog := ⟨blockWord (b 1) 0 &&& progMask, blockWord (b 1) 1 &&& progMask, blockWord (b 1) 2 &&& progMask,
      blockWord (b 1) 3 &&& progMask⟩
    acx := Vector.ofFn fun i => if bit fuse i.val then blockHalf (b (2 + i.val / 16)) (i.val % 16) else 0
    rmax := Vector.ofFn fun i => rmaxNorm (blockHalf (b (4 + i.val / 16)) (i.val % 16)) true
    trow := loadRows tuse fun n r =>
      ⟨BitVec.ofNat 512 (b (regAt n + r)), blockHalf (b (regAt n + 32 + r / 16)) (r % 16)⟩
    fold := loadFold fuse fun i k => blockHalf (b (slotAt i + k / 16)) (k % 16)
    latch := [], image := [], errs := [] }

/-- A tile state of free values (R211): what a TRESTORE leaves until it completes, with VALID 0. Numbered from k on. -/
def brokenTile (s : State) (k : Nat) : Tile :=
  let w := fun (i : Nat) => Config.freeW64 (k + i)
  let tuse : BitVec 8 := fld (w 0) 0 8
  let fuse : BitVec 32 := fld (w 0) 8 32
  let t := (setTcfg s (fld (w 1) 0 4)).tile
  let prog := fun (i : Nat) => w i &&& 0xFFFFFFFFFFFF06FF#64
  { t with
    tuse := tuse, fuse := fuse, ntw := ntwStored s (fld (w 1) 4 5), tflags := w 2 &&& 0x3F3F3F3F3F3F#64
    sd := ⟨at' 0 (fld (w 3) 0 51), at' 0 (fld (w 4) 0 51), at' 0 (fld (w 5) 0 51), at' 0 (fld (w 6) 0 51)⟩
    prog := ⟨prog 7, prog 8, prog 9, prog 10⟩
    acx := Vector.ofFn fun i => if bit fuse i.val then fld (w (16 + i.val)) 0 32 else 0
    rmax := Vector.ofFn fun i => rmaxNorm (fld (w (48 + i.val)) 0 32) true
    trow := loadRows tuse fun n r =>
      ⟨BitVec.ofNat 512 (wordBlock ((List.range 8).map fun j => w (128 + 9 * (32 * n + r) + j))),
        fld (w (128 + 9 * (32 * n + r) + 8)) 0 32⟩
    fold := loadFold fuse fun i j => fld (w (4096 + 1024 * i + j)) 0 32
    latch := [], errs := [] }

/-- Free values that `brokenTile` takes. -/
def brokenSize : Nat := 4096 + 32 * 1024

/-! ## TSAVE and TRESTORE (R209 to R211, R248) -/

/-- Block i of a save area. -/
def blockFoot (base : W64) (i : Nat) (write : Bool) : Foot := ⟨base + BitVec.ofNat 64 (64 * i), 64, write⟩

/-- The word of opcode 0x6C. -/
def saveWord (q : BitVec 2) (fn : BitVec 1) (r : BitVec 22) : W32 := tileWord 0x6C (q ++ (fn ++ r))

/-- The errors that a read of block i of the image finds: in a register row and its scale, in half a scale column, or in half a slot row. -/
def meetBlock (i : Nat) (s : State) : State :=
  let regs := usedOf s.tile.tuse
  let k := i - 8
  if i < 8 then s
  else if k < 34 * regs.length then
    let n := regs.getD (k / 34) 0
    if k % 34 < 32 then meetReg n false (k % 34) (k % 34 + 1) s else meetReg n false (16 * (k % 34 - 32)) (16 * (k % 34 - 31)) s
  else
    let j := k - 34 * regs.length
    let slot := (usedOf s.tile.fuse).getD (j / 64) 0
    meetTile 5 (fun loc => loc / 8 == 64 * slot + j % 64) s

/-- TSAVE writes its image block by block; nothing of the tile state changes before the last is written (R210). -/
def saveWork (g : RowArgs) : RowWork where
  passes := 1
  rows := 0
  check _ i := rowCheck g.c [blockFoot g.base i true]
  perform _ i row := do
    let ps ← prepPart g.c row 0 ((imageBlocks (veiled (meetBlock i (← get)))).getD i 0)
    modify (meetBlock i)
    let _ ← readTile
    commitFoot g.c ps
  finish := modTile clearProg

/-- TSAVE. -/
def tsaveBody (q : BitVec 2) (r : BitVec 22) (c : CtxId) : M TileEnd := do
  let br := fld r 20 2
  needTile (q == 0 && br != 3 && fld r 0 20 == 0)
  let x ← tileGate c (saveWord q 0 r) 0 true
  needBases c 64 [br]
  let g ← rowArgs (q ++ (0#1 ++ r)) c none ⟨0⟩ ((← getC c).baseReg br).val 0
  let t := (← get).tile
  tileRows (g.op 0x6C) x { saveWork g with rows := imageLen t.tuse t.fuse }

/-- TRESTORE reads its image block by block, and loads it once it has all of it (R211). -/
def restoreWork (g : RowArgs) : RowWork where
  passes := 1
  rows := 0
  check _ i := rowCheck g.c [blockFoot g.base i false]
  perform _ _ row := do
    let x ← readPart g.c true row 0
    modify fun s => { s with tile := { s.tile with image := s.tile.image ++ [x] } }
  finish := modify fun s => { s with tile := restoreTile s s.tile.image }

/-- TRESTORE: FORMAT first; from then on until it completes, the tile state is one of free values (R211). -/
def trestoreBody (q : BitVec 2) (r : BitVec 22) (c : CtxId) : M TileEnd := do
  let br := fld r 20 2
  needTile (q == 0 && br != 3 && fld r 0 20 == 0)
  let x ← tileGate c (saveWord q 1 r) 0 true
  needBases c 64 [br]
  let g ← rowArgs (q ++ (1#1 ++ r)) c none ⟨0⟩ ((← getC c).baseReg br).val 0
  if x.rows = 0 then
    let y ← readPart c true (← rowCheck c [blockFoot g.base 0 false]) 0
    needShape (fld (blockWord y 0) 0 8 == 1)
    modify fun s => { s with tile := { brokenTile s s.free with image := [y] }, free := s.free + brokenSize }
  let h := blockWord ((← get).tile.image.getD 0 0) 0
  tileRows (g.op 0x6C) { x with rows := max x.rows 1, any := true } { restoreWork g with rows := imageLen (fld h 8 8) (fld h 16 32) }

/-! ## Descriptors and TSYNC (R249) -/

/-- The word of opcode 0x6D. -/
def shapeWord (q fn : BitVec 2) (r : BitVec 21) : W32 := tileWord 0x6D (q ++ (fn ++ r))

/-- TSDW. -/
def tsdwBody (q : BitVec 2) (r : BitVec 21) (c : CtxId) : M TileEnd := do
  needTile (q == 0 && fld r 0 19 == 0)
  let w := shapeWord q 0 r
  let _ ← tileGate c w 0 false
  let a := (← getC c).getA
  if a.tag != Tag.shape then tagFault a.tag
  modTile fun t => { t with sd := t.sd.set (fld r 19 2) (at' 0 (fld a.val 0 51)) }
  commitTile c w 0 false

/-- TSDR. -/
def tsdrBody (q : BitVec 2) (r : BitVec 21) (c : CtxId) : M TileEnd := do
  needTile (q == 0 && fld r 0 19 == 0)
  let w := shapeWord q 1 r
  let _ ← tileGate c w 0 false
  let s ← get
  modC c fun k => k.setA ⟨s.tile.sd.get (fld r 19 2), Tag.shape⟩
  commitTile c w 0 false

/-- A write of the tile path to memory is not acknowledged yet. -/
def tileStores (s : State) : Bool :=
  s.mesh.reqs.any fun r => r.op == .poke && (match r.who with | .ctx _ => true | _ => false)

/-- TSYNC. -/
def tsyncBody (q : BitVec 2) (r : BitVec 21) (c : CtxId) : M TileEnd := do
  needTile (q == 0 && r == 0)
  let w := shapeWord q 2 r
  let _ ← tileGate c w 0 false
  let s ← get
  if !s.tile.tileq.isEmpty || tileStores s then wait
  commitTile c w 0 false

/-! ## Completion and power -/

/-- What a captured instruction does row by row, by its opcode (R218), or as a whole. -/
def TileOp.work (o : TileOp) : RowWork :=
  let g := o.args
  match fldN o.word 25 7 with
  | 0x60 => tldWork g
  | 0x61 => tstWork g
  | 0x62 => if bit o.word 2 then tmmaWork g else wholeWork (tmmaEff g)
  | 0x63 => wholeWork (tmovaEff g)
  | 0x64 => tldacWork g
  | 0x65 => tstacWork g
  | 0x66 => wholeWork fun _ _ => clearEff g
  | 0x67 => wholeWork (trowEff g)
  | 0x68 => wholeWork (tcvtEff g)
  | 0x69 => wholeWork (tfnEff g)
  | 0x6A => wholeWork (tredEff g)
  | 0x6B => tepiWork g
  | _ => if bit o.word 22 then restoreWork g else saveWork g

/-- The answers that context c was given for a row of its tile instructions are used up. -/
def dropTileFills (c : CtxId) (s : State) : State :=
  { s with mesh := { s.mesh with fills := s.mesh.fills.filter fun f => f.held || !tileRead s.tile c f.req } }

/-- The committed instructions `todo`, behind those of `before`, do the work that they have still to do, each as far as it can in its turn
(R217, R254). The steps until a row is performed are accounted first. -/
def workQueue : (before todo : List TileJob) → State → State
  | _, [], s => s
  | before, j :: todo, s =>
    if j.rest.isEmpty then workQueue (before ++ [j]) todo s
    else match workJob before j.op.work.perform j.op.work.finish j s with
      | .ok k t =>
        let u := dropTileFills j.op.ctx { t with tile := { t.tile with tileq := before ++ k :: todo } }
        workQueue (before ++ [k]) todo (accountChange s u)
      | .error _ t => workQueue (before ++ [j]) todo t

/-- TILE_COMPLETE (R216): the committed instructions do what they can, and the oldest one that has done all its work completes; the last one
only when its writes are performed. -/
def execTileComplete (s : State) : Host.Outcome State Fault Refusal :=
  if s.tile.tileq.isEmpty then .next s
  else
    let t := workQueue [] s.tile.tileq s
    let u := match t.tile.tileq.find? fun j => j.rest.isEmpty with
      | none => t
      | some j =>
        if t.tile.tileq.length == 1 && tileStores t then t
        else accountChange t { t with tile := { t.tile with tileq := t.tile.tileq.erase j } }
    .next (noteFences (settle u))

/-- TPWR_DRAIN_END (R213). -/
def execTpwrDrainEnd (s : State) : Host.Outcome State Fault Refusal :=
  if s.tile.tpDrain && s.tile.tileq.isEmpty then .next { s with tile := { s.tile with tpDrain := false } } else .next s

/-- TPWR_GATE_OPEN (R213). -/
def execTpwrGateOpen (s : State) : Host.Outcome State Fault Refusal :=
  if !s.tile.tpOn && !s.tile.tpDrain then .next (settle (accountChange s { s with tile := { s.tile with tpPowered := false } })) else .next s

/-- TPWR_POWER_UP (R214). -/
def execTpwrPowerUp (s : State) : Host.Outcome State Fault Refusal :=
  if s.tile.tpOn && !s.tile.tpPowered then .next (settle (accountChange s { s with tile := { s.tile with tpPowered := true } })) else .next s

/-! ## The meanings -/

/-- TSAVE (R208). -/
def execTsave (q : BitVec 2) (r : BitVec 22) (s : State) : Host.Outcome State Fault Refusal := runTile none (tsaveBody q r) s
/-- TRESTORE (R211). -/
def execTrestore (q : BitVec 2) (r : BitVec 22) (s : State) : Host.Outcome State Fault Refusal :=
  runTile none (trestoreBody q r) s
/-- TSDW (R249). -/
def execTsdw (q : BitVec 2) (r : BitVec 21) (s : State) : Host.Outcome State Fault Refusal := runTile none (tsdwBody q r) s
/-- TSDR (R249). -/
def execTsdr (q : BitVec 2) (r : BitVec 21) (s : State) : Host.Outcome State Fault Refusal := runTile none (tsdrBody q r) s
/-- TSYNC (R249). -/
def execTsync (q : BitVec 2) (r : BitVec 21) (s : State) : Host.Outcome State Fault Refusal := runTile none (tsyncBody q r) s

end Sys2Proof.Machine
end

