-- ==== Sys2Proof/Machine/Dispatch.lean ====
section
/-!
DEFINITION. One arm per command: a direct call of its meaning.
-/

namespace Sys2Proof.Machine

open Sys2Proof

/-- The effect of a command on everything but the queue. -/
def exec (i : Instr) (s : State) : Host.Outcome State Fault Refusal :=
  match i with
  | .coldReset => Sys2Proof.Machine.execColdReset s
  | .coldResetRelease => Sys2Proof.Machine.execColdResetRelease s
  | .warmReset => Sys2Proof.Machine.execWarmReset s
  | .warmResetRelease => Sys2Proof.Machine.execWarmResetRelease s
  | .drainEnd => Sys2Proof.Machine.execDrainEnd s
  | .initEnd => Sys2Proof.Machine.execInitEnd s
  | .keygenTimeout => Sys2Proof.Machine.execKeygenTimeout s
  | .cpResetRelease => Sys2Proof.Machine.execCpResetRelease s
  | .hfenceRise => Sys2Proof.Machine.execHfenceRise s
  | .hfenceFall => Sys2Proof.Machine.execHfenceFall s
  | .frzRise => Sys2Proof.Machine.execFrzRise s
  | .frzFall => Sys2Proof.Machine.execFrzFall s
  | .tamperEvent => Sys2Proof.Machine.execTamperEvent s
  | .refclkLoss => Sys2Proof.Machine.execRefclkLoss s
  | .refclkReturn => Sys2Proof.Machine.execRefclkReturn s
  | .paceHwChange v => Sys2Proof.Machine.execPaceHwChange v s
  | .curHiRise => Sys2Proof.Machine.execCurHiRise s
  | .curHiFall => Sys2Proof.Machine.execCurHiFall s
  | .stallWatchdog src => Sys2Proof.Machine.execStallWatchdog src s
  | .ioTimeout c => Sys2Proof.Machine.execIoTimeout c s
  | .timerInterrupt => Sys2Proof.Machine.execTimerInterrupt s
  | .timeEvent c => Sys2Proof.Machine.execTimeEvent c s
  | .droverQuantum => Sys2Proof.Machine.execDroverQuantum s
  | .droverSwitch => Sys2Proof.Machine.execDroverSwitch s
  | .fcWindowEnd => Sys2Proof.Machine.execFcWindowEnd s
  | .dumpDue => Sys2Proof.Machine.execDumpDue s
  | .dumpComplete => Sys2Proof.Machine.execDumpComplete s
  | .traceRecordWrite => Sys2Proof.Machine.execTraceRecordWrite s
  | .snapshotCopy => Sys2Proof.Machine.execSnapshotCopy s
  | .waysideSend => Sys2Proof.Machine.execWaysideSend s
  | .tpwrDrainEnd => Sys2Proof.Machine.execTpwrDrainEnd s
  | .tpwrGateOpen => Sys2Proof.Machine.execTpwrGateOpen s
  | .tpwrPowerUp => Sys2Proof.Machine.execTpwrPowerUp s
  | .tileComplete => Sys2Proof.Machine.execTileComplete s
  | .meshFlitSend ready => Sys2Proof.Machine.execMeshFlitSend ready s
  | .creditReturn ch => Sys2Proof.Machine.execCreditReturn ch s
  | .causewayBeat => Sys2Proof.Machine.execCausewayBeat s
  | .moverBlock ch ecc => Sys2Proof.Machine.execMoverBlock ch ecc s
  | .dataS txid line => Sys2Proof.Machine.execDataS txid line s
  | .dataX txid line => Sys2Proof.Machine.execDataX txid line s
  | .ack txid => Sys2Proof.Machine.execAck txid s
  | .err txid => Sys2Proof.Machine.execErr txid s
  | .probeS addr src txid => Sys2Proof.Machine.execProbeS addr src txid s
  | .probeK addr src txid => Sys2Proof.Machine.execProbeK addr src txid s
  | .badPacket cls opc => Sys2Proof.Machine.execBadPacket cls opc s
  | .ioResponse resp => Sys2Proof.Machine.execIoResponse resp s
  | .ioReadServe q => Sys2Proof.Machine.execIoReadServe q s
  | .ipi q w => Sys2Proof.Machine.execIpi q w s
  | .wcfgWrite q w => Sys2Proof.Machine.execWcfgWrite q w s
  | .wsub q => Sys2Proof.Machine.execWsub q s
  | .claimServe q => Sys2Proof.Machine.execClaimServe q s
  | .completeServe q w => Sys2Proof.Machine.execCompleteServe q w s
  | .notice q => Sys2Proof.Machine.execNotice q s
  | .postReceive h ws => Sys2Proof.Machine.execPostReceive h ws s
  | .cpResult tag res bad code => Sys2Proof.Machine.execCpResult tag res bad code s
  | .enum f => Sys2Proof.Machine.execEnum f s
  | .identq f => Sys2Proof.Machine.execIdentq f s
  | .chainRead f => Sys2Proof.Machine.execChainRead f s
  | .chainWrite f => Sys2Proof.Machine.execChainWrite f s
  | .bwrite f => Sys2Proof.Machine.execBwrite f s
  | .corerst f => Sys2Proof.Machine.execCorerst f s
  | .respSend => Sys2Proof.Machine.execRespSend s
  | .bootGo f bc => Sys2Proof.Machine.execBootGo f bc s
  | .enable0Write f bc => Sys2Proof.Machine.execEnable0Write f bc s
  | .mbinWrite f bc => Sys2Proof.Machine.execMbinWrite f bc s
  | .mboutWrite k => Sys2Proof.Machine.execMboutWrite k s
  | .tsoffhiWrite f bc => Sys2Proof.Machine.execTsoffhiWrite f bc s
  | .tlatloRead f => Sys2Proof.Machine.execTlatloRead f s
  | .trheadWrite f bc => Sys2Proof.Machine.execTrheadWrite f bc s
  | .dmheadWrite f bc => Sys2Proof.Machine.execDmheadWrite f bc s
  | .xrstatTrig f bc => Sys2Proof.Machine.execXrstatTrig f bc s
  | .xrdataRead f => Sys2Proof.Machine.execXrdataRead f s
  | .fccfgWrite f bc => Sys2Proof.Machine.execFccfgWrite f bc s
  | .almcfgWrite f bc => Sys2Proof.Machine.execAlmcfgWrite f bc s
  | .tgrateWrite f bc => Sys2Proof.Machine.execTgrateWrite f bc s
  | .tgstatWrite f bc => Sys2Proof.Machine.execTgstatWrite f bc s
  | .cctlWrite => Sys2Proof.Machine.execCctlWrite s
  | .moverGo ch => Sys2Proof.Machine.execMoverGo ch s
  | .moverCont ch => Sys2Proof.Machine.execMoverCont ch s
  | .causewayGo ch => Sys2Proof.Machine.execCausewayGo ch s
  | .ld m d ecc => Sys2Proof.Machine.execLd m d ecc s
  | .ldx m d ecc => Sys2Proof.Machine.execLdx m d ecc s
  | .ldy m d ecc => Sys2Proof.Machine.execLdy m d ecc s
  | .st m d => Sys2Proof.Machine.execSt m d s
  | .stx m d => Sys2Proof.Machine.execStx m d s
  | .sty m d => Sys2Proof.Machine.execSty m d s
  | .ldB m d ecc => Sys2Proof.Machine.execLdB m d ecc s
  | .ldBu m d ecc => Sys2Proof.Machine.execLdBu m d ecc s
  | .ldH m d ecc => Sys2Proof.Machine.execLdH m d ecc s
  | .ldHu m d ecc => Sys2Proof.Machine.execLdHu m d ecc s
  | .ldW m d ecc => Sys2Proof.Machine.execLdW m d ecc s
  | .ldWu m d ecc => Sys2Proof.Machine.execLdWu m d ecc s
  | .stB m d ecc => Sys2Proof.Machine.execStB m d ecc s
  | .stH m d ecc => Sys2Proof.Machine.execStH m d ecc s
  | .stW m d ecc => Sys2Proof.Machine.execStW m d ecc s
  | .ldc m d => Sys2Proof.Machine.execLdc m d s
  | .lea m d => Sys2Proof.Machine.execLea m d s
  | .leax m d => Sys2Proof.Machine.execLeax m d s
  | .leay m d => Sys2Proof.Machine.execLeay m d s
  | .add m d => Sys2Proof.Machine.execAdd m d s
  | .adc m d => Sys2Proof.Machine.execAdc m d s
  | .sub m d => Sys2Proof.Machine.execSub m d s
  | .sbc m d => Sys2Proof.Machine.execSbc m d s
  | .cmp m d => Sys2Proof.Machine.execCmp m d s
  | .band m d => Sys2Proof.Machine.execBand m d s
  | .bor m d => Sys2Proof.Machine.execBor m d s
  | .bxor m d => Sys2Proof.Machine.execBxor m d s
  | .shl m d => Sys2Proof.Machine.execShl m d s
  | .shr m d => Sys2Proof.Machine.execShr m d s
  | .sar m d => Sys2Proof.Machine.execSar m d s
  | .rol m d => Sys2Proof.Machine.execRol m d s
  | .ror m d => Sys2Proof.Machine.execRor m d s
  | .perm m d => Sys2Proof.Machine.execPerm m d s
  | .bfx m d => Sys2Proof.Machine.execBfx m d s
  | .bfi m d => Sys2Proof.Machine.execBfi m d s
  | .mul m d => Sys2Proof.Machine.execMul m d s
  | .mulu m d => Sys2Proof.Machine.execMulu m d s
  | .div m d => Sys2Proof.Machine.execDiv m d s
  | .divu m d => Sys2Proof.Machine.execDivu m d s
  | .faddD m d => Sys2Proof.Machine.execFaddD m d s
  | .faddS m d => Sys2Proof.Machine.execFaddS m d s
  | .fsubD m d => Sys2Proof.Machine.execFsubD m d s
  | .fsubS m d => Sys2Proof.Machine.execFsubS m d s
  | .fmulD m d => Sys2Proof.Machine.execFmulD m d s
  | .fmulS m d => Sys2Proof.Machine.execFmulS m d s
  | .fdivD m d => Sys2Proof.Machine.execFdivD m d s
  | .fdivS m d => Sys2Proof.Machine.execFdivS m d s
  | .fmacD m d => Sys2Proof.Machine.execFmacD m d s
  | .fmacS m d => Sys2Proof.Machine.execFmacS m d s
  | .fminD m d => Sys2Proof.Machine.execFminD m d s
  | .fminS m d => Sys2Proof.Machine.execFminS m d s
  | .fmaxD m d => Sys2Proof.Machine.execFmaxD m d s
  | .fmaxS m d => Sys2Proof.Machine.execFmaxS m d s
  | .fcmpD m d => Sys2Proof.Machine.execFcmpD m d s
  | .fcmpoD m d => Sys2Proof.Machine.execFcmpoD m d s
  | .fcmpS m d => Sys2Proof.Machine.execFcmpS m d s
  | .fcmpoS m d => Sys2Proof.Machine.execFcmpoS m d s
  | .fsqrtD r => Sys2Proof.Machine.execFsqrtD r s
  | .fsqrtS r => Sys2Proof.Machine.execFsqrtS r s
  | .fcvtDL r => Sys2Proof.Machine.execFcvtDL r s
  | .fcvtDLu r => Sys2Proof.Machine.execFcvtDLu r s
  | .fcvtSL r => Sys2Proof.Machine.execFcvtSL r s
  | .fcvtSLu r => Sys2Proof.Machine.execFcvtSLu r s
  | .fcvtLD r => Sys2Proof.Machine.execFcvtLD r s
  | .fcvtLuD r => Sys2Proof.Machine.execFcvtLuD r s
  | .fcvtLS r => Sys2Proof.Machine.execFcvtLS r s
  | .fcvtLuS r => Sys2Proof.Machine.execFcvtLuS r s
  | .fcvtSD r => Sys2Proof.Machine.execFcvtSD r s
  | .fcvtDS r => Sys2Proof.Machine.execFcvtDS r s
  | .ioIn m d => Sys2Proof.Machine.execIoIn m d s
  | .ioOut m d => Sys2Proof.Machine.execIoOut m d s
  | .claim m d => Sys2Proof.Machine.execClaim m d s
  | .complete m d => Sys2Proof.Machine.execComplete m d s
  | .jmp m d => Sys2Proof.Machine.execJmp m d s
  | .call m d => Sys2Proof.Machine.execCall m d s
  | .jmpx m d => Sys2Proof.Machine.execJmpx m d s
  | .mov f => Sys2Proof.Machine.execMov f s
  | .neg r => Sys2Proof.Machine.execNeg r s
  | .bnot r => Sys2Proof.Machine.execBnot r s
  | .clz r => Sys2Proof.Machine.execClz r s
  | .tagget r => Sys2Proof.Machine.execTagget r s
  | .tagset f => Sys2Proof.Machine.execTagset f s
  | .skip f => Sys2Proof.Machine.execSkip f s
  | .ret f => Sys2Proof.Machine.execRet f s
  | .trap f => Sys2Proof.Machine.execTrap f s
  | .rfe r => Sys2Proof.Machine.execRfe r s
  | .rfi r => Sys2Proof.Machine.execRfi r s
  | .stile f => Sys2Proof.Machine.execStile f s
  | .fence f => Sys2Proof.Machine.execFence f s
  | .tlbinvVa r => Sys2Proof.Machine.execTlbinvVa r s
  | .tlbinvVaw r => Sys2Proof.Machine.execTlbinvVaw r s
  | .tlbinvAsid r => Sys2Proof.Machine.execTlbinvAsid r s
  | .tlbinvAll r => Sys2Proof.Machine.execTlbinvAll r s
  | .cinvAll r => Sys2Proof.Machine.execCinvAll r s
  | .cwbAll r => Sys2Proof.Machine.execCwbAll r s
  | .cinvLine r => Sys2Proof.Machine.execCinvLine r s
  | .cwbLine r => Sys2Proof.Machine.execCwbLine r s
  | .cwbiLine r => Sys2Proof.Machine.execCwbiLine r s
  | .mfs f => Sys2Proof.Machine.execMfs f s
  | .mts f => Sys2Proof.Machine.execMts f s
  | .mtsTpwrOff r => Sys2Proof.Machine.execMtsTpwrOff r s
  | .mtsTpwrOn r => Sys2Proof.Machine.execMtsTpwrOn r s
  | .mtsAcx n r => Sys2Proof.Machine.execMtsAcx n r s
  | .mtsRmax n r => Sys2Proof.Machine.execMtsRmax n r s
  | .mtsTcfg r => Sys2Proof.Machine.execMtsTcfg r s
  | .mtsFcfg r => Sys2Proof.Machine.execMtsFcfg r s
  | .mtsTown r => Sys2Proof.Machine.execMtsTown r s
  | .waddrArm r => Sys2Proof.Machine.execWaddrArm r s
  | .watchArm k r => Sys2Proof.Machine.execWatchArm k r s
  | .mtsTimer ctl r => Sys2Proof.Machine.execMtsTimer ctl r s
  | .mtsPam n lim r => Sys2Proof.Machine.execMtsPam n lim r s
  | .mtsTranslation k r => Sys2Proof.Machine.execMtsTranslation k r s
  | .mtsEvec r => Sys2Proof.Machine.execMtsEvec r s
  | .mtsVlvl k r => Sys2Proof.Machine.execMtsVlvl k r s
  | .mtsFbst r => Sys2Proof.Machine.execMtsFbst r s
  | .mtsWlock r => Sys2Proof.Machine.execMtsWlock r s
  | .mtsWsreq r => Sys2Proof.Machine.execMtsWsreq r s
  | .mtsPace r => Sys2Proof.Machine.execMtsPace r s
  | .mfsKdout r => Sys2Proof.Machine.execMfsKdout r s
  | .abase r => Sys2Proof.Machine.execAbase r s
  | .atop r => Sys2Proof.Machine.execAtop r s
  | .aperm r => Sys2Proof.Machine.execAperm r s
  | .anarb r => Sys2Proof.Machine.execAnarb r s
  | .anart r => Sys2Proof.Machine.execAnart r s
  | .amask r => Sys2Proof.Machine.execAmask r s
  | .aseal r => Sys2Proof.Machine.execAseal r s
  | .aopen r => Sys2Proof.Machine.execAopen r s
  | .ald r => Sys2Proof.Machine.execAld r s
  | .ast r => Sys2Proof.Machine.execAst r s
  | .aget r => Sys2Proof.Machine.execAget r s
  | .aput r => Sys2Proof.Machine.execAput r s
  | .ajmp r => Sys2Proof.Machine.execAjmp r s
  | .agate r => Sys2Proof.Machine.execAgate r s
  | .sealA r => Sys2Proof.Machine.execSealA r s
  | .unsealA r => Sys2Proof.Machine.execUnsealA r s
  | .achk r => Sys2Proof.Machine.execAchk r s
  | .wait r => Sys2Proof.Machine.execWait r s
  | .yield r => Sys2Proof.Machine.execYield r s
  | .cstart r => Sys2Proof.Machine.execCstart r s
  | .cstop r => Sys2Proof.Machine.execCstop r s
  | .cwake r => Sys2Proof.Machine.execCwake r s
  | .fspill r => Sys2Proof.Machine.execFspill r s
  | .ffill r => Sys2Proof.Machine.execFfill r s
  | .post r => Sys2Proof.Machine.execPost r s
  | .mark r => Sys2Proof.Machine.execMark r s
  | .trec r => Sys2Proof.Machine.execTrec r s
  | .xsnap r => Sys2Proof.Machine.execXsnap r s
  | .freeze r => Sys2Proof.Machine.execFreeze r s
  | .rhahaWord w => Sys2Proof.Machine.execRhahaWord w s
  | .cpInsn w => Sys2Proof.Machine.execCpInsn w s
  | .tld f ecc => Sys2Proof.Machine.execTld f ecc s
  | .tst f => Sys2Proof.Machine.execTst f s
  | .tmma f => Sys2Proof.Machine.execTmma f s
  | .tmova f => Sys2Proof.Machine.execTmova f s
  | .tldac f => Sys2Proof.Machine.execTldac f s
  | .tstac f => Sys2Proof.Machine.execTstac f s
  | .tzeroT q r => Sys2Proof.Machine.execTzeroT q r s
  | .tzeroA q r => Sys2Proof.Machine.execTzeroA q r s
  | .tclrA q r => Sys2Proof.Machine.execTclrA q r s
  | .tkill q r => Sys2Proof.Machine.execTkill q r s
  | .trow f => Sys2Proof.Machine.execTrow f s
  | .tcvt f => Sys2Proof.Machine.execTcvt f s
  | .tfn f => Sys2Proof.Machine.execTfn f s
  | .tred f => Sys2Proof.Machine.execTred f s
  | .tepi f => Sys2Proof.Machine.execTepi f s
  | .tsave q r => Sys2Proof.Machine.execTsave q r s
  | .trestore q r => Sys2Proof.Machine.execTrestore q r s
  | .tsdw q r => Sys2Proof.Machine.execTsdw q r s
  | .tsdr q r => Sys2Proof.Machine.execTsdr q r s
  | .tsync q r => Sys2Proof.Machine.execTsync q r s
  | .interruptEntry => Sys2Proof.Machine.execInterruptEntry s
  | .fastInterruptEntry => Sys2Proof.Machine.execFastInterruptEntry s
  | .lameWritebackEnd => Sys2Proof.Machine.execLameWritebackEnd s
  | .reservedOpcode w => Sys2Proof.Machine.execReservedOpcode w s
  | .ioWriteServe q w => Sys2Proof.Machine.execIoWriteServe q w s
  | .coreResetEnd => Sys2Proof.Machine.execCoreResetEnd s

end Sys2Proof.Machine
end

