-- ==== Sys2Proof/Machine/Tick.lean ====
section
/-!
DEFINITION. What passes when no command waits (log 2): one tick of the reference clock, with the tick counter (01 R55), the
Tollgate's buckets (16 R500), the watchdog's counts (01 R64), the tamper input (01 R45) and the fault window (16 R485); and steps of the
core (15 R452). What a tick brings about at a certain count is a command of its own.
-/

namespace Sys2Proof.Machine

open Sys2Proof

/-- One tick's gain of a bucket of this RATE, in units of 1/1024 token (R500). -/
def bucketGain (rate : BitVec 16) (tok : Nat) : Nat := min (rate.toNat * 1024) (tok + rate.toNat)

/-- The buckets gain their tokens. -/
def tickToll (s : State) : State :=
  { s with toll := { s.toll with
    tokM := bucketGain (fld s.toll.rate 0 16) s.toll.tokM, tokC := bucketGain (fld s.toll.rate 16 16) s.toll.tokC } }

/-- The flit and the beat that may be offered are (R20, R26); the watchdog counts a tick of each head that is not taken (R64), and of
the rate limit's hold (R500), but none of the fence's. -/
def tickStall (s : State) : State :=
  let t := cwOffer (offerNext s)
  { t with pins := { t.pins with
    stallMesh := if (chooseLane t).isSome then t.pins.stallMesh + 1 else if egressIdle t then 0 else t.pins.stallMesh
    stallCw := if t.cw.fifo.isEmpty then 0 else if t.cw.offered || !t.pins.hfence then t.pins.stallCw + 1 else t.pins.stallCw } }

/-- A tick at the counters (R452, R458): FC1, and the contexts that are WAITING. -/
def tickCount (s : State) : State :=
  if !counting s then s
  else ([0, 1, 2, 3] : List CtxId).foldl
    (fun x c => if (x.getCtx c).run == .waiting then countCtx 6 8 1 c none x else x) (addFc 1 1 s)

/-- A tick of the reference clock. -/
def refTick (s : State) : State :=
  let t := { s with time := { s.time with tick := s.time.tick + 1 }, rel := { s.rel with fcWin := s.rel.fcWin + 1 } }
  tickCount (sampleAlarm (tickStall (tickToll t)))

/-- A clock cycle of the Wayside path: the black box takes the beat that is offered, or not (a free value: WS_READY is an input, R51). -/
def tickWayside (s : State) : State :=
  if s.rel.wsbuf.isEmpty then s else waysideBeat (decide (Config.freeNat s.free % 2 = 1)) { s with free := s.free + 1 }

/-- A clock cycle of the coprocessor port: the logic takes the issue that is offered, or not (a free value: CP_IREADY is an input, R36). -/
def tickCopro (s : State) : State :=
  if s.cp.issueQ.isEmpty then s
  else cpTransfer { s with
    free := s.free + 1, pins := { s.pins with cpIready := decide (Config.freeNat s.free % 2 = 1) } }

/-- Time passes: the steps before the tick, the tick, and steps after it. In cold reset nothing counts (R56); without REFCLK no tick passes
(R55), but the core steps on (R45). -/
def idleTick (s : State) : State :=
  if inColdReset s then s
  else
    let t := account s s
    accountSteps (tickCopro (tickWayside (if t.pins.refclk then refTick t else t)))

end Sys2Proof.Machine
end

