-- ==== Sys2Proof/Machine/Ports.lean ====
section
/-!
DEFINITION. The output signals of the ports as functions of the state (01 R17, R18, R26, R29, R36, R40, R47, R51). The inputs come with the
commands; HFENCE, FRZ, ALARM_IN, PACE_HW, CUR_HI, CP_PRESENT and CP_IREADY stand in `Pins` as they are driven.
-/

namespace Sys2Proof.Machine

open Sys2Proof

/-- The output signals, each under its own name. -/
structure OutPins where
  mtxValid : Bool
  mtxFlit : BitVec 512
  mtxSb : BitVec 40
  mrxReady : BitVec 4
  cwtxValid : Bool
  cwtxCh : BitVec 4
  cwtxRid : BitVec 16
  cwtxData : BitVec 256
  cwtxSeal : Bool
  mcDo : W64
  mcFro : Bool
  cpRstN : Bool
  cpIvalid : Bool
  cpInsn : W32
  cpOpa : BitVec 68
  cpOpb : BitVec 68
  cpItag : BitVec 3
  cpCtx : BitVec 2
  cpPriv : BitVec 2
  cpRready : Bool
  frzReq : Bool
  fenceAck : Bool
  alarmOut : Bool
  paceAct : BitVec 4
  stepmon : Bool
  wsValid : Bool
  wsData : W64
  wsLast : Bool
  deriving DecidableEq, Repr

/-- The reset values of the output signals (R17, R26, R29, R36, R40, R47, R51). -/
def OutPins.reset : OutPins where
  mtxValid := false
  mtxFlit := 0
  mtxSb := 0
  mrxReady := 3
  cwtxValid := false
  cwtxCh := 0
  cwtxRid := 0
  cwtxData := 0
  cwtxSeal := false
  mcDo := 0
  mcFro := false
  cpRstN := false
  cpIvalid := false
  cpInsn := 0
  cpOpa := 0
  cpOpb := 0
  cpItag := 0
  cpCtx := 0
  cpPriv := 0
  cpRready := false
  frzReq := false
  fenceAck := false
  alarmOut := false
  paceAct := 0
  stepmon := false
  wsValid := false
  wsData := 0
  wsLast := false

/-- The 512 bits of a flit (R17): word i in bits [64 i + 63 : 64 i]. -/
def flitBits (f : Flit) : BitVec 512 := (List.range 8).foldl (fun a i => a ||| at' (64 * i) (vget f.words i TWord.zero).val) 0

/-- The sideband of a flit (R18). -/
def flitSb (f : Flit) : BitVec 40 :=
  (if f.tagv then (List.range 8).foldl (fun a i => a ||| at' (4 * i) (vget f.words i TWord.zero).tag) 0 else 0) ||| bAt 32 f.tagv |||
    at' 33 f.cls ||| bAt 37 f.last

/-- An operand of the coprocessor port (R36): tag in [67:64], word in [63:0]. -/
def operandBits (w : TWord) : BitVec 68 := at' 0 w.val ||| at' 64 w.tag

/-- Beat k of the record that is being sent (R51): its bytes 8k to 8k + 7. DESIGN CHOICE (log 78): 0 while none is offered. -/
def wsDataOut (s : State) : W64 := match s.rel.wsbuf with | r :: _ => vget r s.rel.wsBeat.toNat 0 | [] => 0

/-- The signals that the core drives. In reset the egress signals have their reset values but while an answer to a snoop is offered (R17,
R24). MC_DO is shown frame by frame, and the data of a port whose VALID is low as last driven (DESIGN CHOICE, log 78). -/
def outputs (s : State) : OutPins where
  mtxValid := s.mesh.offered.isSome
  mtxFlit := if atResetValues s && s.mesh.offered.isNone then 0 else flitBits s.mesh.lastFlit
  mtxSb := if atResetValues s && s.mesh.offered.isNone then 0 else flitSb s.mesh.lastFlit
  mrxReady := mrxReady s
  cwtxValid := s.cw.offered
  cwtxCh := s.cw.lastBeat.ch
  cwtxRid := s.cw.lastBeat.rid
  cwtxData := s.cw.lastBeat.data
  cwtxSeal := s.cw.lastBeat.isSeal
  mcDo := s.chain.mcOut
  mcFro := s.chain.mcFro
  cpRstN := s.pins.cpRstN
  cpIvalid := !s.cp.issueQ.isEmpty
  cpInsn := s.cp.lastIssue.insn
  cpOpa := operandBits s.cp.lastIssue.opa
  cpOpb := operandBits s.cp.lastIssue.opb
  cpItag := s.cp.lastIssue.itag
  cpCtx := s.cp.lastIssue.ctx
  cpPriv := s.cp.lastIssue.priv
  cpRready := s.pins.cpPresent && !inReset s
  frzReq := frzReq s
  fenceAck := s.pins.fenceAck
  alarmOut := s.pins.alarmOut
  paceAct := s.pace.act
  stepmon := s.pins.stepmon
  wsValid := !s.rel.wsbuf.isEmpty
  wsData := wsDataOut s
  wsLast := !s.rel.wsbuf.isEmpty && s.rel.wsBeat == 7

end Sys2Proof.Machine
end

