-- ==== Sys2Proof/Safety.lean ====
section
/-!
DEFINITION. The terms in which claims are made: when a native instruction begins and how it ends, what it is to read an
operand, what a frame leaves unchanged, and the invariants of the machine.
-/

namespace Sys2Proof.Machine

open Sys2Proof

/-! ## Beginning and end of an instruction -/

/-- u with the pair of a SKIP ended (R116): where the effect of a fetched word begins. -/
def begun (c : CtxId) (u : State) : State := u.modCtx c fun k => { k with skipPair := false }

/-- In s, context c can execute a native word, the fetch of the word passes its checks (R132), and t is the state in which
the word's own effect begins. -/
def Begins (c : CtxId) (s t : State) : Prop :=
  issuing s = some c ∧ (s.getCtx c).rh = false ∧ ∃ u, fetchCheck c s = .ok () u ∧ t = begun c u

/-- In s, context c can execute a Rhaha word (R160), the fetch of the word passes its checks, and t is the state in which the
word's own effect begins. -/
def BeginsRhaha (c : CtxId) (s t : State) : Prop :=
  issuing s = some c ∧ (s.getCtx c).rh = true ∧ ∃ u, fetchCheck c s = .ok () u ∧ t = begun c u

/-- The state after an instruction of context c whose effect led to v, and which leaves the PC where v has it. -/
def endsThere (c : CtxId) (s v : State) : State := retire c s v

/-- The state after an instruction of context c whose effect led to v, and which goes on at PC + 4. -/
def ends (c : CtxId) (s v : State) : State := retire c s (v.modCtx c fun k => { k with pc := k.pc + 4 })

/-- The state after an instruction of context c, begun in t, that raises an exception or is an illegal return: none of its
own changes stays (R123), and the exception is entered. -/
def stopped (c : CtxId) (s t : State) (e : ExcInfo) : State := afterStop c s t (.exc e)

/-- The exception of vector v with a code, and nothing else (R367). -/
def plainExc (v : BitVec 6) (code : BitVec 8) : ExcInfo := ⟨v, code, none, 0, false, false⟩

/-! ## Operands -/

/-- Mode 2 adds D to Y (R111). -/
def incY (m : BitVec 3) (d : BitVec 22) (k : Ctx) : Ctx :=
  if m = 2 then k.setY ⟨k.getY.val + d.signExtend 64, k.getY.tag⟩ else k

/-- The form (m, d) is allowed for operand class k, and its base register carries a tag of the class (R110, R131). -/
def FormOk (c : CtxId) (k : OpClass) (m : BitVec 3) (d : BitVec 22) (t : State) : Prop :=
  needMode c k m d t = .ok () t ∧ needBase c k m t = .ok () t

/-- The operand of a read class in t is the word w; u is the state after the read. -/
def Reads (c : CtxId) (m : BitVec 3) (d : BitVec 22) (t : State) (w : TWord) (u : State) : Prop :=
  FormOk c .read m d t ∧ readOperand c m d t = .ok w u

/-- The effective address of a form (R109). -/
def eaOf (c : CtxId) (m : BitVec 3) (d : BitVec 22) (t : State) : W64 := effAddr t (t.getCtx c) m d

/-- A sub-word load of n bytes reads the word w, in which its bytes begin at byte `at`; u is the state after the read. -/
def ReadsBytes (c : CtxId) (n : Nat) (m : BitVec 3) (d : BitVec 22) (t : State) (w : TWord) (off : Nat) (u : State) : Prop :=
  FormOk c .read m d t ∧
    ((m = 0 ∨ m = 4) ∧ off = 0 ∧ readOperand c m d t = .ok w u ∨
     ¬(m = 0 ∨ m = 4) ∧ off = (eaOf c m d t).toNat % 8 ∧
      needRows c .read (eaOf c m d t) n (m == 3) false t = .ok () t ∧ loadAt c (eaOf c m d t) n t = .ok w u)

/-! ## Tile instructions -/

/-- In s, context c can execute a tile instruction, the fetch of its word passes its checks and leads to t. -/
def TileBegins (c : CtxId) (s t : State) : Prop :=
  issuing s = some c ∧ (s.getCtx c).rh = false ∧ fetchCheck c s = .ok () t

/-- A tile instruction of context c passes row 4 of R230 and starts at its first row: c owns the tile, which is powered, nothing is
stopped part-way, and no committed instruction has rows to perform. `free`: TSAVE, TRESTORE and TKILL, which a valid PROG does not stop
(R202). -/
def TileReady (free : Bool) (c : CtxId) (s t : State) : Prop :=
  TileBegins c s t ∧ enabled t 2 = true ∧ t.drover.owner = c ∧ t.tile.tpOn = true ∧ t.tile.tpPowered = true ∧ t.tile.part = none ∧
    t.tile.busy = false ∧ (free = false → ∀ i, bit (t.tile.prog.get i) 8 = false)

/-- In t, a tile instruction reads and writes what the tile unit holds: no storage error waits there, and no Mover channel uses a
register (R336, R487). -/
def TilePlain (t : State) : Prop := t.tile.errs = [] ∧ moverRegs t = 0 ∧ t.tile.veil = 0

/-- The state after a tile instruction whose rows led to u: it stands in the queue, if it does work there, with the privilege and world of its
context (R454), and it is counted (R216). -/
def tileDone (job : Option TileJob) (c : CtxId) (s u : State) : State :=
  retire c s ((countCtx 0 0x0C 1 c none { u with tile := { u.tile with
    part := none, tileq := match job with | some j => u.tile.tileq ++ [j.causedBy (u.getCtx c)] | none => u.tile.tileq } }).modCtx c fun k =>
      { k with pc := k.pc + 4, skipPair := false })

/-- The job of an instruction that has done all its work (R216). -/
def idleJob (c : CtxId) (w : W32) (q : BitVec 2) : Option TileJob := some ⟨⟨c, w, q, false, 0, 0, 0, false, false⟩, 0, 0, []⟩

/-- The job of a row-by-row instruction whose rows have all been performed. -/
def rowJob (c : CtxId) (w : W32) (v : Stream) (d : Shape) (base base2 : W64) (passes : Nat) : Option TileJob :=
  some ⟨⟨c, w, fld w 23 2, v.isSome, d.bits, base, base2, false, false⟩, passes - 1, d.rows, []⟩

/-- The state after a tile instruction of stream q, begun in t, whose rows led to u: a PROG that it continued is 0 (R201). -/
def rowsDone (job : Option TileJob) (c : CtxId) (w : W32) (q : BitVec 2) (s t u : State) : State :=
  tileDone job c s { u with tile := endProg c w q (t.getCtx c).pc u.tile }

/-- Where the instruction w of stream q starts in t (R201, R202): at the pass and the row that its PROG gives, or at the first row when no
PROG is valid. -/
def TileStarts (c : CtxId) (w : W32) (q : BitVec 2) (t : State) (pass row : Nat) : Prop :=
  let p := t.tile.prog.get q
  (∀ i, i ≠ q → bit (t.tile.prog.get i) 8 = false) ∧
    (bit p 8 = false ∧ pass = 0 ∧ row = 0 ∨
     bit p 8 = true ∧ fld p 9 2 = c ∧ fld p 16 16 = fld (t.getCtx c).pc 2 16 ∧ fld p 32 32 = w ∧ pass = fldN p 6 2 ∧ row = fldN p 0 6)

/-- The rows that are left of an instruction that starts at a pass and a row, in the order in which they are performed (R201, R219, R236). -/
def rowsLeft (passes rows pass row : Nat) : List (Nat × Nat) :=
  ((List.range passes).flatMap fun p => (List.range rows).map fun r => (p, r)).filter fun e =>
    decide (pass < e.1 ∨ e.1 = pass ∧ row ≤ e.2)

/-- Checking and performing the rows of a list one after the other, each completely, leads from t to u; no interrupt and no switch of
context c is due meanwhile (R221, R405). -/
def RowsDo (c : CtxId) (one : Nat → Nat → M Unit) : List (Nat × Nat) → State → State → Prop
  | [], t, u => u = t
  | (p, r) :: rest, t, u => boundaryDue t c = false ∧ ∃ w, one p r t = .ok () w ∧ RowsDo c one rest w u

/-- The stream and the descriptor of a tile instruction are in order (R83, R226, R231). -/
def TileForm (t : State) (q : BitVec 2) (d : Shape) (v : Stream) : Prop :=
  (bit t.tile.tcfg 0 = false → q = 0) ∧ v = (if bit t.tile.tcfg 0 then some q else none) ∧ d.ok v.isSome = true ∧
    fmtEnabled t d.fmt = true

/-- The base register that BR names is in order (R227, R230). -/
def BaseOk (c : CtxId) (t : State) (br : BitVec 2) (align : Nat) : Prop :=
  br ≠ 3 ∧ ((t.getCtx c).baseReg br).tag = Tag.dptr ∧ ((t.getCtx c).baseReg br).val.toNat % align = 0

/-! ## Exact arithmetic and one rounding -/

/-- ±m × 2^e in units of 2^q, for q up to e. -/
def inUnits (q : Int) (x : Bool × Nat × Int) : Int := (if x.1 then -1 else 1) * (x.2.1 : Int) * 2 ^ (x.2.2 - q).toNat

/-- The exact sum of finite numbers in units of 2^q. -/
def sumUnits (q : Int) (xs : List (Bool × Nat × Int)) : Int := (xs.map (inUnits q)).sum

/-- The product of two numbers. -/
def timesOf (x y : Bool × Nat × Int) : Bool × Nat × Int := (x.1 != y.1, x.2.1 * y.2.1, x.2.2 + y.2.2)

/-- The number with the other sign. -/
def negOf (x : Bool × Nat × Int) : Bool × Nat × Int := (!x.1, x.2)

/-- x comes before y: it is less, or -0 where y is +0. -/
def BeforeOf (x y : Bool × Nat × Int) : Prop :=
  let q := min x.2.2 y.2.2
  inUnits q x < inUnits q y ∨ inUnits q x = inUnits q y ∧ x.2.1 = 0 ∧ y.2.1 = 0 ∧ x.1 = true ∧ y.1 = false

/-- The finite magnitude with the pattern b, in units of 2^q (R257). -/
def magUnits (f : FpFmt) (q : Int) (b : Nat) : Int := match f.decodeFin b with | .fin _ m e => m * 2 ^ (e - q).toNat | _ => 0

/-- Of the patterns up to `top`, mag is the one nearest to n / d × 2^e, the even one of two that are as near. -/
def NearestUpTo (f : FpFmt) (top n d : Nat) (e : Int) (mag : Nat) : Prop :=
  let q := min e f.qmin
  let away := fun (b : Nat) => (magUnits f q b * d - (n : Int) * 2 ^ (e - q).toNat).natAbs
  mag ≤ top ∧ ∀ b ≤ top, away mag ≤ away b ∧ (b ≠ mag → away b = away mag → mag % 2 = 0)

/-- mag is n / d × 2^e rounded to nearest even in f: infinity from half a unit above the largest finite number on (R120, R265, R266). -/
def Nearest (f : FpFmt) (n d : Nat) (e : Int) (mag : Nat) : Prop :=
  let q := min e f.qmin
  let unit := magUnits f q f.maxBits - magUnits f q (f.maxBits - 1)
  if (2 * magUnits f q f.maxBits + unit) * d ≤ 2 * (n : Int) * 2 ^ (e - q).toNat then mag = f.infBits
  else NearestUpTo f f.maxBits n d e mag

/-- mag is m × 2^e rounded toward zero in f. -/
def TowardZero (f : FpFmt) (m : Nat) (e : Int) (mag : Nat) : Prop :=
  let q := min e f.qmin
  let x : Int := (m : Int) * 2 ^ (e - q).toNat
  mag ≤ f.maxBits ∧ magUnits f q mag ≤ x ∧ ∀ b ≤ f.maxBits, magUnits f q b ≤ x → magUnits f q b ≤ magUnits f q mag

/-- The pattern b is the exact sum of the list, rounded once to nearest even in f. A sum of zeros of one sign keeps the sign, and any other
sum of zero is +0 (R264). -/
def SumRounds (f : FpFmt) (xs : List (Bool × Nat × Int)) (b : Nat) : Prop :=
  ∀ q : Int, (∀ x ∈ xs, q ≤ x.2.2) → let t := sumUnits q xs
    if t = 0 then b = f.signed (!xs.isEmpty && xs.all fun x => x.1) 0
    else ∃ mag, b = f.signed (decide (t < 0)) mag ∧ Nearest f t.natAbs 1 q mag

/-- The elements that a list of exact values stands for, all of them finite. -/
def FiniteOf (vs : List FpVal) (xs : List (Bool × Nat × Int)) : Prop := vs = xs.map fun x => .fin x.1 x.2.1 x.2.2

/-- The w bits of an exact integer: itself if it fits, else its bound or its low bits (R266). -/
def integerOf (w : Nat) (sat : Bool) (i : Int) : Nat :=
  let lo : Int := -(2 ^ (w - 1))
  let hi : Int := 2 ^ (w - 1) - 1
  ((if sat then max lo (min hi i) else i) % 2 ^ w).toNat

/-- The exact integer i does not fit w bits. -/
def Overflows (w : Nat) (i : Int) : Prop := i < -(2 ^ (w - 1)) ∨ 2 ^ (w - 1) ≤ i

/-- Single use: group results entered one after the other into an FP32 element of the Fold, each with one rounding (R283, R284). -/
def Promoted : List (Bool × Nat × Int) → W32 → W32 → Prop
  | [], old, new => new = old
  | x :: xs, old, new => ∃ (o : Bool × Nat × Int) (y : W32), elemVal fFP32 old.toNat = .fin o.1 o.2.1 o.2.2 ∧
      SumRounds fp32 [o, x] y.toNat ∧ Promoted xs y new

/-- Of the roundings by which group results enter an element one after the other (R283), one whose result satisfies p is inexact. -/
def InexactStep (p : W32 → Prop) : List (Bool × Nat × Int) → W32 → Prop
  | [], _ => False
  | x :: xs, old => ∃ (o : Bool × Nat × Int) (y : W32), elemVal fFP32 old.toNat = .fin o.1 o.2.1 o.2.2 ∧
      SumRounds fp32 [o, x] y.toNat ∧
      (p y ∧ (∀ n : Bool × Nat × Int, elemVal fFP32 y.toNat = .fin n.1 n.2.1 n.2.2 →
        sumUnits (min (min o.2.2 x.2.2) n.2.2) [o, x, negOf n] ≠ 0) ∨ InexactStep p xs y)

/-- Twin use: a group result entered into a pair, high part then low part (R286). -/
def TwinPromoted (x : Bool × Nat × Int) (hi lo hi' lo' : W32) : Prop :=
  ∃ h l n, elemVal fFP32 hi.toNat = .fin h.1 h.2.1 h.2.2 ∧ elemVal fFP32 lo.toNat = .fin l.1 l.2.1 l.2.2 ∧
    SumRounds fp32 [h, l, x] hi'.toNat ∧ elemVal fFP32 hi'.toNat = .fin n.1 n.2.1 n.2.2 ∧
    (sumUnits (min (min h.2.2 l.2.2) (min x.2.2 n.2.2)) [h, l, x, negOf n] = 0 → lo' = 0) ∧
    (sumUnits (min (min h.2.2 l.2.2) (min x.2.2 n.2.2)) [h, l, x, negOf n] ≠ 0 → SumRounds fp32 [h, l, x, negOf n] lo'.toNat)

/-- Twin use: group results entered one after the other into a pair (R284, R286). -/
def TwinPromotedAll : List (Bool × Nat × Int) → W32 → W32 → W32 → W32 → Prop
  | [], hi, lo, hi', lo' => hi' = hi ∧ lo' = lo
  | x :: xs, hi, lo, hi', lo' => ∃ h l, TwinPromoted x hi lo h l ∧ TwinPromotedAll xs h l hi' lo'

/-! ## Frames -/

/-- A WAITING context may have become READY, woken by an interrupt that a counter's overflow made takeable (R404, R456). -/
def SameOrWoken (k k' : Ctx) : Prop := k' = k ∨ k.run = .waiting ∧ ∃ now, k' = k.wokenByIrq now

/-- From s to t nothing has changed but when the classes of waiting FENCEs were performed (R475). -/
def FencesNoted (s t : State) : Prop :=
  (∀ c, ∃ w, t.getCtx c = { s.getCtx c with ev := { (s.getCtx c).ev with fence := w } }) ∧ { t with ctx := s.ctx } = s

/-- No interrupt goes before the fault of the instruction that context c executes in s (R370). -/
def NoInterruptFirst (c : CtxId) (s : State) : Prop := atBoundary (s.getCtx c) = true → bestVector s c = none

/-! ## Invariants -/

/-- The scratchpad is canonical, its keys strictly rising, and no word of it carries a reserved tag (R102). -/
def SpadInv (s : State) : Prop :=
  SMap.wf s.spad = true ∧ ∀ e ∈ s.spad, isReserved e.2.tag = false

/-- At most one context is RUNNING (R399). -/
def OneRunning (s : State) : Prop :=
  ∀ c c', (s.getCtx c).run = .running → (s.getCtx c').run = .running → c = c'

/-- The caches are in order (R315, R317, R318, R488): keys strictly rising, every line in its own set and in a way that is not locked
out, no line twice in one cache, no line of L1D or L2 in an eviction buffer, no line in two entries of the buffers; and each cache
has a way that is not locked out (R489). -/
def CachesInv (s : State) : Prop :=
  (∀ id : CacheId, SMap.wf (s.caches.lines id) = true ∧ (∃ w < id.ways, wayLocked s id w = false) ∧
    (∀ e ∈ s.caches.lines id, e.1 / id.ways = e.2.line % id.sets ∧ wayLocked s id (e.1 % id.ways) = false ∧
      (id ≠ .l1i → ∀ b ∈ s.caches.ebuf, b.line ≠ e.2.line)) ∧
    ∀ e ∈ s.caches.lines id, ∀ f ∈ s.caches.lines id, e.2.line = f.2.line → e.1 = f.1) ∧
  (s.caches.ebuf.map (·.line)).Nodup

/-- The machine is in order: at most one context is RUNNING (R399), every context's current window is one of 0 to 6 (R413, R414), and the
caches are. -/
def MachineInv (s : State) : Prop := OneRunning s ∧ (∀ c, (s.getCtx c).win.cur.toNat < 7) ∧ CachesInv s

/-- The configuration that start-up locks (R84, R87) is the same in t as in s, and locked. -/
def ConfigKept (s t : State) : Prop :=
  t.boot.locked = true ∧ t.chain.privMode = s.chain.privMode ∧ t.chain.enable0 = s.chain.enable0 ∧
    (t.chain.rveclo, t.chain.rvechi) = (s.chain.rveclo, s.chain.rvechi) ∧ t.chain.entsrc = s.chain.entsrc ∧
    t.chain.sealedOnly = s.chain.sealedOnly

/-- What user code of context c may not write is the same in t as in s: the context's system registers but MARKR, the map registers, the
lock-out of cache ways, and the priorities (R147, R401, R488). -/
def UserKept (c : CtxId) (s t : State) : Prop :=
  (∃ m, (t.getCtx c).sys = { (s.getCtx c).sys with markr := m }) ∧ t.pamb = s.pamb ∧ t.paml = s.paml ∧ t.rel.wlock = s.rel.wlock ∧
    t.drover.dpri = s.drover.dpri

end Sys2Proof.Machine
end

