-- ==== Sys2Proof/Certificates/Slice0/Obligations.lean ====
section
/-!
DEFINITION. The statements for the provers. `Begins c s t` says that context c may execute a native word in s and that its
effect begins in t; `ends` and `endsThere` give the state after it. A table pairs the commands of one shape with what the
spec says each computes.
-/

open Sys2Proof Sys2Proof.Machine

/-! ## The queue and the step -/

/-- A step takes the command at the front of the queue and is `exec` of it on the state with the rest of the queue. The queue
is the model's own (log 2).
On an empty queue a step is a tick of REFCLK, while that runs: TICK, FC1 while the counters run, the time that the fault window has been
open, and the Tollgate's buckets go on by a tick, a bucket by RATE / 1024 token up to RATE tokens (R449, R452, R485, R500); in cold reset
nothing happens, and without REFCLK none of these changes (R55, R56). The tile unit and every context's PC, ST, A, X, Y and stack registers
stay as they are. That a tick is what passes on an empty queue is the model's choice (log 2). -/
def Obligations.StepRunsFrontCommand : Prop :=
  (∀ (c : Instr) (rest : List Instr) (s : State),
    Sys2Proof.Machine.step { s with pending := c :: rest } = Sys2Proof.Machine.exec c { s with pending := rest }) ∧
  (∀ s : State, s.pending = [] → ∃ t, Sys2Proof.Machine.step s = .next t ∧ t.pending = [] ∧
    (inColdReset s = true → t = s) ∧
    (inColdReset s = false →
      let tick := fun (b : Bool) => if s.pins.refclk && b then 1 else 0
      t.time.tick = s.time.tick + BitVec.ofNat 64 (tick true) ∧
      vget t.perf.fc 1 0 = vget s.perf.fc 1 0 + BitVec.ofNat 64 (tick (bit s.perf.pmctl 0 && !s.pins.frz)) ∧
      t.rel.fcWin = s.rel.fcWin + BitVec.ofNat 64 (tick true) ∧
      (let gain := fun (i tok : Nat) =>
        if s.pins.refclk then min ((fldN s.toll.rate i 16) * 1024) (tok + fldN s.toll.rate i 16) else tok
       t.toll.tokM = gain 0 s.toll.tokM ∧ t.toll.tokC = gain 16 s.toll.tokC) ∧
      t.tile = s.tile ∧ ∀ c, (t.getCtx c).pc = (s.getCtx c).pc ∧ (t.getCtx c).st = (s.getCtx c).st ∧
        (t.getCtx c).getA = (s.getCtx c).getA ∧ (t.getCtx c).getX = (s.getCtx c).getX ∧ (t.getCtx c).getY = (s.getCtx c).getY ∧
        (t.getCtx c).stk = (s.getCtx c).stk))

/-- Every well-formed command answers a next state in every state; RESERVED_OPCODE with an assigned word, BAD_PACKET with a
packet the core receives and POST_RECEIVE with words that do not fit its header are refused as ill-formed, which is the model's choice
(log 8). That a command whose event cannot occur leaves the state as it is, and is no stop, is the model's choice too (log 3). -/
def Obligations.EveryCommandAnswers : Prop :=
  ∀ (i : Instr) (s : State),
    (Sys2Proof.wellFormed i = true → ∃ t, Sys2Proof.Machine.exec i s = .next t) ∧
    (Sys2Proof.wellFormed i = false → Sys2Proof.Machine.exec i s = .refused .illFormed)

/-! ## Integer instructions -/

/-- The sums of R137 and what they compute: result, carry out or no borrow, and the exact signed result (R138). The Bool is
ST.C before. -/
def sumRows : List ((BitVec 3 → BitVec 22 → Instr) × SumOp × (W64 → W64 → Bool → W64 × Bool × Int)) :=
  [ (Instr.add, .add, fun a b _ => (a + b, decide (2 ^ 64 ≤ a.toNat + b.toNat), a.toInt + b.toInt)),
    (Instr.adc, .adc, fun a b c => (a + b + (BitVec.ofBool c).setWidth 64,
      decide (2 ^ 64 ≤ a.toNat + b.toNat + c.toNat), a.toInt + b.toInt + c.toNat)),
    (Instr.sub, .sub, fun a b _ => (a - b, decide (b.toNat ≤ a.toNat), a.toInt - b.toInt)),
    (Instr.sbc, .sbc, fun a b c => (a - b - (BitVec.ofBool !c).setWidth 64,
      decide (b.toNat + (!c).toNat ≤ a.toNat), a.toInt - b.toInt - (!c).toNat)),
    (Instr.cmp, .cmp, fun a b _ => (a - b, decide (b.toNat ≤ a.toNat), a.toInt - b.toInt)) ]

/-- ST after a sum: C, Z, N and V replaced, the other bits kept (R97, R138). -/
def sumSt (st : W32) (r : W64) (c : Bool) (exact : Int) : W32 :=
  (st &&& 0xFFFFFFF0#32) ||| (BitVec.ofBool c).setWidth 32 ||| ((BitVec.ofBool (r == 0)).setWidth 32 <<< 1) |||
    ((BitVec.ofBool r.msb).setWidth 32 <<< 2) |||
    ((BitVec.ofBool (decide (exact < -(2 ^ 63) ∨ 2 ^ 63 ≤ exact))).setWidth 32 <<< 3)

/-- ADD, ADC, SUB, SBC and CMP complete on the operand tags of R103: the result and its tag in A (CMP: none), C, Z, N and V
as R138 defines them, Y moved on by mode 2, PC + 4; the equation leaves every other part of the state as the operand read
left it. -/
def Obligations.SumInstructions : Prop :=
  ∀ row ∈ sumRows, ∀ (c : CtxId) (s t u : State) (m : BitVec 3) (d : BitVec 22) (a b : TWord),
    Begins c s t → Reads c m d t b u → (t.getCtx c).getA = a →
    (isPlain a.tag ∨ isPtr a.tag) → sumAccepts row.2.1 a.tag b.tag = true →
    let r := row.2.2 a.val b.val (bit (u.getCtx c).st 0)
    exec (row.1 m d) s = .next (ends c s (u.modCtx c fun k =>
      let k' := { incY m d k with st := sumSt k.st r.1 r.2.1 r.2.2 }
      if row.2.1 = .cmp then k' else k'.setA ⟨r.1, sumTag a.tag b.tag⟩))

/-- The logic, shift, rotate and permute instructions and their results (R137, R139, R140). -/
def logicRows : List ((BitVec 3 → BitVec 22 → Instr) × (W64 → W64 → W64)) :=
  [ (Instr.band, fun a b => a &&& b), (Instr.bor, fun a b => a ||| b), (Instr.bxor, fun a b => a ^^^ b),
    (Instr.shl, fun a b => a <<< (b.toNat % 64)), (Instr.shr, fun a b => a >>> (b.toNat % 64)),
    (Instr.sar, fun a b => a.sshiftRight (b.toNat % 64)), (Instr.rol, fun a b => a.rotateLeft (b.toNat % 64)),
    (Instr.ror, fun a b => a.rotateRight (b.toNat % 64)), (Instr.perm, permute) ]

/-- ST after a result that sets Z and N only (R137, R138). -/
def zeroNegSt (st : W32) (r : W64) : W32 :=
  (st &&& 0xFFFFFFF9#32) ||| ((BitVec.ofBool (r == 0)).setWidth 32 <<< 1) ||| ((BitVec.ofBool r.msb).setWidth 32 <<< 2)

/-- AND, OR, XOR, the shifts and rotates by op[5:0] and PERM complete on the tags of their row of R103: the result in A,
tagged INT if both operands are INT and RAW otherwise, Z and N of the result, C and V and the rest of ST kept. -/
def Obligations.LogicInstructions : Prop :=
  ∀ row ∈ logicRows, ∀ (c : CtxId) (s t u : State) (m : BitVec 3) (d : BitVec 22) (a b : TWord),
    Begins c s t → Reads c m d t b u → (t.getCtx c).getA = a → isLogic a.tag = true → isLogic b.tag = true →
    let r := row.2 a.val b.val
    exec (row.1 m d) s = .next (ends c s (u.modCtx c fun k =>
      ({ incY m d k with st := zeroNegSt k.st r }).setA
        ⟨r, if a.tag = Tag.int ∧ b.tag = Tag.int then Tag.int else Tag.raw⟩))

/-- What PERM, BFX, BFI and CLZ compute, bit by bit (R139 to R141): byte i of PERM's result is the byte of A that nibble i
of the control names, or the sign of one; BFX moves the field [min(POS + LM1, 63) : POS] down to bit 0 and extends it as SX
says; BFI replaces the field by the low bits of X; CLZ counts the zero bits above the highest 1.
PERM, BFX and BFI complete with that value: in A, Z and N of the result; BFX takes every tag but POISON and gives INT, BFI
the tags of the logic row for A, the control and X. -/
def Obligations.FieldOperations : Prop :=
  ((∀ (a ctl : W64) (i : Nat), i < 8 →
      byteOf (permute a ctl) i =
        (let v := ctl.toNat / 16 ^ i % 16
         if v < 8 then byteOf a v else if (byteOf a (v - 8)).msb then 0xFF else 0)) ∧
    (∀ (a x ctl : W64) (pos len : Nat), pos = ctl.toNat % 64 → len = min (pos + ctl.toNat / 64 % 64) 63 + 1 - pos →
      (∀ i, i < 64 → (extractField a ctl).getLsbD i =
        (if i < len then a.getLsbD (pos + i) else ctl.getLsbD 12 && a.getLsbD (pos + len - 1))) ∧
      (∀ i, i < 64 → (insertField a x ctl).getLsbD i =
        (if pos ≤ i ∧ i < pos + len then x.getLsbD (i - pos) else a.getLsbD i))) ∧
    (∀ a : W64, leadingZeros a ≤ 64 ∧ (∀ i, 64 - leadingZeros a ≤ i → a.getLsbD i = false) ∧
      (a ≠ 0 → leadingZeros a < 64 ∧ a.getLsbD (63 - leadingZeros a) = true))) ∧
  (∀ (c : CtxId) (s t u : State) (m : BitVec 3) (d : BitVec 22) (a b : TWord),
      Begins c s t → Reads c m d t b u → (t.getCtx c).getA = a →
      (isLogic a.tag = true → isLogic b.tag = true →
        exec (.perm m d) s = .next (ends c s (u.modCtx c fun k =>
          ({ incY m d k with st := zeroNegSt k.st (permute a.val b.val) }).setA
            ⟨permute a.val b.val, if a.tag = Tag.int ∧ b.tag = Tag.int then Tag.int else Tag.raw⟩))) ∧
      (a.tag ≠ Tag.poison → b.tag ≠ Tag.poison →
        exec (.bfx m d) s = .next (ends c s (u.modCtx c fun k =>
          ({ incY m d k with st := zeroNegSt k.st (extractField a.val b.val) }).setA ⟨extractField a.val b.val, Tag.int⟩))) ∧
      (∀ x, (t.getCtx c).getX = x → (u.getCtx c).getX = x → isLogic a.tag = true → isLogic b.tag = true →
        isLogic x.tag = true →
        exec (.bfi m d) s = .next (ends c s (u.modCtx c fun k =>
          ({ incY m d k with st := zeroNegSt k.st (insertField a.val x.val b.val) }).setA
            ⟨insertField a.val x.val b.val,
              if a.tag = Tag.int ∧ b.tag = Tag.int ∧ x.tag = Tag.int then Tag.int else Tag.raw⟩))))

/-- MUL, MULU, DIV and DIVU complete on RAW and INT operands: the 128-bit product in MH:ML, quotient and remainder in MQ and
MR, tagged INT; A, X and the flags kept, but DIV sets V, which is 1 exactly for -2^63 / -1. A division by zero raises vector 12
(R117, R119, R137). -/
def Obligations.MultiplyDivide : Prop :=
  ∀ (c : CtxId) (s t u : State) (m : BitVec 3) (d : BitVec 22) (a b : TWord),
    Begins c s t → Reads c m d t b u → (t.getCtx c).getA = a → isPlain a.tag = true → isPlain b.tag = true →
    (∃ v, exec (.mul m d) s = .next (ends c s v) ∧ v = u.modCtx c (fun k =>
      { incY m d k with mh := (v.getCtx c).mh, ml := (v.getCtx c).ml }) ∧
      (v.getCtx c).mh.tag = Tag.int ∧ (v.getCtx c).ml.tag = Tag.int ∧
      (v.getCtx c).mh.val.toInt * 2 ^ 64 + (v.getCtx c).ml.val.toNat = a.val.toInt * b.val.toInt) ∧
    (∃ v, exec (.mulu m d) s = .next (ends c s v) ∧ v = u.modCtx c (fun k =>
      { incY m d k with mh := (v.getCtx c).mh, ml := (v.getCtx c).ml }) ∧
      (v.getCtx c).mh.tag = Tag.int ∧ (v.getCtx c).ml.tag = Tag.int ∧
      (v.getCtx c).mh.val.toNat * 2 ^ 64 + (v.getCtx c).ml.val.toNat = a.val.toNat * b.val.toNat) ∧
    (b.val ≠ 0 → exec (.div m d) s = .next (ends c s (u.modCtx c fun k =>
      { incY m d k with
        mq := ⟨BitVec.ofInt 64 (a.val.toInt.tdiv b.val.toInt), Tag.int⟩
        mr := ⟨BitVec.ofInt 64 (a.val.toInt.tmod b.val.toInt), Tag.int⟩
        st := (k.st &&& 0xFFFFFFF7#32) |||
          (if a.val = 0x8000000000000000#64 ∧ b.val = BitVec.allOnes 64 then 8 else 0) }))) ∧
    (b.val ≠ 0 → exec (.divu m d) s = .next (ends c s (u.modCtx c fun k =>
      { incY m d k with
        mq := ⟨BitVec.ofNat 64 (a.val.toNat / b.val.toNat), Tag.int⟩
        mr := ⟨BitVec.ofNat 64 (a.val.toNat % b.val.toNat), Tag.int⟩ }))) ∧
    (b.val = 0 → ∀ i ∈ [Instr.div, Instr.divu], exec (i m d) s = .next (stopped c s u (plainExc 12 0)))

/-- NEG, NOT, CLZ, TAGGET and TAGSET complete (R105, R137 to R139, R146), with the form bits 0. The register field names A,
X or Y. -/
def Obligations.AluGroup : Prop :=
  ∀ (c : CtxId) (s t : State) (a : TWord), Begins c s t → (t.getCtx c).getA = a →
    (isPlain a.tag = true → exec (.neg 0) s = .next (ends c s (t.modCtx c fun k =>
      ({ k with st := sumSt k.st (-a.val) (decide (a.val = 0)) (-a.val.toInt) }).setA ⟨-a.val, Tag.int⟩))) ∧
    (isLogic a.tag = true → exec (.bnot 0) s = .next (ends c s (t.modCtx c fun k =>
      ({ k with st := zeroNegSt k.st (~~~a.val) }).setA ⟨~~~a.val, if a.tag = Tag.int then Tag.int else Tag.raw⟩))) ∧
    (a.tag ≠ Tag.poison → exec (.clz 0) s = .next (ends c s (t.modCtx c fun k =>
      ({ k with st := zeroNegSt k.st (BitVec.ofNat 64 (leadingZeros a.val)) }).setA
        ⟨BitVec.ofNat 64 (leadingZeros a.val), Tag.int⟩))) ∧
    (∀ (r : BitVec 2) (g : Axy), (r, g) ∈ [((0 : BitVec 2), Axy.a), (1, Axy.x), (2, Axy.y)] →
      exec (.tagget (r.setWidth 21 <<< 19)) s = .next (ends c s (t.modCtx c fun k =>
        k.setA ⟨(k.axy g).tag.setWidth 64, Tag.int⟩)) ∧
      (∀ n : Tag, n ∈ [0, 1, 2, 3, 4, 5, 8, 15] → isProtected ((t.getCtx c).axy g).tag = false →
        exec (.tagset (n.setWidth 25 <<< 21 ||| r.setWidth 25 <<< 19)) s = .next (ends c s (t.modCtx c fun k =>
          k.setAxy g ⟨(k.axy g).val, n⟩))))

/-! ## Loads, stores and addresses -/

/-- The sub-word loads: bytes, and whether they sign-extend. -/
def subLoadRows : List ((BitVec 3 → BitVec 22 → Option EccEvent → Instr) × Nat × Bool) :=
  [ (Instr.ldB, 1, true), (Instr.ldBu, 1, false), (Instr.ldH, 2, true), (Instr.ldHu, 2, false), (Instr.ldW, 4, true),
    (Instr.ldWu, 4, false) ]

/-- The sub-word stores: their bytes. -/
def subStoreRows : List ((BitVec 3 → BitVec 22 → Option EccEvent → Instr) × Nat) :=
  [(Instr.stB, 1), (Instr.stH, 2), (Instr.stW, 4)]

/-- LD, LDX and LDY complete: the operand with its tag in A, X or Y; no flag changes. `ecc` is a storage error that strikes first and that a
read finds (log 49). A load of Y discards the increment of mode 2 (R111, R133). A sub-word load completes: the bytes of the word that the
address selects, or the lowest of an immediate or a slot, sign- or zero-extended into A, tagged INT, or POISON if the word is (R103, R133,
R136). What a 64-bit load through memory reads: of the scratchpad, the word at its address; of a line that L1D holds, its word, and the line
becomes the youngest of its set (R310, R316, R317), and either is counted under its address (R458); in the capability configuration a DDC
without TAKE drops authority (R390). -/
def Obligations.LoadInstructions : Prop :=
  (∀ row ∈ [(Instr.ld, Axy.a), (Instr.ldx, Axy.x), (Instr.ldy, Axy.y)],
      ∀ (c : CtxId) (s t u : State) (m : BitVec 3) (d : BitVec 22) (ecc : Option EccEvent) (w : TWord),
      issuing s = some c → Begins c (strike c ecc s) t → Reads c m d t w u →
      exec (row.1 m d ecc) s = .next (ends c (strike c ecc s) (u.modCtx c fun k => (incY m d k).setAxy row.2 w))) ∧
  (∀ row ∈ subLoadRows,
      ∀ (c : CtxId) (s t u : State) (m : BitVec 3) (d : BitVec 22) (ecc : Option EccEvent) (w : TWord) (off : Nat),
      issuing s = some c → Begins c (strike c ecc s) t → ReadsBytes c row.2.1 m d t w off u →
      let b : BitVec (8 * row.2.1) := (w.val >>> (8 * off)).setWidth (8 * row.2.1)
      exec (row.1 m d ecc) s = .next (ends c (strike c ecc s) (u.modCtx c fun k => (incY m d k).setA
        ⟨if row.2.2 then b.signExtend 64 else b.setWidth 64, if w.tag = Tag.poison then Tag.poison else Tag.int⟩))) ∧
  (∀ row ∈ [(Instr.ld, Axy.a), (Instr.ldx, Axy.x), (Instr.ldy, Axy.y)],
      ∀ (c : CtxId) (s t u : State) (m : BitVec 3) (d : BitVec 22) (p : Phys), Begins c s t → FormOk c .read m d t → m ≠ 0 → m ≠ 4 →
      needRows c .read (eaOf c m d t) 8 (m == 3) false t = .ok () t →
      translateCtx c ⟨eaOf c m d t, .read, none, none, false⟩ t = .ok p u → tileOn u c (lineNo p.pa) = false → u.rel.latent = [] →
      let i := p.pa.toNat / 8 % 8
      let taken := fun (w : TWord) => if capsConf u = true ∧ bit (u.getCtx c).ddc.hi.val 57 = false ∧ w.tag ∈ [Tag.caph, Tag.capl, Tag.sealed]
        then (⟨w.val, Tag.raw⟩ : TWord) else w
      (∀ w, inSpad p.pa = true → isReserved w.tag = false → SMap.find? u.spad (spadIndex p.pa) = some w →
        exec (row.1 m d none) s = .next (ends c s ((countCtx 1 10 1 c (some p.va) u).modCtx c fun k =>
          (incY m d k).setAxy row.2 (taken w)))) ∧
      (∀ key l, inSpad p.pa = false → p.dev = false → recallDue u (lineNo p.pa) = false → findFill u (.ctx c) (lineNo p.pa) = none →
        cacheOn u .l1d = true → cacheUninit u .l2 = false → cacheFind u .l1d (lineNo p.pa) = some (key, l) →
        isReserved (vget l.data i TWord.poison).tag = false →
        exec (row.1 m d none) s = .next (ends c s ((countCtx 1 1 1 c (some p.va) (cachePut u .l1d key { l with age := 0 })).modCtx c fun k =>
          (incY m d k).setAxy row.2 (taken (vget l.data i TWord.poison))))))

/-- ST, STX and STY complete: the register with its tag into the frame slot of mode 4, or through `storeWord` at the
effective address; no register changes but Y in mode 2, and no flag.
ST.B, ST.H and ST.W complete: into the frame slot of mode 4, whose low bytes change and whose tag follows R104, or
through `storeSub` at the effective address. `ecc` is a storage error that strikes first (log 49); a slot with one is left to `readSlot`.
What they change in a line that L1D holds writable: the bytes they write, with the tag that the register has or R104 gives, and nothing
else of it; the line is then dirty (R104, R315, R324). -/
def Obligations.StoreInstructions : Prop :=
  (∀ row ∈ [(Instr.st, Axy.a), (Instr.stx, Axy.x), (Instr.sty, Axy.y)],
      ∀ (c : CtxId) (s t : State) (m : BitVec 3) (d : BitVec 22), Begins c s t → FormOk c .write m d t →
      (m = 4 → exec (row.1 m d) s = .next (ends c s (t.modCtx c fun k => k.setSlot (d.setWidth 5) (k.axy row.2)))) ∧
      (m ≠ 4 → ∀ u, storeWord c (eaOf c m d t) (m == 3) ((t.getCtx c).axy row.2) t = .ok () u →
        exec (row.1 m d) s = .next (ends c s (u.modCtx c (incY m d))))) ∧
  (∀ row ∈ subStoreRows,
      ∀ (c : CtxId) (s t : State) (m : BitVec 3) (d : BitVec 22) (ecc : Option EccEvent),
      issuing s = some c → Begins c (strike c ecc s) t → FormOk c .write m d t →
      (m = 4 → ∀ old u, readSlot c (d.setWidth 5) t = .ok old u →
        ∃ v, exec (row.1 m d ecc) s = .next (ends c (strike c ecc s) (u.modCtx c fun k => k.setSlot (d.setWidth 5) v)) ∧
        (∀ i, i < 64 → v.val.getLsbD i = (if i < 8 * row.2 then (t.getCtx c).getA.val.getLsbD i else old.val.getLsbD i)) ∧
        v.tag = (if (t.getCtx c).getA.tag = Tag.poison then Tag.poison else if isPlain old.tag then old.tag else Tag.raw)) ∧
      (m ≠ 4 → ∀ u, storeSub c (eaOf c m d t) row.2 (m == 3) (t.getCtx c).getA t = .ok () u →
        exec (row.1 m d ecc) s = .next (ends c (strike c ecc s) (u.modCtx c (incY m d))))) ∧
  (∀ (c : CtxId) (s t u : State) (m : BitVec 3) (d : BitVec 22) (p : Phys) (key : Nat) (l : CLine),
      Begins c s t → FormOk c .write m d t → m ≠ 4 →
      translateCtx c ⟨eaOf c m d t, .write, none, none, false⟩ t = .ok p u → tileOn u c (lineNo p.pa) = false → u.rel.latent = [] →
      inSpad p.pa = false → p.dev = false → storesInFlight u (.ctx c) = false → cacheOn u .l1d = true → cacheUninit u .l2 = false →
      cacheFind u .l1d (lineNo p.pa) = some (key, l) → l.st ≠ .shared → SMap.wf u.caches.l1d = true →
      let i := p.pa.toNat / 8 % 8
      let b := p.pa.toNat % 8
      (∀ row ∈ [(Instr.st, Axy.a), (Instr.stx, Axy.x), (Instr.sty, Axy.y)],
        let w := (t.getCtx c).axy row.2
        needRows c .write (eaOf c m d t) 8 (m == 3) (w.tag == Tag.caph || w.tag == Tag.capl) t = .ok () t → b = 0 →
        ∃ v l', exec (row.1 m d) s = .next v ∧ v.spad = u.spad ∧ SMap.find? v.caches.l1d key = some l' ∧ l'.line = lineNo p.pa ∧
          l'.st = .modified ∧ (∀ j < 8, vget l'.data j TWord.zero = if j = i then w else vget l.data j TWord.zero) ∧
          (∀ k, k ≠ key → SMap.find? v.caches.l1d k = SMap.find? u.caches.l1d k) ∧ v.caches.l2 = u.caches.l2) ∧
      (∀ row ∈ subStoreRows,
        let w := (t.getCtx c).getA
        let old := vget l.data i TWord.zero
        needRows c .write (eaOf c m d t) row.2 (m == 3) false t = .ok () t → (eaOf c m d t).toNat % 8 = b → b + row.2 ≤ 8 →
        isReserved old.tag = false → (p.ts = true → isPlain old.tag = true) →
        ∃ v l', exec (row.1 m d none) s = .next v ∧ v.spad = u.spad ∧ SMap.find? v.caches.l1d key = some l' ∧ l'.line = lineNo p.pa ∧
          l'.st = .modified ∧ (∀ j < 8, j ≠ i → vget l'.data j TWord.zero = vget l.data j TWord.zero) ∧
          (vget l'.data i TWord.zero).tag = (if w.tag = Tag.poison then Tag.poison else if isPlain old.tag then old.tag else Tag.raw) ∧
          (∀ j < 8, byteOf (vget l'.data i TWord.zero).val j =
            if b ≤ j ∧ j < b + row.2 then byteOf w.val (j - b) else byteOf old.val j)))

/-- A store into the scratchpad writes the word that the effective address names, with its tag (a reserved tag as POISON),
and no other word of the scratchpad and no cache line (R102, R133, R310). A sub-word store writes its bytes of that word, whose tag
follows R104. -/
def Obligations.StoreScratchpad : Prop :=
  (∀ row ∈ [(Instr.st, Axy.a), (Instr.stx, Axy.x), (Instr.sty, Axy.y)],
    ∀ (c : CtxId) (s t u : State) (m : BitVec 3) (d : BitVec 22) (p : Phys), Begins c s t → FormOk c .write m d t → m ≠ 4 →
    SpadInv u →
    let w := (t.getCtx c).axy row.2
    needRows c .write (eaOf c m d t) 8 (m == 3) (w.tag == Tag.caph || w.tag == Tag.capl) t = .ok () t →
    translateCtx c ⟨eaOf c m d t, .write, none, none, false⟩ t = .ok p u → inSpad p.pa = true → p.pa.toNat % 8 = 0 →
    tileOn u c (lineNo p.pa) = false →
    ∃ v, exec (row.1 m d) s = .next v ∧
      (∀ i, SMap.find? v.spad i = if i = spadIndex p.pa then some (deliver w) else SMap.find? u.spad i) ∧
      v.caches = u.caches) ∧
  (∀ row ∈ subStoreRows,
    ∀ (c : CtxId) (s t u : State) (m : BitVec 3) (d : BitVec 22) (p : Phys) (old : TWord), Begins c s t → FormOk c .write m d t → m ≠ 4 →
    SpadInv u → u.rel.latent = [] →
    let w := (t.getCtx c).getA
    let b := p.pa.toNat % 8
    needRows c .write (eaOf c m d t) row.2 (m == 3) false t = .ok () t →
    translateCtx c ⟨eaOf c m d t, .write, none, none, false⟩ t = .ok p u → inSpad p.pa = true → p.dev = false →
    tileOn u c (lineNo p.pa) = false → (eaOf c m d t).toNat % 8 = b → b + row.2 ≤ 8 →
    SMap.find? u.spad (spadIndex p.pa) = some old → (p.ts = true → isPlain old.tag = true) →
    ∃ v x, exec (row.1 m d none) s = .next v ∧
      (∀ i, SMap.find? v.spad i = if i = spadIndex p.pa then some x else SMap.find? u.spad i) ∧ v.caches = u.caches ∧
      x.tag = (if w.tag = Tag.poison then Tag.poison else if isPlain old.tag then old.tag else Tag.raw) ∧
      (∀ j < 8, byteOf x.val j = if b ≤ j ∧ j < b + row.2 then byteOf w.val (j - b) else byteOf old.val j))

/-- LEA, LEAX and LEAY complete in modes 1, 2, 3 and 5: the address of the mode with the tag of R135; nothing is accessed and
no flag changes. -/
def Obligations.AddressInstructions : Prop :=
  ∀ row ∈ [(Instr.lea, Axy.a), (Instr.leax, Axy.x), (Instr.leay, Axy.y)],
    ∀ (c : CtxId) (s t : State) (m : BitVec 3) (d : BitVec 22) (w : TWord), Begins c s t → FormOk c .address m d t →
    (let k := t.getCtx c
     (m, w) ∈ [((1 : BitVec 3), (⟨k.getX.val + d.signExtend 64, k.getX.tag⟩ : TWord)), (2, ⟨k.getY.val, k.getY.tag⟩),
       (3, ⟨k.stk.sp + d.setWidth 64, Tag.dptr⟩), (5, ⟨k.pc + (d.signExtend 64 <<< 2), Tag.cptr⟩)]) →
    exec (row.1 m d) s = .next (ends c s (t.modCtx c fun k => (incY m d k).setAxy row.2 w))

/-- LDC completes: the 32-bit word of instruction space, zero-extended, tagged INT, into A (R133, R134). -/
def Obligations.LoadCode : Prop :=
  ∀ (c : CtxId) (s t u v : State) (m : BitVec 3) (d : BitVec 22) (p : Phys) (w : W32), Begins c s t →
    FormOk c .code m d t → needCanonical c (eaOf c m d t) .exec t = .ok () t → (eaOf c m d t).toNat % 4 = 0 →
    (capsConf t = true → capAccess t (t.getCtx c).pcc 0 (eaOf c m d t) 4 = none) →
    translateCtx c ⟨eaOf c m d t, .exec, none, none, false⟩ t = .ok p u → readCode c (eaOf c m d t) p u = .ok w v →
    exec (.ldc m d) s = .next (ends c s (v.modCtx c fun k => (incY m d k).setA ⟨w.setWidth 64, Tag.int⟩))

/-! ## Floating point -/

/-- The two-operand FP instructions, their size and operation (R120, R142). -/
def fpRows : List ((BitVec 3 → BitVec 22 → Instr) × FpSize × (FpRound → Nat → Nat → Nat × FpFlags)) :=
  [ (Instr.faddD, .d, fp64.add), (Instr.faddS, .s, fp32.add), (Instr.fsubD, .d, fp64.sub), (Instr.fsubS, .s, fp32.sub),
    (Instr.fmulD, .d, fp64.mul), (Instr.fmulS, .s, fp32.mul), (Instr.fdivD, .d, fp64.div), (Instr.fdivS, .s, fp32.div),
    (Instr.fminD, .d, fun _ => fp64.minMax false), (Instr.fminS, .s, fun _ => fp32.minMax false),
    (Instr.fmaxD, .d, fun _ => fp64.minMax true), (Instr.fmaxS, .s, fun _ => fp32.minMax true) ]

/-- FADD, FSUB, FMUL, FDIV, FMIN, FMAX and FMAC complete on FLT operands: the operation under ST.RM in A, tagged FLT, its
exceptions set in the sticky bits, no flag changed. An FP32 operand that is not boxed is the default NaN, and an FP32 result is
boxed (R120, R121, R142).
FCMP and FCMPO complete: C greater, Z equal, N less, V unordered, each alone; NV for a signalling NaN, and for any NaN in
FCMPO; -0 equals +0; A is kept (R122).
What the operations compute of finite numbers: the exact sum, difference, product, quotient or fused sum, rounded once (`f.round`, of
which FloatRounding speaks), where an exact zero takes the sign that IEEE 754 gives it; the order of the exact values, -0 equal to +0 but
below it for FMIN and FMAX. An invalid operation gives the default NaN with NV, a division by zero an infinity with DZ, and a NaN operand
the first NaN, quietened (R120 to R122). -/
def Obligations.FloatArithmetic : Prop :=
  (∀ f ∈ [fp64, fp32], ∀ (r : FpRound) (a b : Nat), a < 2 ^ (f.signBit + 1) → b < 2 ^ (f.signBit + 1) →
    let zeroSign := fun (x y : Bool × Nat × Int) =>
      if x.2.1 = 0 ∧ y.2.1 = 0 ∧ x.1 = y.1 then x.1 else decide (r = FpRound.down)
    let exactly := fun (x y : Bool × Nat × Int) (o : Nat × FpFlags) => let q := min x.2.2 y.2.2
      ∃ s m, o = f.round r s m q ∧ inUnits q (s, m, q) = inUnits q x + inUnits q y ∧ (m = 0 → s = zeroSign x y)
    (∀ s1 m1 e1 s2 m2 e2, f.decode a = .fin s1 m1 e1 → f.decode b = .fin s2 m2 e2 →
      let x := (s1, m1, e1)
      let y := (s2, m2, e2)
      exactly x y (f.add r a b) ∧ exactly x (negOf y) (f.sub r a b) ∧
      f.mul r a b = f.round r (s1 != s2) (m1 * m2) (e1 + e2) ∧
      (m1 ≠ 0 → m2 ≠ 0 →
        (∃ mag, (f.div .nearest a b).1 = f.signed (s1 != s2) mag ∧ Nearest f m1 m2 (e1 - e2) mag) ∧
        (∃ k : Nat, let n := m1 * 2 ^ k
          2 ^ (f.mbits + 3) ≤ n / m2 ∧
          f.div r a b = f.round r (s1 != s2) (2 * (n / m2) + if n % m2 = 0 then 0 else 1) (e1 - e2 - k - 1))) ∧
      (m1 = 0 → m2 ≠ 0 → f.div r a b = (f.signed (s1 != s2) 0, {})) ∧
      (m2 = 0 → f.div r a b = if m1 = 0 then (f.qnan, { nv := true }) else (f.signed (s1 != s2) f.infBits, { dz := true })) ∧
      (∀ c s3 m3 e3, f.decode c = .fin s3 m3 e3 → exactly (s3, m3, e3) (timesOf x y) (f.fma r c a b)) ∧
      f.compare a b = compare (inUnits (min e1 e2) x) (inUnits (min e1 e2) y) ∧ (m1 = 0 → m2 = 0 → f.compare a b = .eq) ∧
      (BeforeOf x y → f.minMax false a b = (a, {}) ∧ f.minMax true a b = (b, {})) ∧
      (BeforeOf y x → f.minMax false a b = (b, {}) ∧ f.minMax true a b = (a, {}))) ∧
    (∀ s1 s2, f.decode a = .inf s1 → f.decode b = .inf s2 →
      f.add r a b = (if s1 = s2 then (a, {}) else (f.qnan, { nv := true })) ∧ f.div r a b = (f.qnan, { nv := true }) ∧
      f.compare a b = (if s1 = s2 then .eq else if s1 then .lt else .gt)) ∧
    (∀ s1 s2 m2 e2, f.decode a = .inf s1 → f.decode b = .fin s2 m2 e2 →
      f.add r a b = (a, {}) ∧ f.div r a b = (f.signed (s1 != s2) f.infBits, {}) ∧ f.div r b a = (f.signed (s1 != s2) 0, {}) ∧
      f.mul r a b = (if m2 = 0 then (f.qnan, { nv := true }) else (f.signed (s1 != s2) f.infBits, {})) ∧
      f.compare a b = if s1 then .lt else .gt) ∧
    (∀ op ∈ [f.add r, f.sub r, f.mul r, f.div r, f.minMax false, f.minMax true],
      (∀ p, f.decode a = .nan p → op a b = (f.quiet a, { nv := p || f.decode b == .nan true })) ∧
      (∀ p, (∀ q, f.decode a ≠ .nan q) → f.decode b = .nan p → op a b = (f.quiet b, { nv := p })))) ∧
  (∀ (c : CtxId) (s t u : State) (m : BitVec 3) (d : BitVec 22) (a b : TWord),
      Begins c s t → Reads c m d t b u → (t.getCtx c).getA = a → a.tag = Tag.flt → b.tag = Tag.flt →
      (∀ row ∈ fpRows,
        let r := row.2.2 (roundOf (fld (u.getCtx c).st 16 2)) (row.2.1.unbox a.val) (row.2.1.unbox b.val)
        exec (row.1 m d) s = .next (ends c s (countCtx 0 10 1 c none (u.modCtx c fun k =>
          ({ incY m d k with st := k.st ||| r.2.sticky }).setA ⟨row.2.1.box r.1, Tag.flt⟩)))) ∧
      (∀ row ∈ [(Instr.fmacD, FpSize.d), (Instr.fmacS, FpSize.s)], ∀ x : TWord,
        (t.getCtx c).getX = x → (u.getCtx c).getX = x → x.tag = Tag.flt →
        let r := row.2.fmt.fma (roundOf (fld (u.getCtx c).st 16 2)) (row.2.unbox a.val) (row.2.unbox x.val) (row.2.unbox b.val)
        exec (row.1 m d) s = .next (ends c s (countCtx 0 10 1 c none (u.modCtx c fun k =>
          ({ incY m d k with st := k.st ||| r.2.sticky }).setA ⟨row.2.box r.1, Tag.flt⟩))))) ∧
  (∀ row ∈ [(Instr.fcmpD, FpSize.d, false), (Instr.fcmpoD, FpSize.d, true), (Instr.fcmpS, FpSize.s, false),
        (Instr.fcmpoS, FpSize.s, true)],
      ∀ (c : CtxId) (s t u : State) (m : BitVec 3) (d : BitVec 22) (a b : TWord),
      Begins c s t → Reads c m d t b u → (t.getCtx c).getA = a → a.tag = Tag.flt → b.tag = Tag.flt →
      let f := row.2.1.fmt
      let x := row.2.1.unbox a.val
      let y := row.2.1.unbox b.val
      let nan : Nat → Bool := fun v => match f.decode v with | .nan _ => true | _ => false
      let sig : Nat → Bool := fun v => match f.decode v with | .nan q => q | _ => false
      let fl : W32 := if nan x || nan y then 8 else match f.compare x y with | .gt => 1 | .eq => 2 | .lt => 4
      let nv : W32 := if (nan x || nan y) && (row.2.2 || sig x || sig y) then 0x00800000 else 0
      exec (row.1 m d) s = .next (ends c s (countCtx 0 10 1 c none (u.modCtx c fun k =>
        { incY m d k with st := (k.st &&& 0xFFFFFFF0#32) ||| fl ||| nv }))))

/-- The FOP1 group: which tags it takes, whether RZ may be 1, the operation, and the tag of the result (R143, R144). -/
def fop1Rows : List ((BitVec 21 → Instr) × (Tag → Bool) × Bool × (FpRound → W64 → W64 × FpFlags) × Tag) :=
  let un (z : FpSize) (f : FpRound → Nat → Nat × FpFlags) : FpRound → W64 → W64 × FpFlags :=
    fun rm a => (z.box (f rm (z.unbox a)).1, (f rm (z.unbox a)).2)
  let cv (x z : FpSize) : FpRound → W64 → W64 × FpFlags :=
    fun rm a => (z.box (x.fmt.convert z.fmt rm (x.unbox a)).1, (x.fmt.convert z.fmt rm (x.unbox a)).2)
  let fromInt (z : FpSize) (signed : Bool) : FpRound → W64 → W64 × FpFlags :=
    fun rm a => let r := z.fmt.ofInt rm (if signed then a.toInt else a.toNat); (z.box r.1, r.2)
  let toI (z : FpSize) (lo hi : Int) : FpRound → W64 → W64 × FpFlags :=
    fun rm a => let r := z.fmt.toInt rm lo hi (z.unbox a); (BitVec.ofInt 64 r.1, r.2)
  [ (Instr.fsqrtD, (· == Tag.flt), false, un .d fp64.sqrt, Tag.flt),
    (Instr.fsqrtS, (· == Tag.flt), false, un .s fp32.sqrt, Tag.flt),
    (Instr.fcvtDL, isPlain, false, fromInt .d true, Tag.flt), (Instr.fcvtDLu, isPlain, false, fromInt .d false, Tag.flt),
    (Instr.fcvtSL, isPlain, false, fromInt .s true, Tag.flt), (Instr.fcvtSLu, isPlain, false, fromInt .s false, Tag.flt),
    (Instr.fcvtLD, (· == Tag.flt), true, toI .d (-(2 ^ 63)) (2 ^ 63 - 1), Tag.int),
    (Instr.fcvtLuD, (· == Tag.flt), true, toI .d 0 (2 ^ 64 - 1), Tag.int),
    (Instr.fcvtLS, (· == Tag.flt), true, toI .s (-(2 ^ 63)) (2 ^ 63 - 1), Tag.int),
    (Instr.fcvtLuS, (· == Tag.flt), true, toI .s 0 (2 ^ 64 - 1), Tag.int),
    (Instr.fcvtSD, (· == Tag.flt), false, cv .d .s, Tag.flt), (Instr.fcvtDS, (· == Tag.flt), false, cv .s .d, Tag.flt) ]

/-- FSQRT and the conversions complete: the operation on A under ST.RM, or toward zero when RZ of a conversion to integer is 1;
the result with its tag in A, the exceptions in the sticky bits, no flag changed (R121, R143, R144).
What they compute of a finite number: FSQRT its exact root, rounded once; a conversion to integer its value rounded to an integer, or the
bound that it passes with NV; a conversion between formats its value rounded once (R120, R144). -/
def Obligations.FloatUnary : Prop :=
  (∀ f ∈ [fp64, fp32], ∀ (r : FpRound) (a : Nat) s m e, f.decode a = .fin s m e →
    (m = 0 → f.sqrt r a = (a, {})) ∧ (m ≠ 0 → s = true → f.sqrt r a = (f.qnan, { nv := true })) ∧
    (m ≠ 0 → s = false → ∃ k q : Nat, let n := m * 2 ^ k
      q * q ≤ n ∧ n < (q + 1) * (q + 1) ∧ 2 ^ (f.mbits + 3) ≤ q ∧ (e - k) % 2 = 0 ∧
      f.sqrt r a = f.round r false (2 * q + if q * q = n then 0 else 1) ((e - k) / 2 - 1)) ∧
    (∀ lo hi : Int, lo ≤ hi → let u := roundAt r s m e 0
      let i : Int := if s then -(u.1 : Int) else u.1
      f.toInt r lo hi a = (max lo (min hi i), if i < lo ∨ hi < i then { nv := true } else { nx := u.2 })) ∧
    (∀ g ∈ [fp64, fp32], f.convert g r a = g.round r s m e)) ∧
  ∀ row ∈ fop1Rows, ∀ (c : CtxId) (s t : State) (a : TWord) (rz : Bool),
    Begins c s t → (t.getCtx c).getA = a → row.2.1 a.tag = true → (rz = true → row.2.2.1 = true) →
    let rm := if rz then FpRound.zero else roundOf (fld (t.getCtx c).st 16 2)
    let r := row.2.2.2.1 rm a.val
    exec (row.1 ((BitVec.ofBool rz).setWidth 21 <<< 20)) s = .next (ends c s (countCtx 0 10 1 c none (t.modCtx c fun k =>
      ({ k with st := k.st ||| r.2.sticky }).setA ⟨r.1, row.2.2.2.2⟩)))

/-- The rounding that every FP instruction shares. A finite pattern rounds to itself with no exception, in either format and
under every direction. A magnitude m in units of 2^e, rounded to units of 2^q with q > e, is within one unit of m below or
above as the direction says: to nearest within half a unit, even on a tie; toward zero never above; up and down away from zero
exactly on their side; and it is inexact exactly when units are lost (R120). In every format the result to nearest is the pattern
nearest to the value, even on a tie, and infinity from half a unit above the largest number on, which alone sets OF; NX says that the
result is not the value; toward zero it is the largest pattern that is not above the value (R120, R265, R266). -/
def Obligations.FloatRounding : Prop :=
  (∀ (f : FpFmt) (neg : Bool) (m : Nat) (e : Int), 2 ≤ f.ebits → 1 ≤ f.mbits → m ≠ 0 →
    let q := min e f.qmin
    let x : Int := (m : Int) * 2 ^ (e - q).toNat
    (∃ mag, let o := f.round .nearest neg m e
      o.1 = f.signed neg mag ∧ Nearest f m 1 e mag ∧ (o.2.of = true ↔ mag = f.infBits) ∧
      (o.2.nx = false ↔ mag ≠ f.infBits ∧ magUnits f q mag = x) ∧ (o.2.uf = true → o.2.nx = true) ∧ o.2.dz = false ∧ o.2.nv = false) ∧
    (∃ mag, (f.round .zero neg m e).1 = f.signed neg mag ∧ TowardZero f m e mag)) ∧
  (∀ f ∈ [fp64, fp32], ∀ (r : FpRound) (b m : Nat) (neg : Bool) (e : Int), b < 2 ^ (f.signBit + 1) →
    f.decode b = .fin neg m e → f.round r neg m e = (b, {})) ∧
  (∀ (r : FpRound) (neg : Bool) (m : Nat) (e q : Int), e < q →
    let n := 2 ^ (q - e).toNat
    let (u, inexact) := roundAt r neg m e q
    (inexact = true ↔ m % n ≠ 0) ∧
    (match r with
      | .nearest => 2 * (u * n) ≤ 2 * m + n ∧ 2 * m ≤ 2 * (u * n) + n ∧
          (2 * (m % n) = n → u % 2 = 0)
      | .zero => u * n ≤ m ∧ m < u * n + n
      | .up => if neg then u * n ≤ m ∧ m < u * n + n else m ≤ u * n ∧ u * n < m + n
      | .down => if neg then m ≤ u * n ∧ u * n < m + n else u * n ≤ m ∧ m < u * n + n))

/-! ## Moves, skips and control transfer -/

/-- The registers that a MOV reads, by code (R145). -/
def movSources : List (BitVec 6 × (Ctx → TWord)) :=
  [ (0x00, Ctx.getA), (0x01, Ctx.getX), (0x02, Ctx.getY), (0x03, fun k => ⟨k.stk.sp, Tag.dptr⟩),
    (0x04, fun k => ⟨k.stk.lo, Tag.dptr⟩), (0x05, fun k => ⟨k.stk.hi, Tag.dptr⟩), (0x06, fun k => ⟨k.pc, Tag.cptr⟩),
    (0x07, fun k => ⟨k.st.setWidth 64, Tag.raw⟩), (0x08, Ctx.mh), (0x09, Ctx.ml), (0x0A, Ctx.mq), (0x0B, Ctx.mr) ]

/-- ST after a MOV into it: the writable fields take the value; MASK and UA only from supervisor code, and MASK not while ESC
is 1 (R97, R379). -/
def movSt (k : Ctx) (v : W64) : W32 :=
  let w : W32 := 0x00FB000F#32 ||| (if k.sup then 0x2000#32 ||| (if k.inEsc then 0 else 0x700#32) else 0)
  (k.st &&& ~~~w) ||| (v.setWidth 32 &&& w)

/-- The registers that a MOV writes, by code, with the tags they accept (R96, R103, R145). -/
def movDests : List (BitVec 6 × (Tag → Bool) × (Ctx → TWord → Ctx)) :=
  let any := fun (_ : Tag) => true
  let ptr := fun (t : Tag) => t == Tag.dptr
  [ (0x00, any, Ctx.setA), (0x01, any, Ctx.setX), (0x02, any, Ctx.setY), (0x03, ptr, fun k w => k.setSp w.val),
    (0x04, ptr, fun k w => k.setStk { k.stk with lo := w.val &&& ~~~(7 : W64) }),
    (0x05, ptr, fun k w => k.setStk { k.stk with hi := w.val &&& ~~~(7 : W64) }),
    (0x07, isPlain, fun k w => { k with st := movSt k w.val }), (0x08, any, fun k w => { k with mh := w }),
    (0x09, any, fun k w => { k with ml := w }), (0x0A, any, fun k w => { k with mq := w }),
    (0x0B, any, fun k w => { k with mr := w }) ]

/-- MOV completes for every assigned source and destination code, the frame slots 0x20 + i that exist among them, when the
destination accepts the source's tag: the word with its tag, and no flag but by a write of ST. A tag that is not accepted raises
the tag fault, a reserved code or PC as the destination the undefined-instruction fault. The read of a slot finds its storage error
(log 49), which leads from t to u. A write of ST in the escalation handler leaves MASK (log 23: the model's reading). -/
def Obligations.MoveInstruction : Prop :=
  ∀ (c : CtxId) (s t : State) (src dst : BitVec 6), Begins c s t →
    let f : BitVec 25 := dst.setWidth 25 <<< 19 ||| src.setWidth 25 <<< 13
    let k := t.getCtx c
    let srcs := movSources ++ (List.finRange 32).filterMap fun i =>
      if k.hasSlot (BitVec.ofFin i) then some (0x20 + BitVec.ofNat 6 i.val, fun k => k.slot (BitVec.ofFin i)) else none
    let dsts := movDests ++ (List.finRange 32).filterMap fun i =>
      if k.hasSlot (BitVec.ofFin i) then
        some (0x20 + BitVec.ofNat 6 i.val, (fun _ => true), fun k w => k.setSlot (BitVec.ofFin i) w) else none
    let u := if bit src 5 ∧ k.hasSlot (fld src 0 5) = true then meetSlot c (k.slotPlace (fldN src 0 5)) t else t
    let read := u.getCtx c
    (∀ g acc h, (src, g) ∈ srcs → (dst, acc, h) ∈ dsts →
      exec (.mov f) s = .next (if acc (g read).tag then ends c s (u.modCtx c fun k => h k (g k))
        else stopped c s u (plainExc 3 ((g read).tag.setWidth 8)))) ∧
    ((∀ g, (src, g) ∉ srcs) ∨ (∀ acc h, (dst, acc, h) ∉ dsts) →
      exec (.mov f) s = .next (stopped c s t (plainExc 1 0))) ∧
    ((t.getCtx c).slotErrs = [] → u = t)

/-- The conditions of SKIP, by code (R114). -/
def skipConditions : List (BitVec 5 × (Ctx → Bool)) :=
  let c := fun (k : Ctx) => k.st.getLsbD 0
  let z := fun (k : Ctx) => k.st.getLsbD 1
  let n := fun (k : Ctx) => k.st.getLsbD 2
  let v := fun (k : Ctx) => k.st.getLsbD 3
  [ (0x00, z), (0x01, fun k => !z k), (0x02, c), (0x03, fun k => !c k), (0x04, n), (0x05, fun k => !n k), (0x06, v),
    (0x07, fun k => !v k), (0x08, fun k => c k && !z k), (0x09, fun k => !c k || z k), (0x0A, fun k => n k == v k),
    (0x0B, fun k => n k != v k), (0x0C, fun k => !z k && n k == v k), (0x0D, fun k => z k || n k != v k),
    (0x0E, fun _ => true), (0x0F, fun _ => false),
    (0x10, fun k => k.getA.val == 0), (0x11, fun k => k.getA.val != 0), (0x12, fun k => k.getA.val.msb),
    (0x13, fun k => !k.getA.val.msb), (0x14, fun k => k.getX.val == 0), (0x15, fun k => k.getX.val != 0),
    (0x16, fun k => k.getX.val.msb), (0x17, fun k => !k.getX.val.msb), (0x18, fun k => k.getY.val == 0),
    (0x19, fun k => k.getY.val != 0), (0x1A, fun k => k.getY.val.msb), (0x1B, fun k => !k.getY.val.msb) ]

/-- The register whose POISON tag makes a SKIP fault (R103). -/
def skipReads (cc : BitVec 5) (k : Ctx) : Option TWord :=
  if cc.toNat < 0x10 then none else if cc.toNat < 0x14 then some k.getA
  else if cc.toNat < 0x18 then some k.getX else some k.getY

/-- SKIP completes: PC + 8 when its condition holds and PC + 4 when not, and then it forms a pair with the next instruction
(R116); nothing else changes. TAG and NTAG compare the tag of A, X or Y with the field, and take POISON. -/
def Obligations.SkipInstruction : Prop :=
  ∀ (c : CtxId) (s t : State), Begins c s t →
    let k := t.getCtx c
    (∀ cc p, (cc, p) ∈ skipConditions → (∀ w, skipReads cc k = some w → w.tag ≠ Tag.poison) →
      exec (.skip (cc.setWidth 25 <<< 20)) s = .next (endsThere c s (t.modCtx c fun k =>
        { k with pc := k.pc + (if p k then 8 else 4), skipPair := !p k }))) ∧
    (∀ cc p, (cc, p) ∈ skipConditions → ∀ w, skipReads cc k = some w → w.tag = Tag.poison →
      exec (.skip (cc.setWidth 25 <<< 20)) s = .next (stopped c s t (plainExc 3 15))) ∧
    (∀ (r : BitVec 2) (w : TWord) (u : Tag) (neg : Bool),
      (r, w) ∈ [((0 : BitVec 2), k.getA), (1, k.getX), (2, k.getY)] →
      let hit := if neg then w.tag != u else w.tag == u
      exec (.skip ((if neg then 0x1D#25 else 0x1C#25) <<< 20 ||| r.setWidth 25 <<< 18 ||| u.setWidth 25 <<< 14)) s =
        .next (endsThere c s (t.modCtx c fun k => { k with pc := k.pc + (if hit then 8 else 4), skipPair := !hit })))

/-- The target of a transfer passes its checks: tag, canonical form, alignment, PCC and translation with the Rhaha attribute
asked for (R149). -/
def TargetOk (c : CtxId) (m : BitVec 3) (d : BitVec 22) (rh : Option Bool) (t u : State) (p : Phys) : Prop :=
  needCanonical c (eaOf c m d t) .exec t = .ok () t ∧ (eaOf c m d t).toNat % 4 = 0 ∧
    (capsConf u = true → capAccess u (u.getCtx c).pcc 2 (eaOf c m d t) 4 = none) ∧
    ∃ v, translateCtx c ⟨eaOf c m d t, .exec, rh, none, false⟩ u = .ok p v

/-- JMP and JMPX complete: PC at the effective address. JMPX to a page with the Rhaha attribute enters Rhaha mode when
ENABLE0.RHAHA is 1, and raises the undefined-instruction fault when it is 0 (R149). -/
def Obligations.Jumps : Prop :=
  ∀ (c : CtxId) (s t u : State) (m : BitVec 3) (d : BitVec 22) (p : Phys), Begins c s t → FormOk c .code m d t →
    (TargetOk c m d (some false) t t p → translateCtx c ⟨eaOf c m d t, .exec, some false, none, false⟩ t = .ok p u →
      exec (.jmp m d) s = .next (endsThere c s (u.modCtx c fun k => { incY m d k with pc := eaOf c m d t }))) ∧
    (TargetOk c m d none t t p → translateCtx c ⟨eaOf c m d t, .exec, none, none, false⟩ t = .ok p u →
      exec (.jmpx m d) s = .next (
        if p.rh = true ∧ enabled u 0 = false then stopped c s u (plainExc 1 0)
        else endsThere c s (u.modCtx c fun k =>
          { (if p.rh then enterRhaha (incY m d k) else incY m d k) with pc := eaOf c m d t })))

/-- CALL completes outside the fast bank: PC + 4 tagged CPTR is stored at SP - 8, SP moves down by 8, the next window is taken
and PC is the effective address. With no free window it raises vector 16 (R149, R416). -/
def Obligations.CallInstruction : Prop :=
  ∀ (c : CtxId) (s t u v : State) (m : BitVec 3) (d : BitVec 22) (q p : Phys), Begins c s t → FormOk c .code m d t →
    (t.getCtx c).fib = false → pushPhys c t = .ok q u → TargetOk c m d (some false) t u p →
    translateCtx c ⟨eaOf c m d t, .exec, some false, none, false⟩ u = .ok p v →
    ((v.getCtx c).inEsc = false → (v.getCtx c).win.res = 7 →
      exec (.call m d) s = .next (stopped c s v (plainExc 16 0))) ∧
    ((v.getCtx c).inEsc = true ∨ (v.getCtx c).win.res ≠ 7 → ∀ path w x, prepPhys c q 8 v = .ok path w →
      commitPhys c path q 8 ⟨(t.getCtx c).pc + 4, Tag.cptr⟩ w = .ok () x →
      exec (.call m d) s = .next (endsThere c s (x.modCtx c fun k =>
        incY m d { callWindow (k.setSp (k.stk.sp - 8)) with pc := eaOf c m d t })))

/-- RET N completes outside the fast bank when the word at SP is tagged CPTR and a multiple of 4 and its caller's window is
resident: PC is that word, SP moves up by 8 + 8 N and the caller's window is back; with the caller's window gone it raises
vector 17 (R150, R416). -/
def Obligations.ReturnInstruction : Prop :=
  ∀ (c : CtxId) (s t u : State) (n : BitVec 8) (w : TWord), Begins c s t → (t.getCtx c).fib = false →
    loadWord c (t.getCtx c).stk.sp true t = .ok w u → w.tag = Tag.cptr → w.val.toNat % 4 = 0 →
    let k := u.getCtx c
    let gone := k.inEsc = false ∧ (k.window = 7 ∨ k.win.link.getLsbD k.win.cur.toNat = false ∧ k.win.res = 1)
    (gone → exec (.ret (n.setWidth 25)) s = .next (stopped c s u (plainExc 17 0))) ∧
    (¬ gone → exec (.ret (n.setWidth 25)) s = .next (endsThere c s (u.modCtx c fun k =>
      { retWindow (k.setSp (k.stk.sp + 8 + 8 * n.setWidth 64)) with pc := w.val })))

/-- The windows are a ring of seven (R416): a CALL moves CUR up by one modulo 7 and RES up by one, and every slot of the window
it takes reads POISON; the RET that follows gives back CUR, RES, LINK and every slot of the caller's window. -/
def Obligations.CallThenReturnKeepsWindow : Prop :=
  ∀ (k : Ctx), k.inEsc = false → k.fib = false → k.win.cur.toNat < 7 → k.win.res.toNat < 7 → SMap.wf k.win.slots = true →
    (k.win.rsv = true → k.win.link.getLsbD ((k.win.cur.toNat + 1) % 7) = false) →
    (k.window = 7 ∨ k.win.link.getLsbD ((k.win.cur.toNat + 1) % 7) = false) →
    let k' := callWindow k
    k'.win.cur.toNat = (k.win.cur.toNat + 1) % 7 ∧ k'.win.res.toNat = k.win.res.toNat + 1 ∧
    (∀ i, k'.slot i = TWord.poison) ∧
    (retWindow k').win.cur = k.win.cur ∧ (retWindow k').win.res = k.win.res ∧ (retWindow k').win.link = k.win.link ∧
    (∀ i, (retWindow k').slot i = k.slot i)

/-! ## Exceptions -/

/-- TRAP N raises vector 48 + N, or 47 for N above 15, with N in ECAUSE.CODE and PC + 4 to return to; STILE enters the Sealed world in the
Open supervisor, is privileged in Open user code and undefined elsewhere; a reserved word is undefined (R151, R387, R7). Every native word
is one command of the opcode map, and a word is RESERVED_OPCODE just when its opcode or function value is reserved (R128, R130). Which words
the map reads as which command is R130's; that a command carries the rest of its word is log 8's. -/
def Obligations.SystemCalls : Prop :=
  (∀ w : W32, wellFormed (decodeInsn w) = true ∧ (decodeInsn w = .reservedOpcode w ↔ wordReserved w = true)) ∧
  ∀ (c : CtxId) (s t : State), Begins c s t →
    (∀ n : BitVec 8, exec (.trap (n.setWidth 25)) s = .next (stopped c s t
      ⟨if n.toNat < 16 then BitVec.ofNat 6 (48 + n.toNat) else 47, n, none, 4, false, false⟩)) ∧
    (let k := t.getCtx c
     exec (.stile 0) s = .next (stopped c s t (
       if k.world = true ∨ capsConf t = true ∨ bit t.intr.sentry 0 = false then plainExc 1 0
       else if k.sup = true then ⟨0, 0, none, 4, true, false⟩ else plainExc 2 0))) ∧
    (∀ w, wordReserved w = true → exec (.reservedOpcode w) s = .next (stopped c s t (plainExc 1 0)))

/-- The word that ECAUSE takes (R374). -/
def ecauseOf (code : BitVec 8) (vec : BitVec 6) (stl : Bool) (esr : BitVec 4) (svec : BitVec 6) : W64 :=
  code.setWidth 64 ||| vec.setWidth 64 <<< 8 ||| (BitVec.ofBool stl).setWidth 64 <<< 14 ||| esr.setWidth 64 <<< 16 |||
    svec.setWidth 64 <<< 20

/-- The frame of R377: the PC to return to, the ST image with its origin, SP, and the registers of the configuration. -/
def savedFrame (s : State) (k : Ctx) (ret ecause : W64) (far : TWord) (ofib : Bool) : List TWord :=
  let image : W64 := k.st.setWidth 64 ||| ((fld k.st 8 3).setWidth 64 <<< 32) |||
    ((BitVec.ofBool (bit k.st 11)).setWidth 64 <<< 35) ||| ((BitVec.ofBool (bit k.st 12)).setWidth 64 <<< 36) |||
    ((BitVec.ofBool (ofib && bit k.st 14)).setWidth 64 <<< 37)
  if capsConf s then
    [⟨ret, Tag.cptr⟩, ⟨image, Tag.raw⟩, ⟨k.stk.sp, Tag.dptr⟩, ⟨ecause, Tag.int⟩, k.pcc.hi, k.pcc.lo, k.ddc.hi, k.ddc.lo]
  else [⟨ret, Tag.cptr⟩, ⟨image, Tag.raw⟩, ⟨k.stk.sp, Tag.dptr⟩, k.getA, k.getX, k.getY, ⟨ecause, Tag.int⟩, far]

/-- The word at 0x38 of a frame (R377). -/
def farOf (e : ExcInfo) : TWord :=
  match e.xl with
  | some (fsr, far, _) => ⟨far, if bit fsr 9 then Tag.cptr else Tag.dptr⟩
  | none => ⟨0, Tag.int⟩

/-- The machine in which the exception e is taken: what the instruction did is undone, and FSR, FAR and FIPA describe a
translation fault (R123, R358). -/
def faulted (c : CtxId) (s t : State) (e : ExcInfo) : State :=
  match e.xl with
  | some (fsr, far, fipa) => (rollback s t).modCtx c fun k => { k with sys := { k.sys with fsr := fsr, far := far, fipa := fipa } }
  | none => rollback s t

/-- The level of a vector (R368). -/
def levelOf (s : State) (v : BitVec 6) : BitVec 3 := fld (vget s.intr.vlvl (v.toNat / 8) 0) (8 * (v.toNat % 8)) 3

/-- In y, context c has entered a handler of a world, with a mask, a PC and an ECAUSE (R376): b is the state of its entry, x the one in
which the frame has been stored. The counters' overflow may wake a WAITING context. -/
def Handling (c : CtxId) (b : State) (world : Bool) (mask : BitVec 3) (pc ecause : W64) (x y : State) : Prop :=
  let bank : BitVec 2 := if world then 3 else 1
  let k0 := x.getCtx c
  let k' := y.getCtx c
  k'.pc = pc ∧ k'.sys = { k0.sys with ecause := ecause } ∧ (k0.run ≠ .waiting → k'.run = k0.run) ∧ k'.getA = k0.getA ∧
  k'.getX = k0.getX ∧ k'.getY = k0.getY ∧ (k'.mh, k'.ml, k'.mq, k'.mr) = (k0.mh, k0.ml, k0.mq, k0.mr) ∧
  k'.st = (k0.st &&& 0xFFFF00FF#32) ||| (mask.setWidth 32 <<< 8) ||| 0x800#32 ||| (if world then 0x1000#32 else 0) ∧
  k'.banks = k0.banks.set bank { k0.banks.get bank with sp := ((b.getCtx c).banks.get bank).sp - 64 } ∧
  (if capsConf b then (k'.pcc, k'.ddc) = (k0.hpcc, k0.hddc) else (k'.pcc, k'.ddc) = (k0.pcc, k0.ddc)) ∧
  k'.win.rsv = true ∧ (∀ i : Fin 32, k'.winSlot 7 i.val = TWord.poison) ∧
  (SMap.wf k0.win.slots = true → ∀ (w : Nat) (i : Fin 32), w ≠ 7 → k'.winSlot w i.val = k0.winSlot w i.val) ∧
  (∀ d, d ≠ c → SameOrWoken (x.getCtx d) (y.getCtx d)) ∧ y.spad = x.spad ∧ y.caches = x.caches ∧
  y.intr = { x.intr with ipend := y.intr.ipend }

/-- Entry into a handler (R371, R376, R377). When the vector's level is above the mask, the reserved window is free and the push
passes its checks, the frame is stored below the SP of the target world's supervisor bank; SP, ST, ECAUSE, PC, PCC and DDC
become the handler's, the reserved window is taken with every slot POISON, and A, X and Y stay. Vector 13 code 0 and a forged
capability do more than this. An interrupt that is takeable goes first (R370); the counters' overflow may wake a WAITING context. A
stopped instruction leaves what log 21 says. -/
def Obligations.ExceptionEntry : Prop :=
  ∀ (c : CtxId) (s t u v x : State) (e : ExcInfo) (ps : List Phys) (ws : List (Phys × WPath)),
    NoInterruptFirst c s → e.forged = false → ¬ (e.vec = 13 ∧ e.code = 0) →
    let b := faulted c s t e
    let k := b.getCtx c
    let world := e.stl || (if e.vec = 9 then twoWorlds b else bit k.st 12)
    let level : BitVec 3 := levelOf b e.vec
    let ecause := ecauseOf e.code e.vec e.stl 0 0
    let pc : W64 := if e.stl then (fld b.intr.sentry 0 56 &&& ~~~3).signExtend 64
      else (if world then k.sys.svbar else k.sys.vbar) + BitVec.ofNat 64 (32 * e.vec.toNat)
    bit k.st 26 = false → (e.stl = true ∨ (fld k.st 8 3).toNat < level.toNat) → k.win.rsv = false →
    pushCheck c ⟨e.vec, e.code, e.stl, world, if e.stl then none else some level, k.pc + e.off, pc, false, farOf e⟩ b =
      .ok (.ok ps) u →
    prepWords c ps u = .ok ws v → ws.all (pathOk v) = true →
    commitWords none c ws (savedFrame b k (k.pc + e.off) ecause (farOf e) false) v = .ok () x →
    Handling c b world (if e.stl then fld (x.getCtx c).st 8 3 else level) pc ecause x (stopped c s t e)

/-- From b, the core is lame in y by context c, with a cause (R380, R381): all contexts are stopped, and the lines are to be
written back. -/
def Lame (c : CtxId) (cause : BitVec 3) (b y : State) : Prop :=
  y.boot = { b.boot with lame := true, lameCause := cause, lameCtx := c, lameWb := true } ∧
  (∀ d, (y.getCtx d).run = .stopped) ∧ y.spad = b.spad ∧ y.caches = b.caches

/-- From b, context c escalates into y, with a PC to return to, an ECAUSE and the word for 0x38 (R378 to R380): lame in the
escalation handler, without a vector or without a usable frame at ESP - 64; else the frame of R377 is stored there, with
translation off, and the escalation bank and handler are in force. -/
def Escalated (c : CtxId) (b : State) (ret ecause : W64) (far : TWord) (y : State) : Prop :=
  let k := b.getCtx c
  let f := k.sys.esp - 64
  let usable := 64 ≤ k.sys.esp.toNat ∧ k.sys.esplo.toNat ≤ f.toNat ∧ k.sys.esp.toNat % 16 = 0 ∧
    ∀ i < 8, let pa : PAddr := (f + BitVec.ofNat 64 (8 * i)).setWidth 52
      mapDevice b pa = false ∧ inSpadHole pa = false
  (bit k.st 26 = true → Lame c 3 b y) ∧
  (bit k.st 26 = false → bit b.intr.evec 0 = false → Lame c 1 b y) ∧
  (bit k.st 26 = false → bit b.intr.evec 0 = true → ¬ usable → Lame c 2 b y) ∧
  (bit k.st 26 = false → bit b.intr.evec 0 = true → usable → ∀ ws v x,
    prepWords c ((List.range 8).map fun i =>
      let a := f + BitVec.ofNat 64 (8 * i)
      ⟨a, a.setWidth 52, false, false, false, false⟩) b = .ok ws v → ws.all (pathOk v) = true →
    commitWords none c ws (savedFrame b k ret ecause far true) v = .ok () x →
    let k0 := x.getCtx c
    let k' := y.getCtx c
    SameOrWoken { k0 with
      pc := (fld b.intr.evec 2 50).setWidth 64 <<< 2
      st := (k0.st &&& 0x03FB000F#32) ||| 0x04000F00#32 ||| (if twoWorlds b then 0x1000#32 else 0)
      sys := { k0.sys with ecause := ecause }
      esc := { k0.esc with stk := ⟨f, k0.sys.esplo, k0.sys.esp⟩ }
      pcc := k'.pcc, ddc := k'.ddc, skipPair := false } k' ∧
    (k'.pcc, k'.ddc) = (if capsConf b then (rootCap b, rootCap b) else (k0.pcc, k0.ddc)) ∧
    (∀ d, d ≠ c → SameOrWoken (x.getCtx d) (y.getCtx d)) ∧ y.spad = x.spad ∧ y.caches = x.caches ∧ y.boot = x.boot)

/-- A synchronous fault escalates when its level is at or below the mask, with ESR 1, and when the reserved window is occupied,
with ESR 3; a fault in the escalation handler makes the core lame (R371, R376, R380). It escalates with ESR 2 and the vector of the
failure when the push of its frame fails its check: a translation fault of the push is reported in FSR, FAR and FIPA, and a forged
HPCC or HDDC is counted (R376, R394). What an escalation out of the fast bank keeps, and what a stopped instruction leaves, is log 21's. -/
def Obligations.ExceptionEscalates : Prop :=
  ∀ (c : CtxId) (s t : State) (e : ExcInfo), NoInterruptFirst c s → e.forged = false → ¬ (e.vec = 13 ∧ e.code = 0) →
    let b := faulted c s t e
    let k := b.getCtx c
    let level : BitVec 3 := fld (vget b.intr.vlvl (e.vec.toNat / 8) 0) (8 * (e.vec.toNat % 8)) 3
    let masked := e.stl = false ∧ level.toNat ≤ (fld k.st 8 3).toNat
    (∀ esr : BitVec 4, (bit k.st 26 = true ∨ masked ∧ esr = 1 ∨ ¬ masked ∧ k.win.rsv = true ∧ esr = 3) →
      Escalated c b (k.pc + e.off) (ecauseOf e.code e.vec e.stl esr 0) (farOf e) (stopped c s t e)) ∧
    (bit k.st 26 = false → ¬ masked → k.win.rsv = false →
      let world := e.stl || (if e.vec = 9 then twoWorlds b else bit k.st 12)
      let pc : W64 := if e.stl then (fld b.intr.sentry 0 56 &&& ~~~3).signExtend 64
        else (if world then k.sys.svbar else k.sys.vbar) + BitVec.ofNat 64 (32 * e.vec.toNat)
      ∀ x u, pushCheck c ⟨e.vec, e.code, e.stl, world, if e.stl then none else some level, k.pc + e.off, pc, false, farOf e⟩ b =
          .ok (.error x) u →
        let r := match x.xl with
          | some (fsr, far, fipa) => u.modCtx c fun k => { k with sys := { k.sys with fsr := fsr, far := far, fipa := fipa } }
          | none => u
        Escalated c (if x.forged then countViolation 0 r else r) (k.pc + e.off) (ecauseOf e.code e.vec e.stl 2 x.vec) (farOf e)
          (stopped c s t e))

/-- The first check of R385 that a return fails: ST to be restored, the origin (SUP, WORLD, MASK), whether the fast bank was in
force, PCC to be restored, and whether its words came from registers or stood where a capability may stand (R389). -/
def illegalCheck (s : State) (k : Ctx) (st : W32) (sup world : Bool) (mask : BitVec 3) (ofib : Bool) (pcc : CapPair)
    (placed : Bool) : Option (BitVec 8) :=
  if bit st 11 ∧ sup = false then some 1
  else if twoWorlds s ∧ (bit st 12 ≠ world ∨ world ∧ bit k.st 12 = false) then some 2
  else if (fld st 8 3).toNat < mask.toNat then some 3
  else if capsConf s ∧ ¬ (placed ∧ capValid s pcc ∧ bit pcc.hi.val 56) then some 4
  else if ofib ∧ bit k.st 26 = false then some 6
  else none

/-- RFE and RFI complete (R383 to R385). RFE reads the eight words at SP; with the tags and alignment of R384 and no illegal
check it restores the fields of ST that R384 names, FIB from OFIB, ESC to 0, the PC, the SPs and, by configuration, A, X and Y
or PCC and DDC, and releases the reserved window, with every linked window and those newer, unless it leaves the escalation handler
(R417). RFI puts back the PC, a multiple of 4 (R108, log 64), and ST (and PCC and DDC) that the fast bank holds. Neither changes
anything else: the equations name every register.
An illegal return: RFE with a frame whose tags or alignment fail names check 5, else the first failing check of R385; so does
RFI. It is counted as a security violation, a PCC with a wrong CHK as a forged capability too (R394), and escalates with ESR 4, VEC 0
and the check as its code, and with its own PC to return to; in the escalation handler it makes the core lame (R384, R385). What a
stopped instruction leaves is log 21's. -/
def Obligations.Returns : Prop :=
  (∀ (c : CtxId) (s t u : State), Begins c s t → let k := t.getCtx c; bit k.st 11 = true →
      let m : W32 := if capsConf t then 0x00FBAF0F#32 else 0x00FBBF0F#32
      (bit k.st 14 = false → needCanonical c k.stk.sp .read t = .ok () t → k.stk.sp.toNat % 8 = 0 →
        needStack c k.stk.sp 64 t = .ok () t → needDdc c .read k.stk.sp 64 false t = .ok () t →
        ∀ w0 w1 w2 w3 w4 w5 w6 w7 : TWord, frameRead c k.stk.sp 8 t = .ok [w0, w1, w2, w3, w4, w5, w6, w7] u →
        capsConf u = capsConf t →
        w0.tag = Tag.cptr → w2.tag = Tag.dptr → isPlain w1.tag = true →
        w0.val.toNat % (if bit w1.val 15 then 2 else 4) = 0 →
        illegalCheck u k (w1.val.setWidth 32 &&& m) (bit w1.val 35) (bit w1.val 36) (fld w1.val 32 3) (bit w1.val 37) ⟨w4, w5⟩
          (k.stk.sp.toNat % 16 == 0) = none →
        ∃ v, exec (.rfe 0) s = .next (endsThere c s v) ∧
          let k0 := u.getCtx c
          let k' := v.getCtx c
          let st := ((k0.st &&& ~~~m) ||| (w1.val.setWidth 32 &&& m)) &&& 0xFBFFBFFF#32 ||| (if bit w1.val 37 then 0x4000#32 else 0)
          let sps := ({ k0.setSp (k0.stk.sp + 64) with st := st }).setSp w2.val
          let axy := if capsConf t then { sps with pcc := ⟨w4, w5⟩, ddc := ⟨w6, w7⟩ } else ((sps.setA w3).setX w4).setY w5
          v = u.setCtx c k' ∧
          k' = { axy with pc := (if bit w1.val 15 then w0.val &&& ~~~2 else w0.val), win := k'.win } ∧
          (bit k0.st 26 = true → k'.win = k0.win) ∧
          (bit k0.st 26 = false →
            k'.win = { k0.win with rsv := false, link := 0, res := k'.win.res, cur := k'.win.cur } ∧
            (k0.win.link = 0 → (k'.win.res, k'.win.cur) = (k0.win.res, k0.win.cur)) ∧
            (∀ w < 7, k0.win.link = 1#7 <<< w → k0.win.cur.toNat < 7 →
              k'.win.res = k0.win.res - BitVec.ofNat 3 ((k0.win.cur.toNat + 7 - w) % 7 + 1) ∧
              k'.win.cur.toNat = (w + 6) % 7))) ∧
      (bit k.st 14 = true →
        illegalCheck t k k.fast.fbst k.fast.orig.sup k.fast.orig.world k.fast.orig.mask false k.fast.fbpcc true = none →
        exec (.rfi 0) s = .next (endsThere c s (t.modCtx c fun k => { k with
          pc := k.fast.fbpc &&& ~~~3, st := k.fast.fbst
          pcc := if capsConf t then k.fast.fbpcc else k.pcc
          ddc := if capsConf t then k.fast.fbddc else k.ddc })))) ∧
  (∀ (c : CtxId) (s t u : State), Begins c s t → NoInterruptFirst c s → let k := t.getCtx c; bit k.st 11 = true →
      let m : W32 := if capsConf t then 0x00FBAF0F#32 else 0x00FBBF0F#32
      let illegal := fun (u : State) (n : BitVec 8) (pcc : CapPair) (y : State) =>
        let b := countViolation 1 (rollback s u)
        let b := if n = 4 ∧ capTagged pcc = true ∧ capValid u pcc = false then countViolation 0 b else b
        Escalated c b (b.getCtx c).pc (ecauseOf n 0 false 4 0) ⟨0, Tag.int⟩ y
      (bit k.st 14 = false → needCanonical c k.stk.sp .read t = .ok () t → k.stk.sp.toNat % 8 = 0 →
        needStack c k.stk.sp 64 t = .ok () t → needDdc c .read k.stk.sp 64 false t = .ok () t →
        ∀ w0 w1 w2 w3 w4 w5 w6 w7 : TWord, frameRead c k.stk.sp 8 t = .ok [w0, w1, w2, w3, w4, w5, w6, w7] u →
        capsConf u = capsConf t →
        let tagsOk := w0.tag = Tag.cptr ∧ w2.tag = Tag.dptr ∧ isPlain w1.tag = true ∧
          w0.val.toNat % (if bit w1.val 15 then 2 else 4) = 0
        ∀ n, (¬ tagsOk ∧ n = 5 ∨ tagsOk ∧ illegalCheck u k (w1.val.setWidth 32 &&& m) (bit w1.val 35) (bit w1.val 36)
            (fld w1.val 32 3) (bit w1.val 37) ⟨w4, w5⟩ (k.stk.sp.toNat % 16 == 0) = some n) →
          ∃ y, exec (.rfe 0) s = .next y ∧ illegal u n ⟨w4, w5⟩ y) ∧
      (bit k.st 14 = true →
        ∀ n, illegalCheck t k k.fast.fbst k.fast.orig.sup k.fast.orig.world k.fast.orig.mask false k.fast.fbpcc true = some n →
          ∃ y, exec (.rfi 0) s = .next y ∧ illegal t n k.fast.fbpcc y))

/-! ## Ordering, TLB and cache maintenance -/

/-- FENCE completes once the classes it names have been performed: data accesses of the context, its committed tile stores and its
Mover channels, ordered coprocessor instructions, its own posts, Causeway channels (R154, R448); its only other effect is its
Milestone, timed until they were performed (R475). Until then it stays, and nothing else changes; the steps before it began
to wait are accounted (R458).
The TLBINV instructions complete and remove exactly what they name (R155), once no channel's check is in progress and no store of a
context is outstanding (R156, R339, R363); a channel makes its check again. Before that they change nothing. Bit 0 of the form is AA, bit
1 is S2; code that is not the stage-2 owner reaches only its own VMID and has no S2. That the classes are those of the executing context
is log 34's. -/
def Obligations.FenceAndTlb : Prop :=
  (∀ (c : CtxId) (s t : State) (set : BitVec 4), Begins c s t → set ≠ 0 →
      let k := t.getCtx c
      let w := k.ev.fence.getD ⟨t.time.tick, set, none⟩
      let done :=
        (bit set 0 = true → storesInFlight t (.ctx c) = false ∧ (∀ j ∈ t.tile.tileq, j.op.ctx = c → j.rest = []) ∧
          ∀ m ∈ t.mover.toList, ¬ (m.state = 1 ∧ m.ctx = c)) ∧
        (bit set 1 = true → ∀ o ∈ t.cp.out, ¬ (o.ctx = c ∧ o.ord = true)) ∧
        (bit set 2 = true → ∀ p ∈ t.mesh.posts, p.ctx ≠ c) ∧
        (bit set 3 = true → ∀ m ∈ t.cw.ch.toList, ¬ (m.state = 1 ∧ m.ctx = c))
      (done → exec (.fence (set.setWidth 25)) s = .next (ends c s
        ((milestone c 9 0 none 0 (w.done.getD t.time.tick - w.since) (set.setWidth 64) t).modCtx c fun k =>
          { k with ev := { k.ev with fence := none } }))) ∧
      (¬ done → ∃ p, exec (.fence (set.setWidth 25)) s = .next (accountChange s (t.modCtx c fun k =>
        { k with ev := { k.ev with fence := some w }, skipPair := p })))) ∧
  (∀ (c : CtxId) (s t : State) (aa s2 : Bool), Begins c s t → let k := t.getCtx c; let owner := stage2Owner t k
      bit k.st 11 = true →
      let channel := fun (q : Requester) => (∃ n, q = .mover n) ∨ ∃ n, q = .cw n
      let quiet := t.tile.busy = false ∧ ∀ q ∈ t.mesh.reqs, (q.op.isRead = true → ¬ channel q.who) ∧ (q.op = .poke ∨ q.op = .devWr → q.who.ctx? = none)
      let r : BitVec 23 := (BitVec.ofBool aa).setWidth 23 ||| (BitVec.ofBool s2).setWidth 23 <<< 1
      (quiet → ∃ fills, fills.Sublist t.mesh.fills ∧ (∀ f ∈ t.mesh.fills, f ∈ fills ↔ (f.held = true ∨ ¬ channel f.req.who)) ∧
        let own := fun (v : BitVec 6) => owner || v == fld k.sys.ttb2 0 6
        let left := fun (leaves : List TlbEntry) (walks : List WalkEntry) =>
          ends c s { t with mesh := { t.mesh with fills := fills }, tlbs := ⟨leaves, walks⟩ }
        exec (.tlbinvAll 0) s = .next (left (t.tlbs.leaves.filter fun e => !own e.vmid) (t.tlbs.walks.filter fun e => !own e.vmid)) ∧
        (k.getX.tag ≠ Tag.poison →
          let asid : BitVec 12 := fld k.getX.val 0 12
          let vm := fun (v : BitVec 6) => if owner then v == fld k.getX.val 12 6 else v == fld k.sys.ttb2 0 6
          exec (.tlbinvAsid 0) s = .next (left (t.tlbs.leaves.filter fun e => !(e.asid == asid && vm e.vmid))
             (t.tlbs.walks.filter fun e => !(e.asid == asid && vm e.vmid))) ∧
          (k.getA.tag = Tag.dptr ∨ k.getA.tag = Tag.cptr → (s2 = true → owner = true) →
            let q : TlbArgs := ⟨k.getA.val, if s2 || aa then none else some asid,
              some (if owner then fld k.getX.val 12 6 else fld k.sys.ttb2 0 6), s2⟩
            let as := fun (x : BitVec 12) => s2 || aa || x == asid
            let leaves := t.tlbs.leaves.filter fun e => !(as e.asid && vm e.vmid && leafCovers q e)
            exec (.tlbinvVa r) s = .next (left leaves t.tlbs.walks) ∧
            exec (.tlbinvVaw r) s = .next (left leaves (t.tlbs.walks.filter fun e =>
              !(as e.asid && vm e.vmid && e.stage2 == s2 && e.pre == fldN k.getA.val 0 56 / 2 ^ lvlShift e.lvl)))))) ∧
      (¬ quiet → exec (.tlbinvAll 0) s = .next (rollback s t)))

/-- CINV.ALL and CINV.LINE complete: afterwards the named caches hold no line, or not the one line; CINV.ALL sets their INV bits;
dirty data is dropped, and the scratchpad and every other cache stay (R157, R319).
CWB.LINE, CWBI.LINE and CWB.ALL complete when the operands are in order and the buffers have room: a dirty line goes to memory
as one LINE_OUT with its data (from L1D with C = 1: to L2) and stays clean; CWBI.LINE then removes it. A line that is not dirty, or
not held, is left alone (R157, R158). A line with a storage error (log 49) is left to `cleanLine`. That CWB leaves the line clean and
exclusive, and what CINV gives back to the directory, are log 33's. -/
def Obligations.CacheMaintenance : Prop :=
  (∀ (c : CtxId) (s t : State) (cc : BitVec 2), Begins c s t → (∀ id, SMap.wf (t.caches.lines id) = true) →
      (bit (t.getCtx c).st 11 = true → ∃ u, exec (.cinvAll (cc.setWidth 22)) s = .next (ends c s u) ∧
        (∀ id ∈ cachesOf cc, u.caches.lines id = [] ∧ bit u.caches.cctl (3 + id.no) = true) ∧
        (∀ id, id ∉ cachesOf cc → u.caches.lines id = t.caches.lines id) ∧ u.spad = t.spad) ∧
      (cc = 0 ∨ bit (t.getCtx c).st 11 = true → ∀ n u, lineOperand (cc.setWidth 22) true c t = .ok n u →
        (∀ id, SMap.wf (u.caches.lines id) = true) →
        (∀ id, ∀ e ∈ u.caches.lines id, e.2.line = n → cacheFind u id n = some e) →
        let ids := if cc = 0 then [CacheId.l1i] else if cc = 1 then [.l1d] else if cc = 2 then [.l2] else [.l1d, .l2]
        ∃ v, exec (.cinvLine (cc.setWidth 22)) s = .next (ends c s v) ∧
          (∀ id ∈ ids, v.caches.lines id = (u.caches.lines id).filter fun e => e.2.line != n) ∧
          (∀ id, id ∉ ids → v.caches.lines id = u.caches.lines id) ∧ v.spad = u.spad ∧ v.caches.cctl = u.caches.cctl)) ∧
  (∀ (c : CtxId) (s t u : State) (cc : BitVec 2) (n : Nat), Begins c s t →
      let ids := if cc = 0 then [] else if cc = 1 then [CacheId.l1d] else if cc = 2 then [.l2] else [.l1d, .l2]
      (lineOperand (cc.setWidth 22) false c t = .ok n u →
        (u.rel.latent = [] → (∀ id ∈ ids, ∀ e, cacheFind u id n = some e → e.2.st ≠ .modified) →
          exec (.cwbLine (cc.setWidth 22)) s = .next (ends c s u) ∧
          exec (.cwbiLine (cc.setWidth 22)) s = .next (ends c s (dropFrom (if cc = 0 then [.l1i] else ids) n u))) ∧
        (∀ key l, cc = 2 → u.rel.latent = [] → cacheFind u .l2 n = some (key, l) → l.st = .modified → u.mesh.reqs.length < 200 →
          let v := countEvent 2 1 1 none .none (some ((lineAddr l.line).setWidth 64))
            (sendWrite .lineOut (lineAddr l.line) .evict 0 0 l.data true (cachePut u .l2 key { l with st := .exclusive }))
          exec (.cwbLine (cc.setWidth 22)) s = .next (ends c s v) ∧
          exec (.cwbiLine (cc.setWidth 22)) s = .next (ends c s (dropFrom ids n v))) ∧
        (∀ v, cleanLineAt (cc.setWidth 22) n u = .ok () v →
          exec (.cwbLine (cc.setWidth 22)) s = .next (ends c s v) ∧
          exec (.cwbiLine (cc.setWidth 22)) s = .next (ends c s (dropFrom (if cc = 0 then [.l1i] else ids) n v)))) ∧
      (bit (t.getCtx c).st 11 = true → cc ≠ 0 →
        (t.rel.latent = [] → (∀ id ∈ ids, ∀ e ∈ t.caches.lines id, e.2.st ≠ .modified) → (∀ id, SMap.wf (t.caches.lines id) = true) →
          exec (.cwbAll (cc.setWidth 22)) s = .next (ends c s t)) ∧
        (cc = 2 → ∀ v, cleanLines false .l2 ((t.caches.lines .l2).map (·.1)) t = (true, v) →
          exec (.cwbAll 2) s = .next (ends c s v))))

/-! ## System registers -/

/-- Registers that MFS reads: index, what must hold, value and tag (R147, R341, R372, R402, R422, R449, R451, R482). -/
def sysReads : List (BitVec 12 × (State → Ctx → Prop) × (State → Ctx → TWord)) :=
  let any := fun (_ : State) (_ : Ctx) => True
  let int (f : State → Ctx → W64) := fun s k => (⟨f s k, Tag.int⟩ : TWord)
  [ ((0x000 : BitVec 12), any, int fun s _ => s.time.tick), ((0x001 : BitVec 12), any, int fun s _ => s.time.tsoff),
    ((0x002 : BitVec 12), any, int fun s _ => s.time.tick + s.time.tsoff), ((0x040 : BitVec 12), any, fun _ k => ⟨k.sys.vbar, Tag.cptr⟩),
    ((0x041 : BitVec 12), fun s k => capsConf s = false ∧ bit k.st 12 = true, fun _ k => ⟨k.sys.svbar, Tag.cptr⟩),
    ((0x042 : BitVec 12), any, int fun _ k => k.sys.ecause), ((0x043 : BitVec 12), any, fun s _ => ⟨s.intr.evec, Tag.cptr⟩),
    ((0x044 : BitVec 12), any, fun _ k => ⟨k.sys.esp, Tag.dptr⟩), ((0x045 : BitVec 12), any, fun _ k => ⟨k.sys.esplo, Tag.dptr⟩),
    ((0x046 : BitVec 12), fun s k => capsConf s = false ∧ bit k.st 12 = true, fun s _ => ⟨s.intr.sentry, Tag.cptr⟩),
    ((0x047 : BitVec 12), any, int fun s _ => s.intr.mcsyn), ((0x048 : BitVec 12), any, int fun s _ => s.intr.mcaddr), ((0x049 : BitVec 12), any, int fun s _ => s.intr.ipend),
    ((0x04A : BitVec 12), fun _ k => bit k.st 14 = true, fun _ k => ⟨k.fast.fbpc, Tag.cptr⟩),
    ((0x04B : BitVec 12), fun _ k => bit k.st 14 = true, fun _ k => ⟨k.fast.fbst.setWidth 64, Tag.raw⟩),
    ((0x04C : BitVec 12), fun s _ => twoWorlds s = false, int fun _ k => k.sys.tgrant),
    ((0x100 : BitVec 12), any, int fun _ k => k.sys.tcr), ((0x101 : BitVec 12), any, int fun _ k => k.sys.ttb1), ((0x102 : BitVec 12), any, int fun _ k => k.sys.ttb2),
    ((0x108 : BitVec 12), any, int fun _ k => k.sys.fsr), ((0x109 : BitVec 12), any, fun _ k => ⟨k.sys.far, if bit k.sys.fsr 9 then Tag.cptr else Tag.dptr⟩),
    ((0x10A : BitVec 12), any, int fun _ k => k.sys.fipa), ((0x201 : BitVec 12), any, int fun s _ => s.drover.dpri.setWidth 64),
    ((0x202 : BitVec 12), any, int fun s _ => s.drover.dquant.setWidth 64),
    ((0x203 : BitVec 12), any, int fun s _ => s.drover.owner.setWidth 64 ||| s.drover.prev.setWidth 64 <<< 2 ||| (BitVec.ofBool s.drover.xfer).setWidth 64 <<< 4),
    ((0x204 : BitVec 12), any, int fun s _ => s.time.tcmp), ((0x205 : BitVec 12), any, int fun s _ => (BitVec.ofBool s.time.ten).setWidth 64),
    ((0x210 : BitVec 12), any, int fun _ k => k.win.cur.setWidth 64 ||| k.win.res.setWidth 64 <<< 3 |||
      (BitVec.ofBool k.win.rsv).setWidth 64 <<< 6 ||| k.win.link.setWidth 64 <<< 8 ||| k.win.fsd.setWidth 64 <<< 16),
    ((0x211 : BitVec 12), any, fun _ k => ⟨k.win.fsptr, Tag.dptr⟩), ((0x220 : BitVec 12), any, int fun _ k => k.ev.evpend.setWidth 64),
    ((0x221 : BitVec 12), any, fun _ k => ⟨k.ev.waddr, Tag.dptr⟩), ((0x222 : BitVec 12), any, int fun _ k => k.ev.wland), ((0x223 : BitVec 12), any, int fun _ k => k.ev.wmov),
    ((0x224 : BitVec 12), any, int fun _ k => k.ev.wdl), ((0x300 : BitVec 12), any, int fun s _ => s.chain.herdcfg.setWidth 64),
    ((0x301 : BitVec 12), any, int fun s _ => s.chain.caddr.setWidth 64 ||| (BitVec.ofBool s.chain.cvalid).setWidth 64 <<< 12),
    ((0x441 : BitVec 12), any, int fun s _ => s.perf.pmovf.setWidth 64), ((0x442 : BitVec 12), any, int fun s _ => s.perf.frzcfg.setWidth 64),
    ((0x443 : BitVec 12), any, int fun s _ => s.perf.frzstat.setWidth 64), ((0x444 : BitVec 12), any, int fun s _ => s.perf.frztick),
    ((0x448 : BitVec 12), any, int fun s _ => s.trace.dmpctl),
    ((0x449 : BitVec 12), any, int fun s _ => s.trace.dmSeq.setWidth 64 ||| s.trace.dmSkip.setWidth 64 <<< 32 ||| (BitVec.ofBool s.trace.dmFull).setWidth 64 <<< 48),
    ((0x450 : BitVec 12), any, int fun s _ => s.trace.trctl),
    ((0x451 : BitVec 12), any, int fun s _ => (BitVec.ofBool s.trace.trFull).setWidth 64 ||| s.trace.trLost.setWidth 64 <<< 16),
    ((0x458 : BitVec 12), any, int fun _ k => k.sys.markr.setWidth 64), ((0x501 : BitVec 12), any, int fun s _ => s.pace.plimcnt),
    ((0x518 : BitVec 12), any, int fun s _ => s.rel.wlock.setWidth 64), ((0x520 : BitVec 12), any, int fun _ k => k.sys.kdin), ((0x528 : BitVec 12), any, int fun _ _ => 0),
    ((0x60D : BitVec 12), fun s _ => enabled s 2 = true, int fun s _ => (BitVec.ofBool s.tile.tpOn).setWidth 64 |||
      (BitVec.ofBool s.tile.tpDrain).setWidth 64 <<< 1 ||| (BitVec.ofBool s.tile.tpPowered).setWidth 64 <<< 2) ]

/-- MFS completes for supervisor code that owns stage 2: the register with its tag in A, and no other change; what a counter register shows
has the accounting steps up to then in it (R456). MFS of KDOUT, while the world key is valid, gives the derived key of KDIN, and 0 otherwise
(R147, R492). That GATEH and GATEL give the word with the tag that it is stored with, RAW at reset, is log 24's (R372 lists them with CAPH
and CAPL). -/
def Obligations.ReadSystemRegister : Prop :=
  ∀ (c : CtxId) (s t : State), Begins c s t → let k := t.getCtx c
    bit k.st 11 = true → stage2Owner t k = true →
    let get := fun (i : BitVec 25) (u : State) (w : TWord) => exec (.mfs i) s = .next (ends c s (u.modCtx c fun k => k.setA w))
    (∀ row ∈ sysReads, row.2.1 t k → get (row.1.setWidth 25) t (row.2.2 t k)) ∧
    (∀ i : BitVec 3, get (0x050 + i.setWidth 25) t ⟨vget t.intr.vlvl i.toNat 0, Tag.int⟩ ∧
      get (0x060 + i.setWidth 25) t ⟨vget t.intr.iow i.toNat 0, Tag.int⟩ ∧
      get (0x510 + i.setWidth 25) t ⟨vget t.rel.fcstat i.toNat 0, Tag.int⟩) ∧
    (∀ b : BitVec 2, (capsConf t = false ∨ b.toNat < 2) → let q := k.banks.get b
      ∀ row ∈ [(0, q.sp), (1, q.lo), (2, q.hi)], get (0x070 + 3 * b.setWidth 25 + row.1) t ⟨row.2, Tag.dptr⟩) ∧
    (∀ i : BitVec 4, get (0x120 + 2 * i.setWidth 25) t ⟨vget t.pamb i.toNat 0, Tag.int⟩ ∧
      get (0x121 + 2 * i.setWidth 25) t ⟨vget t.paml i.toNat 0, Tag.int⟩ ∧
      (i ≠ 0 → twoWorlds t = false → get (0x080 + 2 * i.setWidth 25) t (vget t.intr.gateh i.toNat TWord.zero) ∧
        get (0x081 + 2 * i.setWidth 25) t (vget t.intr.gatel i.toNat TWord.zero))) ∧
    (let u := accountSteps t
     get 0x440 u ⟨u.perf.pmctl, Tag.int⟩ ∧
     (∀ i : BitVec 2, get (0x400 + i.setWidth 25) u ⟨vget u.perf.fc i.toNat 0, Tag.int⟩ ∧
       get (0x430 + i.setWidth 25) u ⟨vget u.perf.pma i.toNat 0, Tag.int⟩) ∧
     (∀ i : BitVec 4, get (0x410 + i.setWidth 25) u ⟨(vget u.perf.pmc i.toNat 0).setWidth 64, Tag.int⟩ ∧
       get (0x420 + i.setWidth 25) u ⟨(vget u.perf.pmsel i.toNat 0).setWidth 64, Tag.int⟩)) ∧
    (exec (.mfsKdout 0) s = .next (ends c s (t.modCtx c fun k => k.setA
      ⟨if t.keys.wkv then Config.kdOut t.keys.worldKey k.sys.kdin (bit k.st 12) else 0, Tag.int⟩)))

/-- Registers that MTS writes: the command, what must hold, the tag of A, and the state that follows (R147 and the maps). -/
def sysWrites : List (Instr × (State → Ctx → Prop) × Tag × (CtxId → W64 → State → State)) :=
  let any := fun (_ : State) (_ : Ctx) => True
  let ctx (f : W64 → Ctx → Ctx) := fun (c : CtxId) v (s : State) => s.modCtx c (f v)
  let sys (f : W64 → SysRegs → SysRegs) := ctx fun v k => { k with sys := f v k.sys }
  let intr (f : W64 → Sys2Proof.Machine.Intr → Sys2Proof.Machine.Intr) := fun (_ : CtxId) v (s : State) => { s with intr := f v s.intr }
  let perf (f : W64 → Perf → Perf) := fun (_ : CtxId) v (s : State) => { s with perf := f v s.perf }
  let trace (f : W64 → Trace → Trace) := fun (_ : CtxId) v (s : State) => { s with trace := f v s.trace }
  [ (.mts 0x040, any, Tag.cptr, sys fun v q => { q with vbar := (fld v 0 56).signExtend 64 &&& ~~~0x7FF }),
    (.mts 0x041, fun s k => capsConf s = false ∧ bit k.st 12 = true, Tag.cptr,
      sys fun v q => { q with svbar := (fld v 0 56).signExtend 64 &&& ~~~0x7FF }),
    (.mts 0x044, any, Tag.dptr, sys fun v q => { q with esp := v &&& 0x000FFFFFFFFFFFF0 }),
    (.mts 0x045, any, Tag.dptr, sys fun v q => { q with esplo := v &&& 0x000FFFFFFFFFFFF0 }),
    (.mts 0x046, fun s k => capsConf s = false ∧ bit k.st 12 = true ∧ bit s.intr.sentry 1 = false, Tag.cptr,
      intr fun v i => { i with sentry := v &&& 0x00FFFFFFFFFFFFFF }),
    (.mts 0x046, fun s k => capsConf s = false ∧ bit k.st 12 = true ∧ bit s.intr.sentry 1 = true, Tag.cptr, fun _ _ s => s),
    -- MCSYN.VALID is cleared by a 1 (R397)
    (.mts 0x047, any, Tag.int, intr fun v i => if bit v 63 then { i with mcsyn := i.mcsyn &&& 0x7FFFFFFFFFFFFFBF, mcaddr := 0 } else i),
    -- IPEND: a 1 clears a bit whose vector routes to the writer's world (R369)
    (.mts 0x049, fun s _ => twoWorlds s = false, Tag.int, intr fun v i => { i with ipend := i.ipend &&& ~~~(v &&& 0x3F00000001) }),
    (.mts 0x049, fun s k => twoWorlds s = true ∧ bit k.st 12 = true, Tag.int, fun _ v s => { s with intr := { s.intr with
      ipend := s.intr.ipend &&& ~~~(v &&& [0, 32, 33, 34, 35, 36, 37].foldl (fun a n =>
        if bit (vget s.intr.vlvl (n / 8) 0) (8 * (n % 8) + 3) then a ||| 1 <<< n else a) 0) } }),
    (.mts 0x04A, fun _ k => bit k.st 14 = true, Tag.cptr, ctx fun v k => { k with fast := { k.fast with fbpc := v &&& ~~~3 } }),
    (.mts 0x04C, fun s _ => twoWorlds s = false, Tag.int, sys fun v q => { q with tgrant := v &&& 0xFFFE }),
    (.mts 0x201, any, Tag.int, fun _ v s => { s with drover := { s.drover with dpri := fld v 0 8 } }),
    (.mts 0x202, any, Tag.int, fun _ v s => { s with drover := { s.drover with dquant := fld v 0 16 } }),
    (.mts 0x210, any, Tag.int, ctx fun v k => { k with win := { k.win with fsd := fld v 16 32 } }),
    (.mts 0x211, any, Tag.dptr, ctx fun v k => { k with win := { k.win with fsptr := v &&& ~~~0xFF } }),
    (.mts 0x220, any, Tag.int, fun c v s => settle (s.modCtx c fun k =>
      { k with ev := { k.ev with evpend := k.ev.evpend &&& ~~~(fld v 0 8) } })),
    (.mts 0x440, any, Tag.int, fun c v s => perf (fun v p => { p with pmctl := v &&& 0xFFFF0007 }) c v (accountSteps s)),
    (.mts 0x441, any, Tag.int, perf fun v p => { p with pmovf := p.pmovf &&& ~~~(fld v 0 16) }),
    (.mts 0x442, any, Tag.int, perf fun v p => { p with frzcfg := fld v 0 21 }),
    (.mts 0x443, any, Tag.int, perf fun v p => { p with frzstat := p.frzstat &&& ~~~(fld v 0 20) }),
    (.mts 0x448, any, Tag.int, trace fun v t => { t with dmpctl := v &&& 0xFFFFFFFF01 }),
    (.mts 0x449, any, Tag.int, trace fun v t => { t with dmFull := t.dmFull && !bit v 48 }),
    (.mts 0x450, fun s _ => enabled s 8 = true, Tag.int, trace fun v t => { t with trctl := v &&& 0xFFFFFFFF0001FFFF }),
    (.mts 0x450, fun s _ => enabled s 8 = false, Tag.int, trace fun _ t => { t with trctl := 0 }),
    (.mts 0x451, any, Tag.int, trace fun v t => { t with trFull := t.trFull && !bit v 0, trLost := fld v 16 16 }),
    (.mts 0x458, any, Tag.int, sys fun v q => { q with markr := fld v 0 32 }),
    (.mts 0x501, any, Tag.int, fun _ v s => { s with pace := { s.pace with plimcnt := v } }),
    (.mts 0x520, any, Tag.int, sys fun v q => { q with kdin := v }),
    (.mtsTimer false 0, any, Tag.int, fun _ v s => { s with time := { s.time with tcmp := v, timerArmed := true } }),
    (.mtsTimer true 0, any, Tag.int, fun _ v s => { s with time := { s.time with ten := bit v 0, timerArmed := true } }),
    (.mtsTranslation .tcr 0, any, Tag.int, sys fun v q => { q with tcr := v &&& 1 }),
    (.mtsTranslation .ttb1 0, any, Tag.int, sys fun v q => { q with ttb1 := v &&& 0x000FFFFFFFFFFFFF }),
    (.mtsTranslation .ttb2 0, any, Tag.int, sys fun v q => { q with ttb2 := v &&& 0x000FFFFFFFFFF07F }),
    (.mtsEvec 0, any, Tag.cptr, intr fun v i => { i with evec := (v &&& 0x000FFFFFFFFFFFFC) ||| 1 }),
    (.mtsFbst 0, fun s k => bit k.st 14 = true ∧ capsConf s = false, Tag.int, ctx fun v k => { k with fast := { k.fast with
      fbst := (k.fast.fbst &&& 0xFF0440F0) ||| (v.setWidth 32 &&& 0x00FBBF0F) } }),
    (.mtsFbst 0, fun s k => bit k.st 14 = true ∧ capsConf s = true, Tag.int, ctx fun v k => { k with fast := { k.fast with
      fbst := (k.fast.fbst &&& 0xFF0450F0) ||| (v.setWidth 32 &&& 0x00FBAF0F) } }),
    (.mtsTown 0, any, Tag.int, fun _ v s =>
      let t := if fld v 0 2 = s.drover.owner then s
        else stopTileChannels { s with
          drover := { s.drover with owner := fld v 0 2, prev := s.drover.owner, xfer := false }
          tile := { s.tile with latch := [] } }
      { t with drover := { t.drover with xfer := false } }),
    (.mtsPace 0, any, Tag.int, fun _ v s =>
      let cap : BitVec 4 := fld v 0 4
      let floor : BitVec 4 := if (fld v 4 4).toNat < cap.toNat then cap else fld v 4 4
      let act : BitVec 4 := if s.pins.curHi then 15 else if cap.toNat < s.pins.paceHw.toNat then s.pins.paceHw else cap
      { s with pace := { s.pace with
        cap := cap, floor := floor, act := act
        lim := s.pace.lim && !bit v 16 || decide (floor.toNat < act.toNat) } }),
    (.mtsWsreq 0, fun _ k => bit k.st 12 = true, Tag.int, fun c v s => wayside 7 (some c) (v.setWidth 32) s) ]

/-- MTS completes for supervisor code that owns stage 2 with a value of the tag the register accepts: the fields that can be
written take the value, and nothing else changes; a register that only MFS reads stays (R147). These are the registers but the watches,
KDOUT and those of the tile, which have statements of their own. MTS to a map register waits for the stores still outstanding, to WLOCK
first sends away the lines of the ways that it locks, to a counter register first accounts the steps up to then (R147, R343, R357, R368,
R372, R402, R403, R451, R489, R491, R501; log 64 for FBPC). -/
def Obligations.WriteSystemRegister : Prop :=
  ∀ (c : CtxId) (s t : State) (v : W64), Begins c s t → let k := t.getCtx c
    bit k.st 11 = true → stage2Owner t k = true →
    (∀ row ∈ sysWrites, row.2.1 t k → k.getA = ⟨v, row.2.2.1⟩ → exec row.1 s = .next (ends c s (row.2.2.2 c v t))) ∧
    (∀ i ∈ [(0x000 : BitVec 25), 0x001, 0x002, 0x042, 0x048, 0x108, 0x109, 0x10A, 0x200, 0x300, 0x301, 0x444, 0x510, 0x517, 0x521],
      exec (.mts i) s = .next (ends c s t)) ∧
    (k.getA = ⟨v, Tag.dptr⟩ → ∀ b : BitVec 2, (capsConf t = false ∨ b.toNat < 2) → let q := k.banks.get b
      ∀ row ∈ [(0, { q with sp := v }), (1, { q with lo := v &&& ~~~7 }), (2, { q with hi := v &&& ~~~7 })],
        exec (.mts (0x070 + 3 * b.setWidth 25 + row.1)) s = .next (ends c s (t.modCtx c fun k => { k with banks := k.banks.set b row.2 }))) ∧
    (∀ i : BitVec 4, i ≠ 0 → twoWorlds t = false →
      (k.getA = ⟨v, Tag.caph⟩ → exec (.mts (0x080 + 2 * i.setWidth 25)) s = .next (ends c s { t with intr := { t.intr with
        gateh := vset t.intr.gateh i.toNat ⟨v, Tag.caph⟩ } })) ∧
      (k.getA = ⟨v, Tag.capl⟩ → exec (.mts (0x081 + 2 * i.setWidth 25)) s = .next (ends c s { t with intr := { t.intr with
        gatel := vset t.intr.gatel i.toNat ⟨v, Tag.capl⟩ } }))) ∧
    (k.getA = ⟨v, Tag.int⟩ →
      (∀ i : BitVec 3, exec (.mtsVlvl i 0) s = .next (ends c s (wakeIrqs { t with intr := { t.intr with
          vlvl := vset t.intr.vlvl i.toNat (v &&& 0x3F3F3F3F3F3F3F3F) } })) ∧
        exec (.mts (0x060 + i.setWidth 25)) s = .next (ends c s { t with intr := { t.intr with
          iow := vset t.intr.iow i.toNat (v &&& 0x0007FFFFFFFFFFFF) } })) ∧
      (let u := accountSteps t
       let put := fun (i : BitVec 25) (p : Perf) => exec (.mts i) s = .next (ends c s { u with perf := p })
       (∀ i : BitVec 2, put (0x400 + i.setWidth 25) { u.perf with fc := vset u.perf.fc i.toNat v } ∧
         put (0x430 + i.setWidth 25) { u.perf with pma := vset u.perf.pma i.toNat v }) ∧
       (∀ i : BitVec 4, put (0x410 + i.setWidth 25) { u.perf with pmc := vset u.perf.pmc i.toNat (v.setWidth 48) } ∧
         ((twoWorlds u = true → bit (u.getCtx c).st 12 = true) →
           put (0x420 + i.setWidth 25) { u.perf with pmsel := vset u.perf.pmsel i.toNat (v.setWidth 25) }))) ∧
      (t.tile.busy = false → (∀ r ∈ t.mesh.reqs, r.op = .poke ∨ r.op = .devWr → r.who.ctx? = none) → (∀ d, d ≠ c → dropFills d t = t) →
        ∀ n : BitVec 4,
          exec (.mtsPam n false 0) s = .next (ends c s { t with pamb := vset t.pamb n.toNat (v &&& 0x000FFFFFFFFFF007) }) ∧
          exec (.mtsPam n true 0) s = .next (ends c s { t with paml := vset t.paml n.toNat (v &&& 0x000FFFFFFFFFF000) })) ∧
      (∀ u u1 u2 : State,
        let old := t.rel.wlock
        let part := fun (m : BitVec 20) => if (old ||| v.setWidth 20) &&& m = m then 0 else v.setWidth 20 &&& ~~~old &&& m
        let bits := part 0x0000F ||| part 0x00FF0 ||| part 0xFF000
        flushWays .l1i bits ((t.caches.lines .l1i).map (·.1)) t = .ok () u →
        flushWays .l1d bits ((t.caches.lines .l1d).map (·.1)) u = .ok () u1 →
        flushWays .l2 bits ((u1.caches.lines .l2).map (·.1)) u1 = .ok () u2 →
        exec (.mtsWlock 0) s = .next (ends c s { u2 with rel := { u2.rel with wlock := u2.rel.wlock ||| bits } })))

/-- The tile registers and TPWR (R189, R192, R193, R195, R202, R213, R214): written by the context that owns the tile, while no
instruction is stopped part-way and none that has committed has rows to perform, they take what their fields hold; an MTS to ACXn sets
FUSE bit n, and is lost while the power gate is open (R213, R215, log 65); RMAX is normalized; TCFG and FCFG keep to the features of
ENABLE0. TPWR with ON = 1 asks for power; with ON = 0 it loses the tile state, and the drain begins (log 68). -/
def Obligations.WriteTileRegister : Prop :=
  ∀ (c : CtxId) (s t : State) (v : W64), Begins c s t → enabled t 2 = true → t.tile.busy = false → let k := t.getCtx c
    (t.drover.owner = c → (∀ p ∈ [t.tile.prog.q0, t.tile.prog.q1, t.tile.prog.q2, t.tile.prog.q3], bit p 8 = false) →
      (k.getA = ⟨v, Tag.int⟩ →
        (∀ n : BitVec 5, exec (.mtsAcx n 0) s = .next (ends c s (if t.tile.tpOn then { t with tile := { t.tile with
          acx := vset t.tile.acx n.toNat (v.setWidth 32), fuse := t.tile.fuse ||| (1 <<< n.toNat) } } else t))) ∧
        (t.tile.tileq = [] →
          (let m : BitVec 4 := if enabled t 3 then fld v 0 4 else fld v 0 4 &&& 0xE
           exec (.mtsTcfg 0) s = .next (ends c s { t with tile := { t.tile with
            tcfg := m, latch := if bit m 0 = bit t.tile.tcfg 0 then t.tile.latch else [] } })) ∧
          exec (.mtsFcfg 0) s = .next (ends c s { t with tile := { t.tile with
            ntw := if enabled t 4 then (if 16 < fldN v 0 5 then 16 else fld v 0 5) else 0 } })) ∧
        exec (.mts 0x60A) s = .next (ends c s { t with tile := { t.tile with tflags := v &&& 0x3F3F3F3F3F3F } })) ∧
      (k.getA = ⟨v, Tag.flt⟩ → ∀ n : BitVec 5, exec (.mtsRmax n 0) s = .next (ends c s { t with tile := { t.tile with
        rmax := vset t.tile.rmax n.toNat
          (if fld v 32 32 ≠ 0xFFFFFFFF ∨ (fld v 23 8 = 0xFF ∧ fld v 0 23 ≠ 0) then 0x7FC00000 else v.setWidth 32 &&& 0x7FFFFFFF)
        } })) ∧
      (k.getA = ⟨v, Tag.shape⟩ → ∀ i : BitVec 2, exec (.mts (0x600 + i.setWidth 25)) s =
        .next (ends c s { t with tile := { t.tile with sd := t.tile.sd.set i (v &&& 0x0007FFFFFFFFFFFF) } }))) ∧
    (bit k.st 11 = true → k.getA = ⟨v, Tag.int⟩ → (s.getCtx c).getA = k.getA →
      (bit v 0 = true → t.tile.tpDrain = false →
        exec (.mtsTpwrOn 0) s = .next (ends c s (settle { t with tile := { t.tile with tpOn := true } }))) ∧
      (bit v 0 = false →
        exec (.mtsTpwrOff 0) s = .next (ends c s (if t.tile.tpOn then settle (stopTileChannels { t with tile := { t.tile with
          trow := [], fold := [], tuse := 0, fuse := 0, acx := Vector.replicate 32 0, latch := [], errs := [], tpOn := false
          tpDrain := true, prog := t.tile.prog.map fun p => p &&& 0xFFFFFFFFFFFFFEFF } }) else t))))

/-- The watches complete (R408, R409): MTS to WLAND, WMOV or WDL stores the fields, clears the kind's event and sets it again if
its condition holds; MTS to WADDR with EN = 0 takes the watch away, with EN = 1 it brings the line in and watches it. `n` is the
line, and `at` whether its event is set at once.
Who may not reach a register, and what is not a register (R147): MFS and MTS of an unassigned index are undefined; user code
has no supervisor register and only reads PMCs while PMCTL.UR is 1; supervisor code that does not own stage 2 has not EVEC, ESP or
KDIN; a tag that the register does not accept is a tag fault; tile registers of another owner raise vector 13. -/
def Obligations.SystemRegisterAccess : Prop :=
  (∀ (c : CtxId) (s t : State) (v : W64), Begins c s t → let k := t.getCtx c
      (isPlain k.getA.tag = true → k.getA.val = v →
        let arm := fun (kind : Nat) (f : Events → Events) => ends c s (settle (t.modCtx c fun k =>
          { k with ev := { f k.ev with evpend := k.ev.evpend &&& ~~~((1 : BitVec 8) <<< kind) } }))
        exec (.watchArm .wland 0) s = .next (arm 1 fun e => { e with wland := v &&& 0xFFFFFFFF0000001F, landPeer := none }) ∧
        exec (.watchArm .wmov 0) s = .next (arm 2 fun e => { e with wmov := v &&& 0xFF }) ∧
        exec (.watchArm .wdl 0) s = .next (arm 3 fun e => { e with wdl := v })) ∧
      (k.getA = ⟨v, Tag.dptr⟩ →
        let put := fun (u : State) (w : Watch) (e : Bool) => ends c s (u.modCtx c fun k => { k with ev := { k.ev with
          evpend := (k.ev.evpend &&& 0xFE) ||| (BitVec.ofBool e).setWidth 8, waddr := v &&& 0xFFFFFFFFFFFFFFC1, watch := w } })
        (bit v 0 = false → exec (.waddrArm 0) s = .next (put t .off false)) ∧
        (bit v 0 = true → ∀ n at' u, armLine c v t = .ok (n, at') u → exec (.waddrArm 0) s = .next (put u (.line n) at')))) ∧
  (∀ (c : CtxId) (s t : State), Begins c s t → let k := t.getCtx c
      (∀ i ∈ [(0x003 : BitVec 25), 0x04D, 0x080, 0x103, 0x10B, 0x140, 0x206, 0x404, 0x445, 0x502, 0x600 + 0x14, 0x660, 0xFFF, 0x1000],
        exec (.mfs i) s = .next (stopped c s t (plainExc 1 0)) ∧ exec (.mts i) s = .next (stopped c s t (plainExc 1 0))) ∧
      (bit k.st 11 = false →
        (∀ i ∈ [(0x040 : BitVec 25), 0x042, 0x049, 0x050, 0x100, 0x102, 0x108, 0x120, 0x201, 0x211, 0x420, 0x440, 0x510, 0x520],
          exec (.mfs i) s = .next (stopped c s t (plainExc 2 0)) ∧ exec (.mts i) s = .next (stopped c s t (plainExc 2 0))) ∧
        (bit t.perf.pmctl 1 = false → exec (.mfs 0x410) s = .next (stopped c s t (plainExc 2 0))) ∧
        exec (.mts 0x000) s = .next (ends c s t)) ∧
      (bit k.st 11 = true → stage2Owner t k = false →
        ∀ i ∈ [(0x043 : BitVec 25), 0x044, 0x045, 0x520],
          exec (.mfs i) s = .next (stopped c s t (plainExc 2 0)) ∧ exec (.mts i) s = .next (stopped c s t (plainExc 2 0))) ∧
      (bit k.st 11 = true → k.getA.tag ≠ Tag.cptr →
        exec (.mts 0x040) s = .next (stopped c s t (plainExc 3 (k.getA.tag.setWidth 8)))) ∧
      (enabled t 2 = true → t.drover.owner ≠ c → exec (.mfs 0x608) s = .next (stopped c s t (plainExc 13 0))))

/-! ## Capabilities -/

/-- The capability group on X:Y in the capability configuration, and SEAL, UNSEAL and ACHK in every one, complete (R389, R391,
R392, R395). Of hi, [53:0] is BASE and [61:54] PERMS; of lo, [53:0] is TOP and [57:54] OTYPE. Inspection writes A, derivation
writes X:Y with a new CHK, which makes it valid and changes no other bit; no flag changes. -/
def Obligations.CapabilityInstructions : Prop :=
  (∀ (s : State) (p : CapPair), let q := capSign s p
    capValid s q = true ∧ fld q.hi.val 0 62 = fld p.hi.val 0 62 ∧ fld q.lo.val 0 58 = fld p.lo.val 0 58) ∧
  ∀ (c : CtxId) (s t : State), Begins c s t → let k := t.getCtx c; let p : CapPair := ⟨k.getX, k.getY⟩
    let hi := p.hi.val
    let lo := p.lo.val
    let putA := fun (w : TWord) => ends c s (t.modCtx c fun k => k.setA w)
    let putXY := fun (hi lo : W64) => ends c s (t.modCtx c fun k =>
      let q := capSign t ⟨⟨hi, k.getX.tag⟩, ⟨lo, k.getY.tag⟩⟩
      (k.setX q.hi).setY q.lo)
    exec (.achk 0) s = .next (putA ⟨if capValid t p then 1 else 0, Tag.int⟩) ∧
    (capsConf t = true → capValid t p = true →
      exec (.abase 0) s = .next (putA ⟨(fld hi 0 54 ++ 0#2).signExtend 64, Tag.int⟩) ∧
      exec (.atop 0) s = .next (putA ⟨(fld lo 0 54 ++ 3#2).signExtend 64, Tag.int⟩) ∧
      exec (.aperm 0) s = .next (putA ⟨(fld hi 54 8).setWidth 64 ||| (fld lo 54 4).setWidth 64 <<< 8, Tag.int⟩) ∧
      (fld lo 54 4 = 0 →
        let v := k.getA.val
        let b : BitVec 54 := fld v 2 54
        (isPlain k.getA.tag = true → fldN hi 0 54 ≤ b.toNat → b.toNat ≤ fldN lo 0 54 →
          (fld v 0 2 = 0 → exec (.anarb 0) s = .next (putXY ((hi &&& 0xFFC0000000000000) ||| b.setWidth 64) lo)) ∧
          (fld v 0 2 = 3 → exec (.anart 0) s = .next (putXY hi ((lo &&& 0xFFC0000000000000) ||| b.setWidth 64)))) ∧
        (k.getA.tag ≠ Tag.poison →
          exec (.amask 0) s = .next (putXY (hi &&& (0xC03FFFFFFFFFFFFF ||| (fld v 0 8).setWidth 64 <<< 54)) lo)) ∧
        (isPlain k.getA.tag = true → bit hi 59 = true → fld v 0 4 ≠ 0 → bit k.sys.tgrant (fldN v 0 4) = true →
          exec (.aseal 0) s = .next (putXY hi (lo ||| (fld v 0 4).setWidth 64 <<< 54)))) ∧
      (fld lo 54 4 ≠ 0 → bit k.sys.tgrant (fldN lo 54 4) = true →
        exec (.aopen 0) s = .next (putXY hi (lo &&& 0xFC3FFFFFFFFFFFFF)))) ∧
    (bit k.st 11 = true → t.keys.skv = true →
      let perm := Config.sealPerm t.keys.sealKey (bit k.st 12)
      (isPlain k.getA.tag = true → fld k.getA.val 60 4 = 0 →
        exec (.sealA 0) s = .next (putA ⟨perm k.getA.val, Tag.sealed⟩)) ∧
      (k.getA.tag = Tag.sealed →
        exec (.unsealA 0) s = .next (if fld (perm.symm k.getA.val) 60 4 = 0 then putA ⟨perm.symm k.getA.val, Tag.int⟩
          else stopped c s t ⟨11, 6, none, 0, false, true⟩)))

/-- ALD, AST, AGET, APUT, AJMP and AGATE complete in the capability configuration (R391, R393). ALD and AST move the pair at A, a multiple
of 16 that DDC allows with TAKE or GIVE; AGET and APUT copy PCC, DDC, HPCC and HDDC; AJMP takes X:Y as PCC and A as PC, and a PC that is no
multiple of 4 is a capability fault; AGATE opens X:Y into PCC, takes the gate of its type as DDC, saves the old DDC in the frame slots that
S names, and leaves PC + 4 in A; with a gate that carries X, or with APUT of SEL = 0, it is a capability fault. The codes are log 72's: 0x07
of a misaligned target, 0x04 of such a gate, a free one of that APUT. -/
def Obligations.CapabilityTransfers : Prop :=
  ∀ (c : CtxId) (s t : State), Begins c s t → capsConf t = true →
    let k := t.getCtx c; let p : CapPair := ⟨k.getX, k.getY⟩; let a := k.getA.val
    let here := fun (kind : AccKind) (extra : Nat) => k.getA.tag = Tag.dptr ∧ needCanonical c a kind t = .ok () t ∧
      a.toNat % 16 = 0 ∧ capAccess t k.ddc (if kind = .write then 1 else 0) a 16 = none ∧ bit k.ddc.hi.val (54 + extra) = true
    (here .read 3 → ∀ u1 u2 u3 u4 q r hi lo,
      translateCtx c ⟨a, .read, none, none, false⟩ t = .ok q u1 → translateCtx c ⟨a + 8, .read, none, none, false⟩ u1 = .ok r u2 →
      readPhys c q 8 u2 = .ok hi u3 → readPhys c r 8 u3 = .ok lo u4 →
      exec (.ald 0) s = .next (ends c s (u4.modCtx c fun k => (k.setX hi).setY lo))) ∧
    (here .write 4 → capValid t p = true → ∀ u1 u2 u3 u4 u5 v q r wq wr,
      translateCtx c ⟨a, .write, none, none, false⟩ t = .ok q u1 → translateCtx c ⟨a + 8, .write, none, none, false⟩ u1 = .ok r u2 →
      prepPhys c q 8 u2 = .ok wq u3 → prepPhys c r 8 u3 = .ok wr u4 → pathOk u4 (q, wq) = true → pathOk u4 (r, wr) = true →
      commitPhys c wq q 8 k.getX u4 = .ok () u5 → commitPhys c wr r 8 k.getY u5 = .ok () v →
      exec (.ast 0) s = .next (ends c s v)) ∧
    (∀ sel f, (sel, f) ∈ [((0 : BitVec 20), Ctx.pcc), (1, Ctx.ddc), (2, Ctx.hpcc), (3, Ctx.hddc)] →
      exec (.aget (sel <<< 12)) s = .next (ends c s (t.modCtx c fun k => (k.setX (f k).hi).setY (f k).lo))) ∧
    (capValid t p = true → fld p.lo.val 54 4 = 0 →
      exec (.aput 0x1000) s = .next (ends c s (t.modCtx c fun k => { k with ddc := p })) ∧
      exec (.aput 0x2000) s = .next (if bit k.st 11 then ends c s (t.modCtx c fun k => { k with hpcc := p })
        else stopped c s t (plainExc 2 0)) ∧
      exec (.aput 0x3000) s = .next (if bit k.st 11 then ends c s (t.modCtx c fun k => { k with hddc := p })
        else stopped c s t (plainExc 2 0)) ∧
      (k.getA.tag = Tag.cptr → needCanonical c a .exec t = .ok () t → a.toNat % 4 = 0 →
        fldN p.hi.val 0 54 ≤ fldN a 2 54 → fldN a 2 54 ≤ fldN p.lo.val 0 54 → bit p.hi.val 56 = true →
        exec (.ajmp 0) s = .next (endsThere c s (t.modCtx c fun k => { k with pcc := p, pc := a })))) ∧
    (∃ code, exec (.aput 0) s = .next (stopped c s { t with free := t.free + 1 } ⟨11, code, none, 0, false, code == 6⟩)) ∧
    (k.getA.tag = Tag.cptr → needCanonical c a .exec t = .ok () t → a.toNat % 4 ≠ 0 →
      exec (.ajmp 0) s = .next (stopped c s t (plainExc 11 7))) ∧
    (capValid t p = true → fld p.lo.val 54 4 ≠ 0 → bit p.hi.val 56 = true →
      let n := fldN p.lo.val 54 4
      let g : CapPair := ⟨vget t.intr.gateh n TWord.zero, vget t.intr.gatel n TWord.zero⟩
      capValid t g = true → fld g.lo.val 54 4 = 0 →
      ∀ f : BitVec 5, bit f 0 = false → (f ≠ 0 → k.hasSlot f = true ∧ k.hasSlot (f + 1) = true) →
        exec (.agate (f.setWidth 20 <<< 15)) s = .next (if bit g.hi.val 56 then stopped c s t (plainExc 11 4)
        else endsThere c s (t.modCtx c fun k =>
          let k1 := if f = 0 then k else (k.setSlot f k.ddc.hi).setSlot (f + 1) k.ddc.lo
          { k1.setA ⟨k.pc + 4, Tag.cptr⟩ with
            pcc := capSign t ⟨p.hi, ⟨p.lo.val &&& 0xFC3FFFFFFFFFFFFF, p.lo.tag⟩⟩, ddc := g
            pc := (fld p.hi.val 0 54 ++ 0#2).signExtend 64 })))

/-! ## I/O instructions -/

/-- The I/O access of form (m, d) is in order: form and base register (R131), address bits [63:32], the windows and PCC (R396). -/
def IoOk (c : CtxId) (m : BitVec 3) (d : BitVec 22) (t : State) : Prop :=
  FormOk c .io m d t ∧ fld (eaOf c m d t) 32 32 = 0 ∧ ioAllowed t (t.getCtx c) (fld (eaOf c m d t) 0 32) = true

/-- IN, OUT, CLAIM and COMPLETE at a port of this core complete at once (R107, R152): IN takes the port's word into A, OUT gives A
to the port; CLAIM takes the next index of the counter, or the end marker when none is left, and COMPLETE counts an index that the
counter has given in this epoch, and rejects any other (R430, R431). Mode 2 adds D to Y.
An I/O instruction to another address makes one request on the mesh and waits for its response; nothing else changes, but that the steps
before it are accounted (R126, R423, R452). -/
def Obligations.IoInstructions : Prop :=
  (∀ (c : CtxId) (s t u : State) (m : BitVec 3) (d : BitVec 22), Begins c s t → IoOk c m d t →
      let ea := eaOf c m d t
      let k := t.getCtx c
      let port := fldN ea 0 19
      bit ea 31 = false → fld ea 19 12 = t.chain.caddr →
      (∀ w, localRead c port t = .ok w u → exec (.ioIn m d) s = .next (ends c s (u.modCtx c fun k => incY m d (k.setA w)))) ∧
      (k.getA.tag ≠ Tag.poison → localWrite c port k.getA t = .ok () u →
        exec (.ioOut m d) s = .next (ends c s (u.modCtx c (incY m d)))) ∧
      (∀ w : BitVec 3, port = 0x400 + 16 * w.toNat →
        let q := vget t.coop.work w.toNat WorkCtr.reset
        let word := fun (stop : Bool) (i : W32) => (⟨(i.setWidth 64 : W64) ||| q.epoch.setWidth 64 <<< 32 |||
          t.chain.caddr.setWidth 64 <<< 48 ||| w.setWidth 64 <<< 60 ||| (BitVec.ofBool stop).setWidth 64 <<< 63, Tag.epoch⟩ : TWord)
        let put := fun (q : WorkCtr) => { t with coop := { t.coop with work := vset t.coop.work w.toNat q } }
        exec (.claim m d) s = .next (ends c s (
          if q.limit.toNat ≤ q.next.toNat then (countCtx 6 3 1 c none t).modCtx c fun k => incY m d (k.setA (word true q.limit))
          else (countCtx 6 2 1 c none (put { q with next := q.next + 1 })).modCtx c fun k =>
            incY m d (k.setA (word false q.next)))) ∧
        (k.getA.tag = Tag.epoch →
          let a := k.getA.val
          let good := bit a 63 = false ∧ fld a 60 3 = w ∧ fld a 48 12 = t.chain.caddr ∧ fld a 32 16 = q.epoch ∧
            fldN a 0 32 < q.next.toNat
          exec (.complete m d) s = .next (ends c s ((put (if good then { q with done := q.done + 1 }
            else { q with rej := if q.rej = BitVec.allOnes _ then q.rej else q.rej + 1 })).modCtx c (incY m d)))))) ∧
  (∀ row ∈ [(Instr.ioIn, IoOpc.read, fun (_ : Tag) => True), (Instr.ioOut, IoOpc.write, fun t => t ≠ Tag.poison),
        (Instr.claim, IoOpc.claim, fun _ => True), (Instr.complete, IoOpc.complete, fun t => t = Tag.epoch)],
      ∀ (c : CtxId) (s t : State) (m : BitVec 3) (d : BitVec 22), Begins c s t → IoOk c m d t →
      let a : W32 := fld (eaOf c m d t) 0 32
      let k := t.getCtx c
      let x := ioTxid t
      row.2.2 k.getA.tag → isLocal t a = false → tollAllowsIo t a = true → laneFull t 2 = false →
      ∃ p w, exec (row.1 m d) s = .next (accountChange s ((countCtx 2 7 1 c none (bumpTxid x (sendIoReq a row.2.1 (issuerOf t c) x
          (if row.2.1 = .write ∨ row.2.1 = .complete then k.getA else ⟨0, Tag.int⟩) t))).modCtx c fun k =>
            { k with io := some w, skipPair := p })) ∧
        w.addr = a ∧ w.opc = row.2.1 ∧ w.txid = x ∧ w.since = t.time.tick ∧ w.next = k.pc + 4 ∧
        w.inc = (if m = 2 then d.signExtend 64 else 0) ∧
        w.dest = (if row.2.1 = .read ∨ row.2.1 = .claim then Dest.a else Dest.none))

/-- Writes of local ports by supervisor code complete (R60, R319, R332, R338, R444): CCTL takes its enable bits once no store of a
context is outstanding; MBOUT its word while OUT_FULL is 0, and MBOUT3 sets OUT_FULL; GO of an idle Mover or Causeway channel whose
parameters are in order captures who asked and starts it from the beginning; CONT goes on from MPROG. -/
def Obligations.LocalPortWrites : Prop :=
  ∀ (c : CtxId) (s t : State) (v : W64) (g : Tag), Begins c s t → let k := t.getCtx c
    k.getA = ⟨v, g⟩ → (s.getCtx c).getA = ⟨v, g⟩ → g ≠ Tag.poison → bit k.st 11 = true →
    (∀ a : W32, isLocal t a = true → ioAllowed t k a = true) →
    (t.tile.busy = false → (∀ r ∈ t.mesh.reqs, r.op = .poke ∨ r.op = .devWr → r.who.ctx? = none) →
      exec .cctlWrite s = .next (ends c s { t with caches := { t.caches with
        cctl := (t.caches.cctl &&& 0x38) ||| (v.setWidth 6 &&& 7) } })) ∧
    (t.chain.sealedOnly = false → t.chain.outFull = false →
      ∀ n : BitVec 2, exec (.mboutWrite n) s = .next (ends c s { t with chain := { t.chain with
        mbout := vset t.chain.mbout n.toNat (v.setWidth 32), outFull := n == 3 } })) ∧
    (bit v 31 = true → bit v 30 = false → ∀ ch : BitVec 3,
      let m := { moverCh t ch with
        ctl := v.setWidth 7, ctx := c, cap := some (ctxRegime t c), mark := k.sys.markr, rows := 0, blk := 0, state := 1, cause := 0 }
      (moverCh t ch).state ≠ 1 → moverCheck t m = none →
      exec (.moverGo ch) s = .next (ends c s { t with mover := vset t.mover ch.toNat m })) ∧
    (bit v 31 = false → bit v 30 = true → ∀ ch : BitVec 3,
      let m := { moverCh t ch with ctl := v.setWidth 7, state := 1, cause := 0 }
      (moverCh t ch).state = 3 → moverCheck t m = none →
      exec (.moverCont ch) s = .next (ends c s { t with mover := vset t.mover ch.toNat m })) ∧
    (bit v 31 = true → ∀ ch : BitVec 4,
      let q := { cwCh t ch with
        sk := bit v 0, ctx := c, cap := some (ctxRegime t c), mark := k.sys.markr, state := 1, cause := 0, sent := 0, lost := false
        zeros := false, checked := false }
      (cwCh t ch).state ≠ 1 → cwParamsOk t ch q = true →
      exec (.causewayGo ch) s = .next (ends c s { t with cw := { t.cw with ch := vset t.cw.ch ch.toNat q } }))

/-! ## Contexts, frames, posts and records -/

/-- WAIT, YIELD, CWAKE, CSTOP and CSTART complete (R404, R410, R412 to R414). WAIT with an event of its mask clears those events and gives
them in A; without one the context waits, its steps accounted (R452), unless an interrupt is takeable in it, and the Drover will switch if
another context is READY (R404). YIELD switches if another context ranks first; CWAKE sets event 7 of another context; CSTOP stops a context
that is not the last one; CSTART starts a stopped context from the eight words at X and gives 1, and gives 0 for a context that is not
stopped. The ranking that includes the running context, the YIELD within its own step and the wake by an interrupt are log 35's; which level
events CSTART leaves set is log 62's. -/
def Obligations.ContextInstructions : Prop :=
  ∀ (c : CtxId) (s t : State), Begins c s t → let k := t.getCtx c
    let left := fun (u : State) => { u with drover := { u.drover with leaving := (topRanked u).map fun _ => c } }
    (∀ m : BitVec 8, m ≠ 0 →
      let u := settle t
      let got := (u.getCtx c).ev.evpend &&& m
      (got ≠ 0 → exec (.wait (m.setWidth 21)) s = .next (ends c s (settle ((waitMilestone c got u).modCtx c fun k =>
        ({ k with ev := { k.ev with evpend := k.ev.evpend &&& ~~~got } }).setA ⟨got.setWidth 64, Tag.int⟩)))) ∧
      (got = 0 →
        let w := u.modCtx c fun k => { k with
          run := .waiting
          ev := { k.ev with waitMask := m, waitSince := some u.time.tick, waitDur := none, waitPc := k.pc } }
        let x := if (bestVector u c).isSome then w.modCtx c fun k =>
          { k with run := .ready, ev := { k.ev with waitMask := 0, waitDur := some 0 } } else w
        ∃ p, exec (.wait (m.setWidth 21)) s = .next (accountChange s ((left x).modCtx c fun k => { k with skipPair := p })))) ∧
    (let u := t.modCtx c fun k => { k with pc := k.pc + 4 }
     exec (.yield 0) s = .next (endsThere c s (match topRanked u with
       | some d => if d ≠ c then switchTo d u else u
       | none => u))) ∧
    (bit k.st 11 = true → ∀ d : CtxId, exec (.cwake (d.setWidth 21 <<< 19)) s = .next (ends c s (
      if d = c then t
      else setEvent d 7 (t.modCtx d fun k => { k with ev := { k.ev with swakeFrom := c } })))) ∧
    (stage2Owner t k = true → ∀ d : CtxId,
      ((∃ e, e ≠ d ∧ (t.getCtx e).run ≠ .stopped) →
        let x := t.modCtx d fun k =>
          { k with run := .stopped, ev := { k.ev with waitMask := 0, waitSince := none, waitDur := none, fence := none } }
        exec (.cstop (d.setWidth 21 <<< 19)) s = .next (ends c s (if d = c then left x else x))) ∧
      (k.getA.tag = Tag.cptr → k.getX.tag = Tag.dptr → k.getA.val.toNat % 4 = 0 → k.getX.val.toNat % 64 = 0 →
        needCanonical c k.getX.val .read t = .ok () t → needDdc c .read k.getX.val 64 false t = .ok () t →
        ∀ w0 w1 w2 w3 w4 w5 w6 w7 : TWord, ∀ u, frameRead c k.getX.val 8 t = .ok [w0, w1, w2, w3, w4, w5, w6, w7] u →
        (∀ w ∈ [w0, w1, w2, w3, w4], w.tag = Tag.dptr) → w5.tag = Tag.cptr →
        w6.tag = (if capsConf t then Tag.raw else Tag.cptr) → isPlain w7.tag = true →
        ((u.getCtx d).run ≠ .stopped →
          exec (.cstart (d.setWidth 21 <<< 19)) s = .next (ends c s (u.modCtx c fun k => k.setA ⟨0, Tag.int⟩))) ∧
        ((u.getCtx d).run = .stopped → d ≠ c → ∃ v, exec (.cstart (d.setWidth 21 <<< 19)) s = .next (ends c s v) ∧
          let n := v.getCtx d
          (∀ e, e ≠ c → e ≠ d → v.getCtx e = u.getCtx e) ∧ v.getCtx c = (u.getCtx c).setA ⟨1, Tag.int⟩ ∧
          (∀ w ∈ [n.a, n.x, n.y, n.mh, n.ml, n.mq, n.mr], w = TWord.poison) ∧ n.pc = k.getA.val ∧ n.run = .ready ∧
          n.st = 0x800#32 ||| (d.setWidth 32 <<< 24) ||| (if bit k.st 12 then 0x1000 else 0) ||| ((fld w7.val 8 3).setWidth 32 <<< 8) ∧
          n.banks.get (if bit k.st 12 then 3 else 1) = ⟨w0.val, w1.val &&& ~~~7, w2.val &&& ~~~7⟩ ∧
          n.sys.esp = w3.val &&& 0x000FFFFFFFFFFFF0 ∧ n.sys.esplo = w4.val &&& 0x000FFFFFFFFFFFF0 ∧
          n.sys.vbar = (fld w5.val 0 56).signExtend 64 &&& ~~~0x7FF ∧
          n.sys.svbar = (if capsConf t then 0 else (fld w6.val 0 56).signExtend 64 &&& ~~~0x7FF) ∧
          (n.sys.tcr, n.sys.ttb1, n.sys.ttb2) = (k.sys.tcr, k.sys.ttb1, k.sys.ttb2) ∧ n.win = Windows.reset ∧
          (capsConf u = true → (n.pcc, n.ddc, n.hpcc, n.hddc) = (k.pcc, k.ddc, k.hpcc, k.hddc)) ∧
          n.ev = { Events.reset with evpend := (if u.time.tick = BitVec.allOnes 64 then 0x08 else 0) |||
            (if u.tile.tileq = [] ∧ (u.tile.tpPowered = true ∨ u.tile.tpOn = false) then 0x40 else 0) })))

/-- FSPILL and FFILL complete (R418): the oldest window's 32 slots go, with their tags, to the 256 bytes below FSPTR, and RES falls by one
and FSD rises by one; FFILL takes them back into the window below the oldest, where no storage error is left. Nothing else changes. (A slot
with a storage error that waits is left to `meetSlot`, log 49.) -/
def Obligations.SpillAndFill : Prop :=
  ∀ (c : CtxId) (s t : State), Begins c s t → let k := t.getCtx c; bit k.st 11 = true → capsConf t = false →
    (let w := (k.win.cur.toNat + 15 - k.win.res.toNat) % 7
     let a := k.win.fsptr - 256
     k.slotErrs = [] → 2 ≤ k.win.res.toNat → bit k.win.link w = false → needCanonical c a .write t = .ok () t →
     ∀ ps u ws v x, translateWords (.ctx c) (ctxRegime t c) .write a 32 t = .ok (.ok ps) u → prepWords c ps u = .ok ws v →
      ws.all (pathOk v) = true → commitWords (some c) c ws ((List.range 32).map fun i => k.winSlot w i) v = .ok () x →
      exec (.fspill 0) s = .next (ends c s (x.modCtx c fun k =>
        { k with win := { k.win with fsptr := a, res := k.win.res - 1, fsd := k.win.fsd + 1 } }))) ∧
    (let a := k.win.fsptr
     k.win.res.toNat ≤ 6 → k.win.fsd ≠ 0 → needCanonical c a .read t = .ok () t → k.win.cur.toNat < 7 →
     SMap.wf k.win.slots = true →
     ∀ ps u ws x, translateWords (.ctx c) (ctxRegime t c) .read a 32 t = .ok (.ok ps) u → frameRead c a 32 u = .ok ws x →
      x.getCtx c = k → ∃ n, exec (.ffill 0) s = .next (ends c s (x.setCtx c n)) ∧
        n = { k with win := n.win, slotErrs := k.slotErrs.filter fun e => e.1 / 32 != (k.win.cur.toNat + 14 - k.win.res.toNat) % 7 } ∧
        n.win = { k.win with slots := n.win.slots, fsptr := a + 256, res := k.win.res + 1, fsd := k.win.fsd - 1 } ∧
        (∀ i : Fin 32, n.winSlot ((k.win.cur.toNat + 14 - k.win.res.toNat) % 7) i.val = ws.getD i.val TWord.poison) ∧
        (∀ w (i : Fin 32), w ≠ (k.win.cur.toNat + 14 - k.win.res.toNat) % 7 → n.winSlot w i.val = k.winSlot w i.val))

/-- POST, MARK, TREC, XSNAP and FREEZE complete (R435 to R438, R463, R473, R476, R480). POST of n words sends the header of R438
and the words in flits of eight as one packet on lane 3, once the lane has room (R16); it is performed, and counted, when the last flit has
gone (R448); MARK writes MARKR and records its old value; TREC
records A and X; XSNAP and FREEZE set off their triggers. -/
def Obligations.PostAndRecords : Prop :=
  ∀ (c : CtxId) (s t : State), Begins c s t → let k := t.getCtx c
    (let a := k.getA.val
     let x := k.getX.val
     let n := fldN x 40 10 + 1
     k.getA.tag = Tag.dptr → isPlain k.getX.tag = true → fldN x 20 20 + 8 * n ≤ 0xC0000 → fldN x 20 20 % 8 = 0 → a.toNat % 8 = 0 →
     needIo c ((fld x 0 12).setWidth 64 <<< 19 ||| 0x40000) true 7 t = .ok () t → needCanonical c a .read t = .ok () t →
     needDdc c .read a (8 * n) false t = .ok () t →
     ∀ ps u ws v, translateWords (.ctx c) (ctxRegime t c) .read a n t = .ok (.ok ps) u → loadWords c a n u = .ok ws v →
      laneFull v 3 = false →
      let header : W64 := (fld x 20 20).setWidth 64 ||| (fld x 0 12).setWidth 64 <<< 20 ||| (fld x 12 4).setWidth 64 <<< 32 |||
        v.chain.caddr.setWidth 64 <<< 36 ||| (fld x 40 10).setWidth 64 <<< 48 ||| (BitVec.ofBool (bit x 16)).setWidth 64 <<< 58 |||
        (BitVec.ofBool (sealBit v k)).setWidth 64 <<< 59
      exec (.post 0) s = .next (ends c s (sendPacket (packet 7 (header.setWidth 512) (postLines ws))
        { v with mesh := { v.mesh with posts := v.mesh.posts ++ [⟨c, n, bit k.st 11, bit k.st 12⟩] } }))) ∧
    (isPlain k.getA.tag = true → exec (.mark 0) s = .next (ends c s (traceCtx 1 c (k.sys.markr.setWidth 64) k.pc
      (t.modCtx c fun k => { k with sys := { k.sys with markr := k.getA.val.setWidth 32 } })))) ∧
    (bit k.st 11 = true ∨ bit t.perf.pmctl 2 = true → k.getA.tag ≠ Tag.poison → k.getX.tag ≠ Tag.poison →
      exec (.trec 0) s = .next (ends c s (traceCtx 5 c k.getA.val k.getX.val t))) ∧
    (bit k.st 11 = true →
      exec (.xsnap 0) s = .next (ends c s (if bit t.trace.xrcfg 0 then snapTrigger 2 t else t)) ∧
      exec (.freeze 0) s = .next (ends c s (freezeTrigger 16 t)))

/-! ## The tile unit -/

/-- The instructions that clear and copy tile state complete (R197, R198, R239, R242, R249), where no storage error waits and no Mover
channel uses a register: TZERO.T and TZERO.A make registers and slots unused, which then read as zero; TCLR.A writes zero to the stream's
part of a slot; TKILL loses all of it and clears PROG; TSDW and TSDR move a descriptor; TSYNC completes when the queue is empty and every
store of the tile path is acknowledged.
TMOVA completes (R239): with DIR = 0 each of the descriptor's rows of the register takes the elements of half a row of the
slot, with scale 0; with DIR = 1 the half row takes the register's elements, and every other element of a slot that was in use
stays. In Q-split TZERO.A raises vector 14 (R231). That a register written by a non-MX instruction takes scale 0 is log 55's (R184). -/
def Obligations.TileClearAndMove : Prop :=
  (∀ (c : CtxId) (s t : State) (q : BitVec 2) (v : Stream), TilePlain t → let x := t.tile
      (TileReady false c s t → SMap.wf x.trow = true → SMap.wf x.fold = true →
        (bit x.tcfg 0 = false → q = 0) → v = (if bit x.tcfg 0 then some q else none) →
        (∀ m : BitVec 8, let w : W32 := 0x66#7 ++ (q ++ (0#2 ++ m.setWidth 21))
          ∃ y, exec (.tzeroT q (m.setWidth 21)) s = .next (tileDone (idleJob c w q) c s { t with tile := y }) ∧
          y.tuse = x.tuse &&& ~~~m ∧ (∀ n r, n < 8 → r < 32 → y.row n r = if bit m n then TRow.zero else x.row n r) ∧
          (y.fold, y.fuse, y.acx, y.sd, y.tflags, y.rmax, y.prog) = (x.fold, x.fuse, x.acx, x.sd, x.tflags, x.rmax, x.prog)) ∧
        (∀ (i : BitVec 5) (tw : Bool), needFold i tw t = .ok () t → (tw = true → enabled t 4 = true) →
          let r : BitVec 21 := i.setWidth 21 <<< 16 ||| (BitVec.ofBool tw).setWidth 21 <<< 15
          let hit := fun (k : Nat) => k = i.toNat ∨ tw = true ∧ k = i.toNat + 16
          (v ≠ none → exec (.tzeroA q r) s = .next (stopped c s t (plainExc 14 0))) ∧
          (v = none → let w : W32 := 0x66#7 ++ (q ++ (1#2 ++ r))
            ∃ y, exec (.tzeroA q r) s = .next (tileDone (idleJob c w q) c s { t with tile := y }) ∧
            (∀ k m n, k < 32 → m < 32 → n < 32 → (hit k → y.foldAt k m n = 0 ∧ bit y.fuse k = false) ∧
              (¬ hit k → y.foldAt k m n = x.foldAt k m n ∧ bit y.fuse k = bit x.fuse k)) ∧
            (y.trow, y.tuse, y.sd, y.tflags, y.rmax, y.prog) = (x.trow, x.tuse, x.sd, x.tflags, x.rmax, x.prog)) ∧
          (let w : W32 := 0x66#7 ++ (q ++ (2#2 ++ r))
            ∃ y, exec (.tclrA q r) s = .next (tileDone (idleJob c w q) c s { t with tile := y }) ∧
            (∀ k m n, k < 32 → m < v.side → n < v.side → hit k → y.acc v k m n = 0 ∧ y.exponent k (v.part m n) = 0 ∧ bit y.fuse k = true) ∧
            (∀ k m n, k < 32 → m < 32 → n < 32 → ¬ hit k → y.foldAt k m n = x.foldAt k m n) ∧
            (y.trow, y.tuse, y.sd, y.tflags, y.rmax, y.prog) = (x.trow, x.tuse, x.sd, x.tflags, x.rmax, x.prog)))) ∧
      (TileReady true c s t → exec (.tkill 0 0) s =
        .next (tileDone (idleJob c (0x66#7 ++ (0#2 ++ (3#2 ++ 0#21))) 0) c s { t with tile := { x with
          trow := [], tuse := 0, fold := [], fuse := 0, acx := Vector.replicate 32 0, latch := []
          prog := x.prog.map fun p => p &&& 0xFFFFFFFFFFFFFEFF } })) ∧
      (TileReady false c s t → ∀ n : BitVec 2, let r : BitVec 21 := n.setWidth 21 <<< 19
        ((t.getCtx c).getA.tag = Tag.shape → exec (.tsdw 0 r) s = .next (tileDone none c s { t with tile := { x with
          sd := x.sd.set n ((t.getCtx c).getA.val &&& 0x0007FFFFFFFFFFFF) } })) ∧
        exec (.tsdr 0 r) s = .next (tileDone none c s (t.modCtx c fun k => k.setA ⟨x.sd.get n, Tag.shape⟩)) ∧
        (x.tileq = [] → (∀ r ∈ t.mesh.reqs, r.op = .poke → r.who.ctx? = none) →
          exec (.tsync 0 0) s = .next (tileDone none c s t)))) ∧
  (∀ (c : CtxId) (s t : State) (f : BitVec 25) (v : Stream), TileReady false c s t → TilePlain t →
      let q := fld f 23 2
      let d : Shape := ⟨t.tile.sd.get (fld f 13 2)⟩
      let twin := bit f 10
      let tr := fldN f 15 3
      let slot := fldN f 18 5 + if bit f 9 then 16 else 0
      let col := if bit f 11 then v.side / 2 else 0
      fld f 0 9 = 0 → (bit f 9 = true → twin = true) → TileForm t q d v → (d.fmt = fFP32 ∨ d.fmt = fINT32) → d.scm = 0 →
      d.count ≤ v.side / 2 → needFold (fld f 18 5) twin t = .ok () t →
      (twin = true → enabled t 4 = true) → SMap.wf t.tile.trow = true → SMap.wf t.tile.fold = true →
      ∃ y, exec (.tmova f) s = .next (tileDone (idleJob c (0x63#7 ++ f) q) c s { t with tile := y }) ∧
        (bit f 12 = false →
          (∀ r < d.rows, (y.lrow v false tr r).scale = 0 ∧
            (y.lrow v false tr r).bits = packElems 32 ((List.range d.count).map fun i => (t.tile.acc v slot r (col + i)).toNat)) ∧
          (∀ n r, n ≠ tr → n < 8 → r < 32 → y.row n r = t.tile.row n r) ∧ (y.fold, y.fuse, y.acx) = (t.tile.fold, t.tile.fuse, t.tile.acx)) ∧
        (bit f 12 = true →
          (∀ r < d.rows, ∀ i < d.count, y.acc v slot r (col + i) = BitVec.ofNat 32 ((t.tile.lrow v false tr r).bits / 2 ^ (32 * i))) ∧
          (∀ k m n, k < 32 → m < 32 → n < 32 → (¬ ∃ r i, r < d.rows ∧ i < d.count ∧ k = slot ∧ m = v.row0 + r ∧ n = v.col0 + (col + i)) →
            y.foldAt k m n = t.tile.foldAt k m n) ∧
          (y.trow, y.tuse) = (t.tile.trow, t.tile.tuse)))

/-- TLD, TST, TLDAC, TSTAC and TEPI complete (R201, R219, R230, R232, R241, R247, R306): from the row where the instruction starts, the rows
of the descriptor one after the other, each with the checks of its footprint, at BASE + STRIDE × row, until it stands in the queue with no
row left. An error that waits where a row reads is found with the row: `meetLrow`, `meetFold` and `meetReg` (log 49). The order of the
rows and of their checks is log 50's. -/
def Obligations.TileMemoryInstructions : Prop :=
  ∀ (c : CtxId) (s t u : State) (f : BitVec 25) (v : Stream) (ecc : Option EccEvent) (p0 r0 : Nat),
    let q := fld f 23 2
    let do1 := fun (d : Shape) (one : Nat → M Unit) => p0 = 0 ∧ r0 < d.rows ∧ RowsDo c (fun _ r => one r) (rowsLeft 1 d.rows 0 r0) t u
    (let d : Shape := ⟨t.tile.sd.get (fld f 18 2)⟩
     let base := ((t.getCtx c).baseReg (fld f 16 2)).val
     let mx6 := fmtMx6 d.fmt
     let tn := fldN f 20 3
     TileForm t q d v → BaseOk c t (fld f 16 2) 16 → (mx6 = true → bit f 20 = false) → fld f 0 15 = 0 →
      (TileReady true c (strike c ecc s) t → issuing s = some c → TileStarts c (0x60#7 ++ f) q t p0 r0 →
        do1 d (fun r => do
          let row ← rowCheck c [⟨d.rowAt base r, d.rowBytes, false⟩]
          let x ← readPart c (bit f 15) row 0
          modTile fun y => y.setLrow v mx6 tn r (d.split x)) →
        exec (.tld f ecc) s =
          .next (rowsDone (rowJob c (0x60#7 ++ f) v d base 0 1) c (0x60#7 ++ f) q (strike c ecc s) t u)) ∧
      (TileReady true c s t → bit f 15 = false → TileStarts c (0x61#7 ++ f) q t p0 r0 →
        do1 d (fun r => do
          let row ← rowCheck c [⟨d.rowAt base r, d.rowBytes, true⟩]
          let y := meetLrow v mx6 tn r (← get)
          let ps ← prepPart c row 0 (d.join ((veiled y).lrow v mx6 tn r))
          modify (meetLrow v mx6 tn r)
          let _ ← readTile
          commitFoot c ps) →
        exec (.tst f) s = .next (rowsDone (rowJob c (0x61#7 ++ f) v d base 0 1) c (0x61#7 ++ f) q s t u))) ∧
    (let d : Shape := ⟨t.tile.sd.get (fld f 16 2)⟩
     let base := ((t.getCtx c).baseReg (fld f 14 2)).val
     let twin := bit f 13
     let nc := fldN f 6 5 + 1
     let ac := fldN f 18 5
     let bytes := (if twin then 8 else 4) * nc
     let meet := fun (r : Nat) (y : State) => if twin then meetFold v (ac + 16) r (meetFold v ac r y) else meetFold v ac r y
     TileReady true c s t → TileForm t q d v → BaseOk c t (fld f 14 2) 16 → fld f 0 6 = 0 → needFold (fld f 18 5) twin t = .ok () t →
     (twin = true → enabled t 4 = true) →
     (d.fmt = fFP32 ∨ d.fmt = fINT32 ∧ twin = false) → d.scm = 0 → nc ≤ v.side →
      (TileStarts c (0x64#7 ++ f) q t p0 r0 →
        do1 d (fun r => do
          let row ← rowCheck c [⟨d.rowAt base r, bytes, false⟩]
          let x ← readPart c (bit f 11) row 0
          if bit f 12 then modify (meet r)
          let fz := bit (← get).tile.tcfg 1
          modTile fun y => ldacRow d v fz twin (bit f 12) ac r (elems 32 nc x) (elems 32 nc (x / 2 ^ (32 * nc))) y) →
        exec (.tldac f) s = .next (rowsDone (rowJob c (0x64#7 ++ f) v d base 0 1) c (0x64#7 ++ f) q s t u)) ∧
      (fld f 11 2 = 0 → TileStarts c (0x65#7 ++ f) q t p0 r0 →
        do1 d (fun r => do
          let row ← rowCheck c [⟨d.rowAt base r, bytes, true⟩]
          let y := (meet r (← get)).tile
          let part := fun (i : Nat) => (List.range nc).map fun n => (y.acc v i r n).toNat
          let ps ← prepPart c row 0 (packElems 32 (if twin then part ac ++ part (ac + 16) else part ac))
          modify (meet r)
          commitFoot c ps) →
        exec (.tstac f) s = .next (rowsDone (rowJob c (0x65#7 ++ f) v d base 0 1) c (0x65#7 ++ f) q s t u))) ∧
    (let d : Shape := ⟨t.tile.sd.get (fld f 15 2)⟩
     let twin := bit f 17
     let opr := fldN f 11 2
     let g : EpiArgs := ⟨v, d, fldN f 18 5, twin, opr, bit f 10, fldN f 7 3, bit f 6, fldN f 1 5 + 1⟩
     let k := t.getCtx c
     let base := (k.baseReg (fld f 13 2)).val
     TileReady true c s t → TileForm t q d v → fmtEnabled t d.ocv = true → BaseOk c t (fld f 13 2) 16 → opr ≠ 3 →
     (opr ≠ 0 → BaseOk c t 2 16) → (bit f 10 = false → fld f 7 3 = 0) → bit f 0 = false → needFold (fld f 18 5) twin t = .ok () t →
     (twin = true → enabled t 4 = true) →
     (d.fmt = fFP32 ∨ d.fmt = fINT32 ∧ twin = false) → d.scm = 0 → g.nc * fmtBits d.ocv % 8 = 0 → g.nc ≤ v.side →
     (v.isSome = true → fmtMx6 d.ocv = false) → TileStarts c (0x6B#7 ++ f) q t p0 r0 →
     do1 d (fun m => do
        let out : Foot := ⟨d.rowAt base m, g.outBytes, true⟩
        let inp : Foot := ⟨d.rowAt k.getY.val m, (g.nc * fmtBits g.opFmt + 7) / 8, false⟩
        let row ← rowCheck c (if opr = 0 then [out] else [inp, out])
        let ops ← if opr = 0 then pure 0 else readPart c true row 0
        let x := meetEpi g m (← get)
        let (b, mx, fl) := epiRow g (bit x.tile.tcfg 3) m ops (veiled x)
        let ps ← prepPart c row (if opr = 0 then 0 else 1) b
        modify (meetEpi g m)
        let _ ← readTile
        modify fun y => { y with tile := if g.gm then (y.tile.orFlags 5 fl).raiseMax (maxEntry v m) mx else y.tile.orFlags 5 fl }
        commitFoot c ps) →
     exec (.tepi f) s = .next (rowsDone (rowJob c (0x6B#7 ++ f) v d base k.getY.val 1) c (0x6B#7 ++ f) q s t u))

/-- TSAVE and TRESTORE complete (R208 to R211): TSAVE stores the image of the tile state, block by block, and clears the valid bits
of PROG; TRESTORE, when FORMAT is 1, loads the tile state that the image at its base holds. From the check of FORMAT until then the tile
state is one of free values (`brokenTile`, log 1). -/
def Obligations.TileSaveRestore : Prop :=
  ∀ (c : CtxId) (s t u w : State) (br : BitVec 2), TileReady true c s t → BaseOk c t br 64 →
    let base := ((t.getCtx c).baseReg br).val
    let r : BitVec 22 := br.setWidth 22 <<< 20
    let foot := fun (i : Nat) (write : Bool) => (⟨base + BitVec.ofNat 64 (64 * i), 64, write⟩ : Foot)
    let job := fun (x : W32) (n : Nat) => (some ⟨⟨c, x, 0, false, 0, base, 0, false, false⟩, 0, n, []⟩ : Option TileJob)
    (let n := imageLen t.tile.tuse t.tile.fuse
     RowsDo c (fun _ i => do
        let row ← rowCheck c [foot i true]
        let x ← get
        let ps ← prepPart c row 0 ((imageBlocks (veiled (meetBlock i x))).getD i 0)
        modify (meetBlock i)
        let _ ← readTile
        commitFoot c ps) (rowsLeft 1 n 0 0) t u → moverRegs u = 0 →
      exec (.tsave 0 r) s = .next (tileDone (job (0x6C#7 ++ (0#2 ++ (0#1 ++ r))) n) c s { u with tile := { u.tile with
        prog := u.tile.prog.map fun p => p &&& 0xFFFFFFFFFFFFFEFF } })) ∧
    (∀ (x : Nat) (y : State), (do readPart c true (← rowCheck c [foot 0 false]) 0 : M Nat) t = .ok x y →
      fld (blockWord x 0) 0 8 = 1 →
      let z := { y with tile := { brokenTile y y.free with image := [x] }, free := y.free + brokenSize }
      let n := imageLen (fld (blockWord x 0) 8 8) (fld (blockWord x 0) 16 32)
      RowsDo c (fun _ i => do
        let row ← rowCheck c [foot i false]
        let b ← readPart c true row 0
        modify fun s => { s with tile := { s.tile with image := s.tile.image ++ [b] } }) (rowsLeft 1 n 0 1) z w →
      exec (.trestore 0 r) s = .next (tileDone (job (0x6C#7 ++ (0#2 ++ (1#1 ++ r))) n) c s
        { w with tile := restoreTile w w.tile.image }))

/-- An image gives back what was saved (R208, R211): every register row, every element and exponent of a slot in use, the use bits,
the descriptors, the sticky flags and PROG; TCFG, with Q-split only where ENABLE0 has it (R195); NTW, zero without the feature and at
most 16 (R189); and RMAX as magnitudes, a NaN as the canonical one (R193). -/
def Obligations.TileImageRoundTrip : Prop :=
  ∀ s : State, let x := s.tile; let y := restoreTile s (imageBlocks x)
    x.veil = 0 →
    y.tuse = x.tuse ∧ y.fuse = x.fuse ∧ (∀ n r, n < 8 → r < 32 → y.row n r = x.row n r) ∧
    (∀ i m n, i < 32 → m < 32 → n < 32 → y.foldAt i m n = x.foldAt i m n) ∧
    (∀ i p, i < 32 → p < 4 → y.exponent i p = x.exponent i p) ∧
    (∀ i, y.sd.get i = x.sd.get i &&& 0x0007FFFFFFFFFFFF) ∧ y.tflags = x.tflags &&& 0x3F3F3F3F3F3F ∧
    (∀ i, y.prog.get i = x.prog.get i &&& 0xFFFFFFFFFFFF07FF) ∧
    y.tcfg = (if enabled s 3 then x.tcfg else x.tcfg &&& 0xE) ∧
    y.ntw = (if enabled s 4 then (if 16 < x.ntw.toNat then 16 else x.ntw) else 0) ∧
    (∀ i, i < 32 → let m := vget x.rmax i 0 &&& 0x7FFFFFFF
      vget y.rmax i 0 = if 0x7F800000 < m.toNat then 0x7FC00000 else m)

/-- The row engine's instructions complete (R243 to R246, R297), where no storage error waits and no Mover channel uses a register: row
after row, TROW, TCVT and TFN write their results to TD; TRED takes every row of TA as it was and writes its results one column of TD each.
TFN applies the function to each element. What an element becomes, where the engine does not flush: the exact sum, product or a + b × d
rounded once; the larger or smaller one, -0 below +0; all ones where a comparison holds; an integer saturated or wrapped (R243, R264, R266).
A conversion rounds the value once, to an integer or to a float (R265 to R267), and an MX block takes the scale of its largest element and
the nearest elements under it (R268). A sum and a sum of squares are rounded once (R298), a maximum is one of the elements (R299), and a
mean and its M2 are exact before their rounding (R300). That the old element and the old result are flushed and raise NV as a source does is
logs 76 and 77; TFN is log 60's. -/
def Obligations.TileRowEngine : Prop :=
  (∀ (c : CtxId) (s t : State) (f : BitVec 25) (v : Stream), TileReady false c s t → TilePlain t → SMap.wf t.tile.trow = true →
    let q := fld f 23 2
    let x := t.tile
    let fz := bit x.tcfg 2
    let done := fun (y : Tile) (op : BitVec 7) => tileDone (idleJob c (op ++ f) q) c s { t with tile := y }
    let td := fldN f 20 3
    let ta := fldN f 17 3
    (let d : Shape := ⟨x.sd.get (fld f 12 2)⟩
     let fn := fldN f 8 4
     let unary := fn = 8 ∨ fn = 9 ∨ fn = 10
     TileForm t q d v → fld f 0 6 = 0 → fn ≤ 11 → (unary → fld f 14 3 = 0 ∧ bit f 7 = false) →
     (fmtFp d.fmt = true ∨ d.fmt = fINT8 ∨ d.fmt = fINT32) → d.scm = 0 →
     exec (.trow f) s = .next (done ((List.range d.rows).foldl (fun y r => rowStep d v fn (bit f 6) fz td ta (fldN f 14 3)
      (if bit f 7 then some (x.lrow v false (fldN f 14 3) 0) else none) r y) x) 0x67)) ∧
    (let d : Shape := ⟨x.sd.get (fld f 15 2)⟩
     TileForm t q d v → fld f 0 11 = 0 →
      (fmtEnabled t d.ocv = true → bit f 14 = false → d.count ≤ fmtElems v.isSome d.ocv →
        (v.isSome = true → fmtMx6 d.ocv = false) → (fmtMx6 d.ocv = true → bit f 20 = false) → (fmtMx6 d.fmt = true → bit f 17 = false) →
        exec (.tcvt f) s = .next (done ((List.range d.rows).foldl (fun y r =>
          cvtStep d v (bit f 13) (bit f 12) (bit f 11) fz td ta r y) x) 0x68)) ∧
      (fldN f 11 4 ≤ 10 → fmtFp d.fmt = true → d.fmt ≠ fF19 → d.scm = 0 → ∃ y, exec (.tfn f) s = .next (done y 0x69) ∧
        (∀ r < d.rows, (y.lrow v false td r).bits = packElems d.width
          ((elems d.width d.count (x.lrow v false ta r).bits).map fun e => (fnElem (fldN f 11 4) d.fmt fz e).1)) ∧
        (∀ n r, n ≠ td → n < 8 → r < 32 → y.row n r = x.row n r) ∧ (y.fold, y.fuse, y.acx, y.sd) = (x.fold, x.fuse, x.acx, x.sd)) ∧
      (fldN f 12 3 ≤ 4 → (fmtFp d.fmt = true ∨ (d.fmt = fINT8 ∨ d.fmt = fINT32) ∧ fldN f 12 3 ≠ 1 ∧ fldN f 12 3 ≠ 2) → d.scm = 0 →
        let rs := (List.range d.rows).map fun r => redRow d v (fldN f 12 3) (bit f 11) fz td ta r x
        exec (.tred f) s = .next (done (((List.range (if fldN f 12 3 = 2 then 3 else 1)).foldl (fun y i =>
          redWrite v td i (bit f 11) 0 (rs.map fun e => e.1.getD i 0) y) x).orFlags 4 (rs.foldl (fun a e => a ||| e.2) 0)) 0x6A)))) ∧
  (∀ (d : Shape) (v : Stream) (fn td ta tb r : Nat) (sat fz : Bool) (x : Tile), d.ok v.isSome = true → fmtMx6 d.fmt = false → td < 8 →
    SMap.wf x.trow = true → x.veil = 0 → r < d.rows → let y := rowStep d v fn sat fz td ta tb none r x
    ∀ i < d.count, let e := fun (n : Nat) => (x.lrow v false n r).bits / 2 ^ (d.width * i) % 2 ^ d.width
      (y.lrow v false td r).bits / 2 ^ (d.width * i) % 2 ^ d.width =
        (if fmtInt d.fmt then rowInt fn d.width sat (e ta) (e tb) (e td) else rowFloat fn d.fmt fz (e ta) (e tb) (e td)).1 % 2 ^ d.width) ∧
  (∀ (f : BitVec 4) (ab bb db : Nat) (a b d : Bool × Nat × Int), fmtFp f = true →
    FiniteOf [elemVal f ab, elemVal f bb, elemVal f db] [a, b, d] →
    let g := fmtFloat f
    let y := fun (fn : Nat) => (rowFloat fn f false ab bb db).1
    let q := min a.2.2 b.2.2
    SumRounds g [a, b] (y 0) ∧ SumRounds g [a, negOf b] (y 1) ∧ SumRounds g [timesOf a b] (y 2) ∧ SumRounds g [d, timesOf a b] (y 11) ∧
    (∃ z ∈ [a, b], SumRounds g [z] (y 3) ∧ ¬ BeforeOf z a ∧ ¬ BeforeOf z b) ∧
    (∃ z ∈ [a, b], SumRounds g [z] (y 4) ∧ ¬ BeforeOf a z ∧ ¬ BeforeOf b z) ∧
    y 5 = (if inUnits q a = inUnits q b then 2 ^ fmtBits f - 1 else 0) ∧ y 6 = (if inUnits q a < inUnits q b then 2 ^ fmtBits f - 1 else 0) ∧
    y 7 = (if inUnits q a ≤ inUnits q b then 2 ^ fmtBits f - 1 else 0) ∧
    SumRounds g [(false, a.2)] (y 8) ∧ SumRounds g [negOf a] (y 9) ∧ SumRounds g [a] (y 10)) ∧
  (∀ (f : BitVec 4) (fn ab bb db : Nat), fmtFp f = true → (elemVal f ab).isNan = true →
    (rowFloat fn f false ab bb db).1 = if fn = 5 ∨ fn = 6 ∨ fn = 7 then 0 else canonNan f) ∧
  (∀ (w fn ab bb db : Nat) (sat : Bool), 2 ≤ w → fn ≤ 11 → fn ∉ [5, 6, 7] →
    let a := intOf w ab
    let b := intOf w bb
    let i : Int := [a + b, a - b, a * b, max a b, min a b, 0, 0, 0, (a.natAbs : Int), -a, a, intOf w db + a * b].getD fn 0
    (rowInt fn w sat ab bb db).1 = integerOf w sat i ∧ ((rowInt fn w sat ab bb db).2 = tOV ↔ Overflows w i)) ∧
  (∀ (f : BitVec 4) (zero sat : Bool) (x : Bool × Nat × Int), let v := FpVal.fin x.1 x.2.1 x.2.2
    (fmtFp f = true → zero = false → SumRounds (fmtFloat f) [x] (roundElem f zero false v).1) ∧
    (fmtFp f = true → zero = true → ∃ mag, TowardZero (fmtFloat f) x.2.1 x.2.2 mag ∧
      (roundElem f zero false v).1 = (fmtFloat f).signed x.1 mag) ∧
    (fmtInt f = true → let q := min x.2.2 0
      let one : Int := 2 ^ (0 - q).toNat
      let y := inUnits q x
      ∃ i : Int, (toIntElem f zero sat v).1 = integerOf (fmtBits f) sat i ∧
        (zero = false → 2 * (i * one - y).natAbs ≤ one.natAbs ∧ (2 * (i * one - y).natAbs = one.natAbs → i % 2 = 0)) ∧
        (zero = true → i.natAbs * one.natAbs ≤ y.natAbs ∧ y.natAbs < (i.natAbs + 1) * one.natAbs ∧ 0 ≤ i * y) ∧
        ((toIntElem f zero sat v).2 = (if i < -(2 ^ (fmtBits f - 1)) ∨ 2 ^ (fmtBits f - 1) ≤ i then tOV else if i * one = y then 0 else tNX)))) ∧
  (∀ (f : BitVec 4) (xs : List (Bool × Nat × Int)) (k : Int), fmtMx f = true →
    (∀ x ∈ xs, x.2.1 ≠ 0 → x.2.2 + bitLen x.2.1 - 1 ≤ k) → (∃ x ∈ xs, x.2.1 ≠ 0 ∧ x.2.2 + bitLen x.2.1 - 1 = k) →
    let e := max (-127) (min 127 (k - mxEmax f))
    let b := mxBlock f false (xs.map fun x => .fin x.1 x.2.1 x.2.2)
    b.1 = (e + 127).toNat ∧ ∀ i, ∀ _ : i < xs.length, ∃ mag,
      b.2.1.getD i 0 = (fmtFloat f).signed xs[i].1 mag ∧ NearestUpTo (fmtFloat f) (mxMax f) xs[i].2.1 1 (xs[i].2.2 - e) mag) ∧
  (∀ (d : Shape) (v : Stream) (acc : Bool) (td ta r : Nat) (x : Tile) (xs : List (Bool × Nat × Int)) (o : Bool × Nat × Int),
    fmtFp d.fmt = true → d.scm = 0 →
    FiniteOf ((elems d.width d.count (x.lrow v false ta r).bits).map (elemVal d.fmt)) xs → FiniteOf [elemVal fFP32 (redOld v td 0 r x)] [o] →
    let y := fun (fn i : Nat) => (redRow d v fn acc false td ta r x).1.getD i 0
    let old := if acc then [o] else []
    SumRounds fp32 (old ++ xs) (y 0 0) ∧ SumRounds fp32 (old ++ xs.map fun z => timesOf z z) (y 1 0) ∧
    (∃ z ∈ old ++ xs, SumRounds fp32 [z] (y 3 0) ∧ ∀ w ∈ old ++ xs, ¬ BeforeOf z w) ∧
    (∃ z ∈ old ++ xs, SumRounds fp32 [z] (y 4 0) ∧ ∀ w ∈ old ++ xs, ¬ BeforeOf w z) ∧
    (acc = false → y 2 2 = d.count ∧ ∀ q : Int, (∀ z ∈ xs, q ≤ z.2.2) →
      let t := sumUnits q xs
      (t ≠ 0 → ∃ mag, y 2 0 = fp32.signed (decide (t < 0)) mag ∧ Nearest fp32 t.natAbs d.count q mag) ∧
      Nearest fp32 ((xs.map fun z => (d.count * inUnits q z - t) * (d.count * inUnits q z - t)).sum).natAbs (d.count * d.count) (2 * q) (y 2 1)))

/-- TMMA completes (R201, R233 to R238): from the row where it starts, every row of the A operand, from TA or from data space, in one pass
or, for FP32, in three; then the latch banks keep the B operand as LK says. A row of a floating-point format accumulates as the spec has it,
where the array does not flush: the products of a group of finite factors are cut to the scale of the largest one, three bits below it, each
towards zero, and added exactly (R274, R282); a group with a NaN or an infinity has the result of R275; and each group result in turn enters
its element with one rounding (R283, R284), or its pair with one rounding for each part (R286). No other element, exponent, register row,
descriptor or RMAX entry changes; of the flags only those of the stream's array byte may be set: NV where a group made a NaN, and in single
use, where all is finite, NX, UF and OV for a rounding that is inexact, tiny or too large, and no other (R266, R283). Which of two kept
banks counts as kept earlier is log 75's; that whole groups missing at the end of a row enter as +0 is log 55's, that the events are counted
for no master outside Q-split log 58's, and the age of the fills log 80's. -/
def Obligations.TileMultiply : Prop :=
  (∀ (c : CtxId) (s t u : State) (f : BitVec 25) (v : Stream) (p0 r0 : Nat), TileReady true c s t →
    let q := fld f 23 2
    let w : W32 := 0x62#7 ++ f
    let d : Shape := ⟨t.tile.sd.get (fld f 10 2)⟩
    let twin := bit f 4
    let ma := bit f 2
    let n := fldN f 5 5 + 1
    let g : MmaArgs := ⟨v, d, fldN f 18 5, fldN f 12 3, n, twin⟩
    let base := ((t.getCtx c).baseReg (fld f 0 2)).val
    let passes := if d.fmt = fFP32 then 3 else 1
    let cause := some ((t.getCtx c).sup, (t.getCtx c).world)
    let rows := rowsLeft passes d.rows p0 r0
    TileForm t q d v → (d.fmt = fFP32 → twin = true ∧ enabled t 5 = true) → d.fmt ≠ fINT32 → (twin = true → fmtInt d.fmt = false) →
    n ≤ v.side → (fmtMx6 d.fmt = true → bit f 12 = false ∧ bit f 15 = false) → needFold (fld f 18 5) twin t = .ok () t →
    (twin = true → enabled t 4 = true) →
    (if ma then BaseOk c t (fld f 0 2) 16 ∧ fld f 15 3 = 0 else fld f 0 2 = 0) → TileStarts c w q t p0 r0 → p0 < passes → r0 ≤ d.rows →
    (ma = true → RowsDo c (fun p m => do
        let row ← rowCheck c [⟨d.rowAt base m, d.rowBytes, false⟩]
        let x ← readPart c true row 0
        mmaRow g cause p m (d.split x)) rows t u) →
    (ma = false → (do for e in rows do
        modify (meetLrow v (fmtMx6 d.fmt) (fldN f 15 3) e.2)
        mmaRow g cause e.1 e.2 ((← readTile).lrow v (fmtMx6 d.fmt) (fldN f 15 3) e.2) : M Unit) t = .ok () u) →
    let z := u.tile.serveLatch v (fld f 12 3) d.fmt (fld d.bits 5 7) (bit f 3)
    exec (.tmma f) s = .next (rowsDone (if ma then rowJob c w v d base 0 passes else idleJob c w q) c w q s t
      (countArray (if z.2 then 7 else 6) 1 v cause { u with tile := z.1 }))) ∧
  (∀ (g : MmaArgs) (cause : Option (Bool × Bool)) (pass m : Nat) (a : LRow) (t : State), fmtInt g.d.fmt = false → g.d.ok g.v.isSome = true →
    g.ac + (if g.twin then 16 else 0) < 32 → m < g.v.side → g.n ≤ g.v.side → SMap.wf t.tile.fold = true → TilePlain t →
    (∀ l, g.bank t.tile = some l → l.zeros = []) → bit t.tile.tcfg 1 = false →
    let groups := fun (n : Nat) =>
      let b := t.tile.lrow g.v (fmtMx6 g.d.fmt) g.tb n
      let ps := List.zipWith FpVal.mul (factors false g.d.fmt g.d.count (pass != 2) a).1 (factors false g.d.fmt g.d.count (pass != 1) b).1
      let k := groupSize g.v.isSome g.d.fmt
      (List.range (groupCount g.v.isSome g.d.fmt)).map fun i =>
        groupSum (((ps.drop (k * i)).take k) ++ List.replicate (k - ((ps.drop (k * i)).take k).length) (.fin false 0 0))
    let old := fun (n : Nat) => t.tile.acc g.v g.ac m n
    ∃ u, mmaRow g cause pass m a t = .ok () u ∧
      (∀ n < g.n, ∀ xs : List (Bool × Nat × Int), FiniteOf (groups n) xs →
        (g.twin = false → ∀ y : W32, Promoted xs (old n) y → u.tile.acc g.v g.ac m n = y) ∧
        (g.twin = true → ∀ h l : W32, TwinPromotedAll xs (old n) (t.tile.acc g.v (g.ac + 16) m n) h l →
          (u.tile.acc g.v g.ac m n, u.tile.acc g.v (g.ac + 16) m n) = (h, l))) ∧
      (∃ fl : TFlags, u.tile.tflags = t.tile.tflags ||| fl.setWidth 64 <<< (8 * g.v.no) ∧
        ((∃ n < g.n, FpVal.nan true ∈ groups n) → fl.getLsbD 3 = true) ∧
        (∀ xs : Nat → List (Bool × Nat × Int), g.twin = false →
          (∀ n < g.n, FiniteOf (groups n) (xs n) ∧ ∃ y, Promoted (xs n) (old n) y) →
          let step := fun (p : W32 → Prop) => ∃ n < g.n, InexactStep p (xs n) (old n)
          (fl.getLsbD 0 = true ↔ step fun y => ∃ b, elemVal fFP32 y.toNat = .inf b) ∧
          (fl.getLsbD 1 = true ↔ step fun y => y.toNat % 2 ^ 31 < 2 ^ 23) ∧ (fl.getLsbD 2 = true ↔ step fun _ => True) ∧
          (∀ i, 3 ≤ i → fl.getLsbD i = false))) ∧
      (∀ k p, k < 32 → p < 4 → u.tile.exponent k p = t.tile.exponent k p) ∧
      (∀ k i j, k < 32 → i < 32 → j < 32 →
        ¬ ((k = g.ac ∨ g.twin = true ∧ k = g.ac + 16) ∧ i = g.v.row0 + m ∧ g.v.col0 ≤ j ∧ j < g.v.col0 + g.n) →
        u.tile.foldAt k i j = t.tile.foldAt k i j) ∧
      (u.tile.trow, u.tile.tuse, u.tile.sd, u.tile.rmax) = (t.tile.trow, t.tile.tuse, t.tile.sd, t.tile.rmax)) ∧
  (∀ (ps : List FpVal) (xs : List (Bool × Nat × Int)) (top : Int), FiniteOf ps xs → (∀ x ∈ xs, x.2.1 ≠ 0 → x.2.2 ≤ top) →
    (∃ x ∈ xs, x.2.1 ≠ 0 ∧ x.2.2 = top) →
    let cut := fun (x : Bool × Nat × Int) => (if x.1 then -1 else 1 : Int) *
      (if top - 3 ≤ x.2.2 then (x.2.1 * 2 ^ (x.2.2 - (top - 3)).toNat : Nat) else (x.2.1 / 2 ^ (top - 3 - x.2.2).toNat : Nat))
    let t := (xs.map cut).sum
    groupSum ps = .fin (decide (t < 0)) t.natAbs (top - 3)) ∧
  (∀ ps : List FpVal,
    (∀ xs, FiniteOf ps xs → (∀ x ∈ xs, x.2.1 = 0) → groupSum ps = .fin (xs.all fun x => x.1) 0 0) ∧
    (.nan false ∈ ps → (groupSum ps).isNan = true) ∧
    (.nan true ∈ ps → .nan false ∉ ps → groupSum ps = .nan true) ∧
    (.inf true ∈ ps → .inf false ∈ ps → (∀ p ∈ ps, p.isNan = false) → groupSum ps = .nan true) ∧
    (∀ n, .inf n ∈ ps → .inf (!n) ∉ ps → (∀ p ∈ ps, p.isNan = false) → groupSum ps = .inf n))

/-- One row of an integer multiply without retries (R289, R290), where no storage error waits and no Mover channel uses a register: every
element of the row becomes the old one plus the exact sum of the products, each shifted right by the part's exponent, saturated or wrapped
to 32 bits as OVP says; OV is set if one was out of range, and no exponent, no other element, flag, register row or descriptor changes.
A step with a column out of range is retried under OVP = 2 (R291) while retries are left and no exponent would pass 255: the stream's part
of the slot is shifted right by k, its exponents rise by k, SR is set, and the step is replayed; else it is written as under OVP = 0. -/
def Obligations.TileMultiplyInteger : Prop :=
  (∀ (g : MmaArgs) (cause : Option (Bool × Bool)) (pass m : Nat) (a : LRow) (t : State), fmtInt g.d.fmt = true → g.d.ovp ≠ 2 → g.ac < 32 →
    m < g.v.side → g.n ≤ g.v.side → SMap.wf t.tile.fold = true → TilePlain t → (∀ l, g.bank t.tile = some l → l.zeros = []) →
    let ints := fun (x : LRow) => (elems g.d.width g.d.count x.bits).map (intOf g.d.width)
    let total := fun (n : Nat) => (t.tile.acc g.v g.ac m n).toInt + ((List.zipWith (fun (x y : Int) => (x * y) >>>
      (t.tile.exponent g.ac (g.v.part m n))) (ints a) (ints (t.tile.lrow g.v (fmtMx6 g.d.fmt) g.tb n))).sum : Int)
    ∃ u, mmaRow g cause pass m a t = .ok () u ∧
      (∀ n < g.n, let x := total n
        u.tile.acc g.v g.ac m n = if -(2 ^ 31) ≤ x ∧ x < 2 ^ 31 ∨ g.d.ovp = 1 then BitVec.ofInt 32 x
          else if x < 0 then 0x80000000 else 0x7FFFFFFF) ∧
      ((∃ n < g.n, total n < -(2 ^ 31) ∨ 2 ^ 31 ≤ total n) → u.tile.tflags = t.tile.tflags ||| 1#64 <<< (8 * g.v.no)) ∧
      ((∀ n < g.n, -(2 ^ 31) ≤ total n ∧ total n < 2 ^ 31) → u.tile.tflags = t.tile.tflags) ∧
      (∀ k p, k < 32 → p < 4 → u.tile.exponent k p = t.tile.exponent k p) ∧
      (∀ k i j, k < 32 → i < 32 → j < 32 → ¬ (k = g.ac ∧ i = g.v.row0 + m ∧ g.v.col0 ≤ j ∧ j < g.v.col0 + g.n) →
        u.tile.foldAt k i j = t.tile.foldAt k i j) ∧
      (u.tile.trow, u.tile.tuse, u.tile.sd, u.tile.rmax) = (t.tile.trow, t.tile.tuse, t.tile.sd, t.tile.rmax)) ∧
  (∀ (v : Stream) (i m k left : Nat) (a : List Int) (b : List (List Int)) (t : Tile), i < 32 → m < v.side → b.length ≤ v.side →
    SMap.wf t.fold = true → 1 ≤ k → k ≤ 8 →
    let out := ∃ n < b.length, let x := (t.acc v i m n).toInt + stepTotal (t.exponent i (v.part m n)) a (b.getD n [])
      x < -(2 ^ 31) ∨ 2 ^ 31 ≤ x
    let mine := fun (p : Nat) => match v with | none => p < 4 | some q => p = q.toNat
    (out → (∀ p, mine p → t.exponent i p + k ≤ 255) → ∃ u : Tile,
      intStep v i m 2 k a b (left + 1) t = ((intStep v i m 2 k a b left u).1, (intStep v i m 2 k a b left u).2 + 1) ∧
      (∀ x y, x < v.side → y < v.side → u.acc v i x y = (t.acc v i x y).sshiftRight k) ∧
      (∀ p, mine p → u.exponent i p = t.exponent i p + k) ∧ u.tflags = t.tflags ||| 0x20#64 <<< (8 * v.no) ∧
      (∀ j x y, j < 32 → x < 32 → y < 32 → ¬ (j = i ∧ v.row0 ≤ x ∧ x < v.row0 + v.side ∧ v.col0 ≤ y ∧ y < v.col0 + v.side) →
        u.foldAt j x y = t.foldAt j x y) ∧
      (∀ j p, j < 32 → p < 4 → ¬ (j = i ∧ mine p) → u.exponent j p = t.exponent j p) ∧ (u.trow, u.tuse) = (t.trow, t.tuse)) ∧
    ((¬ out ∨ ∃ p, mine p ∧ 255 < t.exponent i p + k) → intStep v i m 2 k a b (left + 1) t = intStep v i m 0 k a b 0 t) ∧
    intStep v i m 2 k a b 0 t = intStep v i m 0 k a b 0 t)

/-! ## Rhaha words and the coprocessor -/

/-- A Rhaha word completes (R163 to R165), where no storage error waits in the frame slots (log 49): both sources are read before either
move takes effect; move 0, then move 1, then the checks of the control trigger; the accesses follow, the I/O accesses in their order before
those of data space where one of them goes onto the mesh (log 69), and the control trigger comes last. A word that only moves to X or to
frame slots puts both values there and goes on at PC + 4. That the moves are both checked before the control trigger, and when SKIP's
condition is read, are log 36's. -/
def Obligations.RhahaWord : Prop :=
  ∀ (c : CtxId) (s t : State) (w : W32), BeginsRhaha c s t → let k := t.getCtx c; k.slotErrs = [] → k.rest = none →
    let d0 : BitVec 8 := fld w 16 8
    let d1 : BitVec 8 := fld w 0 8
    ∀ v0 v1, rhSource k (fld w 24 8) = some v0 → rhSource k (fld w 8 8) = some v1 →
    (rhDestOk k d0 = true → rhDestOk k d1 = true → ¬ (rhControl d0 = true ∧ rhControl d1 = true) →
      ∀ k0 k1 more a t1 t2 t3 t4 t5,
      rhMove c false d0 v0 ⟨[], .none, false⟩ t = .ok k0 t1 → rhMove c true d1 v1 k0 t1 = .ok k1 t2 →
      rhPrepare c k1 t2 = .ok (more, a) t3 →
      let all := k1.acts ++ more
      let acts := if (all.any fun x => match x with | .io q => !isLocal t3 q.addr | _ => false) = true then
          (all.filter fun x => match x with | .io _ => true | _ => false) ++ all.filter fun x => match x with | .io _ => false | _ => true
        else all
      rhRun c ⟨acts, false, k1.ctl, a, rhUndo d0 d1 k, false, []⟩ acts t3 = .ok true t4 →
      rhEffect c k1.ctl a (t4.modCtx c fun k => { k with rest := none }) = .ok true t5 →
      exec (.rhahaWord w) s = .next (endsThere c s t5)) ∧
    (∀ put : BitVec 8 → TWord → Ctx → Ctx,
      (∀ p x q, put p x q = if p.toNat < 0x20 then q.setSlot (fld p 0 5) x else q.setX x) →
      (∀ d ∈ [d0, d1], d = 0x20 ∨ d.toNat < 0x20 ∧ k.hasSlot (fld d 0 5) = true) →
      exec (.rhahaWord w) s = .next (ends c s (t.modCtx c fun q => put d1 v1 (put d0 v0 q))))

/-- The coprocessor port (R36 to R39, R169 to R175): CP_INSN puts the word and its two operands with a free tag behind the issues that wait,
the first of which is offered, and the context waits; a result without error for the context that waits is written to the destination with
the tag that R170 allows, and the instruction retires at PC + 4; a result with an error raises vector 18 with its code, unless an interrupt
is takeable before the instruction (R370); a result that no instruction awaits is a machine check, and while CP_RST_N is low it is dropped;
CP_RST_N rises only after the core has left reset. That a result tells that its issue was taken is log 71's. Where the wait begins or the
instruction is discarded, the steps up to then are accounted (log 16). -/
def Obligations.Coprocessor : Prop :=
  (∀ (c : CtxId) (s t : State) (w : BitVec 27) (tag : BitVec 3), Begins c s t → let k := t.getCtx c
    let third := fld w 21 2
    let operand := fun (code : BitVec 2) (x : TWord) => if code = 0 then (⟨0, Tag.raw⟩ : TWord) else if code = 1 then k.getA
      else if code = 2 then k.getX else x
    let a := operand (fld w 23 2) k.getY
    let b := operand third (k.slot (fld w 14 5))
    k.slotErrs = [] → t.pins.cpPresent = true → enabled t 1 = true → t.pins.cpRstN = true →
    (if third = 3 then k.hasSlot (fld w 14 5) = true else fld w 14 5 = 0) →
    (∀ x ∈ [a, b], x.tag ≠ Tag.poison ∧ isReserved x.tag = false) → cpFreeTag t = some tag →
    let i : CpIssue := ⟨0xF8000000 ||| w.setWidth 32, a, b, tag, c, BitVec.ofBool (bit k.st 12) ++ BitVec.ofBool (bit k.st 11)⟩
    ∃ p, exec (.cpInsn w) s = .next (accountChange s ({ t with cp :=
        { out := t.cp.out ++ [(⟨tag, c, false, bit w 13, t.time.tick⟩ : CpOut)]
          issueQ := t.cp.issueQ ++ [i]
          lastIssue := match t.cp.issueQ with | [] => i | j :: _ => j
          stallFrom := if t.cp.out.isEmpty then t.time.tick else t.cp.stallFrom } }.modCtx c fun k =>
        { k with cp := some ⟨tag, cpDest (fld w 19 2), bit w 13⟩, skipPair := p }))) ∧
  (∀ (s : State) (tag : BitVec 3) (res : TWord) (code : BitVec 8), s.pins.cpRstN = true →
    (∀ o w, s.cp.out.find? (fun o => o.tag == tag) = some o → (s.getCtx o.ctx).cp = some w → w.tag = tag → o.squashed = false →
      (s.getCtx o.ctx).run = .running →
      let t := (cpAnswered tag s).modCtx o.ctx fun k => { k with cp := none }
      exec (.cpResult tag res false code) s = .next (countCtx 0 11 1 o.ctx none (retire o.ctx s (t.modCtx o.ctx fun k =>
        let q := k.setDest w.dest (if res.tag ∈ [Tag.raw, Tag.int, Tag.flt, Tag.dptr, Tag.cptr, Tag.ioptr, Tag.shape, Tag.poison]
          then res else ⟨res.val, Tag.poison⟩)
        { q with pc := q.pc + 4, skipPair := false }))) ∧
      (NoInterruptFirst o.ctx s → ∀ u, takeSync o.ctx (plainExc 18 code) t = .ok () u →
        exec (.cpResult tag res true code) s = .next (dropFills o.ctx (accountChange s u))) ∧
      (¬ NoInterruptFirst o.ctx s → exec (.cpResult tag res true code) s = .next (dropFills o.ctx (accountChange s t)))) ∧
    ((∀ o ∈ s.cp.out, o.tag ≠ tag) → ∀ bad, exec (.cpResult tag res bad code) s = .next (machineCheck 3 0 0 s))) ∧
  (∀ (s : State) (tag : BitVec 3) (res : TWord) (bad : Bool) (code : BitVec 8), s.pins.cpRstN = false →
    exec (.cpResult tag res bad code) s = .next s) ∧
  (∀ (s : State), (∀ k, s.boot.phase ≠ .drain k ∧ s.boot.phase ≠ .afterDrain k) → s.boot.phase ≠ .coldReset →
    s.boot.phase ≠ .heldByWrst → s.pins.cpPresent = true →
    exec .cpResetRelease s = .next { s with pins := { s.pins with cpRstN := true } })

/-! ## Resets and the start -/

/-- The resets and the way to Start (R56, R57, R65 to R67, R80, R88 to R92, R95, R381). COLD_RESET gives every field and every output signal
its reset value, with RCAUSE 1 and nothing locked, but for the pins that are driven from outside, WRST_N among them, and the scratchpad,
which is unknown anew; WARM_RESET and its drain keep the scratchpad, the chain's configuration, the keys and TICK, and every context has its
PC at the reset vector. The core passes through Init to Held, and on with GO. Key generation takes sixteen accepted words, neither zero nor
all ones nor the word before, and starts the core with the keys that they make; it fails after 65,536 ticks without an answer, or at the
seventeenth rejected word (R89). What the reset values of the registers are that the spec gives none is log 4; how the words make a key is
log 40; that the two words of an alarm in the Keys state are discarded is R497. When a reset takes effect is log 42's, and that an alarm in
the Keys state is applied at its end is log 31's. The pins that keep what was last driven, and the frame shown as MC_DO, are log 78's. -/
def Obligations.ResetSequence : Prop :=
  ∀ s : State,
    let vector : W64 := s.chain.rvechi.setWidth 64 <<< 32 ||| s.chain.rveclo.setWidth 64
    (∃ t, exec .coldReset s = .next t ∧ t.boot = { Boot.reset with wrstLow := s.boot.wrstLow } ∧ t.ctx = State.reset.ctx ∧ t.spad = [] ∧
      t.caches = State.reset.caches ∧ t.mesh = State.reset.mesh ∧ t.tile = State.reset.tile ∧ t.intr = State.reset.intr ∧
      t.keys = State.reset.keys ∧ t.rel = State.reset.rel ∧ t.toll = State.reset.toll ∧ t.perf = State.reset.perf ∧
      t.trace = State.reset.trace ∧ t.time = State.reset.time ∧ t.chain = State.reset.chain ∧ t.mover = State.reset.mover ∧
      t.cw = State.reset.cw ∧ t.coop = State.reset.coop ∧ t.cp = State.reset.cp ∧ t.pace = State.reset.pace ∧
      t.drover = State.reset.drover ∧ t.tlbs = State.reset.tlbs ∧ t.pamb = State.reset.pamb ∧ t.paml = State.reset.paml ∧
      (t.boot.rcause, t.boot.go, t.boot.keyfail, t.boot.locked, t.boot.lame, t.boot.lameWb) = (1, false, false, false, false, false) ∧
      t.pins.hfence = s.pins.hfence ∧ t.pins.paceHw = s.pins.paceHw ∧ outputs t = OutPins.reset) ∧
    (s.boot.phase = .coldReset → ∃ t, exec .coldResetRelease s = .next t ∧
      t.boot.phase = (if s.boot.wrstLow then .heldByWrst else .init) ∧ t.ctx = s.ctx ∧ t.spad = s.spad) ∧
    (s.boot.phase ≠ .coldReset → s.boot.phase ≠ .heldByWrst → (∀ k, s.boot.phase ≠ .drain k ∧ s.boot.phase ≠ .afterDrain k) →
      ∃ t, exec .warmReset s = .next t ∧ t.boot.phase = .drain .warm ∧ t.boot.wrstLow = true ∧
      t.boot.rcause = (if s.boot.lame then 0xA else 0x2) ∧ t.boot.go = false ∧ t.boot.lame = false ∧
      (∀ c, (t.getCtx c).pc = vector ∧ (t.getCtx c).st = 0x00000F00 ||| c.setWidth 32 <<< 24 ||| (if twoWorlds s then 0x1000 else 0) ∧
        (t.getCtx c).run = (if c = 0 then .running else .stopped) ∧ (t.getCtx c).getA = TWord.poison) ∧
      t.spad = s.spad ∧ t.time.tick = s.time.tick ∧ t.chain.caddr = s.chain.caddr ∧ t.chain.enable0 = s.chain.enable0 ∧
      t.keys.worldKey = (if s.keys.alm = false ∧ bit s.keys.almcfg 20 = true ∧ s.keys.deferred ≠ 0 then 0 else s.keys.worldKey) ∧
      t.tlbs.leaves = [] ∧ t.tlbs.walks = [] ∧ t.caches.l1i = [] ∧ t.caches.cctl = 0 ∧ t.tile = State.reset.tile ∧
      t.pamb = Vector.replicate 16 0 ∧ t.pins.cpRstN = false ∧ t.intr.evec = 0) ∧
    (s.boot.phase = .heldByWrst ∨ s.boot.phase = .afterDrain .warm → ∃ t, exec .warmResetRelease s = .next t ∧
      t.boot.phase = .init ∧ t.boot.wrstLow = false ∧ t.ctx = s.ctx ∧ t.spad = s.spad) ∧
    (∀ k, s.boot.phase = .drain k → s.caches.l1d = [] → s.caches.l2 = [] → s.caches.ebuf = [] → (∀ l, s.mesh.egress.get l = []) →
      s.mesh.offered = none → s.cw.fifo = [] → (∀ q ∈ s.cw.ch.toList, q.state ≠ 1) → ∃ t, exec .drainEnd s = .next t ∧
      t.spad = s.spad ∧ ((outputs t).mtxValid, (outputs t).mtxFlit, (outputs t).mtxSb) = (false, 0, 0) ∧
      ((outputs t).cwtxCh, (outputs t).cwtxRid, (outputs t).cwtxData, (outputs t).cwtxSeal) = (0, 0, 0, false) ∧
      t.boot.phase = (match k with
        | .core => if 32 ≤ (s.time.tick - s.boot.rstTick).toNat then .held else .afterDrain .core
        | _ => if s.boot.wrstLow then .afterDrain .warm else .init)) ∧
    (s.boot.phase = .afterDrain .core → 32 ≤ (s.time.tick - s.boot.rstTick).toNat → ∃ t, exec .coreResetEnd s = .next t ∧
      t.boot = { s.boot with phase := .held } ∧ t.ctx = s.ctx ∧ t.spad = s.spad) ∧
    (s.boot.phase = .init → exec .initEnd s = .next (
      let t := { s with boot := { s.boot with phase := .held } }
      if s.boot.go then goStart t else t)) ∧
    (s.boot.phase = .keys → s.keys.gen.txid.isSome = true → 65536 ≤ (s.time.tick - s.keys.gen.since).toNat →
      ∃ t, exec .keygenTimeout s = .next t ∧ t.boot = { s.boot with phase := .held, keyfail := true, go := false } ∧
        t.keys.wkv = (s.keys.wkv && !(s.keys.deferred != 0 && !s.keys.alm && bit s.keys.almcfg 20)) ∧
        t.rel.wsSeq = s.rel.wsSeq + (if s.keys.deferred = 0 then 1 else 2)) ∧
    (∀ r : IoResp, s.boot.phase = .keys → s.keys.gen.txid = some r.txid → r.sts = 0 →
      let w := r.data.val
      let g := s.keys.gen
      let bad := w = 0 ∨ w = BitVec.allOnes 64 ∨ g.last = some w
      let a := s.chain.entsrc
      (g.rej + (if bad then 1 else 0) < 17 → (bad ∧ g.got.length < 16 ∨ g.got.length < 15) →
        (bit a 31 = true ∨ fld a 19 12 ≠ s.chain.caddr) → tollAllowsIo s a = true →
        ∃ t, exec (.ioResponse r) s = .next t ∧ t.boot = s.boot ∧ t.ctx = s.ctx ∧ t.keys.gen.txid.isSome = true ∧
          t.keys.gen.since = s.time.tick ∧ t.keys.gen.last = some w ∧ t.keys.gen.got = (if bad then g.got else w :: g.got) ∧
          t.keys.gen.rej = g.rej + (if bad then 1 else 0)) ∧
      (bad → 16 ≤ g.rej → ∃ t, exec (.ioResponse r) s = .next t ∧
        t.boot = { s.boot with phase := .held, keyfail := true, go := false }) ∧
      (¬ bad → g.rej < 17 → g.got.length = 15 → s.keys.deferred = 0 → ∃ t, exec (.ioResponse r) s = .next t ∧
        t.boot = { s.boot with phase := .start, locked := true } ∧ t.keys.wkv = true ∧ t.keys.skv = true ∧
        (∀ i < 4, let word := fun (n : Nat) => (w :: g.got).getD (15 - n) 0
          fld t.keys.worldKey (64 * i) 64 = word (2 * i) ^^^ word (2 * i + 1) ∧
          fld t.keys.sealKey (64 * i) 64 = word (8 + 2 * i) ^^^ word (8 + 2 * i + 1)) ∧
        (∀ c, (t.getCtx c).pc = vector))) ∧
    (s.boot.lame = true → s.boot.lameWb = true → s.caches.l1d = [] → s.caches.l2 = [] → s.caches.ebuf = [] →
      exec .lameWritebackEnd s = .next { s with boot := { s.boot with lameWb := false } })

/-- The Start state (R84, R85, R87, R88, R91, R95): with valid keys, or an alarm fired, a Held core with GO locks its configuration, takes
two worlds if none was chosen, and C0, which every reset leaves RUNNING, stays so and runs from RVECHI:RVECLO as the supervisor; every
context has that PC and, in the capability configuration, root capabilities. Without keys it asks for entropy first, under a transaction
number that is log 17's. The chain's write of BOOT with GO does the same. -/
def Obligations.StartState : Prop :=
  ∀ s : State,
    (s.keys.wkv = true ∧ s.keys.skv = true ∨ s.keys.alm = true → let t := goStart s
      t.boot = { s.boot with phase := .start, locked := true } ∧
      (s.boot.locked = false → t.chain.privMode = if s.chain.privMode = 0 then 1 else s.chain.privMode) ∧
      (∀ c, let k := t.getCtx c
        k.pc = s.chain.rvechi.setWidth 64 <<< 32 ||| s.chain.rveclo.setWidth 64 ∧
        k.st = 0x00000F00 ||| c.setWidth 32 <<< 24 ||| (if t.chain.privMode = 1 then 0x1000 else 0) ∧
        (k.run = (s.getCtx c).run ∨ (s.getCtx c).run = .waiting ∧ k.run = .ready) ∧ (t.chain.privMode = 2 → k.pcc = rootCap t ∧ k.ddc = rootCap t)) ∧
      ((s.getCtx 0).run = .running → (t.getCtx 0).run = .running) ∧ t.spad = s.spad ∧ t.keys = s.keys) ∧
    (s.keys.wkv = false → s.keys.alm = false → (bit s.chain.entsrc 31 = true ∨ fld s.chain.entsrc 19 12 ≠ s.chain.caddr) →
      tollAllowsIo s s.chain.entsrc = true →
      let t := goStart s
      t.boot.phase = .keys ∧ t.keys.gen.txid = some (ioTxid { s with keys := { s.keys with gen := KeyGen.reset } }) ∧ t.ctx = s.ctx) ∧
    (∀ f : ChainFrame, s.boot.phase = .held → crcGood .write f = true → f.ahead = [] → s.chain.cvalid = true → f.addr = s.chain.caddr →
      s.chain.resp.length < 4 → f.reg = 0x0F → bit f.data 0 = true → bit f.data 4 = false →
      exec (.bootGo f false) s = .next (
        let t := driveSlot (forwardOf .write f true) s
        goStart { t with boot := { t.boot with go := true } }))

/-! ## Pins, time and the Drover -/

/-- The pins complete (R40 to R50, R55, R64, R464, R494, R502): each takes its level and has its effect; FENCE_ACK rises once no packet and
no beat that had begun is on its way; FRZ stops the counters as the steps up to now have left them; ALARM_IN, low at two sampling points and
then high at two, is one tamper event; the watchdog reports a source that has waited for STALL_LIM × 1,024 ticks. How lane 0 leaves in a
reset is log 38's; what the stall counts and the applied pace level count is log 48's. That TAMPER_EVENT stands for the line's movement is
log 3's; when a Causeway beat is offered is log 43's. -/
def Obligations.PinEvents : Prop :=
  ∀ s : State, s.boot.phase ≠ .coldReset → s.boot.phase ≠ .heldByWrst →
    let pins := fun (f : Pins → Pins) => { s with pins := f s.pins }
    let busy := s.mesh.mid.q2 || s.mesh.mid.q3 || s.mesh.offered == some 2 || s.mesh.offered == some 3 || s.cw.offered
    (let h := accountChange s (pins fun p => { p with hfence := true })
     exec .hfenceRise s = .next { h with pins := { h.pins with fenceAck := !busy } } ∧
       (h.mesh, h.cw, h.spad) = (s.mesh, s.cw, s.spad)) ∧
    exec .hfenceFall s = .next (accountChange s (pins fun p => { p with hfence := false, fenceAck := false })) ∧
    (s.pins.frz = false → ∃ t, exec .frzRise s = .next t ∧ t.pins.frz = true ∧ t.perf.frztick = s.time.tick ∧
      t.perf.pmc = (accountSteps s).perf.pmc ∧ t.perf.fc = (accountSteps s).perf.fc ∧
      ∀ c, (t.getCtx c).pc = (s.getCtx c).pc ∧ (t.getCtx c).st = (s.getCtx c).st ∧ (t.getCtx c).getA = (s.getCtx c).getA) ∧
    (s.pins.frz = true → exec .frzFall s = .next (traceRec 8 none 0 s.time.tick (pins fun p => { p with frz := false }))) ∧
    (∃ t, exec .tamperEvent s = .next t ∧ t.keys.svTm = (if s.keys.svTm = 0xF then 0xF else s.keys.svTm + 1) ∧
      t.pins.alarmIn = true) ∧
    (s.pins.refclk = true → ∃ t, exec .refclkLoss s = .next t ∧ t.pins.refclk = false ∧ t.chain.refloss = true ∧
      bit t.intr.ipend 0 = true ∧ bit t.intr.mcsyn 63 = true ∧ (bit s.intr.mcsyn 63 = false → fldN t.intr.mcsyn 0 4 = 1)) ∧
    exec .refclkReturn s = .next (pins fun p => { p with refclk := true }) ∧
    ((∀ k, s.boot.phase ≠ .drain k ∧ s.boot.phase ≠ .afterDrain k) →
      let level := fun (p : Pins) => if p.curHi then (15 : BitVec 4)
        else if s.pace.cap.toNat < p.paceHw.toNat then p.paceHw else s.pace.cap
      let put := fun (p : Pins) => { s with
        pins := p, pace := { s.pace with act := level p, lim := s.pace.lim || decide (s.pace.floor.toNat < (level p).toNat) } }
      (∀ v, exec (.paceHwChange v) s = .next (put { s.pins with paceHw := v })) ∧
      exec .curHiRise s = .next (put { s.pins with curHi := true }) ∧
      exec .curHiFall s = .next (put { s.pins with curHi := false })) ∧
    (∀ src : BitVec 2, src ≠ 3 → fldN s.chain.bcfg 0 16 ≠ 0 → fldN s.chain.bcfg 0 16 * 1024 ≤ stallCount s src →
      ∃ t, exec (.stallWatchdog src) s = .next t ∧ t.chain.stall = true ∧ t.chain.stallSrc = src ∧ bit t.intr.ipend 0 = true ∧
        bit t.intr.mcsyn 63 = true ∧ stallCount t src = 0 ∧ ∀ c, SameOrWoken (s.getCtx c) (t.getCtx c))

/-- An interrupt that the running context can take, at a boundary, enters its handler with PC as the PC to return to (R370, R376): when the
push passes its checks, the frame is stored, and SP, ST with the level's mask and the world of its vector, ECAUSE, PC, PCC, DDC and the
reserved window are the handler's, as for an exception; its bit of IPEND is cleared. Level 7 switches to the fast bank (R382). The count of
an entry may itself overflow a counter, and so raise bit 36 anew. The code of vector 35, the channel that raised it last, is log 30's. The
Drover gives the core to the top-ranked context, at once or after a quantum; no row of a tile instruction is cut short (log 50). Timers act
when their time has come, an interrupt wakes the WAITING contexts in which it is takeable, and a wait for an I/O response ends with vector
19 after 1,048,576 ticks (R153, R403 to R407). -/
def Obligations.InterruptsAndTime : Prop :=
  ∀ s : State,
    (∀ c v, interruptible s = some c → bestVector s c = some v → let k := s.getCtx c
      let world := twoWorlds s && bit (vget s.intr.vlvl (v.toNat / 8) 0) (8 * (v.toNat % 8) + 3)
      let level := levelOf s v
      let pc : W64 := (if world then k.sys.svbar else k.sys.vbar) + BitVec.ofNat 64 (32 * v.toNat)
      let code : BitVec 8 := if v = 35 then s.intr.moverVec.setWidth 8 else 0
      let b := discard c s
      let ecause := ecauseOf code v false 0 0
      (level ≠ 7 → ∀ ps u ws z x,
        pushCheck c ⟨v, code, false, world, some level, k.pc, pc, true, ⟨0, Tag.int⟩⟩ b = .ok (.ok ps) u →
        prepWords c ps u = .ok ws z → ws.all (pathOk z) = true →
        commitWords none c ws (savedFrame b (b.getCtx c) k.pc ecause ⟨0, Tag.int⟩ false) z = .ok () x →
        ∃ y, exec .interruptEntry s = .next y ∧ Handling c b world level pc ecause x y ∧
          (v ≠ 36 → bit y.intr.ipend v.toNat = false)) ∧
      (level = 7 → ∃ y, exec .fastInterruptEntry s = .next y ∧ let k' := y.getCtx c
        k'.pc = pc ∧ k'.sys.ecause = ecause ∧ k'.fast.fbpc = k.pc ∧ k'.fast.fbst = k.st ∧
        k'.fast.orig = ⟨bit k.st 11, bit k.st 12, fld k.st 8 3⟩ ∧ (k'.fast.fbpcc, k'.fast.fbddc) = (k.pcc, k.ddc) ∧
        (k'.pcc, k'.ddc) = (if s.chain.privMode = 2 then (k.hpcc, k.hddc) else (k.pcc, k.ddc)) ∧
        k'.st = (k.st &&& 0x03FB000F) ||| 0x00004F00 ||| (if world then 0x1000 else 0) ∧ (v ≠ 36 → bit y.intr.ipend v.toNat = false) ∧
        (k'.a, k'.x, k'.y, k'.banks) = (k.a, k.x, k.y, k.banks) ∧ (∀ d, d ≠ c → SameOrWoken (s.getCtx d) (y.getCtx d)))) ∧
    (droverActive s = true → ∀ c, topRanked s = some c →
      let switched := fun (o : Host.Outcome State Fault Refusal) => ∃ y, o = .next y ∧ (y.getCtx c).run = .running ∧
        y.drover.lastRan = c ∧ y.drover.ranSince = s.time.tick ∧ (y.getCtx c).pc = (s.getCtx c).pc ∧ y.spad = s.spad ∧
        ∀ d, d ≠ c → (y.getCtx d).pc = (s.getCtx d).pc ∧ (y.getCtx d).run ≠ .running ∧
          ((s.getCtx d).run = .stopped → (y.getCtx d).run = .stopped) ∧ (runningCtx s = some d → (y.getCtx d).run = .ready)
      OneRunning s →
      (runningCtx s = none → switched (exec .droverSwitch s)) ∧
      (∀ r, runningCtx s = some r → preemptible (s.getCtx r) = true → rowsDue s r = false →
        (rankOf s r < rankOf s c → switched (exec .droverSwitch s)) ∧
        (c ≠ r → rankOf s c = rankOf s r → s.drover.dquant ≠ 0 →
          s.drover.dquant.toNat * 256 ≤ (s.time.tick - s.drover.ranSince).toNat → switched (exec .droverQuantum s)))) ∧
    (s.time.timerArmed = true → s.time.ten = true → s.time.tcmp.toNat ≤ s.time.tick.toNat → ∃ t, exec .timerInterrupt s = .next t ∧
      t.time = { s.time with timerArmed := false } ∧ t.intr = { s.intr with ipend := s.intr.ipend ||| (1 <<< 32) } ∧
      (∀ c, t.getCtx c = if (s.getCtx c).run = .waiting ∧ (bestVector { s with intr := t.intr } c).isSome
        then (s.getCtx c).wokenByIrq s.time.tick else s.getCtx c) ∧
      (t.spad, t.caches, t.mesh, t.tile, t.drover) = (s.spad, s.caches, s.mesh, s.tile, s.drover)) ∧
    (∀ c, (s.getCtx c).ev.wdl.toNat ≤ s.time.tick.toNat → ∃ t, exec (.timeEvent c) s = .next t ∧
      bit (t.getCtx c).ev.evpend 3 = true ∧ (t.getCtx c).pc = (s.getCtx c).pc ∧
      (t.getCtx c).run = (if (s.getCtx c).run = .waiting ∧ bit (s.getCtx c).ev.waitMask 3 = true then .ready else (s.getCtx c).run) ∧
      (∀ d, d ≠ c → t.getCtx d = s.getCtx d) ∧ (t.spad, t.caches, t.mesh, t.intr) = (s.spad, s.caches, s.mesh, s.intr)) ∧
    (∀ c w, (s.getCtx c).io = some w → 1048576 ≤ (s.time.tick - w.since).toNat → (s.getCtx c).rest = none →
      let b := s.modCtx c fun k => { k with io := none }
      let k := s.getCtx c
      let level := levelOf s 19
      let pc : W64 := (if bit k.st 12 then k.sys.svbar else k.sys.vbar) + 608
      let ecause := ecauseOf 0 19 false 0 0
      bit k.st 26 = false → (fld k.st 8 3).toNat < level.toNat → k.win.rsv = false → ∀ ps u ws z x,
      pushCheck c ⟨19, 0, false, bit k.st 12, some level, k.pc + 4, pc, false, ⟨0, Tag.int⟩⟩ b = .ok (.ok ps) u →
      prepWords c ps u = .ok ws z → ws.all (pathOk z) = true →
      commitWords none c ws (savedFrame b (b.getCtx c) (k.pc + 4) ecause ⟨0, Tag.int⟩ false) z = .ok () x →
      ∃ y, exec (.ioTimeout c) s = .next y ∧ Handling c b (bit k.st 12) level pc ecause x y)

/-- What the observation plane and the tile unit do by themselves completes (R51, R213, R214, R216, R466 to R474, R480, R485): a dump that
is due is sampled once the steps up to then are accounted and goes out, or is counted as skipped, once in a tick; when its lines are
acknowledged it is complete, and DMHEAD moves on by one, wraps where it may, or the region is full. A trace record goes out, and when it is
acknowledged TRHEAD moves on in the same way. A snapshot is copied into two slots, and DMHEAD then moves on by two. A Wayside record leaves;
the fault window ends; a tile instruction completes; the tile's power follows TPWR. The dump behind a snapshot copy, and DMHEAD past the
dumps that complete behind it, the copy that is dropped with FULL when one slot is left, the queue of copies and the trace record in two
steps are log 47's. The egress FIFO that a copy and a trace record wait for is log 38's, when the steps are accounted is log 16's. -/
def Obligations.BackgroundEvents : Prop :=
  ∀ s : State,
    let x := s.trace
    let live := s.boot.phase ≠ .coldReset ∧ s.boot.phase ≠ .heldByWrst ∧ ∀ k, s.boot.phase ≠ .drain k ∧ s.boot.phase ≠ .afterDrain k
    let slots := 4096 * fldN x.dmsize 0 16
    let first := if x.dmhead.toNat < slots then x.dmhead.toNat else 0
    let wrap := bit x.dmsize 16
    let moved := fun (h n size : Nat) (w : Bool) => BitVec.ofNat 32 (if size ≤ h + n ∧ w = true then h + n - size else h + n)
    let filled := fun (h n size : Nat) (w : Bool) => decide (size ≤ h + n) && !w
    (live → bit x.dmpctl 0 = true → fld x.dmpctl 8 32 ≠ 0 →
      (s.time.tick + s.time.tsoff).toNat % (1024 * fldN x.dmpctl 8 32) = 0 →
      (x.dumpAt = some s.time.tick → exec .dumpDue s = .next s) ∧
      (x.dumpAt ≠ some s.time.tick → let a := account s s
        ∀ u, exec .dumpComplete { a with trace := { a.trace with dumpAt := some s.time.tick } } = .next u →
        let y := u.trace
        let units := 4096 * fldN y.dmsize 0 16
        let slot := match y.copyOut with
          | none => if y.dmhead.toNat < units then y.dmhead.toNat else 0
          | some a => (moved a.toNat (2 + y.behind) units (bit y.dmsize 16)).toNat
        (units = 0 ∨ y.dmFull = true ∨ y.dumpOut.isSome = true → exec .dumpDue s = .next { u with trace := { y with
          dmSkip := if y.dmSkip = BitVec.allOnes _ then y.dmSkip else y.dmSkip + 1 } }) ∧
        (units ≠ 0 → y.dmFull = false → y.dumpOut = none → exec .dumpDue s = .next (
          sendLines .dump (y.dmbase.toNat * 2 ^ 20 + 256 * slot) (rawLines (dumpWords u 0) 4)
            { u with trace := { y with dumpOut := some ⟨BitVec.ofNat 32 slot⟩ } })))) ∧
    (x.dumpOut = none ∨ (∃ r ∈ s.mesh.reqs, r.who = .dump) → exec .dumpComplete s = .next s) ∧
    (∀ d, x.dumpOut = some d → (∀ r ∈ s.mesh.reqs, r.who ≠ .dump) → ∃ t, exec .dumpComplete s = .next t ∧
      t.trace.dumpOut = none ∧ t.trace.dmSeq = x.dmSeq + 1 ∧
      (t.trace.dmhead, t.trace.behind) = (if x.copyOut = none then (moved d.head.toNat 1 slots wrap, x.behind)
        else (x.dmhead, x.behind + 1)) ∧
      t.trace.dmFull = (x.dmFull || filled d.head.toNat 1 slots wrap)) ∧
    (let records := 32768 * fldN x.trsize 0 16
     let h := if x.trhead.toNat < records then x.trhead.toNat else 0
     ∀ r q, x.trq = r :: q → live →
      (x.trOut = false → x.trFull = false → fld x.trsize 0 16 ≠ 0 → enabled s 8 = true → laneFull s 2 = false →
        exec .traceRecordWrite s = .next (hitWatch none ((x.trbase.toNat * 2 ^ 20 + 32 * h) / 64) <| sendWrite .poke (BitVec.ofNat 52 ((x.trbase.toNat * 2 ^ 20 + 32 * h) / 64 * 64)) .trace 0
          (traceLine h r).2 (traceLine h r).1 true { s with trace := { x with trOut := true } })) ∧
      (x.trOut = true → (∀ r ∈ s.mesh.reqs, r.who ≠ .trace) → let full := filled h 1 records (bit x.trsize 16)
        ∃ t, exec .traceRecordWrite s = .next t ∧ t.trace.trq = q ∧ t.trace.trhead = moved h 1 records (bit x.trsize 16) ∧
        t.trace.trFull = (x.trFull || full) ∧ (full = true → bit x.trctl 16 = true → bit t.intr.ipend 36 = true) ∧
        (full = true → bit s.perf.frzcfg 17 = true → bit t.perf.frzstat 17 = true) ∧ (q = [] → t.trace.trOut = false))) ∧
    (live →
      (∀ ws rest, x.copyOut = none → x.copyQ = ws :: rest → x.dumpOut = none → laneFull s 2 = false →
        (slots = 0 ∨ x.dmFull = true → exec .snapshotCopy s = .next { s with trace := { x with copyQ := rest } }) ∧
        (slots ≠ 0 → x.dmFull = false → slots ≤ first + 1 → wrap = false →
          exec .snapshotCopy s = .next { s with trace := { x with copyQ := rest, dmFull := true } }) ∧
        (slots ≠ 0 → x.dmFull = false → first + 1 < slots ∨ wrap = true → exec .snapshotCopy s = .next (
          sendLines .snap (x.dmbase.toNat * 2 ^ 20 + 256 * (if first + 1 < slots then first + 1 else 0)) (rawLines (ws.drop 32) 4)
            (sendLines .snap (x.dmbase.toNat * 2 ^ 20 + 256 * first) (rawLines (ws.take 32) 4)
              { s with trace := { x with copyOut := some (BitVec.ofNat 32 first), dmFull := filled first 2 slots wrap } })))) ∧
      (∀ h, x.copyOut = some h → (∀ r ∈ s.mesh.reqs, r.who ≠ .snap) → exec .snapshotCopy s = .next { s with trace := { x with
        copyOut := none, copyQ := x.copyQ.drop 1, dmhead := moved h.toNat (2 + x.behind) slots wrap, behind := 0 } })) ∧
    (∀ r q, s.rel.wsbuf = r :: q → exec .waysideSend s = .next { s with rel := { s.rel with
      wsbuf := q, wsBeat := 0, wsNow := if s.rel.wsBeat = 0 then s.rel.wsNow.filter (fun y => r != y) else s.rel.wsNow } }) ∧
    (s.boot.phase ≠ .coldReset → s.boot.phase ≠ .heldByWrst → fldN s.rel.fccfg 0 16 * 1000000 ≤ s.rel.fcWin.toNat →
      ∃ t, exec .fcWindowEnd s = .next t ∧
      (∀ n < 8, fld (vget t.rel.fcstat n 0) 0 8 = 0 ∧ fld (vget t.rel.fcstat n 0) 8 56 = fld (vget s.rel.fcstat n 0) 8 56) ∧
      t.rel.fcWin.toNat = s.rel.fcWin.toNat - fldN s.rel.fccfg 0 16 * 1000000) ∧
    (∀ j q, s.tile.tileq = j :: q → (∀ i ∈ j :: q, i.rest = []) → q ≠ [] ∨ (∀ r ∈ s.mesh.reqs, r.op = .poke → r.who.ctx? = none) →
      exec .tileComplete s = .next (noteFences (settle (accountChange s { s with tile := { s.tile with tileq := q } })))) ∧
    (∀ j q k t, s.tile.tileq = j :: q → j.rest ≠ [] → (∀ i ∈ q, i.rest = []) →
      workJob [] j.op.work.perform j.op.work.finish j s = .ok k t → k.rest = [] →
      let u := accountChange s (dropTileFills j.op.ctx { t with tile := { t.tile with tileq := k :: q } })
      q ≠ [] ∨ (∀ r ∈ u.mesh.reqs, r.op = .poke → r.who.ctx? = none) →
      exec .tileComplete s = .next (noteFences (settle (accountChange u { u with tile := { u.tile with tileq := q } })))) ∧
    (s.tile.tpDrain = true → s.tile.tileq = [] →
      exec .tpwrDrainEnd s = .next { s with tile := { s.tile with tpDrain := false } }) ∧
    (s.tile.tpOn = false → s.tile.tpDrain = false →
      exec .tpwrGateOpen s = .next (settle (accountChange s { s with tile := { s.tile with tpPowered := false } }))) ∧
    (s.tile.tpOn = true → s.tile.tpPowered = false →
      exec .tpwrPowerUp s = .next (settle (accountChange s { s with tile := { s.tile with tpPowered := true } })))

/-! ## The mesh and the Causeway -/

/-- What leaves the core goes out (R16, R20 to R23, R26 to R28, R43, R44, R500): the flit that the lane order chooses is offered, and
transfers when its lane is ready, and the first flit that its sender holds then takes the place in the FIFO of four; a post is performed
with its last flit (R448); without a flit, and on lanes 2 and 3 in cold reset and after the drain of another one, nothing leaves (R17, R24,
R56), and the rate limit holds the flit it has no token for. A credit counts up to 63. A Causeway channel with credit puts its header, then
its data, 32 bytes a beat and zero beyond the last element, into the egress FIFO, which takes eight beats. The first beat of the FIFO is
offered unless the fence or the rate limit holds it, and transfers with one credit; after the last beat of a contribution its channel leaves
STATE 1 as done. FENCE_ACK is high when the fence is in effect and nothing that had started is on its way. The egress, its token and the
fence are read as in log 38, the Causeway's beats as in log 43. -/
def Obligations.MeshSendAndCauseway : Prop :=
  ∀ s : State,
    let acked := fun (t : State) => { t with pins := { t.pins with fenceAck := t.pins.hfence && !(t.mesh.mid.q2 || t.mesh.mid.q3 ||
      t.mesh.offered == some 2 || t.mesh.offered == some 3 || t.cw.offered) &&
        !(t.boot.phase == .coldReset || t.boot.phase == .heldByWrst) } }
    let awake := s.boot.phase ≠ .coldReset ∧ s.boot.phase ≠ .heldByWrst ∧ ∀ k, s.boot.phase ≠ .afterDrain k
    (draining s = false → (∀ e ∈ s.caches.ebuf, e.started = true) →
      ((∀ l, s.mesh.egress.get l = []) → s.mesh.offered = none → ∀ ready, exec (.meshFlitSend ready) s = .next (acked s)) ∧
      (¬ awake → s.mesh.egress.get 0 = [] → s.mesh.offered = none → ∀ ready, exec (.meshFlitSend ready) s = .next (acked s)) ∧
      (∀ (l : BitVec 2) f q ready, s.mesh.egress.get l = f :: q → l ≠ 1 →
        let other : BitVec 2 := if l = 2 then 3 else 2
        s.mesh.offered = some l ∨ s.mesh.offered = none ∧ (l = 0 ∨ awake ∧ s.mesh.egress.get 0 = [] ∧
          (s.mesh.mid.get l = true ∧ s.mesh.mid.get other = false ∨ s.mesh.mid.q2 = false ∧ s.mesh.mid.q3 = false ∧
            s.pins.hfence = false ∧ (s.mesh.egress.get other = [] ∨ s.mesh.lastReq = decide (l = 3)))) →
        let free := l = 0 ∨ s.mesh.offered = some l ∨ bit s.toll.ctl 0 = false ∨ fld s.toll.rate 0 16 = 0 ∨ 1024 ≤ s.toll.tokM
        (¬ free → exec (.meshFlitSend ready) s = .next (acked { s with toll := { s.toll with held := true } })) ∧
        (free → bit ready l.toNat = true → ∃ t, exec (.meshFlitSend ready) s = .next t ∧
          t.mesh.egress = s.mesh.egress.set l ((q ++ s.mesh.stage.get l).take 4) ∧
          t.mesh.stage = s.mesh.stage.set l ((q ++ s.mesh.stage.get l).drop 4) ∧
          t.mesh.lastFlit = f ∧ t.mesh.offered = none ∧ t.mesh.mid = s.mesh.mid.set l (!f.last) ∧
          t.mesh.posts = (if l = 3 ∧ f.last = true then s.mesh.posts.drop 1 else s.mesh.posts) ∧
          t.pins = (acked { s with mesh := t.mesh, pins := { s.pins with stallMesh := 0 } }).pins ∧
          (∃ u, (∀ d, SameOrWoken (s.getCtx d) (u.getCtx d)) ∧ FencesNoted u t) ∧
          (t.caches, t.spad, t.cw, t.mesh.reqs) = (s.caches, s.spad, s.cw, s.mesh.reqs)) ∧
        (free → bit ready l.toNat = false → exec (.meshFlitSend ready) s = .next (acked { s with
          mesh := { s.mesh with offered := some l, lastFlit := f } })))) ∧
    (∀ ch, s.boot.phase ≠ .coldReset → s.boot.phase ≠ .heldByWrst → exec (.creditReturn ch) s = .next (accountChange s (setCw ch
      { cwCh s ch with credit := if (cwCh s ch).credit = 63 then 63 else (cwCh s ch).credit + 1 } s))) ∧
    ((∀ ch, cwAwaits s ch = false) →
      let per := fun (k : CwCh) => if k.hdr.extractLsb' 0 4 = 1 then 16 else if k.hdr.extractLsb' 0 4 = 3 then 4 else 8
      let size := fun (k : CwCh) => if k.hdr.extractLsb' 0 4 = 1 then 2 else if k.hdr.extractLsb' 0 4 = 3 then 8 else 4
      let count := fun (k : CwCh) => fldN k.hdr 48 16 + 1
      let total := fun (k : CwCh) => 1 + (count k + per k - 1) / per k
      let ready := fun (ch : BitVec 4) => (cwCh s ch).state = 1 ∧ (cwCh s ch).checked = true ∧ (cwCh s ch).sent < total (cwCh s ch) ∧
        (s.cw.fifo.filter fun b => b.ch == ch).length < (cwCh s ch).credit.toNat
      let held := bit s.toll.ctl 0 = true ∧ fld s.toll.rate 16 16 ≠ 0 ∧ s.toll.tokC < 1024
      let still := 8 ≤ s.cw.fifo.length ∨ ∀ ch, ¬ ready ch
      (s.cw.fifo = [] → s.cw.offered = false → still → exec .causewayBeat s = .next (acked s)) ∧
      (s.cw.fifo ≠ [] → s.cw.offered = false → still → s.pins.hfence = true → exec .causewayBeat s = .next (acked s)) ∧
      (s.cw.fifo ≠ [] → s.cw.offered = false → still → s.pins.hfence = false → held →
        exec .causewayBeat s = .next (acked { s with toll := { s.toll with held := true } })) ∧
      (∀ b q, s.cw.fifo = b :: q → still → s.cw.offered = true ∨ s.pins.hfence = false ∧ ¬ held → ∃ t, exec .causewayBeat s = .next t ∧
        let k := cwCh s b.ch
        t.cw.fifo = q ∧ t.cw.offered = false ∧ t.cw.lastBeat = b ∧ t.pins.stallCw = 0 ∧ t.mesh = s.mesh ∧
        cwCh t b.ch = { k with
          credit := k.credit - 1
          state := if b.isSeal then (if k.lost then 3 else 2) else k.state
          cause := if b.isSeal && k.lost then 6 else k.cause } ∧
        (∀ d, d ≠ b.ch → cwCh t d = cwCh s d) ∧ t.spad = s.spad) ∧
      (∀ (c : BitVec 4) (n : Nat), n < 16 → c = s.cw.last + 1 + BitVec.ofNat 4 n → ready c →
        (∀ m < n, ¬ ready (s.cw.last + 1 + BitVec.ofNat 4 m)) → s.cw.fifo = [] → s.cw.offered = false → s.pins.hfence = false → ¬ held →
        let k := cwCh s c
        (k.sent = 0 → ∃ t, exec .causewayBeat s = .next t ∧
          t.cw.lastBeat = ⟨c, k.rid, k.hdr.setWidth 256, false⟩ ∧ t.cw.last = c ∧ t.cw.fifo = [] ∧
          cwCh t c = { k with credit := k.credit - 1, sent := 1 } ∧ (∀ d, d ≠ c → cwCh t d = cwCh s d)) ∧
        (0 < k.sent → k.sk = false → k.zeros = false → k.lost = false → s.rel.latent = [] →
          (∀ o, 32 * (k.sent - 1) ≤ 8 * o → 8 * o < 32 * k.sent → 8 * o < count k * size k →
            ∃ w, SMap.find? s.spad ((fldN k.src 0 20 + 8 * o) / 8) = some w) →
          ∃ (t : State) (data : BitVec 256), exec .causewayBeat s = .next t ∧
            t.cw.lastBeat = ⟨c, k.rid, data, k.sent + 1 == total k⟩ ∧ t.cw.last = c ∧ t.cw.fifo = [] ∧
            (∀ i < 4, let o := 4 * (k.sent - 1) + i
              fld data (64 * i) 64 = (if count k * size k ≤ 8 * o then (0 : W64) else
                let w : W64 := match SMap.find? s.spad ((fldN k.src 0 20 + 8 * o) / 8) with | some w => w.val | none => 0
                if count k * size k < 8 * o + 8 then w &&& BitVec.ofNat 64 (2 ^ (8 * (count k * size k - 8 * o)) - 1) else w)) ∧
            cwCh t c = { k with
              credit := k.credit - 1, sent := k.sent + 1, state := if k.sent + 1 = total k then 2 else 1 } ∧
            (∀ d, d ≠ c → cwCh t d = cwCh s d))))

/-- A Mover block completes (R326, R330, R333 to R335, R337): it is checked, read and written as a whole, MPROG then names the next block,
and after the last block the channel leaves STATE 1 as done; a block that cannot be done stops the channel with its cause. Between
scratchpad words, each word of the block arrives with its tag if TAGS is 1 and tagged RAW otherwise, and no other word changes. The code of
a Mover interrupt, the channel that raised it last, is log 30's. TAKE and GIVE of the channel's DDC are log 73's, and a geometry that shrank
is log 74's. -/
def Obligations.MoverBlocks : Prop :=
  ∀ (s : State) (ch : BitVec 3), let m := moverCh s ch
    m.state = 1 → s.boot.phase = .start → s.boot.lame = false → ctxPerformed s m.ctx = true → ∀ g, m.cap = some g →
    let done : MoverCh := { (if 64 * (m.blk.toNat + 1) < m.rowBytes then { m with blk := m.blk + 1 }
      else { m with blk := 0, rows := m.rows + 1 }) with
        state := if m.rows.toNat + 1 = m.rowCount ∧ m.rowBytes ≤ 64 * (m.blk.toNat + 1) then 2 else 1 }
    (∀ u, mvBlock (mvUser ch m g) m s = .ok none u → u.mover = s.mover →
      ∃ t, exec (.moverBlock ch none) s = .next t ∧ moverCh t ch = done ∧ t.spad = u.spad ∧ t.caches = u.caches ∧
        (∀ d, d ≠ ch → moverCh t d = moverCh s d)) ∧
    (∀ u e, mvBlock (mvUser ch m g) m s = .ok (some e) u → ∃ t, exec (.moverBlock ch none) s = .next t ∧
      moverCh t ch = { m with state := 3, cause := e.cause, fva := e.fva, fsr := e.fsr } ∧ bit t.intr.ipend 35 = true ∧
      t.intr.moverVec = ch ∧ (∀ d, d ≠ ch → moverCh t d = moverCh s d)) ∧
    (m.sk = 0 → m.dk = 0 → s.rel.latent = [] → m.rowBytes % 8 = 0 → 64 * m.blk.toNat < m.rowBytes →
      let n := min 64 (m.rowBytes - 64 * m.blk.toNat) / 8
      let word := fun (e : EndPoint) => (Int.toNat ((fldN e.addr 0 20 : Int) + e.stride * (m.rows.toNat : Int)) + 64 * m.blk.toNat) / 8
      (∀ i < n, ∃ w, SMap.find? s.spad (word m.srcEnd + i) = some w) →
      ∃ t, exec (.moverBlock ch none) s = .next t ∧ moverCh t ch = done ∧
        (∀ i < n, ∀ w, SMap.find? s.spad (word m.srcEnd + i) = some w →
          SMap.find? t.spad (word m.dstEnd + i) = some (if bit m.ctl 4 then deliver w else ⟨w.val, Tag.raw⟩)) ∧
        (∀ j, ¬ (word m.dstEnd ≤ j ∧ j < word m.dstEnd + n) → SMap.find? t.spad j = SMap.find? s.spad j))

/-- What the mesh delivers to the caches (R19, R25, R318, R324, R325, R503). A read's answer is kept for the access that awaits it (log 13);
a line for L1D goes there, exclusive as DATA_X says; an acknowledgement ends its request, frees the eviction buffer entry or makes the
promoted line exclusive, and a store that it ends is performed and counted; an error ends a read with no line. A snoop answers not held,
held, or held dirty with the line, and leaves the line shared, or takes it away. A packet the core does not receive is counted; a BAD_PACKET
that names a packet it does receive is refused (log 8). A snoop that waits for a fill, LEAVING beside a clean line, and the watches that
PROBE_K sets, are log 39's. A snoop of a line that a disabled cache holds is log 70's. -/
def Obligations.MeshReceive : Prop :=
  ∀ s : State,
    (∀ txid r, s.mesh.reqs.find? (fun r => r.txid == txid) = some r →
      let n := r.addr.toNat / 64
      let rest := s.mesh.reqs.filter fun x => x.txid != txid
      let quiet := ∀ q ∈ s.mesh.snoops, q.line ≠ n
      (∀ d, r.op = .peek ∨ r.op = .devRd → r.who ≠ .evict → let t := { s with mesh := { s.mesh with
          reqs := rest, fills := s.mesh.fills ++ [⟨r, false, false, false, d⟩] } }
        exec (.dataS txid d) s = .next t ∧ exec (.dataX txid d) s = .next t) ∧
      (∀ d, r.op = .fillS → r.who ≠ .evict → (r.l1i, r.l1d, r.l2) = (false, true, false) → cacheOn s .l1d = true → quiet →
        draining s = false → s.boot.lame = false → cacheFind s .l1d n = none → (∀ e ∈ s.caches.ebuf, e.line ≠ n) →
        (∃ w < 8, wayLocked s .l1d w = false ∧ SMap.find? s.caches.l1d (n % 64 * 8 + w) = none) →
        ∀ x, ∃ t k, exec (if x then .dataX txid d else .dataS txid d) s = .next t ∧
          cacheFind t .l1d n = some (k, ⟨n, if x then .exclusive else .shared, if r.stream then 3 else 1, d⟩) ∧
          t.mesh.reqs = rest ∧ t.mesh.fills = s.mesh.fills ++ [⟨r, false, x, false, d⟩] ∧ t.caches.l2 = s.caches.l2) ∧
      (r.op = .poke ∨ r.op = .devWr → let ended := { s with mesh := { s.mesh with reqs := rest } }
        let t := match r.store with
          | some n => countEvent 2 0 1 (some (n.sup, n.world)) (.ctx n.ctx) (some n.va) ended
          | none => ended
        ∃ u, FencesNoted t u ∧ exec (.ack txid) s = .next u ∧ exec (.err txid) s = .next u) ∧
      (r.op = .lineOut → draining s = false → (∀ f ∈ s.mesh.fills, f.held = false) →
        (∀ x ∈ rest, x.op = .lineOut → x.addr.toNat / 64 ≠ n) →
        exec (.ack txid) s = .next { s with
          mesh := { s.mesh with reqs := rest }
          caches := { s.caches with ebuf := s.caches.ebuf.filter fun e => !(e.line == n && e.started) } }) ∧
      (r.op = .promote → ∀ k l, cacheFind s .l1d n = some (k, l) → l.st = .shared → ∃ t, exec (.ack txid) s = .next t ∧
        cacheFind t .l1d n = some (k, { l with st := .exclusive }) ∧ t.mesh.reqs = rest) ∧
      (r.op = .fillS ∨ r.op = .fillO ∨ r.op = .peek ∨ r.op = .devRd → r.who ≠ .evict → quiet →
        exec (.err txid) s = .next { s with mesh := { s.mesh with
          reqs := rest, fills := s.mesh.fills ++ [⟨r, true, false, false, Vector.replicate 8 TWord.poison⟩] } })) ∧
    (∀ (kill : Bool) (addr : PAddr) (src : CoreId) (txid : BitVec 8),
      let n := addr.toNat / 64
      let run := exec (if kill then .probeK addr src txid else .probeS addr src txid) s
      let reply := fun (cls opc : BitVec 4) (d : List Line) => packet cls (memHeader (lineAddr n) opc src txid 0 0) d
      (s.boot.phase = .coldReset ∨ s.boot.phase = .heldByWrst → run = .next (sendPacket (reply 1 0 []) s)) ∧
      (s.boot.phase ≠ .coldReset → s.boot.phase ≠ .heldByWrst → draining s = false → s.rel.latent = [] →
        (∀ r ∈ s.mesh.reqs, (r.op = .fillS ∨ r.op = .fillO ∨ r.op = .lineOut) → r.addr.toNat / 64 ≠ n) →
        (∀ e ∈ s.caches.ebuf, e.line ≠ n) → (∀ f ∈ s.mesh.fills, f.held = false) → cacheFind s .l2 n = none →
        cacheUninit s .l1d = false → SMap.wf s.caches.l1d = true →
        let old := s.mesh.lane 0
        ∃ u, run = .next u ∧ (kill = true → ∀ c, (s.getCtx c).ev.watch = .line n → bit (u.getCtx c).ev.evpend 0 = true) ∧
        (cacheFind s .l1d n = none → u.caches = s.caches ∧ u.mesh.lane 0 = old ++ reply 1 0 []) ∧
        (∀ k l, cacheFind s .l1d n = some (k, l) →
          SMap.find? u.caches.l1d k = (if kill then none else some { l with st := .shared }) ∧
          u.mesh.lane 0 = old ++ (if l.st = .modified then reply 1 2 [] ++ reply 0 1 [l.data] else reply 1 1 [])))) ∧
    (∀ cls opc, (packetBad cls opc = true → s.boot.phase ≠ .coldReset → s.boot.phase ≠ .heldByWrst → exec (.badPacket cls opc) s = .next { s with
        chain := { s.chain with mrxBad := if s.chain.mrxBad = BitVec.allOnes _ then s.chain.mrxBad else s.chain.mrxBad + 1 } }) ∧
      (packetBad cls opc = false → exec (.badPacket cls opc) s = .refused .illFormed))

/-! ## I/O, work counters and posts from outside -/

/-- What the core answers and takes while it is out of reset and not lame (R424 to R434, R439 to R441). The IPI port reads as 0 and a
WRITE there raises IPEND bit 33 and the IPI event of the routed context; the work-counter ports read their registers, configure, hand
out claims, take completions and record who wants a notice; any other port answers STS 2. A notice raises the CLAIM event; a response
ends the instruction that waits for it; an accepted post writes its words, counts them on its landing counter, and any other is dropped.
In a reset or lame, the core drops every post and counts it, but in cold reset its registers keep their reset values (log 45: so the model
reads R439 beside R56). The counter of a notice is a free value (log 1), and that a post of another length than its header gives is no
command is the model's choice (log 8). Which ports a READ or a WRITE of another core reaches is log 27's. That a response which returns no
data carries the word 0 tagged INT is log 45's too; that IPI, WCFG_WRITE and WSUB are the general rows is log 3's. -/
def Obligations.RequestsAndPosts : Prop :=
  ∀ s : State,
    let port := fun (q : IoReq) => q.addr.toNat % 524288
    let none_ : TWord := ⟨0, Tag.int⟩
    let dropped := countEvent 5 2 1 none .none none { s with
      coop := { s.coop with pDrop := if s.coop.pDrop = BitVec.allOnes _ then s.coop.pDrop else s.coop.pDrop + 1 } }
    let cold := s.boot.phase = .coldReset ∨ s.boot.phase = .heldByWrst
    (∀ (h : PostHdr) (ws : List TWord),
      (ws.length ≠ h.wm1.toNat + 1 → exec (.postReceive h ws) s = .refused .illFormed) ∧
      (ws.length = h.wm1.toNat + 1 → cold → exec (.postReceive h ws) s = .next s) ∧
      (ws.length = h.wm1.toNat + 1 → ¬ cold → servesIo s = false → exec (.postReceive h ws) s = .next dropped)) ∧
    (servesIo s = true →
    (∀ q w, port q = 0x200 → exec (.ioReadServe q) s = .next (answerIo 0 .read q none_ s) ∧
      exec (.ipi q w) s = exec (.ioWriteServe q w) s ∧
      (∃ t, exec (.ioWriteServe q w) s = .next t ∧ bit t.intr.ipend 33 = true ∧
        let c : CtxId := fld (vget s.intr.vlvl 4 0) 12 2
        let k := s.getCtx c
        let k' := t.getCtx c
        k'.ev.ipiPeer = some q.src ∧ bit k'.ev.evpend 4 = true ∧
        (k.run = .waiting → bit k.ev.waitMask 4 = true → k'.run = .ready) ∧ (k.run ≠ .waiting → k'.run = k.run) ∧ k'.pc = k.pc ∧
        (∀ d, d ≠ c → SameOrWoken (s.getCtx d) (t.getCtx d)) ∧ t.spad = s.spad)) ∧
    (∀ q (w : BitVec 3) v, port q = 0x400 + 16 * w.toNat + 1 → let k := workCtr s w
      exec (.ioReadServe q) s = .next (answerIo 0 .read q ⟨k.limit.setWidth 64, Tag.int⟩ s) ∧
      exec (.wcfgWrite q v) s = exec (.ioWriteServe q v) s ∧
      (∃ t, exec (.ioWriteServe q v) s = .next t ∧ workCtr t w =
        { k with limit := fld v.val 0 32, next := 0, done := 0, epoch := k.epoch + 1, notices := [] } ∧
        (∀ u, u ≠ w → workCtr t u = workCtr s u) ∧ t.coop.land = s.coop.land ∧ t.spad = s.spad)) ∧
    (∀ q (w : BitVec 3), port q = 0x400 + 16 * w.toNat + 2 → let k := workCtr s w
      exec (.ioReadServe q) s = .next (answerIo 0 .read q
        ⟨k.next.setWidth 64 ||| k.epoch.setWidth 64 <<< 32, Tag.int⟩ s) ∧
      (∀ v, exec (.ioWriteServe q v) s = .next (answerIo 0 .write q none_ s))) ∧
    (∀ q (w : BitVec 3), port q = 0x400 + 16 * w.toNat + 3 → let k := workCtr s w
      exec (.ioReadServe q) s = .next (answerIo 0 .read q
        ⟨k.done.setWidth 64 ||| k.rej.setWidth 64 <<< 32, Tag.int⟩ s) ∧
      (∀ v, exec (.ioWriteServe q v) s = .next (answerIo 0 .write q none_ s))) ∧
    (∀ q (w : BitVec 3), port q = 0x400 + 16 * w.toNat + 4 → let k := workCtr s w
      exec (.wsub q) s = exec (.ioReadServe q) s ∧ exec (.wsub q) s = .next (
        if k.next.toNat < k.limit.toNat then answerIo 0 .read q ⟨2, Tag.int⟩ s
        else if (q.src, q.ctx) ∈ k.notices then answerIo 0 .read q ⟨1, Tag.int⟩ s
        else if k.notices.length < 32 then
          answerIo 0 .read q ⟨1, Tag.int⟩ (setWork w { k with notices := k.notices ++ [(q.src, q.ctx)] } s)
        else answerIo 0 .read q none_ s)) ∧
    (∀ q (w : BitVec 3), port q = 0x400 + 16 * w.toNat → let k := workCtr s w
      let word := fun (isEnd : Bool) (i : W32) => (⟨i.setWidth 64 ||| k.epoch.setWidth 64 <<< 32 |||
        s.chain.caddr.setWidth 64 <<< 48 ||| w.setWidth 64 <<< 60 ||| (BitVec.ofBool isEnd).setWidth 64 <<< 63, Tag.epoch⟩ : TWord)
      let count := fun (e : Nat) (t : State) => countEvent 5 e 1 none .none none t
      exec (.claimServe q) s = .next (if k.limit.toNat ≤ k.next.toNat then answerIo 0 .claim q (word true k.limit) (count 3 s)
        else answerIo 0 .claim q (word false k.next) (count 3 (setWork w { k with next := k.next + 1 } s))) ∧
      (∀ v, exec (.completeServe q v) s = .next (if (∃ i : W32, i.toNat < k.next.toNat ∧ v.val = (word false i).val) then
          answerIo 0 .complete q none_ (setWork w { k with done := k.done + 1 } s)
        else answerIo 0 .complete q none_ (count 4 (setWork w { k with
          rej := if k.rej = BitVec.allOnes _ then k.rej else k.rej + 1 } s)))) ∧
      (∀ v, exec (.ioReadServe q) s = .next (answerIo 2 .read q none_ s) ∧
        exec (.ioWriteServe q v) s = .next (answerIo 2 .write q none_ s))) ∧
    (∀ q v, port q ≠ 0x200 → ¬ (0x400 ≤ port q ∧ port q < 0x480 ∧ port q % 16 ≤ 4) →
      exec (.ioReadServe q) s = .next (answerIo 2 .read q none_ s) ∧ exec (.ioWriteServe q v) s = .next (answerIo 2 .write q none_ s) ∧
      exec (.claimServe q) s = .next (answerIo 2 .claim q none_ s) ∧
      exec (.completeServe q v) s = .next (answerIo 2 .complete q none_ s)) ∧
    (∀ q, let k := s.getCtx q.ctx
      ∃ t w, exec (.notice q) s = .next t ∧ let k' := t.getCtx q.ctx
      k'.ev.claimPeer = some (q.src, w) ∧ bit k'.ev.evpend 5 = true ∧
      (k.run = .waiting → bit k.ev.waitMask 5 = true → k'.run = .ready) ∧ (k.run ≠ .waiting → k'.run = k.run) ∧ k'.pc = k.pc ∧
      (∀ d, d ≠ q.ctx → SameOrWoken (s.getCtx d) (t.getCtx d)) ∧ t.spad = s.spad) ∧
    (∀ (r : IoResp) c w, s.boot.phase = .start → ioWaiter s r.txid = some (c, w) → (s.getCtx c).rest = none →
      (r.sts = 0 → ∃ t, exec (.ioResponse r) s = .next t ∧
        SameOrWoken (let k := { s.getCtx c with io := none }
          { (k.setY ⟨k.getY.val + w.inc, k.getY.tag⟩).setDest w.dest (ioDeliver w.opc r.data) with pc := w.next, skipPair := false })
          (t.getCtx c) ∧
        (∀ d, d ≠ c → SameOrWoken (s.getCtx d) (t.getCtx d)) ∧ t.spad = s.spad) ∧
      (r.sts ≠ 0 → ∀ u, takeSync c (plainExc 10 0) (s.modCtx c fun k => { k with io := none, rest := none }) = .ok () u →
        exec (.ioResponse r) s = .next (dropFills c (accountChange s u)))) ∧
    (∀ (h : PostHdr) (ws : List TWord),
      let first := h.doff.toNat / 8
      let last := (8 * (first + ws.length) - 1) / 4096
      let page := fun (p : Nat) => fldN s.coop.pwin 0 8 ≤ p ∧ p ≤ fldN s.coop.pwin 8 8
      let ok := bit s.coop.pwin 16 = true ∧ bit s.coop.pwin (32 + h.lc.toNat) = true ∧
        (∀ p, 8 * first / 4096 ≤ p → p ≤ last → page p ∧ (h.sealed = true ∨ mapSealed s (BitVec.ofNat 52 (spadBase + 4096 * p)) = false))
      (ws.length = h.wm1.toNat + 1 → ok → ∃ t, exec (.postReceive h ws) s = .next t ∧
        (∀ i w, ws[i]? = some w → SMap.find? t.spad (first + i) = some (if h.tags then deliver w else ⟨w.val, Tag.raw⟩)) ∧
        (∀ j, ¬ (first ≤ j ∧ j < first + ws.length) → SMap.find? t.spad j = SMap.find? s.spad j) ∧
        t.coop = { s.coop with
          land := vset s.coop.land h.lc.toNat (vget s.coop.land h.lc.toNat 0 + BitVec.ofNat 32 ws.length), pAcc := s.coop.pAcc + 1 }) ∧
      (ws.length = h.wm1.toNat + 1 → ¬ ok → exec (.postReceive h ws) s = .next dropped)))

/-! ## The management chain -/

/-- The chain's commands complete (R29 to R35, R60, R65, R70 to R74, R82, R450, R466, R478 to R480, R483, R485, R495, R498, R500). Frames
that ask nothing of any core go first (log 3: a command carries those in the slots just before it): they go on as they are, but an IDLE
one may be replaced by a waiting answer. A frame with a bad CRC is counted and passed on as it is; ENUM gives the address; a request of
this core is taken and marked, or passed on unmarked when four answers wait or the core is in reset; one of another core goes on as it
is. A READ's answer waits for the first idle slot that may carry it, and a WRITE has its effect at once, the same by WRITE and by
BWRITE. When a READ is computed, and when the delayed ENUM frame and the answers go, are log 46's. -/
def Obligations.ChainCommands : Prop :=
  ∀ (s : State) (f : ChainFrame), s.boot.phase ≠ .coldReset →
    let k := s.chain
    let run := fun (cmd : ChainCmd) (f : ChainFrame) (s : State) => match cmd with
      | .enum => exec (.enum f) s
      | .identq => exec (.identq f) s
      | .read => exec (.chainRead f) s
      | .write => exec (.chainWrite f) s
      | .corerst => exec (.corerst f) s
      | .bwrite => exec (.bwrite f) s
    let counted := fun (s : State) => { s with chain := { s.chain with
      mcCrcerr := if s.chain.mcCrcerr = BitVec.allOnes _ then s.chain.mcCrcerr else s.chain.mcCrcerr + 1 } }
    let answering := fun (w : W64) => match k.resp with
      | r :: rs => if k.mcDelayed.isNone && decide (64 ≤ k.sinceEnum) then
          driveSlot (Machine.frameOf 5 r.addr r.reg r.data true) { s with chain := { k with resp := rs } } else driveSlot w s
      | [] => driveSlot w s
    let passed := fun (w : W64) => let cmd := fldN w 60 4
      if 1 ≤ cmd ∧ cmd < 8 ∧ cmd ≠ 5 then s else if crcOf w ≠ fld w 1 8 then driveSlot w (counted s)
      else if cmd = 0 then answering w else driveSlot w s
    (∀ cmd w ws, f.ahead = w :: ws → run cmd f s = run cmd { f with ahead := ws } (passed w)) ∧
    (exec .respSend s = .next (answering 0)) ∧
    (f.ahead = [] →
    (∀ cmd, crcGood cmd f = false → let t := driveSlot (forwardOf cmd f f.tk) (counted s)
      run cmd f s = .next (if cmd = .enum then { t with chain := { t.chain with sinceEnum := 0 } } else t)) ∧
    (∀ cmd, cmd ∈ [ChainCmd.read, .write, .corerst] ∨ cmd = .identq ∧ bit f.reg 6 = false → crcGood cmd f = true →
      (k.cvalid = false ∨ f.addr ≠ k.caddr → run cmd f s = .next (driveSlot (forwardOf cmd f f.tk) s)) ∧
      (k.cvalid = true → f.addr = k.caddr → 4 ≤ k.resp.length ∨ chainReset s = true →
        run cmd f s = .next (driveSlot (forwardOf cmd f false) s))) ∧
    (crcGood .bwrite f = true → k.cvalid = true → 4 ≤ k.resp.length ∨ chainReset s = true →
      exec (.bwrite f) s = .next (driveSlot (forwardOf .bwrite f false) s)) ∧
    (crcGood .enum f = true → ∃ t, exec (.enum f) s = .next t ∧ t.chain.cvalid = true ∧
      t.chain.caddr = (if k.cvalid then k.caddr else f.addr) ∧
      t.chain.mismatch = (k.mismatch || (k.cvalid && f.addr != k.caddr)) ∧
      t.chain.mcDelayed = some (Machine.frameOf 1 (f.addr + 1) f.reg f.data f.tk) ∧ (t.ctx, t.boot, t.spad) = (s.ctx, s.boot, s.spad)) ∧
    (k.cvalid = true → k.resp.length < 4 → s.boot.phase ≠ .heldByWrst →
      (∀ r, s.boot.phase ≠ .drain r ∧ s.boot.phase ≠ .afterDrain r) →
      let reply := fun (v : W32) (t : State) => { t with chain := { t.chain with resp := t.chain.resp ++ [⟨k.caddr, f.reg, v⟩] } }
      (f.addr = k.caddr → bit f.reg 6 = false → crcGood .identq f = true →
        exec (.identq f) s = .next (driveSlot (forwardOf .identq f true) (reply (identSel s (fldN f.reg 0 6)) s))) ∧
      (f.addr = k.caddr → crcGood .read f = true →
        (f.reg ≠ 0x28 → f.reg ≠ 0x2D → exec (.chainRead f) s =
          .next (driveSlot (forwardOf .read f true) (reply ((chainWord s f.reg.toNat).getD 0) s))) ∧
        (f.reg = 0x28 → exec (.tlatloRead f) s = .next (driveSlot (forwardOf .read f true)
          (reply (s.time.tick.setWidth 32) { s with time := { s.time with tlat := s.time.tick } }))) ∧
        (f.reg = 0x2D → exec (.xrdataRead f) s = .next (driveSlot (forwardOf .read f true)
          (reply (xrWord s.trace) { s with trace := { s.trace with xrIdx := s.trace.xrIdx + 1 } })))) ∧
      (f.addr = k.caddr → crcGood .corerst f = true → ∃ t, exec (.corerst f) s = .next t ∧ t.boot.phase = .drain .core ∧
        t.boot.rcause = (if s.boot.lame then 0xC else 0x4) ∧ t.boot.go = false ∧ t.spad = s.spad ∧ t.chain.caddr = k.caddr ∧
        (∀ c, (t.getCtx c).getA = TWord.poison) ∧ t.tile = State.reset.tile) ∧
      (∀ bc, crcGood (if bc then .bwrite else .write) f = true → (bc = true ∨ f.addr = k.caddr) →
        let taken := driveSlot (forwardOf (if bc then .bwrite else .write) f (f.tk || !bc)) s
        let plain := exec (if bc then .bwrite f else .chainWrite f) s
        let v := f.data
        let is := fun (i : BitVec 7) (row : Instr) (t : State) => f.reg = i → exec row s = plain ∧ plain = .next t
        is 0x19 (if bc then .bwrite f else .chainWrite f) { taken with chain := { taken.chain with bcfg := fld v 0 17 } } ∧
        is 0x08 (.enable0Write f bc) (if s.boot.locked then taken else { taken with chain := { taken.chain with
          enable0 := let e : BitVec 9 := fld v 0 9 &&& fld (feat0 s) 0 9
            if bit v 2 then e else e &&& 0x107 } }) ∧
        (∀ n : Fin 4, f.reg.toNat = 0x10 + n → ∃ t, exec (.mbinWrite f bc) s = plain ∧ plain = .next t ∧
          (k.inFull = true → t.chain.mbin = k.mbin ∧ t.chain.inOvr = true ∧ t.intr = s.intr) ∧
          (k.inFull = false → t.chain.mbin = k.mbin.set n v ∧ t.chain.inFull = decide (n.val = 3) ∧
            (n.val = 3 → bit t.intr.ipend 34 = true) ∧ (n.val ≠ 3 → t.intr = s.intr))) ∧
        is 0x27 (.tsoffhiWrite f bc) { taken with time := { taken.time with
          tsoffHi := v, tsoff := s.time.tsoffLo.setWidth 64 ||| v.setWidth 64 <<< 32 } } ∧
        is 0x22 (.trheadWrite f bc) (if bit k.enable0 8 then
          { taken with trace := { taken.trace with trhead := v, trFull := false } } else taken) ∧
        is 0x25 (.dmheadWrite f bc) { taken with trace := { taken.trace with dmhead := v, dmFull := false } } ∧
        (f.reg = 0x2B → bit v 1 = true → ∃ t, exec (.xrstatTrig f bc) s = plain ∧ plain = .next t ∧ t.trace.xrFull = true ∧
          (s.trace.xrFull = false ∨ bit v 0 = true → t.trace.xrCause = 1 ∧ t.trace.xrData.length = 64 ∧
            t.trace.xrMissed = if bit v 0 then 0 else s.trace.xrMissed) ∧
          (s.trace.xrFull = true → bit v 0 = false → t.trace.xrData = s.trace.xrData ∧ t.trace.xrCause = s.trace.xrCause)) ∧
        (f.reg = 0x30 → ∃ t, exec (.fccfgWrite f bc) s = plain ∧ plain = .next t ∧ t.rel.fcWin = 0 ∧
          fldN t.rel.fccfg 0 16 = max 1 (min 64000 (fldN v 0 16)) ∧ fld t.rel.fccfg 16 9 = fld v 16 9 ∧
          (∀ n < 8, fld (vget t.rel.fcstat n 0) 0 8 = 0 ∧ fld (vget t.rel.fcstat n 0) 8 56 = fld (vget s.rel.fcstat n 0) 8 56)) ∧
        is 0x31 (.almcfgWrite f bc) (if bit s.keys.almcfg 22 then taken else
          { taken with keys := { taken.keys with almcfg := fld v 0 23 } }) ∧
        (f.reg = 0x35 → ∃ t, exec (.tgrateWrite f bc) s = plain ∧ plain = .next t ∧ t.toll.rate = v ∧ t.toll.ctl = s.toll.ctl ∧
          (bit s.toll.ctl 0 = true → fld s.toll.rate 0 16 ≠ 0 → fld v 0 16 ≠ 0 →
            t.toll.tokM = min s.toll.tokM (1024 * fldN v 0 16)) ∧
          (fld s.toll.rate 0 16 = 0 → t.toll.tokM = 1024 * fldN v 0 16)) ∧
        is 0x37 (.tgstatWrite f bc) { taken with toll := { taken.toll with mref := 0, iref := 0, held := false } })))

/-! ## Invariants -/

/-- The machine right after cold reset has asserted (R56, R66, R80, R91, R93, R97, R400), as far as the spec gives the values: every
register word is 0 tagged POISON, every context is a supervisor with mask level 7, C0 is RUNNING and the others STOPPED, the units
are off, and nothing is queued, cached, translated or waiting. The scratchpad's invariant holds. The empty queue is the model's (log 2). -/
def Obligations.ResetState : Prop :=
  let s := State.reset
  SpadInv s ∧ s.pending = [] ∧ s.boot.phase = .coldReset ∧ s.boot.rcause = 1 ∧ s.boot.lame = false ∧ s.boot.locked = false ∧
    (∀ c, (s.getCtx c).getA = TWord.poison ∧ (s.getCtx c).getX = TWord.poison ∧ (s.getCtx c).getY = TWord.poison ∧
      (s.getCtx c).st = 0x00000F00 ||| c.setWidth 32 <<< 24 ∧ (s.getCtx c).run = (if c = 0 then .running else .stopped)) ∧
    s.chain.cvalid = false ∧ s.keys.wkv = false ∧ s.keys.skv = false ∧ s.tile.tpOn = false ∧ s.tile.tuse = 0 ∧ s.tile.fuse = 0 ∧
    s.caches.cctl = 0 ∧ s.tlbs.leaves = [] ∧ s.mesh.reqs = [] ∧ (∀ l, s.mesh.egress.get l = []) ∧ s.cp.out = [] ∧
    s.time.tick = 0 ∧ s.intr.ipend = 0 ∧ s.intr.evec = 0 ∧ (∀ ch, (moverCh s ch).state = 0) ∧ (∀ ch, (cwCh s ch).state = 0)

/-- Every step keeps the scratchpad's form (R95, R102): whatever command stands in front, its keys stay strictly rising, so that equal
contents are equal data, and no word of it ever carries a reserved tag; and it takes exactly one command off the queue. That a step
takes one command, or none from an empty queue, is the model's (log 2). -/
def Obligations.StepKeepsScratchpad : Prop :=
  ∀ s t : State, SpadInv s → step s = .next t → SpadInv t ∧ t.pending = s.pending.tail

/-- Every step keeps the machine in order, and the machine right after reset is (R399, R413, R315, R317, R318): at most one context is
RUNNING, every current window is one of the seven, no cache holds a line twice, in a foreign set or in a way that is locked out, and no
line is both in a cache and in an eviction buffer. Once locked, the configuration changes in a cold reset only (R84, R87). A step at whose
beginning and end the issuing context is in user mode changes none of its system registers but MARKR, no map register, no lock-out of a
way and no priority (R147, R401, R488). A step is of the model's own form (log 2). -/
def Obligations.StepKeepsInvariants : Prop :=
  MachineInv State.reset ∧
  ∀ s t : State, step s = .next t →
    (MachineInv s → MachineInv t) ∧
    (s.boot.locked = true → s.pending.head? ≠ some .coldReset → ConfigKept s t) ∧
    ∀ c, issuing s = some c → bit (s.getCtx c).st 11 = false → bit (t.getCtx c).st 11 = false → t.boot.lame = false → UserKept c s t
end

