-- ==== Sys2Proof/Laws/Run.lean ====
section
/-!
SUPPORT. How the parts of an instruction run: the laws of the monad M, of the checks, and of the form that every
instruction's meaning has.
-/

namespace Sys2Proof.Machine

open Sys2Proof

/-! ## The monad -/

theorem run_bind_ok {α β : Type} {x : M α} {f : α → M β} {s t : State} {a : α} (h : x s = .ok a t) :
    (x >>= f) s = f a t := by
  simp [bind, EStateM.bind, h]

theorem run_bind_error {α β : Type} {x : M α} {f : α → M β} {s t : State} {e : Stop} (h : x s = .error e t) :
    (x >>= f) s = .error e t := by
  simp [bind, EStateM.bind, h]

/-- A part that is done was done in both of its parts. -/
theorem run_bind_inv {α β : Type} {x : M α} {f : α → M β} {s v : State} {b : β} (h : (x >>= f) s = .ok b v) :
    ∃ a t, x s = .ok a t ∧ f a t = .ok b v := by
  simp only [bind, EStateM.bind] at h
  split at h
  · exact ⟨_, _, by assumption, h⟩
  · cases h

@[simp] theorem run_pure {α : Type} (a : α) (s : State) : (pure a : M α) s = .ok a s := rfl
@[simp] theorem run_get (s : State) : (get : M State) s = .ok s s := rfl
@[simp] theorem run_set (s t : State) : (set t : M PUnit) s = .ok () t := rfl
@[simp] theorem run_modify (f : State → State) (s : State) : (modify f : M PUnit) s = .ok () (f s) := rfl
@[simp] theorem run_throw {α : Type} (e : Stop) (s : State) : (throw e : M α) s = .error e s := rfl
@[simp] theorem run_getC (c : CtxId) (s : State) : getC c s = .ok (s.getCtx c) s := rfl
@[simp] theorem run_modC (c : CtxId) (f : Ctx → Ctx) (s : State) : modC c f s = .ok () (s.modCtx c f) := rfl
@[simp] theorem run_raise {α : Type} (v : BitVec 6) (n : BitVec 8) (s : State) :
    (raise v n : M α) s = .error (.exc ⟨v, n, none, 0, false, false⟩) s := rfl
@[simp] theorem run_undef {α : Type} (s : State) :
    (undef : M α) s = .error (.exc ⟨1, 0, none, 0, false, false⟩) s := rfl
@[simp] theorem run_privileged {α : Type} (s : State) :
    (privileged : M α) s = .error (.exc ⟨2, 0, none, 0, false, false⟩) s := rfl
@[simp] theorem run_tagFault {α : Type} (t : Tag) (s : State) :
    (tagFault t : M α) s = .error (.exc ⟨3, t.setWidth 8, none, 0, false, false⟩) s := rfl
@[simp] theorem run_misaligned {α : Type} (s : State) :
    (misaligned : M α) s = .error (.exc ⟨4, 0, none, 0, false, false⟩) s := rfl
@[simp] theorem run_wait {α : Type} (s : State) : (wait : M α) s = .error .wait s := rfl

theorem run_needDef (b : Bool) (s : State) :
    needDef b s = if b then .ok () s else .error (.exc ⟨1, 0, none, 0, false, false⟩) s := by
  cases b <;> rfl

theorem run_needPriv (b : Bool) (s : State) :
    needPriv b s = if b then .ok () s else .error (.exc ⟨2, 0, none, 0, false, false⟩) s := by
  cases b <;> rfl

@[simp] theorem run_advance (c : CtxId) (s : State) :
    advance c s = .ok () (s.modCtx c fun k => { k with pc := k.pc + 4 }) := rfl

/-! ## The contexts -/

/-- The number of a context is one of four. -/
theorem ctxId_cases (i : BitVec 2) : i = 0 ∨ i = 1 ∨ i = 2 ∨ i = 3 := by revert i; decide

@[simp] theorem Quad.get_set_same {α : Type} (q : Quad α) (i : BitVec 2) (v : α) : (q.set i v).get i = v := by
  rcases ctxId_cases i with rfl | rfl | rfl | rfl <;> rfl

theorem Quad.get_set_ne {α : Type} (q : Quad α) {i j : BitVec 2} (v : α) (h : j ≠ i) : (q.set i v).get j = q.get j := by
  rcases ctxId_cases i with rfl | rfl | rfl | rfl <;> rcases ctxId_cases j with rfl | rfl | rfl | rfl <;>
    first | exact absurd rfl h | rfl

@[simp] theorem Quad.set_get {α : Type} (q : Quad α) (i : BitVec 2) : q.set i (q.get i) = q := by
  rcases ctxId_cases i with rfl | rfl | rfl | rfl <;> rfl

@[simp] theorem Quad.set_set {α : Type} (q : Quad α) (i : BitVec 2) (v w : α) : (q.set i v).set i w = q.set i w := by
  rcases ctxId_cases i with rfl | rfl | rfl | rfl <;> rfl

@[simp] theorem getCtx_modCtx (s : State) (c : CtxId) (f : Ctx → Ctx) : (s.modCtx c f).getCtx c = f (s.getCtx c) := by
  simp [State.modCtx, State.setCtx, State.getCtx]

theorem getCtx_modCtx_ne (s : State) {c c' : CtxId} (f : Ctx → Ctx) (h : c' ≠ c) :
    (s.modCtx c f).getCtx c' = s.getCtx c' := by
  simp [State.modCtx, State.setCtx, State.getCtx, Quad.get_set_ne _ _ h]

/-- Two changes of one context in a row are one. -/
theorem modCtx_modCtx (s : State) (c : CtxId) (f g : Ctx → Ctx) :
    (s.modCtx c f).modCtx c g = s.modCtx c fun k => g (f k) := by
  simp [State.modCtx, State.setCtx, State.getCtx]

theorem modCtx_id (s : State) (c : CtxId) : (s.modCtx c fun k => k) = s := by
  simp [State.modCtx, State.setCtx, State.getCtx]

/-! ## The form of an instruction -/

/-- A body that retires in v ends the instruction there. -/
theorem runBody_done {c : CtxId} {s t v : State} {body : CtxId → M Bool} (h : Begins c s t)
    (hb : body c t = .ok true v) : runBody true body c s = endsThere c s v := by
  obtain ⟨hi, hr, u, hf, rfl⟩ := h
  simp only [runBody, hr, Bool.true_or, if_true]
  rw [run_bind_ok hf, run_bind_ok (run_getC c u), run_bind_ok (run_modC c _ u)]
  unfold begun at hb
  rw [run_bind_ok hb]
  simp [endsThere]

/-- A body that stops leaves what `afterStop` says. -/
theorem runBody_stop {c : CtxId} {s t v : State} {body : CtxId → M Bool} {e : Stop} (h : Begins c s t)
    (hb : body c t = .error e v) : runBody true body c s = afterStop c s v e := by
  obtain ⟨hi, hr, u, hf, rfl⟩ := h
  simp only [runBody, hr, Bool.true_or, if_true]
  rw [run_bind_ok hf, run_bind_ok (run_getC c u), run_bind_ok (run_modC c _ u)]
  unfold begun at hb
  rw [run_bind_error hb]
  simp

/-- An instruction that goes on at PC + 4. -/
theorem runSeq_ends {c : CtxId} {s t v : State} {body : CtxId → M Unit} (h : Begins c s t)
    (hb : body c t = .ok () v) : runSeq body s = .next (ends c s v) := by
  have hi := h.1
  unfold runSeq runInstr
  rw [hi]
  simp only
  rw [runBody_done h (v := v.modCtx c fun k => { k with pc := k.pc + 4 })]
  · rfl
  · rw [run_bind_ok (t := v.modCtx c fun k => { k with pc := k.pc + 4 }) (a := ())]
    · rfl
    · rw [run_bind_ok hb]; rfl

/-- An instruction that sets the PC itself. -/
theorem runInstr_ends {c : CtxId} {s t v : State} {body : CtxId → M Unit} (h : Begins c s t)
    (hb : body c t = .ok () v) : runInstr body s = .next (endsThere c s v) := by
  have hi := h.1
  unfold runInstr
  rw [hi]
  simp only
  rw [runBody_done h (v := v)]
  rw [run_bind_ok hb]; rfl

/-- An instruction that raises an exception. -/
theorem runInstr_stop {c : CtxId} {s t v : State} {body : CtxId → M Unit} {e : Stop} (h : Begins c s t)
    (hb : body c t = .error e v) : runInstr body s = .next (afterStop c s v e) := by
  have hi := h.1
  unfold runInstr
  rw [hi]
  simp only
  rw [runBody_stop h (v := v) (e := e)]
  rw [run_bind_error hb]

theorem runSeq_stop {c : CtxId} {s t v : State} {body : CtxId → M Unit} {e : Stop} (h : Begins c s t)
    (hb : body c t = .error e v) : runSeq body s = .next (afterStop c s v e) :=
  runInstr_stop h (run_bind_error hb)

/-- An instruction that may stay unretired: retired. -/
theorem runHold_ends {c : CtxId} {s t v : State} {body : CtxId → M Bool} (h : Begins c s t)
    (hb : body c t = .ok true v) : runHold body s = .next (endsThere c s v) := by
  have hi := h.1
  unfold runHold
  rw [hi]
  simp only
  rw [runBody_done h hb]

/-- An instruction in whose step a storage error strikes: it goes on at PC + 4. -/
theorem runEcc_ends {c : CtxId} {s t v : State} {ecc : Option EccEvent} {body : CtxId → M Unit}
    (hi : issuing s = some c) (h : Begins c (strike c ecc s) t) (hb : body c t = .ok () v) :
    runEcc ecc body s = .next (ends c (strike c ecc s) v) := by
  unfold runEcc
  rw [hi]
  exact runSeq_ends h hb

/-! ## Operands -/

theorem run_postIncrement (c : CtxId) (m : BitVec 3) (d : BitVec 22) (s : State) :
    postIncrement c m d s = .ok () (s.modCtx c (incY m d)) := by
  unfold postIncrement incY
  by_cases h : m = 2
  · simp [h]
  · have : (m == 2) = false := by simpa using h
    simp only [this, h, if_false]
    exact congrArg _ (modCtx_id s c).symm

/-- A check that passes changes nothing. -/
theorem ite_pass {b : Bool} {e : M Unit} {s t : State} (h : (if b = true then e else pure ()) s = .ok () t)
    (he : ∀ t, e s ≠ .ok () t) : b = false ∧ t = s := by
  cases b with
  | false => exact ⟨rfl, by cases h; rfl⟩
  | true => exact absurd h (he t)

/-- A read-class instruction whose operands carry accepted tags gets A and its operand (R103, R132). -/
theorem readPair_ok {c : CtxId} {m : BitVec 3} {d : BitVec 22} {t u : State} {a b : TWord} {accA : Tag → Bool}
    {accOp : Tag → Tag → Bool} {extra : M Unit} (hr : Reads c m d t b u) (ha : (t.getCtx c).getA = a)
    (h1 : accA a.tag = true) (h2 : accOp a.tag b.tag = true) (hx : extra t = .ok () t) (hx' : extra u = .ok () u) :
    readPair c m d accA accOp extra t = .ok (a, b) u := by
  obtain ⟨⟨hm, hb⟩, hr⟩ := hr
  unfold readPair
  rw [run_bind_ok hm, run_bind_ok (run_getC c t)]
  simp only [ha, h1, Bool.not_true, Bool.false_eq_true, if_false]
  by_cases hi : (m == 0 || m == 4) = true
  · rw [if_pos hi, run_bind_ok hr]
    simp only [h2, Bool.not_true, Bool.false_eq_true, if_false]
    exact run_bind_ok hx'
  · rw [if_neg hi, run_bind_ok hx, run_bind_ok hb, run_bind_ok hr]
    simp only [h2, Bool.not_true, Bool.false_eq_true, if_false]
    rfl

end Sys2Proof.Machine
end

