-- ==== Sys2Proof/Laws/State.lean ====
section
/-!
SUPPORT. What each update of the state leaves as it was: one law per field, so that no proof unfolds a record update. Where the update is
more than one record, a lemma of its form says which fields it can change.
-/

namespace Sys2Proof.Machine

open Sys2Proof


/-! ## `State.setCtx` -/

@[simp] theorem State.setCtx_boot (s : State) (c : CtxId) (k : Ctx) : (s.setCtx c k).boot = s.boot := rfl
@[simp] theorem State.setCtx_chain (s : State) (c : CtxId) (k : Ctx) : (s.setCtx c k).chain = s.chain := rfl
@[simp] theorem State.setCtx_pins (s : State) (c : CtxId) (k : Ctx) : (s.setCtx c k).pins = s.pins := rfl
@[simp] theorem State.setCtx_keys (s : State) (c : CtxId) (k : Ctx) : (s.setCtx c k).keys = s.keys := rfl
@[simp] theorem State.setCtx_rel (s : State) (c : CtxId) (k : Ctx) : (s.setCtx c k).rel = s.rel := rfl
@[simp] theorem State.setCtx_toll (s : State) (c : CtxId) (k : Ctx) : (s.setCtx c k).toll = s.toll := rfl
@[simp] theorem State.setCtx_pace (s : State) (c : CtxId) (k : Ctx) : (s.setCtx c k).pace = s.pace := rfl
@[simp] theorem State.setCtx_time (s : State) (c : CtxId) (k : Ctx) : (s.setCtx c k).time = s.time := rfl
@[simp] theorem State.setCtx_perf (s : State) (c : CtxId) (k : Ctx) : (s.setCtx c k).perf = s.perf := rfl
@[simp] theorem State.setCtx_trace (s : State) (c : CtxId) (k : Ctx) : (s.setCtx c k).trace = s.trace := rfl
@[simp] theorem State.setCtx_intr (s : State) (c : CtxId) (k : Ctx) : (s.setCtx c k).intr = s.intr := rfl
@[simp] theorem State.setCtx_drover (s : State) (c : CtxId) (k : Ctx) : (s.setCtx c k).drover = s.drover := rfl
@[simp] theorem State.setCtx_pamb (s : State) (c : CtxId) (k : Ctx) : (s.setCtx c k).pamb = s.pamb := rfl
@[simp] theorem State.setCtx_paml (s : State) (c : CtxId) (k : Ctx) : (s.setCtx c k).paml = s.paml := rfl
@[simp] theorem State.setCtx_spad (s : State) (c : CtxId) (k : Ctx) : (s.setCtx c k).spad = s.spad := rfl
@[simp] theorem State.setCtx_coldCount (s : State) (c : CtxId) (k : Ctx) : (s.setCtx c k).coldCount = s.coldCount := rfl
@[simp] theorem State.setCtx_caches (s : State) (c : CtxId) (k : Ctx) : (s.setCtx c k).caches = s.caches := rfl
@[simp] theorem State.setCtx_tlbs (s : State) (c : CtxId) (k : Ctx) : (s.setCtx c k).tlbs = s.tlbs := rfl
@[simp] theorem State.setCtx_mesh (s : State) (c : CtxId) (k : Ctx) : (s.setCtx c k).mesh = s.mesh := rfl
@[simp] theorem State.setCtx_mover (s : State) (c : CtxId) (k : Ctx) : (s.setCtx c k).mover = s.mover := rfl
@[simp] theorem State.setCtx_cw (s : State) (c : CtxId) (k : Ctx) : (s.setCtx c k).cw = s.cw := rfl
@[simp] theorem State.setCtx_coop (s : State) (c : CtxId) (k : Ctx) : (s.setCtx c k).coop = s.coop := rfl
@[simp] theorem State.setCtx_cp (s : State) (c : CtxId) (k : Ctx) : (s.setCtx c k).cp = s.cp := rfl
@[simp] theorem State.setCtx_tile (s : State) (c : CtxId) (k : Ctx) : (s.setCtx c k).tile = s.tile := rfl
@[simp] theorem State.setCtx_free (s : State) (c : CtxId) (k : Ctx) : (s.setCtx c k).free = s.free := rfl
@[simp] theorem State.setCtx_pending (s : State) (c : CtxId) (k : Ctx) : (s.setCtx c k).pending = s.pending := rfl

/-! ## `State.modCtx` -/

@[simp] theorem State.modCtx_boot (s : State) (c : CtxId) (f : Ctx → Ctx) : (s.modCtx c f).boot = s.boot := rfl
@[simp] theorem State.modCtx_chain (s : State) (c : CtxId) (f : Ctx → Ctx) : (s.modCtx c f).chain = s.chain := rfl
@[simp] theorem State.modCtx_pins (s : State) (c : CtxId) (f : Ctx → Ctx) : (s.modCtx c f).pins = s.pins := rfl
@[simp] theorem State.modCtx_keys (s : State) (c : CtxId) (f : Ctx → Ctx) : (s.modCtx c f).keys = s.keys := rfl
@[simp] theorem State.modCtx_rel (s : State) (c : CtxId) (f : Ctx → Ctx) : (s.modCtx c f).rel = s.rel := rfl
@[simp] theorem State.modCtx_toll (s : State) (c : CtxId) (f : Ctx → Ctx) : (s.modCtx c f).toll = s.toll := rfl
@[simp] theorem State.modCtx_pace (s : State) (c : CtxId) (f : Ctx → Ctx) : (s.modCtx c f).pace = s.pace := rfl
@[simp] theorem State.modCtx_time (s : State) (c : CtxId) (f : Ctx → Ctx) : (s.modCtx c f).time = s.time := rfl
@[simp] theorem State.modCtx_perf (s : State) (c : CtxId) (f : Ctx → Ctx) : (s.modCtx c f).perf = s.perf := rfl
@[simp] theorem State.modCtx_trace (s : State) (c : CtxId) (f : Ctx → Ctx) : (s.modCtx c f).trace = s.trace := rfl
@[simp] theorem State.modCtx_intr (s : State) (c : CtxId) (f : Ctx → Ctx) : (s.modCtx c f).intr = s.intr := rfl
@[simp] theorem State.modCtx_drover (s : State) (c : CtxId) (f : Ctx → Ctx) : (s.modCtx c f).drover = s.drover := rfl
@[simp] theorem State.modCtx_pamb (s : State) (c : CtxId) (f : Ctx → Ctx) : (s.modCtx c f).pamb = s.pamb := rfl
@[simp] theorem State.modCtx_paml (s : State) (c : CtxId) (f : Ctx → Ctx) : (s.modCtx c f).paml = s.paml := rfl
@[simp] theorem State.modCtx_spad (s : State) (c : CtxId) (f : Ctx → Ctx) : (s.modCtx c f).spad = s.spad := rfl
@[simp] theorem State.modCtx_coldCount (s : State) (c : CtxId) (f : Ctx → Ctx) : (s.modCtx c f).coldCount = s.coldCount := rfl
@[simp] theorem State.modCtx_caches (s : State) (c : CtxId) (f : Ctx → Ctx) : (s.modCtx c f).caches = s.caches := rfl
@[simp] theorem State.modCtx_tlbs (s : State) (c : CtxId) (f : Ctx → Ctx) : (s.modCtx c f).tlbs = s.tlbs := rfl
@[simp] theorem State.modCtx_mesh (s : State) (c : CtxId) (f : Ctx → Ctx) : (s.modCtx c f).mesh = s.mesh := rfl
@[simp] theorem State.modCtx_mover (s : State) (c : CtxId) (f : Ctx → Ctx) : (s.modCtx c f).mover = s.mover := rfl
@[simp] theorem State.modCtx_cw (s : State) (c : CtxId) (f : Ctx → Ctx) : (s.modCtx c f).cw = s.cw := rfl
@[simp] theorem State.modCtx_coop (s : State) (c : CtxId) (f : Ctx → Ctx) : (s.modCtx c f).coop = s.coop := rfl
@[simp] theorem State.modCtx_cp (s : State) (c : CtxId) (f : Ctx → Ctx) : (s.modCtx c f).cp = s.cp := rfl
@[simp] theorem State.modCtx_tile (s : State) (c : CtxId) (f : Ctx → Ctx) : (s.modCtx c f).tile = s.tile := rfl
@[simp] theorem State.modCtx_free (s : State) (c : CtxId) (f : Ctx → Ctx) : (s.modCtx c f).free = s.free := rfl
@[simp] theorem State.modCtx_pending (s : State) (c : CtxId) (f : Ctx → Ctx) : (s.modCtx c f).pending = s.pending := rfl

/-! ## `begun` -/

@[simp] theorem begun_boot (s : State) (c : CtxId) : (begun c s).boot = s.boot := rfl
@[simp] theorem begun_chain (s : State) (c : CtxId) : (begun c s).chain = s.chain := rfl
@[simp] theorem begun_pins (s : State) (c : CtxId) : (begun c s).pins = s.pins := rfl
@[simp] theorem begun_keys (s : State) (c : CtxId) : (begun c s).keys = s.keys := rfl
@[simp] theorem begun_rel (s : State) (c : CtxId) : (begun c s).rel = s.rel := rfl
@[simp] theorem begun_toll (s : State) (c : CtxId) : (begun c s).toll = s.toll := rfl
@[simp] theorem begun_pace (s : State) (c : CtxId) : (begun c s).pace = s.pace := rfl
@[simp] theorem begun_time (s : State) (c : CtxId) : (begun c s).time = s.time := rfl
@[simp] theorem begun_perf (s : State) (c : CtxId) : (begun c s).perf = s.perf := rfl
@[simp] theorem begun_trace (s : State) (c : CtxId) : (begun c s).trace = s.trace := rfl
@[simp] theorem begun_intr (s : State) (c : CtxId) : (begun c s).intr = s.intr := rfl
@[simp] theorem begun_drover (s : State) (c : CtxId) : (begun c s).drover = s.drover := rfl
@[simp] theorem begun_pamb (s : State) (c : CtxId) : (begun c s).pamb = s.pamb := rfl
@[simp] theorem begun_paml (s : State) (c : CtxId) : (begun c s).paml = s.paml := rfl
@[simp] theorem begun_spad (s : State) (c : CtxId) : (begun c s).spad = s.spad := rfl
@[simp] theorem begun_coldCount (s : State) (c : CtxId) : (begun c s).coldCount = s.coldCount := rfl
@[simp] theorem begun_caches (s : State) (c : CtxId) : (begun c s).caches = s.caches := rfl
@[simp] theorem begun_tlbs (s : State) (c : CtxId) : (begun c s).tlbs = s.tlbs := rfl
@[simp] theorem begun_mesh (s : State) (c : CtxId) : (begun c s).mesh = s.mesh := rfl
@[simp] theorem begun_mover (s : State) (c : CtxId) : (begun c s).mover = s.mover := rfl
@[simp] theorem begun_cw (s : State) (c : CtxId) : (begun c s).cw = s.cw := rfl
@[simp] theorem begun_coop (s : State) (c : CtxId) : (begun c s).coop = s.coop := rfl
@[simp] theorem begun_cp (s : State) (c : CtxId) : (begun c s).cp = s.cp := rfl
@[simp] theorem begun_tile (s : State) (c : CtxId) : (begun c s).tile = s.tile := rfl
@[simp] theorem begun_free (s : State) (c : CtxId) : (begun c s).free = s.free := rfl
@[simp] theorem begun_pending (s : State) (c : CtxId) : (begun c s).pending = s.pending := rfl

/-! ## `wakeIrqs` -/

/-- The form of `wakeIrqs`: nothing changes but ctx. -/
theorem wakeIrqs_form (s : State) :
    wakeIrqs s = { s with ctx := (wakeIrqs s).ctx } := by
  have step : ∀ (l : List CtxId) (t : State), l.foldl (fun t c => wakeByIrq c t) t =
      { t with ctx := (l.foldl (fun t c => wakeByIrq c t) t).ctx } := by
    intro l
    induction l with
    | nil => intro t; rfl
    | cons c l ih =>
      intro t
      simp only [List.foldl_cons]
      have h : wakeByIrq c t = { t with ctx := (wakeByIrq c t).ctx } := by unfold wakeByIrq; split <;> rfl
      rw [ih, h]
  exact step _ s

@[simp] theorem wakeIrqs_boot (s : State) : (wakeIrqs s).boot = s.boot := by rw [wakeIrqs_form]
@[simp] theorem wakeIrqs_chain (s : State) : (wakeIrqs s).chain = s.chain := by rw [wakeIrqs_form]
@[simp] theorem wakeIrqs_pins (s : State) : (wakeIrqs s).pins = s.pins := by rw [wakeIrqs_form]
@[simp] theorem wakeIrqs_keys (s : State) : (wakeIrqs s).keys = s.keys := by rw [wakeIrqs_form]
@[simp] theorem wakeIrqs_rel (s : State) : (wakeIrqs s).rel = s.rel := by rw [wakeIrqs_form]
@[simp] theorem wakeIrqs_toll (s : State) : (wakeIrqs s).toll = s.toll := by rw [wakeIrqs_form]
@[simp] theorem wakeIrqs_pace (s : State) : (wakeIrqs s).pace = s.pace := by rw [wakeIrqs_form]
@[simp] theorem wakeIrqs_time (s : State) : (wakeIrqs s).time = s.time := by rw [wakeIrqs_form]
@[simp] theorem wakeIrqs_perf (s : State) : (wakeIrqs s).perf = s.perf := by rw [wakeIrqs_form]
@[simp] theorem wakeIrqs_trace (s : State) : (wakeIrqs s).trace = s.trace := by rw [wakeIrqs_form]
@[simp] theorem wakeIrqs_intr (s : State) : (wakeIrqs s).intr = s.intr := by rw [wakeIrqs_form]
@[simp] theorem wakeIrqs_drover (s : State) : (wakeIrqs s).drover = s.drover := by rw [wakeIrqs_form]
@[simp] theorem wakeIrqs_pamb (s : State) : (wakeIrqs s).pamb = s.pamb := by rw [wakeIrqs_form]
@[simp] theorem wakeIrqs_paml (s : State) : (wakeIrqs s).paml = s.paml := by rw [wakeIrqs_form]
@[simp] theorem wakeIrqs_spad (s : State) : (wakeIrqs s).spad = s.spad := by rw [wakeIrqs_form]
@[simp] theorem wakeIrqs_coldCount (s : State) : (wakeIrqs s).coldCount = s.coldCount := by rw [wakeIrqs_form]
@[simp] theorem wakeIrqs_caches (s : State) : (wakeIrqs s).caches = s.caches := by rw [wakeIrqs_form]
@[simp] theorem wakeIrqs_tlbs (s : State) : (wakeIrqs s).tlbs = s.tlbs := by rw [wakeIrqs_form]
@[simp] theorem wakeIrqs_mesh (s : State) : (wakeIrqs s).mesh = s.mesh := by rw [wakeIrqs_form]
@[simp] theorem wakeIrqs_mover (s : State) : (wakeIrqs s).mover = s.mover := by rw [wakeIrqs_form]
@[simp] theorem wakeIrqs_cw (s : State) : (wakeIrqs s).cw = s.cw := by rw [wakeIrqs_form]
@[simp] theorem wakeIrqs_coop (s : State) : (wakeIrqs s).coop = s.coop := by rw [wakeIrqs_form]
@[simp] theorem wakeIrqs_cp (s : State) : (wakeIrqs s).cp = s.cp := by rw [wakeIrqs_form]
@[simp] theorem wakeIrqs_tile (s : State) : (wakeIrqs s).tile = s.tile := by rw [wakeIrqs_form]
@[simp] theorem wakeIrqs_free (s : State) : (wakeIrqs s).free = s.free := by rw [wakeIrqs_form]
@[simp] theorem wakeIrqs_pending (s : State) : (wakeIrqs s).pending = s.pending := by rw [wakeIrqs_form]

/-! ## `setPend` -/

/-- The form of `setPend`: nothing changes but ctx, intr. -/
theorem setPend_form (s : State) (v : Nat) :
    setPend v s = { s with ctx := (setPend v s).ctx, intr := (setPend v s).intr } := by
  unfold setPend
  rw [wakeIrqs_form]

@[simp] theorem setPend_boot (s : State) (v : Nat) : (setPend v s).boot = s.boot := by rw [setPend_form]
@[simp] theorem setPend_chain (s : State) (v : Nat) : (setPend v s).chain = s.chain := by rw [setPend_form]
@[simp] theorem setPend_pins (s : State) (v : Nat) : (setPend v s).pins = s.pins := by rw [setPend_form]
@[simp] theorem setPend_keys (s : State) (v : Nat) : (setPend v s).keys = s.keys := by rw [setPend_form]
@[simp] theorem setPend_rel (s : State) (v : Nat) : (setPend v s).rel = s.rel := by rw [setPend_form]
@[simp] theorem setPend_toll (s : State) (v : Nat) : (setPend v s).toll = s.toll := by rw [setPend_form]
@[simp] theorem setPend_pace (s : State) (v : Nat) : (setPend v s).pace = s.pace := by rw [setPend_form]
@[simp] theorem setPend_time (s : State) (v : Nat) : (setPend v s).time = s.time := by rw [setPend_form]
@[simp] theorem setPend_perf (s : State) (v : Nat) : (setPend v s).perf = s.perf := by rw [setPend_form]
@[simp] theorem setPend_trace (s : State) (v : Nat) : (setPend v s).trace = s.trace := by rw [setPend_form]
@[simp] theorem setPend_drover (s : State) (v : Nat) : (setPend v s).drover = s.drover := by rw [setPend_form]
@[simp] theorem setPend_pamb (s : State) (v : Nat) : (setPend v s).pamb = s.pamb := by rw [setPend_form]
@[simp] theorem setPend_paml (s : State) (v : Nat) : (setPend v s).paml = s.paml := by rw [setPend_form]
@[simp] theorem setPend_spad (s : State) (v : Nat) : (setPend v s).spad = s.spad := by rw [setPend_form]
@[simp] theorem setPend_coldCount (s : State) (v : Nat) : (setPend v s).coldCount = s.coldCount := by rw [setPend_form]
@[simp] theorem setPend_caches (s : State) (v : Nat) : (setPend v s).caches = s.caches := by rw [setPend_form]
@[simp] theorem setPend_tlbs (s : State) (v : Nat) : (setPend v s).tlbs = s.tlbs := by rw [setPend_form]
@[simp] theorem setPend_mesh (s : State) (v : Nat) : (setPend v s).mesh = s.mesh := by rw [setPend_form]
@[simp] theorem setPend_mover (s : State) (v : Nat) : (setPend v s).mover = s.mover := by rw [setPend_form]
@[simp] theorem setPend_cw (s : State) (v : Nat) : (setPend v s).cw = s.cw := by rw [setPend_form]
@[simp] theorem setPend_coop (s : State) (v : Nat) : (setPend v s).coop = s.coop := by rw [setPend_form]
@[simp] theorem setPend_cp (s : State) (v : Nat) : (setPend v s).cp = s.cp := by rw [setPend_form]
@[simp] theorem setPend_tile (s : State) (v : Nat) : (setPend v s).tile = s.tile := by rw [setPend_form]
@[simp] theorem setPend_free (s : State) (v : Nat) : (setPend v s).free = s.free := by rw [setPend_form]
@[simp] theorem setPend_pending (s : State) (v : Nat) : (setPend v s).pending = s.pending := by rw [setPend_form]

/-! ## `setEvent` -/

@[simp] theorem setEvent_boot (s : State) (c : CtxId) (k : Nat) : (setEvent c k s).boot = s.boot := rfl
@[simp] theorem setEvent_chain (s : State) (c : CtxId) (k : Nat) : (setEvent c k s).chain = s.chain := rfl
@[simp] theorem setEvent_pins (s : State) (c : CtxId) (k : Nat) : (setEvent c k s).pins = s.pins := rfl
@[simp] theorem setEvent_keys (s : State) (c : CtxId) (k : Nat) : (setEvent c k s).keys = s.keys := rfl
@[simp] theorem setEvent_rel (s : State) (c : CtxId) (k : Nat) : (setEvent c k s).rel = s.rel := rfl
@[simp] theorem setEvent_toll (s : State) (c : CtxId) (k : Nat) : (setEvent c k s).toll = s.toll := rfl
@[simp] theorem setEvent_pace (s : State) (c : CtxId) (k : Nat) : (setEvent c k s).pace = s.pace := rfl
@[simp] theorem setEvent_time (s : State) (c : CtxId) (k : Nat) : (setEvent c k s).time = s.time := rfl
@[simp] theorem setEvent_perf (s : State) (c : CtxId) (k : Nat) : (setEvent c k s).perf = s.perf := rfl
@[simp] theorem setEvent_trace (s : State) (c : CtxId) (k : Nat) : (setEvent c k s).trace = s.trace := rfl
@[simp] theorem setEvent_intr (s : State) (c : CtxId) (k : Nat) : (setEvent c k s).intr = s.intr := rfl
@[simp] theorem setEvent_drover (s : State) (c : CtxId) (k : Nat) : (setEvent c k s).drover = s.drover := rfl
@[simp] theorem setEvent_pamb (s : State) (c : CtxId) (k : Nat) : (setEvent c k s).pamb = s.pamb := rfl
@[simp] theorem setEvent_paml (s : State) (c : CtxId) (k : Nat) : (setEvent c k s).paml = s.paml := rfl
@[simp] theorem setEvent_spad (s : State) (c : CtxId) (k : Nat) : (setEvent c k s).spad = s.spad := rfl
@[simp] theorem setEvent_coldCount (s : State) (c : CtxId) (k : Nat) : (setEvent c k s).coldCount = s.coldCount := rfl
@[simp] theorem setEvent_caches (s : State) (c : CtxId) (k : Nat) : (setEvent c k s).caches = s.caches := rfl
@[simp] theorem setEvent_tlbs (s : State) (c : CtxId) (k : Nat) : (setEvent c k s).tlbs = s.tlbs := rfl
@[simp] theorem setEvent_mesh (s : State) (c : CtxId) (k : Nat) : (setEvent c k s).mesh = s.mesh := rfl
@[simp] theorem setEvent_mover (s : State) (c : CtxId) (k : Nat) : (setEvent c k s).mover = s.mover := rfl
@[simp] theorem setEvent_cw (s : State) (c : CtxId) (k : Nat) : (setEvent c k s).cw = s.cw := rfl
@[simp] theorem setEvent_coop (s : State) (c : CtxId) (k : Nat) : (setEvent c k s).coop = s.coop := rfl
@[simp] theorem setEvent_cp (s : State) (c : CtxId) (k : Nat) : (setEvent c k s).cp = s.cp := rfl
@[simp] theorem setEvent_tile (s : State) (c : CtxId) (k : Nat) : (setEvent c k s).tile = s.tile := rfl
@[simp] theorem setEvent_free (s : State) (c : CtxId) (k : Nat) : (setEvent c k s).free = s.free := rfl
@[simp] theorem setEvent_pending (s : State) (c : CtxId) (k : Nat) : (setEvent c k s).pending = s.pending := rfl

/-! ## `setMover` -/

@[simp] theorem setMover_ctx (s : State) (ch : BitVec 3) (m : MoverCh) : (setMover ch m s).ctx = s.ctx := rfl
@[simp] theorem setMover_boot (s : State) (ch : BitVec 3) (m : MoverCh) : (setMover ch m s).boot = s.boot := rfl
@[simp] theorem setMover_chain (s : State) (ch : BitVec 3) (m : MoverCh) : (setMover ch m s).chain = s.chain := rfl
@[simp] theorem setMover_pins (s : State) (ch : BitVec 3) (m : MoverCh) : (setMover ch m s).pins = s.pins := rfl
@[simp] theorem setMover_keys (s : State) (ch : BitVec 3) (m : MoverCh) : (setMover ch m s).keys = s.keys := rfl
@[simp] theorem setMover_rel (s : State) (ch : BitVec 3) (m : MoverCh) : (setMover ch m s).rel = s.rel := rfl
@[simp] theorem setMover_toll (s : State) (ch : BitVec 3) (m : MoverCh) : (setMover ch m s).toll = s.toll := rfl
@[simp] theorem setMover_pace (s : State) (ch : BitVec 3) (m : MoverCh) : (setMover ch m s).pace = s.pace := rfl
@[simp] theorem setMover_time (s : State) (ch : BitVec 3) (m : MoverCh) : (setMover ch m s).time = s.time := rfl
@[simp] theorem setMover_perf (s : State) (ch : BitVec 3) (m : MoverCh) : (setMover ch m s).perf = s.perf := rfl
@[simp] theorem setMover_trace (s : State) (ch : BitVec 3) (m : MoverCh) : (setMover ch m s).trace = s.trace := rfl
@[simp] theorem setMover_intr (s : State) (ch : BitVec 3) (m : MoverCh) : (setMover ch m s).intr = s.intr := rfl
@[simp] theorem setMover_drover (s : State) (ch : BitVec 3) (m : MoverCh) : (setMover ch m s).drover = s.drover := rfl
@[simp] theorem setMover_pamb (s : State) (ch : BitVec 3) (m : MoverCh) : (setMover ch m s).pamb = s.pamb := rfl
@[simp] theorem setMover_paml (s : State) (ch : BitVec 3) (m : MoverCh) : (setMover ch m s).paml = s.paml := rfl
@[simp] theorem setMover_spad (s : State) (ch : BitVec 3) (m : MoverCh) : (setMover ch m s).spad = s.spad := rfl
@[simp] theorem setMover_coldCount (s : State) (ch : BitVec 3) (m : MoverCh) : (setMover ch m s).coldCount = s.coldCount := rfl
@[simp] theorem setMover_caches (s : State) (ch : BitVec 3) (m : MoverCh) : (setMover ch m s).caches = s.caches := rfl
@[simp] theorem setMover_tlbs (s : State) (ch : BitVec 3) (m : MoverCh) : (setMover ch m s).tlbs = s.tlbs := rfl
@[simp] theorem setMover_mesh (s : State) (ch : BitVec 3) (m : MoverCh) : (setMover ch m s).mesh = s.mesh := rfl
@[simp] theorem setMover_cw (s : State) (ch : BitVec 3) (m : MoverCh) : (setMover ch m s).cw = s.cw := rfl
@[simp] theorem setMover_coop (s : State) (ch : BitVec 3) (m : MoverCh) : (setMover ch m s).coop = s.coop := rfl
@[simp] theorem setMover_cp (s : State) (ch : BitVec 3) (m : MoverCh) : (setMover ch m s).cp = s.cp := rfl
@[simp] theorem setMover_tile (s : State) (ch : BitVec 3) (m : MoverCh) : (setMover ch m s).tile = s.tile := rfl
@[simp] theorem setMover_free (s : State) (ch : BitVec 3) (m : MoverCh) : (setMover ch m s).free = s.free := rfl
@[simp] theorem setMover_pending (s : State) (ch : BitVec 3) (m : MoverCh) : (setMover ch m s).pending = s.pending := rfl

/-! ## `setCw` -/

@[simp] theorem setCw_ctx (s : State) (ch : BitVec 4) (k : CwCh) : (setCw ch k s).ctx = s.ctx := rfl
@[simp] theorem setCw_boot (s : State) (ch : BitVec 4) (k : CwCh) : (setCw ch k s).boot = s.boot := rfl
@[simp] theorem setCw_chain (s : State) (ch : BitVec 4) (k : CwCh) : (setCw ch k s).chain = s.chain := rfl
@[simp] theorem setCw_pins (s : State) (ch : BitVec 4) (k : CwCh) : (setCw ch k s).pins = s.pins := rfl
@[simp] theorem setCw_keys (s : State) (ch : BitVec 4) (k : CwCh) : (setCw ch k s).keys = s.keys := rfl
@[simp] theorem setCw_rel (s : State) (ch : BitVec 4) (k : CwCh) : (setCw ch k s).rel = s.rel := rfl
@[simp] theorem setCw_toll (s : State) (ch : BitVec 4) (k : CwCh) : (setCw ch k s).toll = s.toll := rfl
@[simp] theorem setCw_pace (s : State) (ch : BitVec 4) (k : CwCh) : (setCw ch k s).pace = s.pace := rfl
@[simp] theorem setCw_time (s : State) (ch : BitVec 4) (k : CwCh) : (setCw ch k s).time = s.time := rfl
@[simp] theorem setCw_perf (s : State) (ch : BitVec 4) (k : CwCh) : (setCw ch k s).perf = s.perf := rfl
@[simp] theorem setCw_trace (s : State) (ch : BitVec 4) (k : CwCh) : (setCw ch k s).trace = s.trace := rfl
@[simp] theorem setCw_intr (s : State) (ch : BitVec 4) (k : CwCh) : (setCw ch k s).intr = s.intr := rfl
@[simp] theorem setCw_drover (s : State) (ch : BitVec 4) (k : CwCh) : (setCw ch k s).drover = s.drover := rfl
@[simp] theorem setCw_pamb (s : State) (ch : BitVec 4) (k : CwCh) : (setCw ch k s).pamb = s.pamb := rfl
@[simp] theorem setCw_paml (s : State) (ch : BitVec 4) (k : CwCh) : (setCw ch k s).paml = s.paml := rfl
@[simp] theorem setCw_spad (s : State) (ch : BitVec 4) (k : CwCh) : (setCw ch k s).spad = s.spad := rfl
@[simp] theorem setCw_coldCount (s : State) (ch : BitVec 4) (k : CwCh) : (setCw ch k s).coldCount = s.coldCount := rfl
@[simp] theorem setCw_caches (s : State) (ch : BitVec 4) (k : CwCh) : (setCw ch k s).caches = s.caches := rfl
@[simp] theorem setCw_tlbs (s : State) (ch : BitVec 4) (k : CwCh) : (setCw ch k s).tlbs = s.tlbs := rfl
@[simp] theorem setCw_mesh (s : State) (ch : BitVec 4) (k : CwCh) : (setCw ch k s).mesh = s.mesh := rfl
@[simp] theorem setCw_mover (s : State) (ch : BitVec 4) (k : CwCh) : (setCw ch k s).mover = s.mover := rfl
@[simp] theorem setCw_coop (s : State) (ch : BitVec 4) (k : CwCh) : (setCw ch k s).coop = s.coop := rfl
@[simp] theorem setCw_cp (s : State) (ch : BitVec 4) (k : CwCh) : (setCw ch k s).cp = s.cp := rfl
@[simp] theorem setCw_tile (s : State) (ch : BitVec 4) (k : CwCh) : (setCw ch k s).tile = s.tile := rfl
@[simp] theorem setCw_free (s : State) (ch : BitVec 4) (k : CwCh) : (setCw ch k s).free = s.free := rfl
@[simp] theorem setCw_pending (s : State) (ch : BitVec 4) (k : CwCh) : (setCw ch k s).pending = s.pending := rfl

/-! ## `setWork` -/

@[simp] theorem setWork_ctx (s : State) (w : BitVec 3) (k : WorkCtr) : (setWork w k s).ctx = s.ctx := rfl
@[simp] theorem setWork_boot (s : State) (w : BitVec 3) (k : WorkCtr) : (setWork w k s).boot = s.boot := rfl
@[simp] theorem setWork_chain (s : State) (w : BitVec 3) (k : WorkCtr) : (setWork w k s).chain = s.chain := rfl
@[simp] theorem setWork_pins (s : State) (w : BitVec 3) (k : WorkCtr) : (setWork w k s).pins = s.pins := rfl
@[simp] theorem setWork_keys (s : State) (w : BitVec 3) (k : WorkCtr) : (setWork w k s).keys = s.keys := rfl
@[simp] theorem setWork_rel (s : State) (w : BitVec 3) (k : WorkCtr) : (setWork w k s).rel = s.rel := rfl
@[simp] theorem setWork_toll (s : State) (w : BitVec 3) (k : WorkCtr) : (setWork w k s).toll = s.toll := rfl
@[simp] theorem setWork_pace (s : State) (w : BitVec 3) (k : WorkCtr) : (setWork w k s).pace = s.pace := rfl
@[simp] theorem setWork_time (s : State) (w : BitVec 3) (k : WorkCtr) : (setWork w k s).time = s.time := rfl
@[simp] theorem setWork_perf (s : State) (w : BitVec 3) (k : WorkCtr) : (setWork w k s).perf = s.perf := rfl
@[simp] theorem setWork_trace (s : State) (w : BitVec 3) (k : WorkCtr) : (setWork w k s).trace = s.trace := rfl
@[simp] theorem setWork_intr (s : State) (w : BitVec 3) (k : WorkCtr) : (setWork w k s).intr = s.intr := rfl
@[simp] theorem setWork_drover (s : State) (w : BitVec 3) (k : WorkCtr) : (setWork w k s).drover = s.drover := rfl
@[simp] theorem setWork_pamb (s : State) (w : BitVec 3) (k : WorkCtr) : (setWork w k s).pamb = s.pamb := rfl
@[simp] theorem setWork_paml (s : State) (w : BitVec 3) (k : WorkCtr) : (setWork w k s).paml = s.paml := rfl
@[simp] theorem setWork_spad (s : State) (w : BitVec 3) (k : WorkCtr) : (setWork w k s).spad = s.spad := rfl
@[simp] theorem setWork_coldCount (s : State) (w : BitVec 3) (k : WorkCtr) : (setWork w k s).coldCount = s.coldCount := rfl
@[simp] theorem setWork_caches (s : State) (w : BitVec 3) (k : WorkCtr) : (setWork w k s).caches = s.caches := rfl
@[simp] theorem setWork_tlbs (s : State) (w : BitVec 3) (k : WorkCtr) : (setWork w k s).tlbs = s.tlbs := rfl
@[simp] theorem setWork_mesh (s : State) (w : BitVec 3) (k : WorkCtr) : (setWork w k s).mesh = s.mesh := rfl
@[simp] theorem setWork_mover (s : State) (w : BitVec 3) (k : WorkCtr) : (setWork w k s).mover = s.mover := rfl
@[simp] theorem setWork_cw (s : State) (w : BitVec 3) (k : WorkCtr) : (setWork w k s).cw = s.cw := rfl
@[simp] theorem setWork_cp (s : State) (w : BitVec 3) (k : WorkCtr) : (setWork w k s).cp = s.cp := rfl
@[simp] theorem setWork_tile (s : State) (w : BitVec 3) (k : WorkCtr) : (setWork w k s).tile = s.tile := rfl
@[simp] theorem setWork_free (s : State) (w : BitVec 3) (k : WorkCtr) : (setWork w k s).free = s.free := rfl
@[simp] theorem setWork_pending (s : State) (w : BitVec 3) (k : WorkCtr) : (setWork w k s).pending = s.pending := rfl

/-! ## `clearLatent` -/

/-- The form of `clearLatent`: nothing changes but rel. -/
theorem clearLatent_form (s : State) (n : BitVec 3) (p : EccEvent → Bool) :
    clearLatent n p s = { s with rel := (clearLatent n p s).rel } := by
  unfold clearLatent
  split <;> rfl

@[simp] theorem clearLatent_ctx (s : State) (n : BitVec 3) (p : EccEvent → Bool) : (clearLatent n p s).ctx = s.ctx := by rw [clearLatent_form]
@[simp] theorem clearLatent_boot (s : State) (n : BitVec 3) (p : EccEvent → Bool) : (clearLatent n p s).boot = s.boot := by rw [clearLatent_form]
@[simp] theorem clearLatent_chain (s : State) (n : BitVec 3) (p : EccEvent → Bool) : (clearLatent n p s).chain = s.chain := by rw [clearLatent_form]
@[simp] theorem clearLatent_pins (s : State) (n : BitVec 3) (p : EccEvent → Bool) : (clearLatent n p s).pins = s.pins := by rw [clearLatent_form]
@[simp] theorem clearLatent_keys (s : State) (n : BitVec 3) (p : EccEvent → Bool) : (clearLatent n p s).keys = s.keys := by rw [clearLatent_form]
@[simp] theorem clearLatent_toll (s : State) (n : BitVec 3) (p : EccEvent → Bool) : (clearLatent n p s).toll = s.toll := by rw [clearLatent_form]
@[simp] theorem clearLatent_pace (s : State) (n : BitVec 3) (p : EccEvent → Bool) : (clearLatent n p s).pace = s.pace := by rw [clearLatent_form]
@[simp] theorem clearLatent_time (s : State) (n : BitVec 3) (p : EccEvent → Bool) : (clearLatent n p s).time = s.time := by rw [clearLatent_form]
@[simp] theorem clearLatent_perf (s : State) (n : BitVec 3) (p : EccEvent → Bool) : (clearLatent n p s).perf = s.perf := by rw [clearLatent_form]
@[simp] theorem clearLatent_trace (s : State) (n : BitVec 3) (p : EccEvent → Bool) : (clearLatent n p s).trace = s.trace := by rw [clearLatent_form]
@[simp] theorem clearLatent_intr (s : State) (n : BitVec 3) (p : EccEvent → Bool) : (clearLatent n p s).intr = s.intr := by rw [clearLatent_form]
@[simp] theorem clearLatent_drover (s : State) (n : BitVec 3) (p : EccEvent → Bool) : (clearLatent n p s).drover = s.drover := by rw [clearLatent_form]
@[simp] theorem clearLatent_pamb (s : State) (n : BitVec 3) (p : EccEvent → Bool) : (clearLatent n p s).pamb = s.pamb := by rw [clearLatent_form]
@[simp] theorem clearLatent_paml (s : State) (n : BitVec 3) (p : EccEvent → Bool) : (clearLatent n p s).paml = s.paml := by rw [clearLatent_form]
@[simp] theorem clearLatent_spad (s : State) (n : BitVec 3) (p : EccEvent → Bool) : (clearLatent n p s).spad = s.spad := by rw [clearLatent_form]
@[simp] theorem clearLatent_coldCount (s : State) (n : BitVec 3) (p : EccEvent → Bool) : (clearLatent n p s).coldCount = s.coldCount := by rw [clearLatent_form]
@[simp] theorem clearLatent_caches (s : State) (n : BitVec 3) (p : EccEvent → Bool) : (clearLatent n p s).caches = s.caches := by rw [clearLatent_form]
@[simp] theorem clearLatent_tlbs (s : State) (n : BitVec 3) (p : EccEvent → Bool) : (clearLatent n p s).tlbs = s.tlbs := by rw [clearLatent_form]
@[simp] theorem clearLatent_mesh (s : State) (n : BitVec 3) (p : EccEvent → Bool) : (clearLatent n p s).mesh = s.mesh := by rw [clearLatent_form]
@[simp] theorem clearLatent_mover (s : State) (n : BitVec 3) (p : EccEvent → Bool) : (clearLatent n p s).mover = s.mover := by rw [clearLatent_form]
@[simp] theorem clearLatent_cw (s : State) (n : BitVec 3) (p : EccEvent → Bool) : (clearLatent n p s).cw = s.cw := by rw [clearLatent_form]
@[simp] theorem clearLatent_coop (s : State) (n : BitVec 3) (p : EccEvent → Bool) : (clearLatent n p s).coop = s.coop := by rw [clearLatent_form]
@[simp] theorem clearLatent_cp (s : State) (n : BitVec 3) (p : EccEvent → Bool) : (clearLatent n p s).cp = s.cp := by rw [clearLatent_form]
@[simp] theorem clearLatent_tile (s : State) (n : BitVec 3) (p : EccEvent → Bool) : (clearLatent n p s).tile = s.tile := by rw [clearLatent_form]
@[simp] theorem clearLatent_free (s : State) (n : BitVec 3) (p : EccEvent → Bool) : (clearLatent n p s).free = s.free := by rw [clearLatent_form]
@[simp] theorem clearLatent_pending (s : State) (n : BitVec 3) (p : EccEvent → Bool) : (clearLatent n p s).pending = s.pending := by rw [clearLatent_form]

/-! ## `setCache` -/

@[simp] theorem setCache_ctx (s : State) (c : CacheId) (m : SMap CLine) : (setCache s c m).ctx = s.ctx := rfl
@[simp] theorem setCache_boot (s : State) (c : CacheId) (m : SMap CLine) : (setCache s c m).boot = s.boot := rfl
@[simp] theorem setCache_chain (s : State) (c : CacheId) (m : SMap CLine) : (setCache s c m).chain = s.chain := rfl
@[simp] theorem setCache_pins (s : State) (c : CacheId) (m : SMap CLine) : (setCache s c m).pins = s.pins := rfl
@[simp] theorem setCache_keys (s : State) (c : CacheId) (m : SMap CLine) : (setCache s c m).keys = s.keys := rfl
@[simp] theorem setCache_rel (s : State) (c : CacheId) (m : SMap CLine) : (setCache s c m).rel = s.rel := rfl
@[simp] theorem setCache_toll (s : State) (c : CacheId) (m : SMap CLine) : (setCache s c m).toll = s.toll := rfl
@[simp] theorem setCache_pace (s : State) (c : CacheId) (m : SMap CLine) : (setCache s c m).pace = s.pace := rfl
@[simp] theorem setCache_time (s : State) (c : CacheId) (m : SMap CLine) : (setCache s c m).time = s.time := rfl
@[simp] theorem setCache_perf (s : State) (c : CacheId) (m : SMap CLine) : (setCache s c m).perf = s.perf := rfl
@[simp] theorem setCache_trace (s : State) (c : CacheId) (m : SMap CLine) : (setCache s c m).trace = s.trace := rfl
@[simp] theorem setCache_intr (s : State) (c : CacheId) (m : SMap CLine) : (setCache s c m).intr = s.intr := rfl
@[simp] theorem setCache_drover (s : State) (c : CacheId) (m : SMap CLine) : (setCache s c m).drover = s.drover := rfl
@[simp] theorem setCache_pamb (s : State) (c : CacheId) (m : SMap CLine) : (setCache s c m).pamb = s.pamb := rfl
@[simp] theorem setCache_paml (s : State) (c : CacheId) (m : SMap CLine) : (setCache s c m).paml = s.paml := rfl
@[simp] theorem setCache_spad (s : State) (c : CacheId) (m : SMap CLine) : (setCache s c m).spad = s.spad := rfl
@[simp] theorem setCache_coldCount (s : State) (c : CacheId) (m : SMap CLine) : (setCache s c m).coldCount = s.coldCount := rfl
@[simp] theorem setCache_tlbs (s : State) (c : CacheId) (m : SMap CLine) : (setCache s c m).tlbs = s.tlbs := rfl
@[simp] theorem setCache_mesh (s : State) (c : CacheId) (m : SMap CLine) : (setCache s c m).mesh = s.mesh := rfl
@[simp] theorem setCache_mover (s : State) (c : CacheId) (m : SMap CLine) : (setCache s c m).mover = s.mover := rfl
@[simp] theorem setCache_cw (s : State) (c : CacheId) (m : SMap CLine) : (setCache s c m).cw = s.cw := rfl
@[simp] theorem setCache_coop (s : State) (c : CacheId) (m : SMap CLine) : (setCache s c m).coop = s.coop := rfl
@[simp] theorem setCache_cp (s : State) (c : CacheId) (m : SMap CLine) : (setCache s c m).cp = s.cp := rfl
@[simp] theorem setCache_tile (s : State) (c : CacheId) (m : SMap CLine) : (setCache s c m).tile = s.tile := rfl
@[simp] theorem setCache_free (s : State) (c : CacheId) (m : SMap CLine) : (setCache s c m).free = s.free := rfl
@[simp] theorem setCache_pending (s : State) (c : CacheId) (m : SMap CLine) : (setCache s c m).pending = s.pending := rfl

/-! ## `cachePut` -/

@[simp] theorem cachePut_ctx (s : State) (c : CacheId) (n : Nat) (l : CLine) : (cachePut s c n l).ctx = s.ctx := rfl
@[simp] theorem cachePut_boot (s : State) (c : CacheId) (n : Nat) (l : CLine) : (cachePut s c n l).boot = s.boot := rfl
@[simp] theorem cachePut_chain (s : State) (c : CacheId) (n : Nat) (l : CLine) : (cachePut s c n l).chain = s.chain := rfl
@[simp] theorem cachePut_pins (s : State) (c : CacheId) (n : Nat) (l : CLine) : (cachePut s c n l).pins = s.pins := rfl
@[simp] theorem cachePut_keys (s : State) (c : CacheId) (n : Nat) (l : CLine) : (cachePut s c n l).keys = s.keys := rfl
@[simp] theorem cachePut_rel (s : State) (c : CacheId) (n : Nat) (l : CLine) : (cachePut s c n l).rel = s.rel := rfl
@[simp] theorem cachePut_toll (s : State) (c : CacheId) (n : Nat) (l : CLine) : (cachePut s c n l).toll = s.toll := rfl
@[simp] theorem cachePut_pace (s : State) (c : CacheId) (n : Nat) (l : CLine) : (cachePut s c n l).pace = s.pace := rfl
@[simp] theorem cachePut_time (s : State) (c : CacheId) (n : Nat) (l : CLine) : (cachePut s c n l).time = s.time := rfl
@[simp] theorem cachePut_perf (s : State) (c : CacheId) (n : Nat) (l : CLine) : (cachePut s c n l).perf = s.perf := rfl
@[simp] theorem cachePut_trace (s : State) (c : CacheId) (n : Nat) (l : CLine) : (cachePut s c n l).trace = s.trace := rfl
@[simp] theorem cachePut_intr (s : State) (c : CacheId) (n : Nat) (l : CLine) : (cachePut s c n l).intr = s.intr := rfl
@[simp] theorem cachePut_drover (s : State) (c : CacheId) (n : Nat) (l : CLine) : (cachePut s c n l).drover = s.drover := rfl
@[simp] theorem cachePut_pamb (s : State) (c : CacheId) (n : Nat) (l : CLine) : (cachePut s c n l).pamb = s.pamb := rfl
@[simp] theorem cachePut_paml (s : State) (c : CacheId) (n : Nat) (l : CLine) : (cachePut s c n l).paml = s.paml := rfl
@[simp] theorem cachePut_spad (s : State) (c : CacheId) (n : Nat) (l : CLine) : (cachePut s c n l).spad = s.spad := rfl
@[simp] theorem cachePut_coldCount (s : State) (c : CacheId) (n : Nat) (l : CLine) : (cachePut s c n l).coldCount = s.coldCount := rfl
@[simp] theorem cachePut_tlbs (s : State) (c : CacheId) (n : Nat) (l : CLine) : (cachePut s c n l).tlbs = s.tlbs := rfl
@[simp] theorem cachePut_mesh (s : State) (c : CacheId) (n : Nat) (l : CLine) : (cachePut s c n l).mesh = s.mesh := rfl
@[simp] theorem cachePut_mover (s : State) (c : CacheId) (n : Nat) (l : CLine) : (cachePut s c n l).mover = s.mover := rfl
@[simp] theorem cachePut_cw (s : State) (c : CacheId) (n : Nat) (l : CLine) : (cachePut s c n l).cw = s.cw := rfl
@[simp] theorem cachePut_coop (s : State) (c : CacheId) (n : Nat) (l : CLine) : (cachePut s c n l).coop = s.coop := rfl
@[simp] theorem cachePut_cp (s : State) (c : CacheId) (n : Nat) (l : CLine) : (cachePut s c n l).cp = s.cp := rfl
@[simp] theorem cachePut_tile (s : State) (c : CacheId) (n : Nat) (l : CLine) : (cachePut s c n l).tile = s.tile := rfl
@[simp] theorem cachePut_free (s : State) (c : CacheId) (n : Nat) (l : CLine) : (cachePut s c n l).free = s.free := rfl
@[simp] theorem cachePut_pending (s : State) (c : CacheId) (n : Nat) (l : CLine) : (cachePut s c n l).pending = s.pending := rfl

/-! ## `cacheDel` -/

/-- The form of `cacheDel`: nothing changes but caches, rel. -/
theorem cacheDel_form (s : State) (c : CacheId) (n : Nat) :
    cacheDel s c n = { s with caches := (cacheDel s c n).caches, rel := (cacheDel s c n).rel } := by
  unfold cacheDel
  split
  · rfl
  · rw [clearLatent_form]; rfl

@[simp] theorem cacheDel_ctx (s : State) (c : CacheId) (n : Nat) : (cacheDel s c n).ctx = s.ctx := by rw [cacheDel_form]
@[simp] theorem cacheDel_boot (s : State) (c : CacheId) (n : Nat) : (cacheDel s c n).boot = s.boot := by rw [cacheDel_form]
@[simp] theorem cacheDel_chain (s : State) (c : CacheId) (n : Nat) : (cacheDel s c n).chain = s.chain := by rw [cacheDel_form]
@[simp] theorem cacheDel_pins (s : State) (c : CacheId) (n : Nat) : (cacheDel s c n).pins = s.pins := by rw [cacheDel_form]
@[simp] theorem cacheDel_keys (s : State) (c : CacheId) (n : Nat) : (cacheDel s c n).keys = s.keys := by rw [cacheDel_form]
@[simp] theorem cacheDel_toll (s : State) (c : CacheId) (n : Nat) : (cacheDel s c n).toll = s.toll := by rw [cacheDel_form]
@[simp] theorem cacheDel_pace (s : State) (c : CacheId) (n : Nat) : (cacheDel s c n).pace = s.pace := by rw [cacheDel_form]
@[simp] theorem cacheDel_time (s : State) (c : CacheId) (n : Nat) : (cacheDel s c n).time = s.time := by rw [cacheDel_form]
@[simp] theorem cacheDel_perf (s : State) (c : CacheId) (n : Nat) : (cacheDel s c n).perf = s.perf := by rw [cacheDel_form]
@[simp] theorem cacheDel_trace (s : State) (c : CacheId) (n : Nat) : (cacheDel s c n).trace = s.trace := by rw [cacheDel_form]
@[simp] theorem cacheDel_intr (s : State) (c : CacheId) (n : Nat) : (cacheDel s c n).intr = s.intr := by rw [cacheDel_form]
@[simp] theorem cacheDel_drover (s : State) (c : CacheId) (n : Nat) : (cacheDel s c n).drover = s.drover := by rw [cacheDel_form]
@[simp] theorem cacheDel_pamb (s : State) (c : CacheId) (n : Nat) : (cacheDel s c n).pamb = s.pamb := by rw [cacheDel_form]
@[simp] theorem cacheDel_paml (s : State) (c : CacheId) (n : Nat) : (cacheDel s c n).paml = s.paml := by rw [cacheDel_form]
@[simp] theorem cacheDel_spad (s : State) (c : CacheId) (n : Nat) : (cacheDel s c n).spad = s.spad := by rw [cacheDel_form]
@[simp] theorem cacheDel_coldCount (s : State) (c : CacheId) (n : Nat) : (cacheDel s c n).coldCount = s.coldCount := by rw [cacheDel_form]
@[simp] theorem cacheDel_tlbs (s : State) (c : CacheId) (n : Nat) : (cacheDel s c n).tlbs = s.tlbs := by rw [cacheDel_form]
@[simp] theorem cacheDel_mesh (s : State) (c : CacheId) (n : Nat) : (cacheDel s c n).mesh = s.mesh := by rw [cacheDel_form]
@[simp] theorem cacheDel_mover (s : State) (c : CacheId) (n : Nat) : (cacheDel s c n).mover = s.mover := by rw [cacheDel_form]
@[simp] theorem cacheDel_cw (s : State) (c : CacheId) (n : Nat) : (cacheDel s c n).cw = s.cw := by rw [cacheDel_form]
@[simp] theorem cacheDel_coop (s : State) (c : CacheId) (n : Nat) : (cacheDel s c n).coop = s.coop := by rw [cacheDel_form]
@[simp] theorem cacheDel_cp (s : State) (c : CacheId) (n : Nat) : (cacheDel s c n).cp = s.cp := by rw [cacheDel_form]
@[simp] theorem cacheDel_tile (s : State) (c : CacheId) (n : Nat) : (cacheDel s c n).tile = s.tile := by rw [cacheDel_form]
@[simp] theorem cacheDel_free (s : State) (c : CacheId) (n : Nat) : (cacheDel s c n).free = s.free := by rw [cacheDel_form]
@[simp] theorem cacheDel_pending (s : State) (c : CacheId) (n : Nat) : (cacheDel s c n).pending = s.pending := by rw [cacheDel_form]

/-! ## `spadPut` -/

/-- The form of `spadPut`: nothing changes but spad, rel. -/
theorem spadPut_form (s : State) (i : Nat) (w : TWord) :
    spadPut s i w = { s with spad := (spadPut s i w).spad, rel := (spadPut s i w).rel } := by
  unfold spadPut
  rw [clearLatent_form]

@[simp] theorem spadPut_ctx (s : State) (i : Nat) (w : TWord) : (spadPut s i w).ctx = s.ctx := by rw [spadPut_form]
@[simp] theorem spadPut_boot (s : State) (i : Nat) (w : TWord) : (spadPut s i w).boot = s.boot := by rw [spadPut_form]
@[simp] theorem spadPut_chain (s : State) (i : Nat) (w : TWord) : (spadPut s i w).chain = s.chain := by rw [spadPut_form]
@[simp] theorem spadPut_pins (s : State) (i : Nat) (w : TWord) : (spadPut s i w).pins = s.pins := by rw [spadPut_form]
@[simp] theorem spadPut_keys (s : State) (i : Nat) (w : TWord) : (spadPut s i w).keys = s.keys := by rw [spadPut_form]
@[simp] theorem spadPut_toll (s : State) (i : Nat) (w : TWord) : (spadPut s i w).toll = s.toll := by rw [spadPut_form]
@[simp] theorem spadPut_pace (s : State) (i : Nat) (w : TWord) : (spadPut s i w).pace = s.pace := by rw [spadPut_form]
@[simp] theorem spadPut_time (s : State) (i : Nat) (w : TWord) : (spadPut s i w).time = s.time := by rw [spadPut_form]
@[simp] theorem spadPut_perf (s : State) (i : Nat) (w : TWord) : (spadPut s i w).perf = s.perf := by rw [spadPut_form]
@[simp] theorem spadPut_trace (s : State) (i : Nat) (w : TWord) : (spadPut s i w).trace = s.trace := by rw [spadPut_form]
@[simp] theorem spadPut_intr (s : State) (i : Nat) (w : TWord) : (spadPut s i w).intr = s.intr := by rw [spadPut_form]
@[simp] theorem spadPut_drover (s : State) (i : Nat) (w : TWord) : (spadPut s i w).drover = s.drover := by rw [spadPut_form]
@[simp] theorem spadPut_pamb (s : State) (i : Nat) (w : TWord) : (spadPut s i w).pamb = s.pamb := by rw [spadPut_form]
@[simp] theorem spadPut_paml (s : State) (i : Nat) (w : TWord) : (spadPut s i w).paml = s.paml := by rw [spadPut_form]
@[simp] theorem spadPut_coldCount (s : State) (i : Nat) (w : TWord) : (spadPut s i w).coldCount = s.coldCount := by rw [spadPut_form]
@[simp] theorem spadPut_caches (s : State) (i : Nat) (w : TWord) : (spadPut s i w).caches = s.caches := by rw [spadPut_form]
@[simp] theorem spadPut_tlbs (s : State) (i : Nat) (w : TWord) : (spadPut s i w).tlbs = s.tlbs := by rw [spadPut_form]
@[simp] theorem spadPut_mesh (s : State) (i : Nat) (w : TWord) : (spadPut s i w).mesh = s.mesh := by rw [spadPut_form]
@[simp] theorem spadPut_mover (s : State) (i : Nat) (w : TWord) : (spadPut s i w).mover = s.mover := by rw [spadPut_form]
@[simp] theorem spadPut_cw (s : State) (i : Nat) (w : TWord) : (spadPut s i w).cw = s.cw := by rw [spadPut_form]
@[simp] theorem spadPut_coop (s : State) (i : Nat) (w : TWord) : (spadPut s i w).coop = s.coop := by rw [spadPut_form]
@[simp] theorem spadPut_cp (s : State) (i : Nat) (w : TWord) : (spadPut s i w).cp = s.cp := by rw [spadPut_form]
@[simp] theorem spadPut_tile (s : State) (i : Nat) (w : TWord) : (spadPut s i w).tile = s.tile := by rw [spadPut_form]
@[simp] theorem spadPut_free (s : State) (i : Nat) (w : TWord) : (spadPut s i w).free = s.free := by rw [spadPut_form]
@[simp] theorem spadPut_pending (s : State) (i : Nat) (w : TWord) : (spadPut s i w).pending = s.pending := by rw [spadPut_form]

/-! ## `dropFills` -/

@[simp] theorem dropFills_ctx (s : State) (c : CtxId) : (dropFills c s).ctx = s.ctx := rfl
@[simp] theorem dropFills_boot (s : State) (c : CtxId) : (dropFills c s).boot = s.boot := rfl
@[simp] theorem dropFills_chain (s : State) (c : CtxId) : (dropFills c s).chain = s.chain := rfl
@[simp] theorem dropFills_pins (s : State) (c : CtxId) : (dropFills c s).pins = s.pins := rfl
@[simp] theorem dropFills_keys (s : State) (c : CtxId) : (dropFills c s).keys = s.keys := rfl
@[simp] theorem dropFills_rel (s : State) (c : CtxId) : (dropFills c s).rel = s.rel := rfl
@[simp] theorem dropFills_toll (s : State) (c : CtxId) : (dropFills c s).toll = s.toll := rfl
@[simp] theorem dropFills_pace (s : State) (c : CtxId) : (dropFills c s).pace = s.pace := rfl
@[simp] theorem dropFills_time (s : State) (c : CtxId) : (dropFills c s).time = s.time := rfl
@[simp] theorem dropFills_perf (s : State) (c : CtxId) : (dropFills c s).perf = s.perf := rfl
@[simp] theorem dropFills_trace (s : State) (c : CtxId) : (dropFills c s).trace = s.trace := rfl
@[simp] theorem dropFills_intr (s : State) (c : CtxId) : (dropFills c s).intr = s.intr := rfl
@[simp] theorem dropFills_drover (s : State) (c : CtxId) : (dropFills c s).drover = s.drover := rfl
@[simp] theorem dropFills_pamb (s : State) (c : CtxId) : (dropFills c s).pamb = s.pamb := rfl
@[simp] theorem dropFills_paml (s : State) (c : CtxId) : (dropFills c s).paml = s.paml := rfl
@[simp] theorem dropFills_spad (s : State) (c : CtxId) : (dropFills c s).spad = s.spad := rfl
@[simp] theorem dropFills_coldCount (s : State) (c : CtxId) : (dropFills c s).coldCount = s.coldCount := rfl
@[simp] theorem dropFills_caches (s : State) (c : CtxId) : (dropFills c s).caches = s.caches := rfl
@[simp] theorem dropFills_tlbs (s : State) (c : CtxId) : (dropFills c s).tlbs = s.tlbs := rfl
@[simp] theorem dropFills_mover (s : State) (c : CtxId) : (dropFills c s).mover = s.mover := rfl
@[simp] theorem dropFills_cw (s : State) (c : CtxId) : (dropFills c s).cw = s.cw := rfl
@[simp] theorem dropFills_coop (s : State) (c : CtxId) : (dropFills c s).coop = s.coop := rfl
@[simp] theorem dropFills_cp (s : State) (c : CtxId) : (dropFills c s).cp = s.cp := rfl
@[simp] theorem dropFills_free (s : State) (c : CtxId) : (dropFills c s).free = s.free := rfl
@[simp] theorem dropFills_pending (s : State) (c : CtxId) : (dropFills c s).pending = s.pending := rfl

/-! ## `bumpTxid` -/

@[simp] theorem bumpTxid_ctx (s : State) (t : BitVec 8) : (bumpTxid t s).ctx = s.ctx := rfl
@[simp] theorem bumpTxid_boot (s : State) (t : BitVec 8) : (bumpTxid t s).boot = s.boot := rfl
@[simp] theorem bumpTxid_chain (s : State) (t : BitVec 8) : (bumpTxid t s).chain = s.chain := rfl
@[simp] theorem bumpTxid_pins (s : State) (t : BitVec 8) : (bumpTxid t s).pins = s.pins := rfl
@[simp] theorem bumpTxid_keys (s : State) (t : BitVec 8) : (bumpTxid t s).keys = s.keys := rfl
@[simp] theorem bumpTxid_rel (s : State) (t : BitVec 8) : (bumpTxid t s).rel = s.rel := rfl
@[simp] theorem bumpTxid_toll (s : State) (t : BitVec 8) : (bumpTxid t s).toll = s.toll := rfl
@[simp] theorem bumpTxid_pace (s : State) (t : BitVec 8) : (bumpTxid t s).pace = s.pace := rfl
@[simp] theorem bumpTxid_time (s : State) (t : BitVec 8) : (bumpTxid t s).time = s.time := rfl
@[simp] theorem bumpTxid_perf (s : State) (t : BitVec 8) : (bumpTxid t s).perf = s.perf := rfl
@[simp] theorem bumpTxid_trace (s : State) (t : BitVec 8) : (bumpTxid t s).trace = s.trace := rfl
@[simp] theorem bumpTxid_intr (s : State) (t : BitVec 8) : (bumpTxid t s).intr = s.intr := rfl
@[simp] theorem bumpTxid_drover (s : State) (t : BitVec 8) : (bumpTxid t s).drover = s.drover := rfl
@[simp] theorem bumpTxid_pamb (s : State) (t : BitVec 8) : (bumpTxid t s).pamb = s.pamb := rfl
@[simp] theorem bumpTxid_paml (s : State) (t : BitVec 8) : (bumpTxid t s).paml = s.paml := rfl
@[simp] theorem bumpTxid_spad (s : State) (t : BitVec 8) : (bumpTxid t s).spad = s.spad := rfl
@[simp] theorem bumpTxid_coldCount (s : State) (t : BitVec 8) : (bumpTxid t s).coldCount = s.coldCount := rfl
@[simp] theorem bumpTxid_caches (s : State) (t : BitVec 8) : (bumpTxid t s).caches = s.caches := rfl
@[simp] theorem bumpTxid_tlbs (s : State) (t : BitVec 8) : (bumpTxid t s).tlbs = s.tlbs := rfl
@[simp] theorem bumpTxid_mover (s : State) (t : BitVec 8) : (bumpTxid t s).mover = s.mover := rfl
@[simp] theorem bumpTxid_cw (s : State) (t : BitVec 8) : (bumpTxid t s).cw = s.cw := rfl
@[simp] theorem bumpTxid_coop (s : State) (t : BitVec 8) : (bumpTxid t s).coop = s.coop := rfl
@[simp] theorem bumpTxid_cp (s : State) (t : BitVec 8) : (bumpTxid t s).cp = s.cp := rfl
@[simp] theorem bumpTxid_tile (s : State) (t : BitVec 8) : (bumpTxid t s).tile = s.tile := rfl
@[simp] theorem bumpTxid_free (s : State) (t : BitVec 8) : (bumpTxid t s).free = s.free := rfl
@[simp] theorem bumpTxid_pending (s : State) (t : BitVec 8) : (bumpTxid t s).pending = s.pending := rfl

/-! ## `ackFence` -/

@[simp] theorem ackFence_ctx (s : State) : (ackFence s).ctx = s.ctx := rfl
@[simp] theorem ackFence_boot (s : State) : (ackFence s).boot = s.boot := rfl
@[simp] theorem ackFence_chain (s : State) : (ackFence s).chain = s.chain := rfl
@[simp] theorem ackFence_keys (s : State) : (ackFence s).keys = s.keys := rfl
@[simp] theorem ackFence_rel (s : State) : (ackFence s).rel = s.rel := rfl
@[simp] theorem ackFence_toll (s : State) : (ackFence s).toll = s.toll := rfl
@[simp] theorem ackFence_pace (s : State) : (ackFence s).pace = s.pace := rfl
@[simp] theorem ackFence_time (s : State) : (ackFence s).time = s.time := rfl
@[simp] theorem ackFence_perf (s : State) : (ackFence s).perf = s.perf := rfl
@[simp] theorem ackFence_trace (s : State) : (ackFence s).trace = s.trace := rfl
@[simp] theorem ackFence_intr (s : State) : (ackFence s).intr = s.intr := rfl
@[simp] theorem ackFence_drover (s : State) : (ackFence s).drover = s.drover := rfl
@[simp] theorem ackFence_pamb (s : State) : (ackFence s).pamb = s.pamb := rfl
@[simp] theorem ackFence_paml (s : State) : (ackFence s).paml = s.paml := rfl
@[simp] theorem ackFence_spad (s : State) : (ackFence s).spad = s.spad := rfl
@[simp] theorem ackFence_coldCount (s : State) : (ackFence s).coldCount = s.coldCount := rfl
@[simp] theorem ackFence_caches (s : State) : (ackFence s).caches = s.caches := rfl
@[simp] theorem ackFence_tlbs (s : State) : (ackFence s).tlbs = s.tlbs := rfl
@[simp] theorem ackFence_mesh (s : State) : (ackFence s).mesh = s.mesh := rfl
@[simp] theorem ackFence_mover (s : State) : (ackFence s).mover = s.mover := rfl
@[simp] theorem ackFence_cw (s : State) : (ackFence s).cw = s.cw := rfl
@[simp] theorem ackFence_coop (s : State) : (ackFence s).coop = s.coop := rfl
@[simp] theorem ackFence_cp (s : State) : (ackFence s).cp = s.cp := rfl
@[simp] theorem ackFence_tile (s : State) : (ackFence s).tile = s.tile := rfl
@[simp] theorem ackFence_free (s : State) : (ackFence s).free = s.free := rfl
@[simp] theorem ackFence_pending (s : State) : (ackFence s).pending = s.pending := rfl

/-! ## `paceApply` -/

@[simp] theorem paceApply_ctx (s : State) : (paceApply s).ctx = s.ctx := rfl
@[simp] theorem paceApply_boot (s : State) : (paceApply s).boot = s.boot := rfl
@[simp] theorem paceApply_chain (s : State) : (paceApply s).chain = s.chain := rfl
@[simp] theorem paceApply_pins (s : State) : (paceApply s).pins = s.pins := rfl
@[simp] theorem paceApply_keys (s : State) : (paceApply s).keys = s.keys := rfl
@[simp] theorem paceApply_rel (s : State) : (paceApply s).rel = s.rel := rfl
@[simp] theorem paceApply_toll (s : State) : (paceApply s).toll = s.toll := rfl
@[simp] theorem paceApply_time (s : State) : (paceApply s).time = s.time := rfl
@[simp] theorem paceApply_perf (s : State) : (paceApply s).perf = s.perf := rfl
@[simp] theorem paceApply_trace (s : State) : (paceApply s).trace = s.trace := rfl
@[simp] theorem paceApply_intr (s : State) : (paceApply s).intr = s.intr := rfl
@[simp] theorem paceApply_drover (s : State) : (paceApply s).drover = s.drover := rfl
@[simp] theorem paceApply_pamb (s : State) : (paceApply s).pamb = s.pamb := rfl
@[simp] theorem paceApply_paml (s : State) : (paceApply s).paml = s.paml := rfl
@[simp] theorem paceApply_spad (s : State) : (paceApply s).spad = s.spad := rfl
@[simp] theorem paceApply_coldCount (s : State) : (paceApply s).coldCount = s.coldCount := rfl
@[simp] theorem paceApply_caches (s : State) : (paceApply s).caches = s.caches := rfl
@[simp] theorem paceApply_tlbs (s : State) : (paceApply s).tlbs = s.tlbs := rfl
@[simp] theorem paceApply_mesh (s : State) : (paceApply s).mesh = s.mesh := rfl
@[simp] theorem paceApply_mover (s : State) : (paceApply s).mover = s.mover := rfl
@[simp] theorem paceApply_cw (s : State) : (paceApply s).cw = s.cw := rfl
@[simp] theorem paceApply_coop (s : State) : (paceApply s).coop = s.coop := rfl
@[simp] theorem paceApply_cp (s : State) : (paceApply s).cp = s.cp := rfl
@[simp] theorem paceApply_tile (s : State) : (paceApply s).tile = s.tile := rfl
@[simp] theorem paceApply_free (s : State) : (paceApply s).free = s.free := rfl
@[simp] theorem paceApply_pending (s : State) : (paceApply s).pending = s.pending := rfl

/-! ## `machineCheck` -/

/-- The form of `machineCheck`: nothing changes but ctx, intr. -/
theorem machineCheck_form (s : State) (src : BitVec 4) (a : BitVec 2) (d : W64) :
    machineCheck src a d s = { s with ctx := (machineCheck src a d s).ctx, intr := (machineCheck src a d s).intr } := by
  unfold machineCheck
  dsimp only
  rw [setPend_form]

@[simp] theorem machineCheck_boot (s : State) (src : BitVec 4) (a : BitVec 2) (d : W64) : (machineCheck src a d s).boot = s.boot := by rw [machineCheck_form]
@[simp] theorem machineCheck_chain (s : State) (src : BitVec 4) (a : BitVec 2) (d : W64) : (machineCheck src a d s).chain = s.chain := by rw [machineCheck_form]
@[simp] theorem machineCheck_pins (s : State) (src : BitVec 4) (a : BitVec 2) (d : W64) : (machineCheck src a d s).pins = s.pins := by rw [machineCheck_form]
@[simp] theorem machineCheck_keys (s : State) (src : BitVec 4) (a : BitVec 2) (d : W64) : (machineCheck src a d s).keys = s.keys := by rw [machineCheck_form]
@[simp] theorem machineCheck_rel (s : State) (src : BitVec 4) (a : BitVec 2) (d : W64) : (machineCheck src a d s).rel = s.rel := by rw [machineCheck_form]
@[simp] theorem machineCheck_toll (s : State) (src : BitVec 4) (a : BitVec 2) (d : W64) : (machineCheck src a d s).toll = s.toll := by rw [machineCheck_form]
@[simp] theorem machineCheck_pace (s : State) (src : BitVec 4) (a : BitVec 2) (d : W64) : (machineCheck src a d s).pace = s.pace := by rw [machineCheck_form]
@[simp] theorem machineCheck_time (s : State) (src : BitVec 4) (a : BitVec 2) (d : W64) : (machineCheck src a d s).time = s.time := by rw [machineCheck_form]
@[simp] theorem machineCheck_perf (s : State) (src : BitVec 4) (a : BitVec 2) (d : W64) : (machineCheck src a d s).perf = s.perf := by rw [machineCheck_form]
@[simp] theorem machineCheck_trace (s : State) (src : BitVec 4) (a : BitVec 2) (d : W64) : (machineCheck src a d s).trace = s.trace := by rw [machineCheck_form]
@[simp] theorem machineCheck_drover (s : State) (src : BitVec 4) (a : BitVec 2) (d : W64) : (machineCheck src a d s).drover = s.drover := by rw [machineCheck_form]
@[simp] theorem machineCheck_pamb (s : State) (src : BitVec 4) (a : BitVec 2) (d : W64) : (machineCheck src a d s).pamb = s.pamb := by rw [machineCheck_form]
@[simp] theorem machineCheck_paml (s : State) (src : BitVec 4) (a : BitVec 2) (d : W64) : (machineCheck src a d s).paml = s.paml := by rw [machineCheck_form]
@[simp] theorem machineCheck_spad (s : State) (src : BitVec 4) (a : BitVec 2) (d : W64) : (machineCheck src a d s).spad = s.spad := by rw [machineCheck_form]
@[simp] theorem machineCheck_coldCount (s : State) (src : BitVec 4) (a : BitVec 2) (d : W64) : (machineCheck src a d s).coldCount = s.coldCount := by rw [machineCheck_form]
@[simp] theorem machineCheck_caches (s : State) (src : BitVec 4) (a : BitVec 2) (d : W64) : (machineCheck src a d s).caches = s.caches := by rw [machineCheck_form]
@[simp] theorem machineCheck_tlbs (s : State) (src : BitVec 4) (a : BitVec 2) (d : W64) : (machineCheck src a d s).tlbs = s.tlbs := by rw [machineCheck_form]
@[simp] theorem machineCheck_mesh (s : State) (src : BitVec 4) (a : BitVec 2) (d : W64) : (machineCheck src a d s).mesh = s.mesh := by rw [machineCheck_form]
@[simp] theorem machineCheck_mover (s : State) (src : BitVec 4) (a : BitVec 2) (d : W64) : (machineCheck src a d s).mover = s.mover := by rw [machineCheck_form]
@[simp] theorem machineCheck_cw (s : State) (src : BitVec 4) (a : BitVec 2) (d : W64) : (machineCheck src a d s).cw = s.cw := by rw [machineCheck_form]
@[simp] theorem machineCheck_coop (s : State) (src : BitVec 4) (a : BitVec 2) (d : W64) : (machineCheck src a d s).coop = s.coop := by rw [machineCheck_form]
@[simp] theorem machineCheck_cp (s : State) (src : BitVec 4) (a : BitVec 2) (d : W64) : (machineCheck src a d s).cp = s.cp := by rw [machineCheck_form]
@[simp] theorem machineCheck_tile (s : State) (src : BitVec 4) (a : BitVec 2) (d : W64) : (machineCheck src a d s).tile = s.tile := by rw [machineCheck_form]
@[simp] theorem machineCheck_free (s : State) (src : BitVec 4) (a : BitVec 2) (d : W64) : (machineCheck src a d s).free = s.free := by rw [machineCheck_form]
@[simp] theorem machineCheck_pending (s : State) (src : BitVec 4) (a : BitVec 2) (d : W64) : (machineCheck src a d s).pending = s.pending := by rw [machineCheck_form]

/-! ## `rollback` -/

@[simp] theorem rollback_boot (s t : State) : (rollback s t).boot = s.boot := rfl
@[simp] theorem rollback_pins (s t : State) : (rollback s t).pins = s.pins := rfl
@[simp] theorem rollback_keys (s t : State) : (rollback s t).keys = s.keys := rfl
@[simp] theorem rollback_pace (s t : State) : (rollback s t).pace = s.pace := rfl
@[simp] theorem rollback_time (s t : State) : (rollback s t).time = s.time := rfl
@[simp] theorem rollback_trace (s t : State) : (rollback s t).trace = s.trace := rfl
@[simp] theorem rollback_drover (s t : State) : (rollback s t).drover = s.drover := rfl
@[simp] theorem rollback_pamb (s t : State) : (rollback s t).pamb = s.pamb := rfl
@[simp] theorem rollback_paml (s t : State) : (rollback s t).paml = s.paml := rfl
@[simp] theorem rollback_coldCount (s t : State) : (rollback s t).coldCount = s.coldCount := rfl
@[simp] theorem rollback_mover (s t : State) : (rollback s t).mover = s.mover := rfl
@[simp] theorem rollback_cw (s t : State) : (rollback s t).cw = s.cw := rfl
@[simp] theorem rollback_coop (s t : State) : (rollback s t).coop = s.coop := rfl
@[simp] theorem rollback_cp (s t : State) : (rollback s t).cp = s.cp := rfl
@[simp] theorem rollback_tile (s t : State) : (rollback s t).tile = s.tile := rfl
@[simp] theorem rollback_pending (s t : State) : (rollback s t).pending = s.pending := rfl

end Sys2Proof.Machine
end

