-- ==== Sys2Proof/Laws/Store.lean ====
section
/-!
SUPPORT. The laws of sparse storage and of the scratchpad: a read after a write, a write leaves every other word, and every
operation keeps the canonical form.
-/

namespace Sys2Proof.Machine

open Sys2Proof

/-! ## Sparse storage -/

theorem SMap.find?_put_same {α : Type} (m : SMap α) (k : Nat) (v : α) : SMap.find? (SMap.put m k v) k = some v := by
  induction m with
  | nil => simp [SMap.put, SMap.find?]
  | cons e m ih =>
    obtain ⟨j, w⟩ := e
    simp only [SMap.put]
    split
    · simp [SMap.find?]
    · split
      · simp [SMap.find?]
      · simp [SMap.find?, *]

theorem SMap.find?_put_ne {α : Type} (m : SMap α) {k i : Nat} (v : α) (h : i ≠ k) :
    SMap.find? (SMap.put m k v) i = SMap.find? m i := by
  induction m with
  | nil => simp [SMap.put, SMap.find?]; omega
  | cons e m ih =>
    obtain ⟨j, w⟩ := e
    simp only [SMap.put]
    split
    · simp only [SMap.find?]
      by_cases hi : i < k
      · have : ¬ j = i := by omega
        have : i < j := by omega
        simp [*]; omega
      · have : ¬ k = i := by omega
        simp [*]
    · split
      · have : ¬ k = i := by omega
        have : ¬ j = i := by omega
        simp only [SMap.find?]
        simp [*]
      · simp only [SMap.find?, ih]

theorem SMap.rising_mono {α : Type} {m : SMap α} {a b : Nat} (h : SMap.risingFrom b m = true) (hab : a ≤ b) :
    SMap.risingFrom a m = true := by
  cases m with
  | nil => rfl
  | cons e m =>
    simp only [SMap.risingFrom, Bool.and_eq_true, decide_eq_true_eq] at h ⊢
    exact ⟨by omega, h.2⟩

theorem SMap.rising_put {α : Type} (m : SMap α) (k : Nat) (v : α) {b : Nat} (h : SMap.risingFrom b m = true) (hk : b ≤ k) :
    SMap.risingFrom b (SMap.put m k v) = true := by
  induction m generalizing b with
  | nil => simp [SMap.put, SMap.risingFrom, hk]
  | cons e m ih =>
    obtain ⟨j, w⟩ := e
    simp only [SMap.risingFrom, Bool.and_eq_true, decide_eq_true_eq] at h
    simp only [SMap.put]
    split
    · simp only [SMap.risingFrom, Bool.and_eq_true, decide_eq_true_eq]
      exact ⟨hk, by omega, h.2⟩
    · split
      · subst_vars
        simp only [SMap.risingFrom, Bool.and_eq_true, decide_eq_true_eq]
        exact h
      · simp only [SMap.risingFrom, Bool.and_eq_true, decide_eq_true_eq]
        exact ⟨h.1, ih h.2 (by omega)⟩

/-- A write keeps the canonical form. -/
theorem SMap.wf_put {α : Type} (m : SMap α) (k : Nat) (v : α) (h : SMap.wf m = true) : SMap.wf (SMap.put m k v) = true :=
  SMap.rising_put m k v h (Nat.zero_le k)

theorem SMap.rising_del {α : Type} (m : SMap α) (k : Nat) {b : Nat} (h : SMap.risingFrom b m = true) :
    SMap.risingFrom b (SMap.del m k) = true := by
  induction m generalizing b with
  | nil => rfl
  | cons e m ih =>
    obtain ⟨j, w⟩ := e
    simp only [SMap.del]
    split
    · exact h
    · simp only [SMap.risingFrom, Bool.and_eq_true, decide_eq_true_eq] at h
      split
      · exact SMap.rising_mono h.2 (by omega)
      · simp only [SMap.risingFrom, Bool.and_eq_true, decide_eq_true_eq]
        exact ⟨h.1, ih h.2⟩

/-- Taking an entry out keeps the canonical form. -/
theorem SMap.wf_del {α : Type} (m : SMap α) (k : Nat) (h : SMap.wf m = true) : SMap.wf (SMap.del m k) = true :=
  SMap.rising_del m k h

theorem SMap.find?_below {α : Type} {m : SMap α} {b i : Nat} (h : SMap.risingFrom b m = true) (hi : i < b) :
    SMap.find? m i = none := by
  cases m with
  | nil => rfl
  | cons e m =>
    simp only [SMap.risingFrom, Bool.and_eq_true, decide_eq_true_eq] at h
    simp only [SMap.find?]
    have : ¬ e.1 = i := by omega
    have : i < e.1 := by omega
    simp [*]

theorem SMap.find?_del_same {α : Type} (m : SMap α) (k : Nat) (h : SMap.wf m = true) :
    SMap.find? (SMap.del m k) k = none := by
  suffices ∀ b, SMap.risingFrom b m = true → SMap.find? (SMap.del m k) k = none from this 0 h
  clear h
  induction m with
  | nil => intros; rfl
  | cons e m ih =>
    obtain ⟨j, w⟩ := e
    intro b hb
    simp only [SMap.risingFrom, Bool.and_eq_true, decide_eq_true_eq] at hb
    simp only [SMap.del]
    split
    · have : ¬ j = k := by omega
      simp [SMap.find?, *]
    · split
      · exact SMap.find?_below hb.2 (by omega)
      · simp only [SMap.find?, if_neg ‹¬ j = k›, if_neg ‹¬ k < j›]
        exact ih _ hb.2

theorem SMap.mem_put {α : Type} {m : SMap α} {k : Nat} {v : α} {e : Nat × α} (h : e ∈ SMap.put m k v) :
    e = (k, v) ∨ e ∈ m := by
  induction m with
  | nil => simpa [SMap.put] using h
  | cons x m ih =>
    obtain ⟨j, w⟩ := x
    simp only [SMap.put] at h
    split at h
    · rcases List.mem_cons.1 h with h | h
      · exact .inl h
      · exact .inr h
    · split at h
      · rcases List.mem_cons.1 h with h | h
        · exact .inl h
        · exact .inr (List.mem_cons_of_mem _ h)
      · rcases List.mem_cons.1 h with h | h
        · exact .inr (h ▸ List.mem_cons_self)
        · rcases ih h with h | h
          · exact .inl h
          · exact .inr (List.mem_cons_of_mem _ h)

/-! ## The scratchpad -/

/-- What is delivered carries no reserved tag (R102). -/
theorem deliver_tag (w : TWord) : isReserved (deliver w).tag = false := by
  unfold deliver
  split
  · rfl
  · simpa using ‹¬ isReserved w.tag = true›

@[simp] theorem deliver_deliver (w : TWord) : deliver (deliver w) = deliver w := by
  conv_lhs => rw [deliver]
  simp [deliver_tag w]

/-- The scratchpad after a write. -/
theorem spadPut_spad (s : State) (i : Nat) (w : TWord) : (spadPut s i w).spad = SMap.put s.spad i (deliver w) := by
  unfold spadPut
  rw [clearLatent_form]

/-- A word written to the scratchpad reads back, a reserved tag as POISON. -/
theorem spadPut_same (s : State) (i : Nat) (w : TWord) : SMap.find? (spadPut s i w).spad i = some (deliver w) := by
  rw [spadPut_spad]
  exact SMap.find?_put_same _ _ _

/-- A write to the scratchpad leaves every other word. -/
theorem spadPut_ne (s : State) {i j : Nat} (w : TWord) (h : j ≠ i) :
    SMap.find? (spadPut s i w).spad j = SMap.find? s.spad j := by
  rw [spadPut_spad]
  exact SMap.find?_put_ne _ _ h

/-- A write keeps the scratchpad's form. -/
theorem spadPut_inv (s : State) (i : Nat) (w : TWord) (h : SpadInv s) : SpadInv (spadPut s i w) := by
  unfold SpadInv
  rw [spadPut_spad]
  refine ⟨SMap.wf_put _ _ _ h.1, fun e he => ?_⟩
  rcases SMap.mem_put he with rfl | he
  · exact deliver_tag w
  · exact h.2 e he

/-- The form depends on the scratchpad alone. -/
theorem SpadInv.congr {s t : State} (h : SpadInv s) (e : t.spad = s.spad) : SpadInv t := by
  unfold SpadInv; rw [e]; exact h

end Sys2Proof.Machine
end

