-- ==== Sys2Proof/Laws/Frames.lean ====
section
/-!
SUPPORT. What the shared operations can change, once for each: counting, recording, events, packets, retirement; and how a
property of the state is carried through a part of an instruction.
-/

namespace Sys2Proof.Machine

open Sys2Proof

/-! ## Contexts that an interrupt wakes -/

theorem SameOrWoken.refl (k : Ctx) : SameOrWoken k k := .inl rfl

/-- A context that has been woken waits no longer. -/
theorem wokenByIrq_run {k : Ctx} (h : k.run = .waiting) (now : W64) : (k.wokenByIrq now).run = .ready := by
  simp [Ctx.wokenByIrq, h]

theorem SameOrWoken.trans {k l m : Ctx} (h : SameOrWoken k l) (g : SameOrWoken l m) : SameOrWoken k m := by
  rcases h with rfl | ⟨hw, n, rfl⟩
  · exact g
  · rcases g with rfl | ⟨gw, _, _⟩
    · exact .inr ⟨hw, n, rfl⟩
    · rw [wokenByIrq_run hw] at gw; cases gw

/-- A context that does not wait is not woken. -/
theorem SameOrWoken.eq_of {k l : Ctx} (h : SameOrWoken k l) (g : k.run ≠ .waiting) : l = k := by
  rcases h with h | ⟨hw, _⟩
  · exact h
  · exact absurd hw g

/-! ## Counting and recording -/

/-- From s to t, only the counters and IPEND may have changed, free values may have been taken, and WAITING contexts may have been woken. -/
def OnlyPerf (s t : State) : Prop :=
  t = { s with ctx := t.ctx, perf := t.perf, free := t.free, intr := { s.intr with ipend := t.intr.ipend } } ∧
    ∀ c, SameOrWoken (s.getCtx c) (t.getCtx c)

theorem OnlyPerf.refl (s : State) : OnlyPerf s s := ⟨rfl, fun _ => .inl rfl⟩

theorem OnlyPerf.trans {s t u : State} (h : OnlyPerf s t) (g : OnlyPerf t u) : OnlyPerf s u := by
  refine ⟨?_, fun c => (h.2 c).trans (g.2 c)⟩
  obtain ⟨h, -⟩ := h
  obtain ⟨g, -⟩ := g
  rw [h] at g
  exact g

/-- A change of the counters and of what free values have been taken. -/
theorem OnlyPerf.put (s : State) (p : Perf) (n : Nat) : OnlyPerf s { s with perf := p, free := n } := ⟨rfl, fun _ => .inl rfl⟩

/-- A fold of steps that each change only what counting changes does so too. -/
theorem foldl_perf {α : Type} (f : State → α → State) (hf : ∀ s a, OnlyPerf s (f s a)) (l : List α) (s : State) :
    OnlyPerf s (l.foldl f s) := by
  induction l generalizing s with
  | nil => exact OnlyPerf.refl s
  | cons a l ih => exact (hf s a).trans (ih _)

/-- A context is woken, or nothing happens (R404). -/
theorem wakeByIrq_eq (c : CtxId) (s : State) : OnlyPerf s (wakeByIrq c s) := by
  unfold wakeByIrq
  split
  · rename_i h
    simp only [Bool.and_eq_true, beq_iff_eq] at h
    refine ⟨rfl, fun d => ?_⟩
    by_cases e : d = c
    · subst e
      rw [getCtx_modCtx]
      exact .inr ⟨h.1, _, rfl⟩
    · rw [getCtx_modCtx_ne _ _ e]
      exact .inl rfl
  · exact OnlyPerf.refl s

/-- Waking contexts changes nothing but them (R404). -/
theorem wakeIrqs_eq (s : State) : OnlyPerf s (wakeIrqs s) := foldl_perf _ (fun t c => wakeByIrq_eq c t) _ s

/-- A pending bit may wake contexts, and changes nothing else (R369, R404). -/
theorem setPend_eq (v : Nat) (s : State) : OnlyPerf s (setPend v s) :=
  OnlyPerf.trans (t := { s with intr := { s.intr with ipend := setBit s.intr.ipend v true } }) ⟨rfl, fun _ => .inl rfl⟩
    (wakeIrqs_eq _)

/-- A change of PMC k changes the counters and, by an overflow, IPEND (R454, R456). -/
theorem bumpPmc_eq (s : State) (k n : Nat) : OnlyPerf s (bumpPmc s k n) := by
  have put : ∀ p : Perf, OnlyPerf s { s with perf := p } := fun _ => ⟨rfl, fun _ => .inl rfl⟩
  unfold bumpPmc
  dsimp only
  by_cases h : (vget s.perf.pmc k 0).toNat + n < 2 ^ 48
  · rw [if_pos h]; exact put _
  · rw [if_neg h]
    by_cases g : bit s.perf.pmctl (16 + k) = true
    · rw [if_pos g]; exact (put _).trans (setPend_eq 36 _)
    · rw [if_neg g]; exact put _

/-- Counting an event changes the counters and, by an overflow, IPEND and what it wakes, and nothing else (R454, R456). -/
theorem countEvent_eq (cls evt n : Nat) (cause : Option (Bool × Bool)) (m : Master) (a : Option W64) (s : State) :
    OnlyPerf s (countEvent cls evt n cause m a s) := by
  unfold countEvent
  split
  · exact OnlyPerf.refl s
  · refine foldl_perf _ (fun t k => ?_) _ _
    split
    · exact bumpPmc_eq t k n
    · exact OnlyPerf.refl t

/-- A trace record changes the trace registers and nothing else (R474). -/
theorem traceRec_eq (typ : BitVec 6) (ctx : Option (CtxId × W32)) (p0 p1 : W64) (s : State) :
    traceRec typ ctx p0 p1 s = { s with trace := (traceRec typ ctx p0 p1 s).trace } := by
  unfold traceRec
  dsimp only
  generalize (decide (0 < s.trace.trMissed) && traceOn s 9) = loss
  generalize (if loss = true then 2 else 1 : Nat) = need
  generalize (if loss = true then 0 else s.trace.trMissed) = missed
  generalize (if loss = true then [traceWords s 9 none (BitVec.ofNat 64 s.trace.trMissed) 0] else []) = pre
  split
  · rfl
  · split <;> rfl

/-! ## Accounting (R452, R459 to R461) -/

theorem countSlots_eq (n : Nat) (v s : State) : OnlyPerf s (countSlots n v s) :=
  (OnlyPerf.put s s.perf _).trans <| (countEvent_eq ..).trans <| (countEvent_eq ..).trans (countEvent_eq ..)

theorem countArraySlots_eq (n w : Nat) (q : Option (BitVec 2)) (v s : State) : OnlyPerf s (countArraySlots n w q v s) := by
  unfold countArraySlots
  dsimp only
  split
  · exact countEvent_eq ..
  · exact (OnlyPerf.put s s.perf _).trans <| (countEvent_eq ..).trans (countEvent_eq ..)

theorem countAllArraySlots_eq (k : Steps) (v s : State) : OnlyPerf s (countAllArraySlots k v s) := by
  unfold countAllArraySlots
  split
  · exact OnlyPerf.refl s
  · split
    · exact foldl_perf _ (fun t q => countArraySlots_eq _ _ _ _ _) _ _
    · exact countArraySlots_eq ..

theorem countEngine_eq (k : Steps) (v s : State) (i p : Nat) (t : State) : OnlyPerf t (countEngine k v s i p t) := by
  unfold countEngine
  dsimp only
  generalize (engineState _ _ _ _ _ _ _ _) = e
  split
  · exact OnlyPerf.refl t
  · cases e with
    | none => exact OnlyPerf.refl t
    | some x =>
      dsimp only
      split
      · exact bumpPmc_eq ..
      · exact OnlyPerf.refl t

theorem countEngines_eq (k : Steps) (v s : State) : OnlyPerf s (countEngines k v s) :=
  (foldl_perf _ (fun t i => foldl_perf _ (fun u p => countEngine_eq k v s i p u) _ t) _ s).trans (OnlyPerf.put _ _ _)

theorem countFree_eq (cls evt : Nat) (m : Option (Bool × Bool) × Master) (s : State) : OnlyPerf s (countFree cls evt m s) :=
  (foldl_perf _ (fun _ _ => countEvent_eq ..) _ s).trans (OnlyPerf.put _ _ _)

theorem countMicro_eq (v s : State) : OnlyPerf s (countMicro v s) :=
  foldl_perf _ (fun t m => (foldl_perf _ (fun u e => countFree_eq 1 e m u) _ t).trans (countFree_eq ..)) _ s

theorem countWaits_eq (n : Nat) (v s : State) : OnlyPerf s (countWaits n v s) := by
  have first : OnlyPerf s (match runningCtx v with
      | some c => if ((v.getCtx c).ev.fence.any fun f => f.done.isNone) = true then
          countEvent 2 6 n (some ((v.getCtx c).sup, (v.getCtx c).world)) (.ctx c) none s else s
      | none => s) := by
    split
    · split
      · exact countEvent_eq ..
      · exact OnlyPerf.refl s
    · exact OnlyPerf.refl s
  refine first.trans (foldl_perf _ (fun t i => ?_) _ _)
  dsimp only
  split
  · exact countEvent_eq ..
  · exact OnlyPerf.refl t

theorem countSteps_eq (k : Steps) (v s : State) : OnlyPerf s (countSteps k v s) := by
  have fc : ∀ (i m : Nat) (u : State), OnlyPerf u (addFc i m u) := fun _ _ u => OnlyPerf.put u _ u.free
  have fix : OnlyPerf s (addFc 0 k.n (addFc 2 k.rows (if (runningCtx v).isSome = true then addFc 3 (k.n - k.retiring) s else s))) := by
    refine OnlyPerf.trans ?_ ((fc _ _ _).trans (fc _ _ _))
    split
    · exact fc _ _ _
    · exact OnlyPerf.refl s
  exact fix.trans <| (countEngines_eq ..).trans <| (countSlots_eq ..).trans <| (countAllArraySlots_eq ..).trans <|
    (OnlyPerf.put _ _ _).trans <| (countWaits_eq ..).trans (countMicro_eq ..)

/-- Accounting changes the counters and, by an overflow, IPEND and what it wakes; it takes free values, and changes nothing else. -/
theorem account_eq (v s : State) : OnlyPerf s (account v s) := by
  unfold account
  split
  · exact OnlyPerf.refl s
  · exact (OnlyPerf.put s s.perf _).trans ((countSteps_eq ..).trans (OnlyPerf.put _ _ _))

theorem accountChange_eq (s t : State) : OnlyPerf t (accountChange s t) := by
  unfold accountChange
  split
  · exact account_eq s t
  · exact OnlyPerf.refl t

/-- A Wayside record changes the reliability registers and, when it is dropped, the count of those (R490, R491). -/
theorem wayside_eq (cause : BitVec 8) (ctx : Option CtxId) (d : W32) (s : State) :
    wayside cause ctx d s = { s with
      rel := (wayside cause ctx d s).rel, chain := { s.chain with wsDrop := (wayside cause ctx d s).chain.wsDrop } } := by
  unfold wayside
  dsimp only

/-- A packet goes behind the others of its lane (R16, R22), once the steps up to then are accounted; nothing else changes. -/
theorem sendPacket_eq (p : List Flit) (s : State) :
    ∃ t, OnlyPerf s t ∧ sendPacket p s = { t with mesh := { s.mesh with
      egress := (sendPacket p s).mesh.egress, stage := (sendPacket p s).mesh.stage } } := by
  unfold sendPacket
  split
  · exact ⟨s, OnlyPerf.refl s, rfl⟩
  · have h : OnlyPerf s (if (counting s && egressIdle s) = true then account s s else s) := by
      split
      · exact account_eq s s
      · exact OnlyPerf.refl s
    refine ⟨_, h, ?_⟩
    dsimp only
    generalize (if (counting s && egressIdle s) = true then account s s else s) = u at h
    have e : u.mesh = s.mesh := by rw [h.1]
    unfold Mesh.feed
    rw [e]

/-! ## Events -/

/-- Events change the contexts and nothing else (R407, R410). -/
theorem setEvents_eq (k : Nat) (p : CtxId → Bool) (s : State) :
    setEvents k p s = { s with ctx := (setEvents k p s).ctx } := by
  have step : ∀ (l : List CtxId) (t : State), l.foldl (fun t c => if p c then setEvent c k t else t) t =
      { t with ctx := (l.foldl (fun t c => if p c then setEvent c k t else t) t).ctx } := by
    intro l
    induction l with
    | nil => intro t; rfl
    | cons c l ih =>
      intro t
      simp only [List.foldl_cons]
      by_cases h : p c = true
      · simp only [if_pos h]
        exact ih (setEvent c k t)
      · simp only [if_neg h]
        exact ih t
  exact step _ s

/-- Bringing the level events up to date changes the contexts and nothing else (R407). -/
theorem settle_eq (s : State) : settle s = { s with ctx := (settle s).ctx } := by
  have step : ∀ (l : List Nat) (t : State), l.foldl (fun t k => setEvents k (fun c => levelHolds s c k) t) t =
      { t with ctx := (l.foldl (fun t k => setEvents k (fun c => levelHolds s c k) t) t).ctx } := by
    intro l
    induction l with
    | nil => intro t; rfl
    | cons k l ih =>
      intro t
      simp only [List.foldl_cons]
      rw [setEvents_eq]
      exact ih _
  exact step _ s

/-! ## Retirement -/

/-- What a retirement counts: the counters, and the free values they took (R457, R458). -/
theorem countRetired_eq (c : CtxId) (s t : State) : OnlyPerf t (countRetired c s t) := by
  unfold countRetired
  split
  · exact OnlyPerf.refl t
  · exact (OnlyPerf.put t _ _).trans <| (countEvent_eq ..).trans <| (countEvent_eq ..).trans <| (countEvent_eq ..).trans <|
      (countEvent_eq ..).trans <| (countEvent_eq ..).trans (accountChange_eq ..)

/-- A retirement counts, and ends what the context's accesses still awaited; it changes nothing else (R116, R458, R503). -/
theorem retire_eq (c : CtxId) (s t : State) :
    retire c s t = { t with
      ctx := (retire c s t).ctx
      perf := (retire c s t).perf
      free := (retire c s t).free
      intr := { t.intr with ipend := (retire c s t).intr.ipend }
      tile := t.tile.stopPart c
      mesh := { t.mesh with fills := (retire c s t).mesh.fills, reqs := (retire c s t).mesh.reqs } } := by
  have h := (countRetired_eq c s t).1
  unfold retire
  rw [h]
  rfl

/-- A retirement leaves every context, but may wake one that waits (R404, R456). -/
theorem retire_getCtx (c d : CtxId) (s t : State) : SameOrWoken (t.getCtx d) ((retire c s t).getCtx d) :=
  (countRetired_eq c s t).2 d

@[simp] theorem retire_spad (c : CtxId) (s t : State) : (retire c s t).spad = t.spad := by rw [retire_eq]
@[simp] theorem retire_caches (c : CtxId) (s t : State) : (retire c s t).caches = t.caches := by rw [retire_eq]
@[simp] theorem retire_pending (c : CtxId) (s t : State) : (retire c s t).pending = t.pending := by rw [retire_eq]

/-! ## Carrying a property of the state -/

/-- Whatever comes of m, begun where P holds, P holds where it ended. -/
def Carries {α : Type} (P : State → Prop) (m : M α) : Prop :=
  ∀ s, P s → match m s with | .ok _ t => P t | .error _ t => P t

theorem Carries.pure {α : Type} {P : State → Prop} (a : α) : Carries P (pure a : M α) := fun _ h => h
theorem Carries.get {P : State → Prop} : Carries P (get : M State) := fun _ h => h
theorem Carries.throw {α : Type} {P : State → Prop} (e : Stop) : Carries P (throw e : M α) := fun _ h => h
theorem Carries.set {P : State → Prop} {t : State} (h : P t) : Carries P (set t : M PUnit) := fun _ _ => h
theorem Carries.modify {P : State → Prop} {f : State → State} (h : ∀ s, P s → P (f s)) : Carries P (modify f : M PUnit) := h
theorem Carries.getC {P : State → Prop} (c : CtxId) : Carries P (getC c) := fun _ h => h

theorem Carries.bind {α β : Type} {P : State → Prop} {m : M α} {f : α → M β} (hm : Carries P m) (hf : ∀ a, Carries P (f a)) :
    Carries P (m >>= f) := by
  intro s hs
  have h := hm s hs
  simp only [Bind.bind, EStateM.bind]
  cases e : m s with
  | ok a t => rw [e] at h; exact hf a t h
  | error x t => rw [e] at h; exact h

theorem Carries.ite {α : Type} {P : State → Prop} {b : Prop} [Decidable b] {m n : M α} (hm : Carries P m) (hn : Carries P n) :
    Carries P (if b then m else n) := by
  split
  · exact hm
  · exact hn

theorem Carries.modC {P : State → Prop} {c : CtxId} {f : Ctx → Ctx} (h : ∀ s, P s → P (s.modCtx c f)) :
    Carries P (modC c f) := h

/-- What depends on the scratchpad alone is carried through every change of a context. -/
theorem Carries.modC_spad (c : CtxId) (f : Ctx → Ctx) : Carries SpadInv (Machine.modC c f) :=
  fun _ h => h.congr rfl

end Sys2Proof.Machine
end

