-- ==== Sys2Proof/Laws/PerInstr.lean ====
section
/-!
SUPPORT. A law of every command as syntax: a command is well-formed, or it is one of the three whose operands can contradict
their row (log 8).
-/

namespace Sys2Proof.Laws.OnlyThreeIllFormed

open Sys2Proof

/-- A command is well-formed, or it is RESERVED_OPCODE, BAD_PACKET or POST_RECEIVE. -/
def Statement (i : Instr) : Prop :=
  wellFormed i = true ∨ (∃ w, i = .reservedOpcode w) ∨ (∃ c o, i = .badPacket c o) ∨ ∃ h ws, i = .postReceive h ws

theorem coldReset : Statement .coldReset := .inl rfl
theorem coldResetRelease : Statement .coldResetRelease := .inl rfl
theorem warmReset : Statement .warmReset := .inl rfl
theorem warmResetRelease : Statement .warmResetRelease := .inl rfl
theorem drainEnd : Statement .drainEnd := .inl rfl
theorem initEnd : Statement .initEnd := .inl rfl
theorem keygenTimeout : Statement .keygenTimeout := .inl rfl
theorem cpResetRelease : Statement .cpResetRelease := .inl rfl
theorem hfenceRise : Statement .hfenceRise := .inl rfl
theorem hfenceFall : Statement .hfenceFall := .inl rfl
theorem frzRise : Statement .frzRise := .inl rfl
theorem frzFall : Statement .frzFall := .inl rfl
theorem tamperEvent : Statement .tamperEvent := .inl rfl
theorem refclkLoss : Statement .refclkLoss := .inl rfl
theorem refclkReturn : Statement .refclkReturn := .inl rfl
theorem paceHwChange (v : BitVec 4) : Statement (.paceHwChange v) := .inl rfl
theorem curHiRise : Statement .curHiRise := .inl rfl
theorem curHiFall : Statement .curHiFall := .inl rfl
theorem stallWatchdog (src : BitVec 2) : Statement (.stallWatchdog src) := .inl rfl
theorem ioTimeout (c : CtxId) : Statement (.ioTimeout c) := .inl rfl
theorem timerInterrupt : Statement .timerInterrupt := .inl rfl
theorem timeEvent (c : CtxId) : Statement (.timeEvent c) := .inl rfl
theorem droverQuantum : Statement .droverQuantum := .inl rfl
theorem droverSwitch : Statement .droverSwitch := .inl rfl
theorem fcWindowEnd : Statement .fcWindowEnd := .inl rfl
theorem dumpDue : Statement .dumpDue := .inl rfl
theorem dumpComplete : Statement .dumpComplete := .inl rfl
theorem traceRecordWrite : Statement .traceRecordWrite := .inl rfl
theorem snapshotCopy : Statement .snapshotCopy := .inl rfl
theorem waysideSend : Statement .waysideSend := .inl rfl
theorem tpwrDrainEnd : Statement .tpwrDrainEnd := .inl rfl
theorem tpwrGateOpen : Statement .tpwrGateOpen := .inl rfl
theorem tpwrPowerUp : Statement .tpwrPowerUp := .inl rfl
theorem tileComplete : Statement .tileComplete := .inl rfl
theorem meshFlitSend (ready : BitVec 4) : Statement (.meshFlitSend ready) := .inl rfl
theorem creditReturn (ch : BitVec 4) : Statement (.creditReturn ch) := .inl rfl
theorem causewayBeat : Statement .causewayBeat := .inl rfl
theorem moverBlock (ch : BitVec 3) (ecc : Option EccEvent) : Statement (.moverBlock ch ecc) := .inl rfl
theorem dataS (txid : BitVec 8) (line : Line) : Statement (.dataS txid line) := .inl rfl
theorem dataX (txid : BitVec 8) (line : Line) : Statement (.dataX txid line) := .inl rfl
theorem ack (txid : BitVec 8) : Statement (.ack txid) := .inl rfl
theorem err (txid : BitVec 8) : Statement (.err txid) := .inl rfl
theorem probeS (addr : PAddr) (src : CoreId) (txid : BitVec 8) : Statement (.probeS addr src txid) := .inl rfl
theorem probeK (addr : PAddr) (src : CoreId) (txid : BitVec 8) : Statement (.probeK addr src txid) := .inl rfl
theorem badPacket (cls : BitVec 4) (opc : BitVec 4) : Statement (.badPacket cls opc) := .inr (.inr (.inl ⟨_, _, rfl⟩))
theorem ioResponse (resp : IoResp) : Statement (.ioResponse resp) := .inl rfl
theorem ioReadServe (q : IoReq) : Statement (.ioReadServe q) := .inl rfl
theorem ipi (q : IoReq) (w : TWord) : Statement (.ipi q w) := .inl rfl
theorem wcfgWrite (q : IoReq) (w : TWord) : Statement (.wcfgWrite q w) := .inl rfl
theorem wsub (q : IoReq) : Statement (.wsub q) := .inl rfl
theorem claimServe (q : IoReq) : Statement (.claimServe q) := .inl rfl
theorem completeServe (q : IoReq) (w : TWord) : Statement (.completeServe q w) := .inl rfl
theorem notice (q : IoReq) : Statement (.notice q) := .inl rfl
theorem postReceive (h : PostHdr) (ws : List TWord) : Statement (.postReceive h ws) := .inr (.inr (.inr ⟨_, _, rfl⟩))
theorem cpResult (tag : BitVec 3) (res : TWord) (bad : Bool) (code : BitVec 8) : Statement (.cpResult tag res bad code) := .inl rfl
theorem enum (f : ChainFrame) : Statement (.enum f) := .inl rfl
theorem identq (f : ChainFrame) : Statement (.identq f) := .inl rfl
theorem chainRead (f : ChainFrame) : Statement (.chainRead f) := .inl rfl
theorem chainWrite (f : ChainFrame) : Statement (.chainWrite f) := .inl rfl
theorem bwrite (f : ChainFrame) : Statement (.bwrite f) := .inl rfl
theorem corerst (f : ChainFrame) : Statement (.corerst f) := .inl rfl
theorem respSend : Statement .respSend := .inl rfl
theorem bootGo (f : ChainFrame) (bc : Bool) : Statement (.bootGo f bc) := .inl rfl
theorem enable0Write (f : ChainFrame) (bc : Bool) : Statement (.enable0Write f bc) := .inl rfl
theorem mbinWrite (f : ChainFrame) (bc : Bool) : Statement (.mbinWrite f bc) := .inl rfl
theorem mboutWrite (k : BitVec 2) : Statement (.mboutWrite k) := .inl rfl
theorem tsoffhiWrite (f : ChainFrame) (bc : Bool) : Statement (.tsoffhiWrite f bc) := .inl rfl
theorem tlatloRead (f : ChainFrame) : Statement (.tlatloRead f) := .inl rfl
theorem trheadWrite (f : ChainFrame) (bc : Bool) : Statement (.trheadWrite f bc) := .inl rfl
theorem dmheadWrite (f : ChainFrame) (bc : Bool) : Statement (.dmheadWrite f bc) := .inl rfl
theorem xrstatTrig (f : ChainFrame) (bc : Bool) : Statement (.xrstatTrig f bc) := .inl rfl
theorem xrdataRead (f : ChainFrame) : Statement (.xrdataRead f) := .inl rfl
theorem fccfgWrite (f : ChainFrame) (bc : Bool) : Statement (.fccfgWrite f bc) := .inl rfl
theorem almcfgWrite (f : ChainFrame) (bc : Bool) : Statement (.almcfgWrite f bc) := .inl rfl
theorem tgrateWrite (f : ChainFrame) (bc : Bool) : Statement (.tgrateWrite f bc) := .inl rfl
theorem tgstatWrite (f : ChainFrame) (bc : Bool) : Statement (.tgstatWrite f bc) := .inl rfl
theorem cctlWrite : Statement .cctlWrite := .inl rfl
theorem moverGo (ch : BitVec 3) : Statement (.moverGo ch) := .inl rfl
theorem moverCont (ch : BitVec 3) : Statement (.moverCont ch) := .inl rfl
theorem causewayGo (ch : BitVec 4) : Statement (.causewayGo ch) := .inl rfl
theorem ld (m : BitVec 3) (d : BitVec 22) (ecc : Option EccEvent) : Statement (.ld m d ecc) := .inl rfl
theorem ldx (m : BitVec 3) (d : BitVec 22) (ecc : Option EccEvent) : Statement (.ldx m d ecc) := .inl rfl
theorem ldy (m : BitVec 3) (d : BitVec 22) (ecc : Option EccEvent) : Statement (.ldy m d ecc) := .inl rfl
theorem st (m : BitVec 3) (d : BitVec 22) : Statement (.st m d) := .inl rfl
theorem stx (m : BitVec 3) (d : BitVec 22) : Statement (.stx m d) := .inl rfl
theorem sty (m : BitVec 3) (d : BitVec 22) : Statement (.sty m d) := .inl rfl
theorem ldB (m : BitVec 3) (d : BitVec 22) (ecc : Option EccEvent) : Statement (.ldB m d ecc) := .inl rfl
theorem ldBu (m : BitVec 3) (d : BitVec 22) (ecc : Option EccEvent) : Statement (.ldBu m d ecc) := .inl rfl
theorem ldH (m : BitVec 3) (d : BitVec 22) (ecc : Option EccEvent) : Statement (.ldH m d ecc) := .inl rfl
theorem ldHu (m : BitVec 3) (d : BitVec 22) (ecc : Option EccEvent) : Statement (.ldHu m d ecc) := .inl rfl
theorem ldW (m : BitVec 3) (d : BitVec 22) (ecc : Option EccEvent) : Statement (.ldW m d ecc) := .inl rfl
theorem ldWu (m : BitVec 3) (d : BitVec 22) (ecc : Option EccEvent) : Statement (.ldWu m d ecc) := .inl rfl
theorem stB (m : BitVec 3) (d : BitVec 22) (ecc : Option EccEvent) : Statement (.stB m d ecc) := .inl rfl
theorem stH (m : BitVec 3) (d : BitVec 22) (ecc : Option EccEvent) : Statement (.stH m d ecc) := .inl rfl
theorem stW (m : BitVec 3) (d : BitVec 22) (ecc : Option EccEvent) : Statement (.stW m d ecc) := .inl rfl
theorem ldc (m : BitVec 3) (d : BitVec 22) : Statement (.ldc m d) := .inl rfl
theorem lea (m : BitVec 3) (d : BitVec 22) : Statement (.lea m d) := .inl rfl
theorem leax (m : BitVec 3) (d : BitVec 22) : Statement (.leax m d) := .inl rfl
theorem leay (m : BitVec 3) (d : BitVec 22) : Statement (.leay m d) := .inl rfl
theorem add (m : BitVec 3) (d : BitVec 22) : Statement (.add m d) := .inl rfl
theorem adc (m : BitVec 3) (d : BitVec 22) : Statement (.adc m d) := .inl rfl
theorem sub (m : BitVec 3) (d : BitVec 22) : Statement (.sub m d) := .inl rfl
theorem sbc (m : BitVec 3) (d : BitVec 22) : Statement (.sbc m d) := .inl rfl
theorem cmp (m : BitVec 3) (d : BitVec 22) : Statement (.cmp m d) := .inl rfl
theorem band (m : BitVec 3) (d : BitVec 22) : Statement (.band m d) := .inl rfl
theorem bor (m : BitVec 3) (d : BitVec 22) : Statement (.bor m d) := .inl rfl
theorem bxor (m : BitVec 3) (d : BitVec 22) : Statement (.bxor m d) := .inl rfl
theorem shl (m : BitVec 3) (d : BitVec 22) : Statement (.shl m d) := .inl rfl
theorem shr (m : BitVec 3) (d : BitVec 22) : Statement (.shr m d) := .inl rfl
theorem sar (m : BitVec 3) (d : BitVec 22) : Statement (.sar m d) := .inl rfl
theorem rol (m : BitVec 3) (d : BitVec 22) : Statement (.rol m d) := .inl rfl
theorem ror (m : BitVec 3) (d : BitVec 22) : Statement (.ror m d) := .inl rfl
theorem perm (m : BitVec 3) (d : BitVec 22) : Statement (.perm m d) := .inl rfl
theorem bfx (m : BitVec 3) (d : BitVec 22) : Statement (.bfx m d) := .inl rfl
theorem bfi (m : BitVec 3) (d : BitVec 22) : Statement (.bfi m d) := .inl rfl
theorem mul (m : BitVec 3) (d : BitVec 22) : Statement (.mul m d) := .inl rfl
theorem mulu (m : BitVec 3) (d : BitVec 22) : Statement (.mulu m d) := .inl rfl
theorem div (m : BitVec 3) (d : BitVec 22) : Statement (.div m d) := .inl rfl
theorem divu (m : BitVec 3) (d : BitVec 22) : Statement (.divu m d) := .inl rfl
theorem faddD (m : BitVec 3) (d : BitVec 22) : Statement (.faddD m d) := .inl rfl
theorem faddS (m : BitVec 3) (d : BitVec 22) : Statement (.faddS m d) := .inl rfl
theorem fsubD (m : BitVec 3) (d : BitVec 22) : Statement (.fsubD m d) := .inl rfl
theorem fsubS (m : BitVec 3) (d : BitVec 22) : Statement (.fsubS m d) := .inl rfl
theorem fmulD (m : BitVec 3) (d : BitVec 22) : Statement (.fmulD m d) := .inl rfl
theorem fmulS (m : BitVec 3) (d : BitVec 22) : Statement (.fmulS m d) := .inl rfl
theorem fdivD (m : BitVec 3) (d : BitVec 22) : Statement (.fdivD m d) := .inl rfl
theorem fdivS (m : BitVec 3) (d : BitVec 22) : Statement (.fdivS m d) := .inl rfl
theorem fmacD (m : BitVec 3) (d : BitVec 22) : Statement (.fmacD m d) := .inl rfl
theorem fmacS (m : BitVec 3) (d : BitVec 22) : Statement (.fmacS m d) := .inl rfl
theorem fminD (m : BitVec 3) (d : BitVec 22) : Statement (.fminD m d) := .inl rfl
theorem fminS (m : BitVec 3) (d : BitVec 22) : Statement (.fminS m d) := .inl rfl
theorem fmaxD (m : BitVec 3) (d : BitVec 22) : Statement (.fmaxD m d) := .inl rfl
theorem fmaxS (m : BitVec 3) (d : BitVec 22) : Statement (.fmaxS m d) := .inl rfl
theorem fcmpD (m : BitVec 3) (d : BitVec 22) : Statement (.fcmpD m d) := .inl rfl
theorem fcmpoD (m : BitVec 3) (d : BitVec 22) : Statement (.fcmpoD m d) := .inl rfl
theorem fcmpS (m : BitVec 3) (d : BitVec 22) : Statement (.fcmpS m d) := .inl rfl
theorem fcmpoS (m : BitVec 3) (d : BitVec 22) : Statement (.fcmpoS m d) := .inl rfl
theorem fsqrtD (r : BitVec 21) : Statement (.fsqrtD r) := .inl rfl
theorem fsqrtS (r : BitVec 21) : Statement (.fsqrtS r) := .inl rfl
theorem fcvtDL (r : BitVec 21) : Statement (.fcvtDL r) := .inl rfl
theorem fcvtDLu (r : BitVec 21) : Statement (.fcvtDLu r) := .inl rfl
theorem fcvtSL (r : BitVec 21) : Statement (.fcvtSL r) := .inl rfl
theorem fcvtSLu (r : BitVec 21) : Statement (.fcvtSLu r) := .inl rfl
theorem fcvtLD (r : BitVec 21) : Statement (.fcvtLD r) := .inl rfl
theorem fcvtLuD (r : BitVec 21) : Statement (.fcvtLuD r) := .inl rfl
theorem fcvtLS (r : BitVec 21) : Statement (.fcvtLS r) := .inl rfl
theorem fcvtLuS (r : BitVec 21) : Statement (.fcvtLuS r) := .inl rfl
theorem fcvtSD (r : BitVec 21) : Statement (.fcvtSD r) := .inl rfl
theorem fcvtDS (r : BitVec 21) : Statement (.fcvtDS r) := .inl rfl
theorem ioIn (m : BitVec 3) (d : BitVec 22) : Statement (.ioIn m d) := .inl rfl
theorem ioOut (m : BitVec 3) (d : BitVec 22) : Statement (.ioOut m d) := .inl rfl
theorem claim (m : BitVec 3) (d : BitVec 22) : Statement (.claim m d) := .inl rfl
theorem complete (m : BitVec 3) (d : BitVec 22) : Statement (.complete m d) := .inl rfl
theorem jmp (m : BitVec 3) (d : BitVec 22) : Statement (.jmp m d) := .inl rfl
theorem call (m : BitVec 3) (d : BitVec 22) : Statement (.call m d) := .inl rfl
theorem jmpx (m : BitVec 3) (d : BitVec 22) : Statement (.jmpx m d) := .inl rfl
theorem mov (f : BitVec 25) : Statement (.mov f) := .inl rfl
theorem neg (r : BitVec 21) : Statement (.neg r) := .inl rfl
theorem bnot (r : BitVec 21) : Statement (.bnot r) := .inl rfl
theorem clz (r : BitVec 21) : Statement (.clz r) := .inl rfl
theorem tagget (r : BitVec 21) : Statement (.tagget r) := .inl rfl
theorem tagset (f : BitVec 25) : Statement (.tagset f) := .inl rfl
theorem skip (f : BitVec 25) : Statement (.skip f) := .inl rfl
theorem ret (f : BitVec 25) : Statement (.ret f) := .inl rfl
theorem trap (f : BitVec 25) : Statement (.trap f) := .inl rfl
theorem rfe (r : BitVec 24) : Statement (.rfe r) := .inl rfl
theorem rfi (r : BitVec 24) : Statement (.rfi r) := .inl rfl
theorem stile (f : BitVec 25) : Statement (.stile f) := .inl rfl
theorem fence (f : BitVec 25) : Statement (.fence f) := .inl rfl
theorem tlbinvVa (r : BitVec 23) : Statement (.tlbinvVa r) := .inl rfl
theorem tlbinvVaw (r : BitVec 23) : Statement (.tlbinvVaw r) := .inl rfl
theorem tlbinvAsid (r : BitVec 23) : Statement (.tlbinvAsid r) := .inl rfl
theorem tlbinvAll (r : BitVec 23) : Statement (.tlbinvAll r) := .inl rfl
theorem cinvAll (r : BitVec 22) : Statement (.cinvAll r) := .inl rfl
theorem cwbAll (r : BitVec 22) : Statement (.cwbAll r) := .inl rfl
theorem cinvLine (r : BitVec 22) : Statement (.cinvLine r) := .inl rfl
theorem cwbLine (r : BitVec 22) : Statement (.cwbLine r) := .inl rfl
theorem cwbiLine (r : BitVec 22) : Statement (.cwbiLine r) := .inl rfl
theorem mfs (f : BitVec 25) : Statement (.mfs f) := .inl rfl
theorem mts (f : BitVec 25) : Statement (.mts f) := .inl rfl
theorem mtsTpwrOff (r : BitVec 13) : Statement (.mtsTpwrOff r) := .inl rfl
theorem mtsTpwrOn (r : BitVec 13) : Statement (.mtsTpwrOn r) := .inl rfl
theorem mtsAcx (n : BitVec 5) (r : BitVec 13) : Statement (.mtsAcx n r) := .inl rfl
theorem mtsRmax (n : BitVec 5) (r : BitVec 13) : Statement (.mtsRmax n r) := .inl rfl
theorem mtsTcfg (r : BitVec 13) : Statement (.mtsTcfg r) := .inl rfl
theorem mtsFcfg (r : BitVec 13) : Statement (.mtsFcfg r) := .inl rfl
theorem mtsTown (r : BitVec 13) : Statement (.mtsTown r) := .inl rfl
theorem waddrArm (r : BitVec 13) : Statement (.waddrArm r) := .inl rfl
theorem watchArm (k : WatchReg) (r : BitVec 13) : Statement (.watchArm k r) := .inl rfl
theorem mtsTimer (ctl : Bool) (r : BitVec 13) : Statement (.mtsTimer ctl r) := .inl rfl
theorem mtsPam (n : BitVec 4) (lim : Bool) (r : BitVec 13) : Statement (.mtsPam n lim r) := .inl rfl
theorem mtsTranslation (k : XlateReg) (r : BitVec 13) : Statement (.mtsTranslation k r) := .inl rfl
theorem mtsEvec (r : BitVec 13) : Statement (.mtsEvec r) := .inl rfl
theorem mtsVlvl (k : BitVec 3) (r : BitVec 13) : Statement (.mtsVlvl k r) := .inl rfl
theorem mtsFbst (r : BitVec 13) : Statement (.mtsFbst r) := .inl rfl
theorem mtsWlock (r : BitVec 13) : Statement (.mtsWlock r) := .inl rfl
theorem mtsWsreq (r : BitVec 13) : Statement (.mtsWsreq r) := .inl rfl
theorem mtsPace (r : BitVec 13) : Statement (.mtsPace r) := .inl rfl
theorem mfsKdout (r : BitVec 13) : Statement (.mfsKdout r) := .inl rfl
theorem abase (r : BitVec 20) : Statement (.abase r) := .inl rfl
theorem atop (r : BitVec 20) : Statement (.atop r) := .inl rfl
theorem aperm (r : BitVec 20) : Statement (.aperm r) := .inl rfl
theorem anarb (r : BitVec 20) : Statement (.anarb r) := .inl rfl
theorem anart (r : BitVec 20) : Statement (.anart r) := .inl rfl
theorem amask (r : BitVec 20) : Statement (.amask r) := .inl rfl
theorem aseal (r : BitVec 20) : Statement (.aseal r) := .inl rfl
theorem aopen (r : BitVec 20) : Statement (.aopen r) := .inl rfl
theorem ald (r : BitVec 20) : Statement (.ald r) := .inl rfl
theorem ast (r : BitVec 20) : Statement (.ast r) := .inl rfl
theorem aget (r : BitVec 20) : Statement (.aget r) := .inl rfl
theorem aput (r : BitVec 20) : Statement (.aput r) := .inl rfl
theorem ajmp (r : BitVec 20) : Statement (.ajmp r) := .inl rfl
theorem agate (r : BitVec 20) : Statement (.agate r) := .inl rfl
theorem sealA (r : BitVec 20) : Statement (.sealA r) := .inl rfl
theorem unsealA (r : BitVec 20) : Statement (.unsealA r) := .inl rfl
theorem achk (r : BitVec 20) : Statement (.achk r) := .inl rfl
theorem wait (r : BitVec 21) : Statement (.wait r) := .inl rfl
theorem yield (r : BitVec 21) : Statement (.yield r) := .inl rfl
theorem cstart (r : BitVec 21) : Statement (.cstart r) := .inl rfl
theorem cstop (r : BitVec 21) : Statement (.cstop r) := .inl rfl
theorem cwake (r : BitVec 21) : Statement (.cwake r) := .inl rfl
theorem fspill (r : BitVec 21) : Statement (.fspill r) := .inl rfl
theorem ffill (r : BitVec 21) : Statement (.ffill r) := .inl rfl
theorem post (r : BitVec 21) : Statement (.post r) := .inl rfl
theorem mark (r : BitVec 21) : Statement (.mark r) := .inl rfl
theorem trec (r : BitVec 21) : Statement (.trec r) := .inl rfl
theorem xsnap (r : BitVec 21) : Statement (.xsnap r) := .inl rfl
theorem freeze (r : BitVec 21) : Statement (.freeze r) := .inl rfl
theorem rhahaWord (w : W32) : Statement (.rhahaWord w) := .inl rfl
theorem cpInsn (w : BitVec 27) : Statement (.cpInsn w) := .inl rfl
theorem tld (f : BitVec 25) (ecc : Option EccEvent) : Statement (.tld f ecc) := .inl rfl
theorem tst (f : BitVec 25) : Statement (.tst f) := .inl rfl
theorem tmma (f : BitVec 25) : Statement (.tmma f) := .inl rfl
theorem tmova (f : BitVec 25) : Statement (.tmova f) := .inl rfl
theorem tldac (f : BitVec 25) : Statement (.tldac f) := .inl rfl
theorem tstac (f : BitVec 25) : Statement (.tstac f) := .inl rfl
theorem tzeroT (q : BitVec 2) (r : BitVec 21) : Statement (.tzeroT q r) := .inl rfl
theorem tzeroA (q : BitVec 2) (r : BitVec 21) : Statement (.tzeroA q r) := .inl rfl
theorem tclrA (q : BitVec 2) (r : BitVec 21) : Statement (.tclrA q r) := .inl rfl
theorem tkill (q : BitVec 2) (r : BitVec 21) : Statement (.tkill q r) := .inl rfl
theorem trow (f : BitVec 25) : Statement (.trow f) := .inl rfl
theorem tcvt (f : BitVec 25) : Statement (.tcvt f) := .inl rfl
theorem tfn (f : BitVec 25) : Statement (.tfn f) := .inl rfl
theorem tred (f : BitVec 25) : Statement (.tred f) := .inl rfl
theorem tepi (f : BitVec 25) : Statement (.tepi f) := .inl rfl
theorem tsave (q : BitVec 2) (r : BitVec 22) : Statement (.tsave q r) := .inl rfl
theorem trestore (q : BitVec 2) (r : BitVec 22) : Statement (.trestore q r) := .inl rfl
theorem tsdw (q : BitVec 2) (r : BitVec 21) : Statement (.tsdw q r) := .inl rfl
theorem tsdr (q : BitVec 2) (r : BitVec 21) : Statement (.tsdr q r) := .inl rfl
theorem tsync (q : BitVec 2) (r : BitVec 21) : Statement (.tsync q r) := .inl rfl
theorem interruptEntry : Statement .interruptEntry := .inl rfl
theorem fastInterruptEntry : Statement .fastInterruptEntry := .inl rfl
theorem lameWritebackEnd : Statement .lameWritebackEnd := .inl rfl
theorem reservedOpcode (w : W32) : Statement (.reservedOpcode w) := .inr (.inl ⟨_, rfl⟩)
theorem ioWriteServe (q : IoReq) (w : TWord) : Statement (.ioWriteServe q w) := .inl rfl
theorem coreResetEnd : Statement .coreResetEnd := .inl rfl

end Sys2Proof.Laws.OnlyThreeIllFormed
end

