-- ==== Sys2Proof/Tests/Slice0.lean ====
section
/-!
SUPPORT. Tests on small states: worked examples of the spec, the commands that are refused as ill-formed, and for every
statement with hypotheses a state and operands that meet them.
-/

open Sys2Proof Sys2Proof.Machine

namespace Sys2Proof.Tests

set_option Elab.async false

/-- The part x succeeds in s, and p holds of what it gives. -/
def okIn {α : Type} (x : M α) (s : State) (p : α → State → Bool) : Bool :=
  match x s with
  | .ok a t => p a t
  | .error _ _ => false

theorem of_okIn {α : Type} {x : M α} {s : State} {p : α → State → Bool} (h : okIn x s p = true) :
    ∃ a t, x s = .ok a t ∧ p a t = true := by
  unfold okIn at h
  split at h
  · exact ⟨_, _, by assumption, h⟩
  · cases h

/-- The Start state with context 0 running, changed by f. -/
def base (f : Ctx → Ctx) : State :=
  State.modCtx { State.reset with boot := { State.reset.boot with phase := .start } } 0 f

/-- Context 0 with A, X and Y as given. -/
def regs (a x y : TWord) : State := base fun k => ((k.setA a).setX x).setY y

/-- A word tagged INT. -/
def int (v : W64) : TWord := ⟨v, Tag.int⟩
/-- A word tagged DPTR. -/
def dptr (v : W64) : TWord := ⟨v, Tag.dptr⟩
/-- A word tagged CPTR. -/
def cptr (v : W64) : TWord := ⟨v, Tag.cptr⟩
/-- A word tagged FLT. -/
def flt (v : W64) : TWord := ⟨v, Tag.flt⟩

/-! ## Ill-formed commands, and the spec's own examples -/

theorem test_reserved_opcode_refused : wellFormed (.reservedOpcode 0) = false ∧
    exec (.reservedOpcode 0) State.reset = .refused .illFormed := ⟨by decide, rfl⟩
theorem test_bad_packet_refused : wellFormed (.badPacket 0 0) = false ∧ exec (.badPacket 0 0) State.reset = .refused .illFormed :=
  ⟨by decide, rfl⟩
theorem test_post_receive_refused : wellFormed (.postReceive ⟨0, 0, 0, 0, 0, false, false⟩ []) = false := by decide
theorem test_well_formed : wellFormed (.reservedOpcode 0x26000000) = true ∧ wellFormed (.badPacket 1 0) = true ∧
    wellFormed (.badPacket 0 4) = true := by decide

/-- The worked example of PERM. -/
theorem test_perm : permute 0x00000000D4FEFFFF 0x88880123 = 0xFFFFFFFFFFFFFED4 := by decide
/-- The worked examples of BFI and BFX. -/
theorem test_fields : insertField 0xFFFF 0x16 0x10B = 0xB7FF ∧ extractField 0xB7FF 0x110B = 0xFFFFFFFFFFFFFFF6 := by decide
set_option maxRecDepth 8000 in
/-- The worked example of ENUM: the frame the host sends, and what position 0 forwards. -/
theorem test_enum : crcGood .enum ⟨0x0C0, 0, 0, 0xA7, false, []⟩ = true ∧
    Machine.frameOf 1 0x0C0 0 0 false = 0x10C000000000014E ∧ Machine.frameOf 1 0x0C1 0 0 false = 0x10C1000000000060 := by
  decide

/-! ## Integer and floating-point instructions -/

theorem witness_SumInstructions :
    let s := regs (int 7) (dptr 0) (dptr 0)
    Begins 0 s (begun 0 s) ∧ Reads 0 0 5 (begun 0 s) (int 5) (begun 0 s) ∧ ((begun 0 s).getCtx 0).getA = int 7 ∧
      sumAccepts .add Tag.int Tag.int = true ∧ sumAccepts .sub Tag.dptr Tag.dptr = true :=
  ⟨⟨rfl, rfl, _, rfl, rfl⟩, ⟨⟨rfl, rfl⟩, rfl⟩, rfl, by decide, by decide⟩

/-- ADD at the end of the signed range: 2^63 - 1 + 1 is -2^63 with V. -/
theorem test_add_overflow : okIn (sumInstr .add 0 1 0) (regs (int 0x7FFFFFFFFFFFFFFF) (int 0) (int 0)) (fun _ t =>
    (t.getCtx 0).getA == int 0x8000000000000000 && fld (t.getCtx 0).st 0 4 == 0xC#4) = true := by decide

theorem witness_LogicInstructions :
    let s := regs ⟨7, Tag.raw⟩ (int 0) (int 0)
    Begins 0 s (begun 0 s) ∧ Reads 0 0 5 (begun 0 s) (int 5) (begun 0 s) ∧ ((begun 0 s).getCtx 0).getA = ⟨7, Tag.raw⟩ ∧
      isLogic Tag.raw = true ∧ isLogic Tag.int = true := ⟨⟨rfl, rfl, _, rfl, rfl⟩, ⟨⟨rfl, rfl⟩, rfl⟩, rfl, by decide, by decide⟩

theorem witness_FieldOperations :
    let s := regs (int 0xFFFF) (int 0x16) (int 0)
    Begins 0 s (begun 0 s) ∧ Reads 0 0 0x10B (begun 0 s) (int 0x10B) (begun 0 s) ∧
      ((begun 0 s).getCtx 0).getA = int 0xFFFF ∧ ((begun 0 s).getCtx 0).getX = int 0x16 ∧ isLogic Tag.int = true ∧
      Tag.int ≠ Tag.poison := ⟨⟨rfl, rfl, _, rfl, rfl⟩, ⟨⟨rfl, rfl⟩, rfl⟩, rfl, rfl, by decide, by decide⟩

theorem witness_MultiplyDivide :
    let s := regs (int 0x8000000000000000) (int 0) (int 0)
    Begins 0 s (begun 0 s) ∧ Reads 0 0 0x3FFFFF (begun 0 s) (int (-1)) (begun 0 s) ∧ Reads 0 0 0 (begun 0 s) (int 0) (begun 0 s) ∧
      ((begun 0 s).getCtx 0).getA = int 0x8000000000000000 ∧ isPlain Tag.int = true ∧ isPlain Tag.raw = true :=
  ⟨⟨rfl, rfl, _, rfl, rfl⟩, ⟨⟨rfl, rfl⟩, rfl⟩, ⟨⟨rfl, rfl⟩, rfl⟩, rfl, by decide, by decide⟩

theorem witness_AluGroup :
    let s := regs (int 7) (int 0) (int 0)
    Begins 0 s (begun 0 s) ∧ ((begun 0 s).getCtx 0).getA = int 7 ∧ isPlain Tag.int = true ∧ isLogic Tag.int = true ∧
      isProtected Tag.int = false := ⟨⟨rfl, rfl, _, rfl, rfl⟩, rfl, by decide, by decide, by decide⟩

theorem witness_FloatArithmetic :
    let s := base fun k => ((k.setA (flt 0x3FF0000000000000)).setX (flt 0)).setSlot 0 (flt 0x4000000000000000)
    Begins 0 s (begun 0 s) ∧ Reads 0 4 0 (begun 0 s) (flt 0x4000000000000000) (begun 0 s) ∧
      ((begun 0 s).getCtx 0).getA = flt 0x3FF0000000000000 ∧ ((begun 0 s).getCtx 0).getX = flt 0 :=
  ⟨⟨rfl, rfl, _, rfl, rfl⟩, ⟨⟨rfl, rfl⟩, rfl⟩, rfl, rfl⟩

/-- 1 + 2 is 3, and 1 / 0 is an infinity with DZ. -/
theorem test_float : fp64.add .nearest 0x3FF0000000000000 0x4000000000000000 = (0x4008000000000000, {}) ∧
    (fp64.div .nearest 0x3FF0000000000000 0).1 = 0x7FF0000000000000 := by decide

theorem witness_FloatUnary :
    let s := regs (flt 0x4010000000000000) (int 0) (int 0)
    Begins 0 s (begun 0 s) ∧ ((begun 0 s).getCtx 0).getA = flt 0x4010000000000000 ∧ isPlain Tag.int = true :=
  ⟨⟨rfl, rfl, _, rfl, rfl⟩, rfl, by decide⟩

/-- A pattern that decodes as finite: the largest FP32 value. -/
theorem witness_FloatRounding : ∃ neg m e, fp32.decode 0x7F7FFFFF = .fin neg m e ∧ 0x7F7FFFFF < 2 ^ (fp32.signBit + 1) :=
  ⟨_, _, _, rfl, by decide⟩

/-! ## Loads, stores and addresses -/

/-- The first word of the scratchpad. -/
def pad : W64 := 0x000FFFFFFFF00000

/-- Scratchpad words 0 to 7 hold w0 to w7. -/
def padWords (l : List TWord) (s : State) : State := { s with spad := l.mapIdx fun i w => (i, w) }

/-- In the words of s, an access at mode 1 with base X. -/
def atPad : State := padWords [int 0x8182838485868788, dptr 8] (regs (int 0x55) (dptr pad) (dptr (pad + 8)))

theorem witness_LoadInstructions :
    issuing atPad = some 0 ∧ strike 0 none atPad = atPad ∧ Begins 0 atPad (begun 0 atPad) ∧
      (∃ u, Reads 0 2 8 (begun 0 atPad) (dptr 8) u) ∧ (∃ u, Reads 0 1 0 (begun 0 atPad) (int 0x8182838485868788) u) ∧
      (∃ u, ReadsBytes 0 1 1 7 (begun 0 atPad) (int 0x8182838485868788) 7 u) ∧
      ReadsBytes 0 2 0 5 (begun 0 atPad) (int 5) 0 (begun 0 atPad) :=
  ⟨rfl, rfl, ⟨rfl, rfl, _, rfl, rfl⟩, ⟨_, ⟨rfl, rfl⟩, rfl⟩, ⟨_, ⟨rfl, rfl⟩, rfl⟩,
    ⟨_, ⟨rfl, rfl⟩, .inr ⟨by decide, rfl, rfl, rfl⟩⟩, ⟨⟨rfl, rfl⟩, .inl ⟨.inl rfl, rfl, rfl⟩⟩⟩

/-- L1D holds the line at 0x1000, to which X points; all its words are 9 tagged INT. -/
def inL1D : State :=
  let s := regs (int 0x55) (dptr 0x1000) (int 0)
  { s with caches := { s.caches with cctl := 0x3F, l1d := [(0, ⟨64, .exclusive, 2, Vector.replicate 8 (int 9)⟩)] } }

/-- The places that the load and store statements speak of: a written scratchpad word, and a line in L1D. -/
theorem witness_LoadInstructions_places :
    (let t := begun 0 atPad
     FormOk 0 .read 1 0 t ∧ needRows 0 .read (eaOf 0 1 0 t) 8 false false t = .ok () t ∧ okIn
       (translateCtx 0 ⟨eaOf 0 1 0 t, .read, none, none, false⟩) t (fun p u => decide (tileOn u 0 (lineNo p.pa) = false ∧ u.rel.latent = [] ∧
         inSpad p.pa = true ∧ SMap.find? u.spad (spadIndex p.pa) = some (int 0x8182838485868788))) = true) ∧
    (let t := begun 0 inL1D
     Begins 0 inL1D t ∧ FormOk 0 .read 1 56 t ∧ needRows 0 .read (eaOf 0 1 56 t) 8 false false t = .ok () t ∧ okIn
       (translateCtx 0 ⟨eaOf 0 1 56 t, .read, none, none, false⟩) t (fun p u => decide (tileOn u 0 (lineNo p.pa) = false ∧ u.rel.latent = [] ∧
         inSpad p.pa = false ∧ p.dev = false ∧ recallDue u (lineNo p.pa) = false ∧ findFill u (.ctx 0) (lineNo p.pa) = none ∧
         cacheOn u .l1d = true ∧ cacheUninit u .l2 = false ∧
         cacheFind u .l1d (lineNo p.pa) = some (0, ⟨64, .exclusive, 2, Vector.replicate 8 (int 9)⟩))) = true) :=
  ⟨⟨⟨rfl, rfl⟩, rfl, by decide +kernel⟩, ⟨rfl, rfl, _, rfl, rfl⟩, ⟨rfl, rfl⟩, rfl, by decide +kernel⟩

/-- The highest byte, sign-extended, is byte 7: memory is little-endian. -/
theorem test_load_byte : okIn (loadSub 1 true 1 7 0) atPad (fun _ t => (t.getCtx 0).getA == int 0xFFFFFFFFFFFFFF81) = true := by
  decide

theorem witness_StoreInstructions :
    issuing atPad = some 0 ∧ strike 0 none atPad = atPad ∧ Begins 0 atPad (begun 0 atPad) ∧ FormOk 0 .write 4 31 (begun 0 atPad) ∧
      FormOk 0 .write 1 0 (begun 0 atPad) ∧
      (∃ u, storeWord 0 (eaOf 0 1 0 (begun 0 atPad)) false (int 0x55) (begun 0 atPad) = .ok () u) ∧
      (∃ w u, readSlot 0 31 (begun 0 atPad) = .ok w u) ∧
      (∃ u, storeSub 0 (eaOf 0 1 7 (begun 0 atPad)) 1 false (int 0x55) (begun 0 atPad) = .ok () u) :=
  ⟨rfl, rfl, ⟨rfl, rfl, _, rfl, rfl⟩, ⟨rfl, rfl⟩, ⟨rfl, rfl⟩, ⟨_, rfl⟩, ⟨_, _, rfl⟩, ⟨_, rfl⟩⟩

/-- Into a line of L1D: a word, and its highest byte. -/
theorem witness_StoreInstructions_line :
    let t := begun 0 inL1D
    FormOk 0 .write 1 56 t ∧ needRows 0 .write (eaOf 0 1 56 t) 8 false false t = .ok () t ∧
      needRows 0 .write (eaOf 0 1 63 t) 1 false false t = .ok () t ∧
      ([(56 : BitVec 22), 63].all fun d => okIn (translateCtx 0 ⟨eaOf 0 1 d t, .write, none, none, false⟩) t (fun p u => decide
        (tileOn u 0 (lineNo p.pa) = false ∧ u.rel.latent = [] ∧ inSpad p.pa = false ∧ p.dev = false ∧
          storesInFlight u (.ctx 0) = false ∧ cacheOn u .l1d = true ∧ cacheUninit u .l2 = false ∧ SMap.wf u.caches.l1d = true ∧
          cacheFind u .l1d (lineNo p.pa) = some (0, ⟨64, .exclusive, 2, Vector.replicate 8 (int 9)⟩) ∧
          p.pa.toNat % 8 = (eaOf 0 1 d t).toNat % 8 ∧ p.pa.toNat % 8 = d.toNat - 56))) = true :=
  ⟨⟨rfl, rfl⟩, rfl, rfl, by decide +kernel⟩

theorem witness_StoreScratchpad :
    let t := begun 0 atPad
    Begins 0 atPad t ∧ FormOk 0 .write 1 8 t ∧ needRows 0 .write (eaOf 0 1 8 t) 8 false false t = .ok () t ∧
      needRows 0 .write (eaOf 0 1 15 t) 1 false false t = .ok () t ∧
      ([(8 : BitVec 22), 15].all fun d => okIn (translateCtx 0 ⟨eaOf 0 1 d t, .write, none, none, false⟩) t (fun p u => decide
        ((SMap.wf u.spad = true ∧ ∀ e ∈ u.spad, isReserved e.2.tag = false) ∧ u.rel.latent = [] ∧ inSpad p.pa = true ∧ p.dev = false ∧
          tileOn u 0 (lineNo p.pa) = false ∧ p.pa.toNat % 8 = d.toNat - 8 ∧ (eaOf 0 1 d t).toNat % 8 = p.pa.toNat % 8 ∧
          SMap.find? u.spad (spadIndex p.pa) = some (dptr 8) ∧ p.ts = false))) = true :=
  ⟨⟨rfl, rfl, _, rfl, rfl⟩, ⟨rfl, rfl⟩, rfl, rfl, by decide +kernel⟩

theorem witness_AddressInstructions :
    Begins 0 atPad (begun 0 atPad) ∧ FormOk 0 .address 1 0 (begun 0 atPad) ∧ FormOk 0 .address 2 0x3FFFFF (begun 0 atPad) ∧
      FormOk 0 .address 3 0x3FFFFF (begun 0 atPad) ∧ FormOk 0 .address 5 0x200000 (begun 0 atPad) :=
  ⟨⟨rfl, rfl, _, rfl, rfl⟩, ⟨rfl, rfl⟩, ⟨rfl, rfl⟩, ⟨rfl, rfl⟩, ⟨rfl, rfl⟩⟩

/-- X is a CPTR to the second word of the scratchpad's first eight bytes. -/
def atCode : State := padWords [int 0x8182838485868788] (regs (int 0) (cptr (pad + 4)) (int 0))

theorem witness_LoadCode : ∃ p u w v,
    Begins 0 atCode (begun 0 atCode) ∧ FormOk 0 .code 1 0 (begun 0 atCode) ∧
      needCanonical 0 (eaOf 0 1 0 (begun 0 atCode)) .exec (begun 0 atCode) = .ok () (begun 0 atCode) ∧
      (eaOf 0 1 0 (begun 0 atCode)).toNat % 4 = 0 ∧ capsConf (begun 0 atCode) = false ∧
      translateCtx 0 ⟨eaOf 0 1 0 (begun 0 atCode), .exec, none, none, false⟩ (begun 0 atCode) = .ok p u ∧
      readCode 0 (eaOf 0 1 0 (begun 0 atCode)) p u = .ok w v :=
  ⟨_, _, _, _, ⟨rfl, rfl, _, rfl, rfl⟩, ⟨rfl, rfl⟩, rfl, rfl, rfl, rfl, rfl⟩

/-! ## Moves, skips, transfers -/

theorem witness_MoveInstruction :
    let s := regs (int 1) (dptr 8) (int 0)
    Begins 0 s (begun 0 s) ∧ ((begun 0 s).getCtx 0).hasSlot 0 = true ∧ ((begun 0 s).getCtx 0).hasSlot 31 = true ∧
      ((0x00 : BitVec 6), Ctx.getA) ∈ movSources := ⟨⟨rfl, rfl, _, rfl, rfl⟩, rfl, rfl, List.mem_cons_self⟩

theorem witness_SkipInstruction :
    let s := regs (int 0) ⟨0, Tag.poison⟩ (int 0)
    Begins 0 s (begun 0 s) ∧ skipReads 0x10 ((begun 0 s).getCtx 0) = some (int 0) ∧
      skipReads 0x14 ((begun 0 s).getCtx 0) = some ⟨0, Tag.poison⟩ := ⟨⟨rfl, rfl, _, rfl, rfl⟩, rfl, rfl⟩

theorem witness_Jumps : ∃ p u,
    Begins 0 atCode (begun 0 atCode) ∧ FormOk 0 .code 1 0x3FFFFC (begun 0 atCode) ∧
      TargetOk 0 1 0x3FFFFC (some false) (begun 0 atCode) (begun 0 atCode) p ∧
      TargetOk 0 1 0x3FFFFC none (begun 0 atCode) (begun 0 atCode) p ∧
      translateCtx 0 ⟨eaOf 0 1 0x3FFFFC (begun 0 atCode), .exec, some false, none, false⟩ (begun 0 atCode) = .ok p u :=
  ⟨_, _, ⟨rfl, rfl, _, rfl, rfl⟩, ⟨rfl, rfl⟩, ⟨rfl, rfl, by decide, _, rfl⟩, ⟨rfl, rfl, by decide, _, rfl⟩, rfl⟩

/-- The stack lies in the scratchpad; its top word is a return address. -/
def onStack (res : BitVec 3) : State :=
  padWords [int 0, cptr 8] (base fun k => { (((k.setX (cptr 0)).setStk ⟨pad + 8, pad, pad + 0x1000⟩)) with
    win := { k.win with cur := res - 1, res := res } })

theorem witness_CallInstruction : ∃ q u p v path w x,
    Begins 0 (onStack 6) (begun 0 (onStack 6)) ∧ FormOk 0 .code 1 0 (begun 0 (onStack 6)) ∧
      ((begun 0 (onStack 6)).getCtx 0).fib = false ∧ pushPhys 0 (begun 0 (onStack 6)) = .ok q u ∧
      TargetOk 0 1 0 (some false) (begun 0 (onStack 6)) u p ∧
      translateCtx 0 ⟨eaOf 0 1 0 (begun 0 (onStack 6)), .exec, some false, none, false⟩ u = .ok p v ∧
      (v.getCtx 0).win.res ≠ 7 ∧ prepPhys 0 q 8 v = .ok path w ∧ commitPhys 0 path q 8 (cptr 4) w = .ok () x :=
  ⟨_, _, _, _, _, _, _, ⟨rfl, rfl, _, rfl, rfl⟩, ⟨rfl, rfl⟩, rfl, rfl, ⟨rfl, rfl, by decide, _, rfl⟩, rfl, by decide, rfl, rfl⟩

/-- With seven windows in use a CALL has no free window. -/
theorem witness_CallInstruction_full : ∃ q u p v,
    Begins 0 (onStack 7) (begun 0 (onStack 7)) ∧ pushPhys 0 (begun 0 (onStack 7)) = .ok q u ∧
      TargetOk 0 1 0 (some false) (begun 0 (onStack 7)) u p ∧
      translateCtx 0 ⟨eaOf 0 1 0 (begun 0 (onStack 7)), .exec, some false, none, false⟩ u = .ok p v ∧
      (v.getCtx 0).inEsc = false ∧ (v.getCtx 0).win.res = 7 :=
  ⟨_, _, _, _, ⟨rfl, rfl, _, rfl, rfl⟩, rfl, ⟨rfl, rfl, by decide, _, rfl⟩, rfl, rfl, rfl⟩

theorem witness_ReturnInstruction : ∃ u,
    Begins 0 (onStack 2) (begun 0 (onStack 2)) ∧ ((begun 0 (onStack 2)).getCtx 0).fib = false ∧
      loadWord 0 ((begun 0 (onStack 2)).getCtx 0).stk.sp true (begun 0 (onStack 2)) = .ok (cptr 8) u ∧
      (u.getCtx 0).inEsc = false ∧ (u.getCtx 0).window ≠ 7 ∧ (u.getCtx 0).win.res ≠ 1 :=
  ⟨_, ⟨rfl, rfl, _, rfl, rfl⟩, rfl, rfl, rfl, by decide, by decide⟩

/-- The first window has no caller whose window is resident. -/
theorem witness_ReturnInstruction_gone : ∃ u,
    Begins 0 (onStack 1) (begun 0 (onStack 1)) ∧
      loadWord 0 ((begun 0 (onStack 1)).getCtx 0).stk.sp true (begun 0 (onStack 1)) = .ok (cptr 8) u ∧
      (u.getCtx 0).inEsc = false ∧ (u.getCtx 0).win.link.getLsbD (u.getCtx 0).win.cur.toNat = false ∧ (u.getCtx 0).win.res = 1 :=
  ⟨_, ⟨rfl, rfl, _, rfl, rfl⟩, rfl, rfl, rfl, rfl⟩

theorem witness_CallThenReturnKeepsWindow :
    let k := Ctx.reset 0 false 0 .running
    k.inEsc = false ∧ k.fib = false ∧ k.win.cur.toNat < 7 ∧ k.win.res.toNat < 7 ∧ SMap.wf k.win.slots = true ∧
      k.win.rsv = false ∧ k.win.link.getLsbD ((k.win.cur.toNat + 1) % 7) = false := by decide

/-- From the last window of the ring, CALL goes on at the first. -/
theorem test_ring : (callWindow { Ctx.reset 0 false 0 .running with win := { Windows.reset with cur := 6, res := 6 } }).win.cur = 0 := by
  decide

/-! ## Exceptions -/

theorem witness_SystemCalls :
    let s := regs (int 0) (int 0) (int 0)
    Begins 0 s (begun 0 s) ∧ wordReserved 0x26000000 = true := ⟨⟨rfl, rfl, _, rfl, rfl⟩, by decide⟩

/-- Mask level 0, vector 12 at level 1, the supervisor's stack and the escalation stack in the scratchpad. -/
def ready : State :=
  let s := base fun k => { k.setStk ⟨pad + 0x1000, pad, pad + 0x1000⟩ with
    st := 0x800, sys := { k.sys with esp := pad + 0x2000, esplo := pad } }
  { s with intr := { s.intr with vlvl := vset s.intr.vlvl 1 0x0000000100000000, evec := 0x2001 } }

/-- A division by zero. -/
def dz : ExcInfo := plainExc 12 0

theorem witness_ExceptionEntry :
    let b := faulted 0 ready (begun 0 ready) dz
    NoInterruptFirst 0 ready ∧ dz.forged = false ∧ ¬ (dz.vec = 13 ∧ dz.code = 0) ∧ bit (b.getCtx 0).st 26 = false ∧
      (fld (b.getCtx 0).st 8 3).toNat < (levelOf b 12).toNat ∧ (b.getCtx 0).win.rsv = false ∧
      ∃ ps u ws v x,
        pushCheck 0 ⟨12, 0, false, false, some (levelOf b 12), (b.getCtx 0).pc + 0,
          (b.getCtx 0).sys.vbar + BitVec.ofNat 64 (32 * 12), false, farOf dz⟩ b = .ok (.ok ps) u ∧
        prepWords 0 ps u = .ok ws v ∧ ws.all (pathOk v) = true ∧
        commitWords none 0 ws (savedFrame b (b.getCtx 0) ((b.getCtx 0).pc + 0) (ecauseOf 0 12 false 0 0) (farOf dz) false) v =
          .ok () x :=
  ⟨fun _ => by decide, rfl, by decide, rfl, by decide, rfl, _, _, _, _, _, rfl, rfl, by decide, rfl⟩

/-- At mask level 7 the same fault escalates. -/
def masked : State := ready.modCtx 0 fun k => { k with st := 0xF00 }

theorem witness_ExceptionEscalates :
    let b := faulted 0 masked (begun 0 masked) dz
    NoInterruptFirst 0 masked ∧ (levelOf b 12).toNat ≤ (fld (b.getCtx 0).st 8 3 : BitVec 3).toNat ∧
      bit (b.getCtx 0).st 26 = false ∧ bit b.intr.evec 0 = true ∧
      (∃ ws v x, prepWords 0 ((List.range 8).map fun i =>
          let a := (b.getCtx 0).sys.esp - 64 + BitVec.ofNat 64 (8 * i)
          ⟨a, a.setWidth 52, false, false, false, false⟩) b = .ok ws v ∧ ws.all (pathOk v) = true ∧
        commitWords none 0 ws (savedFrame b (b.getCtx 0) (b.getCtx 0).pc (ecauseOf 0 12 false 1 0) (farOf dz) true) v =
          .ok () x) :=
  ⟨fun _ => by decide, by decide, by decide, by decide, _, _, _, rfl, by decide, rfl⟩

/-- No room below SP of the handler's bank: the push fails its check with vector 5. -/
theorem witness_ExceptionEscalates_push :
    let s := ready.modCtx 0 fun k => k.setStk ⟨pad, pad, pad + 0x1000⟩
    let b := faulted 0 s (begun 0 s) dz
    NoInterruptFirst 0 s ∧ bit (b.getCtx 0).st 26 = false ∧ ¬ (levelOf b 12).toNat ≤ (fld (b.getCtx 0).st 8 3 : BitVec 3).toNat ∧
      (b.getCtx 0).win.rsv = false ∧ okIn (pushCheck 0 ⟨12, 0, false, false, some (levelOf b 12), (b.getCtx 0).pc + 0,
        (b.getCtx 0).sys.vbar + BitVec.ofNat 64 (32 * 12), false, farOf dz⟩) b (fun r _ => match r with
          | .error x => x.forged == false && x.vec == 5 | .ok _ => false) = true :=
  ⟨fun _ => by decide, by decide, by decide, rfl, by decide +kernel⟩

/-- In the escalation handler, without a vector, and without a frame, the core becomes lame. -/
theorem test_lame_causes :
    (match takeSync 0 dz (masked.modCtx 0 fun k => { k with st := 0x04000F00 }) with
      | .ok _ t => t.boot.lame && t.boot.lameCause == 3 | .error _ _ => false) = true ∧
    (match takeSync 0 dz { masked with intr := { masked.intr with evec := 0 } } with
      | .ok _ t => t.boot.lame && t.boot.lameCause == 1 | .error _ _ => false) = true ∧
    (match takeSync 0 dz (masked.modCtx 0 fun k => { k with sys := { k.sys with esp := 0 } }) with
      | .ok _ t => t.boot.lame && t.boot.lameCause == 2 | .error _ _ => false) = true := by decide

/-- A frame at SP of the supervisor that goes back to user code at 0x40, with the ST image as given. -/
def framed (img : TWord) : State :=
  padWords [cptr 0x40, img, dptr 0x80, int 1, int 2, int 3, int 0, int 0]
    (base fun k => { k.setStk ⟨pad, pad, pad + 0x1000⟩ with st := 0x800 })

theorem witness_Returns :
    let t := begun 0 (framed ⟨0, Tag.raw⟩)
    let k := t.getCtx 0
    Begins 0 (framed ⟨0, Tag.raw⟩) t ∧ bit k.st 11 = true ∧ bit k.st 14 = false ∧
      needCanonical 0 k.stk.sp .read t = .ok () t ∧ k.stk.sp.toNat % 8 = 0 ∧ needStack 0 k.stk.sp 64 t = .ok () t ∧
      needDdc 0 .read k.stk.sp 64 false t = .ok () t ∧
      okIn (frameRead 0 k.stk.sp 8) t (fun ws u => decide
        (ws = [cptr 0x40, ⟨0, Tag.raw⟩, dptr 0x80, int 1, int 2, int 3, int 0, int 0] ∧ capsConf u = capsConf t ∧
          illegalCheck u k 0 false false 0 false ⟨int 2, int 3⟩ true = none)) = true :=
  ⟨⟨rfl, rfl, _, rfl, rfl⟩, rfl, rfl, rfl, by decide, rfl, rfl, by decide +kernel⟩

/-- An image that would make a user's frame a supervisor's fails check 1, and one tagged DPTR check 5. -/
theorem witness_Returns_illegal (img : TWord) (h : img = ⟨0x800, Tag.raw⟩ ∨ img = dptr 0) :
    let t := begun 0 (framed img)
    let k := t.getCtx 0
    Begins 0 (framed img) t ∧ NoInterruptFirst 0 (framed img) ∧ bit k.st 11 = true ∧ bit k.st 14 = false ∧
      needCanonical 0 k.stk.sp .read t = .ok () t ∧ k.stk.sp.toNat % 8 = 0 ∧ needStack 0 k.stk.sp 64 t = .ok () t ∧
      needDdc 0 .read k.stk.sp 64 false t = .ok () t ∧
      okIn (frameRead 0 k.stk.sp 8) t (fun ws u => decide
        (ws = [cptr 0x40, img, dptr 0x80, int 1, int 2, int 3, int 0, int 0] ∧ capsConf u = capsConf t ∧
          (isPlain img.tag = false ∨ illegalCheck u k 0x800 false false 0 false ⟨int 2, int 3⟩ true = some 1))) = true := by
  rcases h with rfl | rfl <;>
    exact ⟨⟨rfl, rfl, _, rfl, rfl⟩, fun _ => by decide, rfl, rfl, rfl, by decide, rfl, rfl, by decide +kernel⟩

/-- In the fast bank, which holds user code to go back to, or a supervisor's ST of user code. -/
def inFast (st : W32) : State := base fun k => { k with st := 0x4F00, fast := { k.fast with fbst := st } }

theorem witness_Returns_rfi :
    Begins 0 (inFast 0) (begun 0 (inFast 0)) ∧ Begins 0 (inFast 0x800) (begun 0 (inFast 0x800)) ∧ NoInterruptFirst 0 (inFast 0x800) ∧ bit ((begun 0 (inFast 0)).getCtx 0).st 14 = true ∧
    illegalCheck (begun 0 (inFast 0)) ((begun 0 (inFast 0)).getCtx 0) 0 false false 0 false CapPair.reset true = none ∧
    illegalCheck (begun 0 (inFast 0x800)) ((begun 0 (inFast 0x800)).getCtx 0) 0x800 false false 0 false CapPair.reset true = some 1 :=
  ⟨⟨rfl, rfl, _, rfl, rfl⟩, ⟨rfl, rfl, _, rfl, rfl⟩, fun _ => by decide, rfl, by decide, by decide⟩

/-! ## Ordering and maintenance -/

/-- The Sealed supervisor, which owns stage 2, with A and X. -/
def owner (a x : TWord) : State := base fun k => { ((k.setA a).setX x) with st := 0x1F00 }

theorem witness_FenceAndTlb :
    let s := owner (dptr 0x1000) (int 1)
    let t := begun 0 s
    Begins 0 s t ∧ bit (t.getCtx 0).st 11 = true ∧ storesInFlight t (.ctx 0) = false ∧ t.tile.tileq = [] ∧ t.cp.out = [] ∧
      t.mesh.posts = [] ∧ (∀ m ∈ t.mover.toList, m.state ≠ 1) ∧ (∀ m ∈ t.cw.ch.toList, m.state ≠ 1) ∧ t.tile.busy = false ∧
      t.mesh.reqs = [] ∧ t.mesh.fills = [] ∧ stage2Owner t (t.getCtx 0) = true ∧ (t.getCtx 0).getA.tag = Tag.dptr ∧
      (t.getCtx 0).getX.tag ≠ Tag.poison :=
  ⟨⟨rfl, rfl, _, rfl, rfl⟩, rfl, rfl, rfl, rfl, rfl, by decide, by decide, rfl, rfl, rfl, rfl, rfl, by decide⟩

/-- A store on its way keeps FENCE waiting, and TLBINV. -/
theorem witness_FenceAndTlb_waits :
    let s := { base id with mesh := { Mesh.reset with reqs := [⟨0, .poke, 0x1000, .ctx 0, false, false, false, false, none⟩] } }
    Begins 0 s (begun 0 s) ∧ storesInFlight (begun 0 s) (.ctx 0) = true ∧ bit ((begun 0 s).getCtx 0).st 11 = true ∧
      (∃ q ∈ (begun 0 s).mesh.reqs, q.op = .poke ∧ q.who.ctx? = some 0) :=
  ⟨⟨rfl, rfl, _, rfl, rfl⟩, by decide, rfl, _, List.mem_cons_self, rfl, rfl⟩

/-- L2 holds the line at 0x1000, in the state st. -/
def withLine (st : LineState) : State :=
  let s := regs (dptr 0x1000) (int 0) (int 0)
  { s with caches := { s.caches with cctl := 0x3F, l2 := [(lineNo 0x1000 % 512 * 8, ⟨lineNo 0x1000, st, 0, Line.zero⟩)] } }

theorem witness_CacheMaintenance :
    let s := withLine .modified
    let t := begun 0 s
    Begins 0 s t ∧ bit (t.getCtx 0).st 11 = true ∧ (∀ id, SMap.wf (t.caches.lines id) = true) ∧
      (∃ u, lineOperand 2 true 0 t = .ok (lineNo 0x1000) u ∧ (∀ id, SMap.wf (u.caches.lines id) = true) ∧
        (∀ id, ∀ e ∈ u.caches.lines id, e.2.line = lineNo 0x1000 → cacheFind u id (lineNo 0x1000) = some e)) ∧
      (∃ u v, lineOperand 3 false 0 t = .ok (lineNo 0x1000) u ∧ cleanLineAt 3 (lineNo 0x1000) u = .ok () v) ∧
      (∃ u key l, lineOperand 2 false 0 t = .ok (lineNo 0x1000) u ∧ u.rel.latent = [] ∧
        cacheFind u .l2 (lineNo 0x1000) = some (key, l) ∧ l.st = .modified ∧ u.mesh.reqs.length < 200) ∧
      (∃ v, cleanLines false .l2 ((t.caches.lines .l2).map (·.1)) t = (true, v)) :=
  ⟨⟨rfl, rfl, _, rfl, rfl⟩, rfl, by intro id; cases id <;> rfl,
    ⟨_, rfl, by intro id; cases id <;> rfl, by intro id; cases id <;> decide⟩, ⟨_, _, rfl, rfl⟩, ⟨_, _, _, rfl, rfl, rfl, rfl, by decide⟩,
    _, rfl⟩

/-- The same line, clean. -/
theorem witness_CacheMaintenance_clean :
    let s := withLine .shared
    let t := begun 0 s
    Begins 0 s t ∧ t.rel.latent = [] ∧ (∀ id, ∀ e ∈ t.caches.lines id, e.2.st ≠ .modified) ∧
      (∃ u, lineOperand 3 false 0 t = .ok (lineNo 0x1000) u ∧ u.rel.latent = [] ∧
        ∀ id, (cacheFind u id (lineNo 0x1000)).all (fun e => e.2.st != .modified) = true) :=
  ⟨⟨rfl, rfl, _, rfl, rfl⟩, rfl, by intro id; cases id <;> decide, _, rfl, rfl, by intro id; cases id <;> decide⟩

/-! ## System registers -/

theorem witness_ReadSystemRegister :
    let s := owner (int 0) (int 0)
    let t := begun 0 s
    Begins 0 s t ∧ bit (t.getCtx 0).st 11 = true ∧ stage2Owner t (t.getCtx 0) = true ∧ capsConf t = false ∧
      bit (t.getCtx 0).st 12 = true := ⟨⟨rfl, rfl, _, rfl, rfl⟩, rfl, rfl, rfl, rfl⟩

/-- L1D holds a line in way 0, which WLOCK = 0x00010 locks. -/
def toLock : State :=
  let s := owner (int 0x10) (int 0)
  { s with caches := { s.caches with cctl := 0x3F, l1d := [(0, ⟨0, .shared, 0, Line.zero⟩)] } }

theorem witness_WriteSystemRegister :
    let t := begun 0 toLock
    Begins 0 toLock t ∧ bit (t.getCtx 0).st 11 = true ∧ stage2Owner t (t.getCtx 0) = true ∧ (t.getCtx 0).getA = int 0x10 ∧
      t.tile.busy = false ∧ t.mesh.reqs = [] ∧ (∀ d, d ≠ (0 : CtxId) → dropFills d t = t) ∧
      (∃ u u1 u2, flushWays .l1i 0x10 ((t.caches.lines .l1i).map (·.1)) t = .ok () u ∧ flushWays .l1d 0x10 ((t.caches.lines .l1d).map (·.1)) u = .ok () u1 ∧
        flushWays .l2 0x10 ((u1.caches.lines .l2).map (·.1)) u1 = .ok () u2) :=
  ⟨⟨rfl, rfl, _, rfl, rfl⟩, rfl, rfl, rfl, rfl, rfl, by intro d _; rfl, _, _, _, rfl, rfl, rfl⟩

/-- The other tags, modes and features that a row of `sysWrites` asks for. -/
theorem witness_WriteSystemRegister_rows :
    (∀ g ∈ [Tag.int, Tag.cptr, Tag.dptr, Tag.caph, Tag.capl], let t0 := owner ⟨1, g⟩ (int 0)
      let s := { t0 with chain := { t0.chain with enable0 := 0 } }
      let t := begun 0 s
      Begins 0 s t ∧ (t.getCtx 0).getA = ⟨1, g⟩ ∧ stage2Owner t (t.getCtx 0) = true ∧ capsConf t = false ∧ twoWorlds t = false ∧
        bit (t.getCtx 0).st 12 = true ∧ bit t.intr.sentry 1 = false ∧ enabled t 8 = false) ∧
    (let s := { owner (cptr 8) (int 0) with intr := { Intr.reset with sentry := 2 } }
     Begins 0 s (begun 0 s) ∧ bit (begun 0 s).intr.sentry 1 = true) ∧
    (∀ w, w = cptr 8 ∨ w = int 8 → let s := base fun k => { k with st := 0x5F00, fast := { k.fast with a := w } }
     Begins 0 s (begun 0 s) ∧ ((begun 0 s).getCtx 0).getA = w ∧ bit ((begun 0 s).getCtx 0).st 14 = true ∧
       stage2Owner (begun 0 s) ((begun 0 s).getCtx 0) = true) ∧
    (let s := { owner (int 1) (int 0) with chain := { State.reset.chain with privMode := 1, enable0 := 0x100 } }
     let t := begun 0 s
     Begins 0 s t ∧ twoWorlds t = true ∧ stage2Owner t (t.getCtx 0) = true ∧ bit (t.getCtx 0).st 12 = true ∧ enabled t 8 = true ∧
       (twoWorlds (accountSteps t) = true → bit ((accountSteps t).getCtx 0).st 12 = true)) :=
  ⟨by simp only [List.forall_mem_cons]; exact ⟨⟨⟨rfl, rfl, _, rfl, rfl⟩, rfl, rfl, rfl, rfl, rfl, rfl, rfl⟩,
    ⟨⟨rfl, rfl, _, rfl, rfl⟩, rfl, rfl, rfl, rfl, rfl, rfl, rfl⟩, ⟨⟨rfl, rfl, _, rfl, rfl⟩, rfl, rfl, rfl, rfl, rfl, rfl, rfl⟩,
    ⟨⟨rfl, rfl, _, rfl, rfl⟩, rfl, rfl, rfl, rfl, rfl, rfl, rfl⟩, ⟨⟨rfl, rfl, _, rfl, rfl⟩, rfl, rfl, rfl, rfl, rfl, rfl, rfl⟩, by simp⟩, ⟨⟨rfl, rfl, _, rfl, rfl⟩, rfl⟩,
    by rintro w (rfl | rfl) <;> exact ⟨⟨rfl, rfl, _, rfl, rfl⟩, rfl, rfl, rfl⟩, ⟨rfl, rfl, _, rfl, rfl⟩, rfl, rfl, rfl, rfl, fun _ => rfl⟩

/-- Context 0 owns the tile, which is on and powered, with the features of ENABLE0 in place. -/
def tiled (s : State) : State :=
  { s with chain := { s.chain with enable0 := 0x1FF }, tile := { s.tile with tpOn := true, tpPowered := true } }

theorem witness_WriteTileRegister :
    let s := tiled (regs (int 5) (int 0) (int 0))
    let t := begun 0 s
    Begins 0 s t ∧ enabled t 2 = true ∧ t.drover.owner = 0 ∧
      (∀ p ∈ [t.tile.prog.q0, t.tile.prog.q1, t.tile.prog.q2, t.tile.prog.q3], bit p 8 = false) ∧ (t.getCtx 0).getA = int 5 ∧
      t.tile.tileq = [] ∧ bit (t.getCtx 0).st 11 = true ∧ (s.getCtx 0).getA = (t.getCtx 0).getA ∧ bit (5 : W64) 0 = true ∧
      t.tile.tpDrain = false ∧ t.tile.busy = false :=
  ⟨⟨rfl, rfl, _, rfl, rfl⟩, rfl, rfl,
    List.forall_mem_cons.2 ⟨rfl, List.forall_mem_cons.2 ⟨rfl, List.forall_mem_cons.2 ⟨rfl, List.forall_mem_cons.2 ⟨rfl, by simp⟩⟩⟩⟩,
    rfl, rfl, rfl, rfl, by decide, rfl, rfl⟩

theorem witness_WriteTileRegister_tags :
    ((begun 0 (tiled (regs (flt 0xFFFFFFFF3F800000) (int 0) (int 0)))).getCtx 0).getA = flt 0xFFFFFFFF3F800000 ∧
      ((begun 0 (tiled (regs ⟨1, Tag.shape⟩ (int 0) (int 0)))).getCtx 0).getA = ⟨1, Tag.shape⟩ ∧
      ((begun 0 (tiled (regs (int 4) (int 0) (int 0)))).getCtx 0).getA = int 4 ∧ bit (4 : W64) 0 = false :=
  ⟨rfl, rfl, rfl, by decide⟩

theorem witness_SystemRegisterAccess :
    let s := regs (dptr (pad + 1)) (int 0) (int 0)
    let t := begun 0 s
    Begins 0 s t ∧ (t.getCtx 0).getA = dptr (pad + 1) ∧ bit (pad + 1) 0 = true ∧
      (∃ n b u, armLine 0 (pad + 1) t = .ok (n, b) u) ∧ bit (t.getCtx 0).st 11 = true ∧ (t.getCtx 0).getA.tag ≠ Tag.cptr ∧
      stage2Owner t (t.getCtx 0) = false ∧ bit pad 0 = false ∧ Begins 0 atPad (begun 0 atPad) :=
  ⟨⟨rfl, rfl, _, rfl, rfl⟩, rfl, by decide, ⟨_, _, _, rfl⟩, rfl, by decide, rfl, by decide, rfl, rfl, _, rfl, rfl⟩

/-- User code, and a tile that context 1 owns. -/
theorem witness_SystemRegisterAccess_user :
    let s := tiled (base fun k => { k.setA (int 3) with st := 0 })
    let s := { s with drover := { s.drover with owner := 1 } }
    let t := begun 0 s
    Begins 0 s t ∧ bit (t.getCtx 0).st 11 = false ∧ bit t.perf.pmctl 1 = false ∧ isPlain (t.getCtx 0).getA.tag = true ∧
      enabled t 2 = true ∧ t.drover.owner ≠ 0 := ⟨⟨rfl, rfl, _, rfl, rfl⟩, rfl, rfl, rfl, rfl, by decide⟩

/-! ## I/O, contexts, posts -/

theorem witness_IoInstructions :
    let s := base fun k => (k.setA ⟨0, Tag.epoch⟩).setX ⟨0x470, Tag.ioptr⟩
    let t := begun 0 s
    Begins 0 s t ∧ IoOk 0 1 0 t ∧ bit (eaOf 0 1 0 t) 31 = false ∧ fld (eaOf 0 1 0 t) 19 12 = t.chain.caddr ∧
      fldN (eaOf 0 1 0 t) 0 19 = 0x400 + 16 * (7 : BitVec 3).toNat ∧ (t.getCtx 0).getA.tag = Tag.epoch ∧
      (∃ w u, localRead 0 0x200 t = .ok w u) ∧ (∃ u, localWrite 0 0x200 (int 0) t = .ok () u) :=
  ⟨⟨rfl, rfl, _, rfl, rfl⟩, ⟨⟨rfl, rfl⟩, rfl, rfl⟩, rfl, rfl, rfl, rfl, ⟨_, _, rfl⟩, _, rfl⟩

/-- Addresses of another core, and of a device. -/
theorem witness_IoInstructions_mesh :
    let s := base fun k => (k.setA ⟨0, Tag.epoch⟩).setX ⟨0x80000, Tag.ioptr⟩
    let t := begun 0 s
    Begins 0 s t ∧ IoOk 0 1 0 t ∧ IoOk 0 1 0x200000 { t with ctx := { t.ctx with q0 := (t.getCtx 0).setX ⟨0x80200000, Tag.ioptr⟩ } } ∧
      isLocal t (fld (eaOf 0 1 0 t) 0 32) = false ∧ tollAllowsIo t (fld (eaOf 0 1 0 t) 0 32) = true ∧ laneFull t 2 = false :=
  ⟨⟨rfl, rfl, _, rfl, rfl⟩, ⟨⟨rfl, rfl⟩, rfl, rfl⟩, ⟨⟨rfl, rfl⟩, rfl, rfl⟩, rfl, rfl, rfl⟩

theorem witness_LocalPortWrites :
    let s := regs (int 0x80000000) (int 0) (int 0)
    let t := begun 0 s
    Begins 0 s t ∧ (t.getCtx 0).getA = int 0x80000000 ∧ (s.getCtx 0).getA = int 0x80000000 ∧ bit (t.getCtx 0).st 11 = true ∧
      (∀ a : W32, isLocal t a = true → ioAllowed t (t.getCtx 0) a = true) ∧ t.tile.busy = false ∧ t.mesh.reqs = [] ∧ t.chain.sealedOnly = false ∧
      t.chain.outFull = false ∧ bit (0x80000000 : W64) 31 = true ∧ bit (0x80000000 : W64) 30 = false ∧
      cwParamsOk t 15 (cwCh t 15) = true :=
  ⟨⟨rfl, rfl, _, rfl, rfl⟩, rfl, rfl, rfl, by intro a _; rfl, rfl, rfl, rfl, rfl, by decide, by decide, by decide⟩

/-- A Mover channel whose parameters are in order: one row of eight bytes from scratchpad byte 0 to byte 8. -/
def mv : MoverCh := { MoverCh.reset with geo := 0x00070000, dst := 8 }

/-- Channel 7 idle, to start anew, and stopped, to go on. -/
theorem witness_LocalPortWrites_mover :
    (let s := setMover 7 mv (regs (int 0x80000000) (int 0) (int 0))
     let t := begun 0 s
     Begins 0 s t ∧ (moverCh t 7).state ≠ 1 ∧ moverCheck t { moverCh t 7 with
       ctl := 0, ctx := 0, cap := some (ctxRegime t 0), mark := (t.getCtx 0).sys.markr, rows := 0, blk := 0, state := 1, cause := 0 } = none) ∧
    (let s := setMover 7 { mv with state := 3 } (regs (int 0x40000000) (int 0) (int 0))
     let t := begun 0 s
     Begins 0 s t ∧ (t.getCtx 0).getA = int 0x40000000 ∧ (s.getCtx 0).getA = int 0x40000000 ∧ bit (0x40000000 : W64) 31 = false ∧
       bit (0x40000000 : W64) 30 = true ∧ (moverCh t 7).state = 3 ∧
       moverCheck t { moverCh t 7 with ctl := 0, state := 1, cause := 0 } = none) :=
  ⟨⟨⟨rfl, rfl, _, rfl, rfl⟩, by decide, by decide⟩, ⟨rfl, rfl, _, rfl, rfl⟩, rfl, rfl, by decide, by decide, rfl, by decide⟩

/-- A record for CSTART at X: the stacks, the vector base, the world root and the mask. -/
def record : State :=
  padWords [dptr 0x100, dptr 0, dptr 0x100, dptr 0x200, dptr 0, cptr 0x800, cptr 0, int 0x300]
    (base fun k => { (k.setA (cptr 0x40)).setX (dptr pad) with st := 0x1F00 })

theorem witness_ContextInstructions :
    let t := begun 0 record
    let k := t.getCtx 0
    Begins 0 record t ∧ bit k.st 11 = true ∧ stage2Owner t k = true ∧ k.getA.tag = Tag.cptr ∧ k.getX.tag = Tag.dptr ∧
      k.getA.val.toNat % 4 = 0 ∧ k.getX.val.toNat % 64 = 0 ∧ needCanonical 0 k.getX.val .read t = .ok () t ∧
      needDdc 0 .read k.getX.val 64 false t = .ok () t ∧
      okIn (frameRead 0 k.getX.val 8) t (fun ws u => decide
        (ws = [dptr 0x100, dptr 0, dptr 0x100, dptr 0x200, dptr 0, cptr 0x800, cptr 0, int 0x300] ∧ capsConf t = false ∧
          (u.getCtx 3).run = .stopped ∧ (u.getCtx 0).run ≠ .stopped)) = true ∧ ∃ e, e ≠ (3 : CtxId) ∧ (t.getCtx e).run ≠ .stopped :=
  ⟨⟨rfl, rfl, _, rfl, rfl⟩, rfl, rfl, rfl, rfl, by decide, by decide, rfl, rfl, by decide +kernel, 0, by decide, by decide⟩

/-- An event that is in the mask, and none. -/
theorem witness_ContextInstructions_wait :
    (let s := base fun k => { k with ev := { k.ev with evpend := 0x80 } }
     Begins 0 s (begun 0 s) ∧ ((settle (begun 0 s)).getCtx 0).ev.evpend &&& 0x80 ≠ 0) ∧
    (let s := base id
     Begins 0 s (begun 0 s) ∧ ((settle (begun 0 s)).getCtx 0).ev.evpend &&& 0x80 = 0) :=
  ⟨⟨⟨rfl, rfl, _, rfl, rfl⟩, by decide +kernel⟩, ⟨rfl, rfl, _, rfl, rfl⟩, by decide +kernel⟩

/-- Two windows in use, one spilled, the spill area in the scratchpad and its words written. -/
def spilled : State :=
  padWords (List.replicate 64 (int 7)) (base fun k => { k with
    st := 0x800, win := { k.win with cur := 1, res := 2, fsd := 1, fsptr := pad + 256 } })

theorem witness_SpillAndFill :
    let t := begun 0 spilled
    let k := t.getCtx 0
    Begins 0 spilled t ∧ bit k.st 11 = true ∧ capsConf t = false ∧ t.rel.latent = [] ∧ k.win.cur.toNat < 7 ∧ 2 ≤ k.win.res.toNat ∧
      bit k.win.link ((k.win.cur.toNat + 15 - k.win.res.toNat) % 7) = false ∧ k.win.res.toNat ≤ 6 ∧ k.win.fsd ≠ 0 ∧
      needCanonical 0 (k.win.fsptr - 256) .write t = .ok () t ∧ SMap.wf k.win.slots = true ∧
      okIn (translateWords (.ctx 0) (ctxRegime t 0) .write (k.win.fsptr - 256) 32) t (fun r u => match r with
        | .error _ => false
        | .ok ps => okIn (prepWords 0 ps) u fun ws v => ws.all (pathOk v) &&
            okIn (commitWords (some 0) 0 ws ((List.range 32).map fun i => k.winSlot 0 i)) v fun _ _ => true) = true ∧
      okIn (translateWords (.ctx 0) (ctxRegime t 0) .read k.win.fsptr 32) t (fun r u => match r with
        | .error _ => false
        | .ok _ => okIn (frameRead 0 k.win.fsptr 32) u fun _ x => decide (x.getCtx 0 = k)) = true :=
  ⟨⟨rfl, rfl, _, rfl, rfl⟩, rfl, rfl, rfl, by decide, by decide, by decide, by decide, by decide, rfl, rfl, by decide +kernel,
    by decide +kernel⟩

/-- The smallest post: one word to byte 0 of core 0's scratchpad. -/
def poster (x : W64) : State := padWords (List.replicate 2 (int 7)) (regs (dptr pad) (int x) (int 0))

theorem witness_PostAndRecords :
    let t := begun 0 (poster 0)
    Begins 0 (poster 0) t ∧ (t.getCtx 0).getA.tag = Tag.dptr ∧ isPlain (t.getCtx 0).getX.tag = true ∧
      needIo 0 ((fld (0 : W64) 0 12).setWidth 64 <<< 19 ||| 0x40000) true 7 t = .ok () t ∧ needCanonical 0 pad .read t = .ok () t ∧
      needDdc 0 .read pad 8 false t = .ok () t ∧ bit (t.getCtx 0).st 11 = true ∧
      okIn (translateWords (.ctx 0) (ctxRegime t 0) .read pad 1) t (fun r u => match r with
        | .error _ => false
        | .ok _ => okIn (loadWords 0 pad 1) u fun _ v => laneFull v 3 == false) = true :=
  ⟨⟨rfl, rfl, _, rfl, rfl⟩, rfl, rfl, rfl, rfl, rfl, rfl, by decide +kernel⟩

theorem witness_PostAndRecords_mark :
    let s := regs (int 1) (int 0) (int 0)
    Begins 0 s (begun 0 s) ∧ isPlain ((begun 0 s).getCtx 0).getA.tag = true ∧ ((begun 0 s).getCtx 0).getX.tag ≠ Tag.poison :=
  ⟨⟨rfl, rfl, _, rfl, rfl⟩, rfl, by decide⟩

/-! ## Capabilities -/

/-- The capability configuration. -/
def capBase : State := { base id with chain := { State.reset.chain with privMode := 2 } }

/-- C0 with the root in PCC and DDC, A at the start of the scratchpad, and the pair in X:Y. -/
def capped (p : State → CapPair) : State :=
  capBase.modCtx 0 fun k => { (((k.setA (dptr pad)).setX (p capBase).hi).setY (p capBase).lo) with
    pcc := rootCap capBase, ddc := rootCap capBase }

/-- The check is a function of the bits outside CHK. -/
theorem sign_valid (s t : State) (p : CapPair) (ht : checkKey t = checkKey s)
    (h1 : ∀ v : BitVec 2, fld (setFld p.hi.val 62 2 v) 0 62 = fld p.hi.val 0 62 ∧ fld (setFld p.hi.val 62 2 v) 62 2 = v)
    (h2 : ∀ v : BitVec 6, fld (setFld p.lo.val 58 6 v) 0 58 = fld p.lo.val 0 58 ∧ fld (setFld p.lo.val 58 6 v) 58 6 = v) :
    capValid t (capSign s p) = true := by
  simp [capValid, capSign, capTagged, capChk, h1, h2, ht]

/-- A pair with OTYPE 3, PERMS all and bounds all. -/
def typed (s : State) : CapPair :=
  capSign s ⟨⟨at' 54 (0xFF : BitVec 8), Tag.caph⟩, ⟨BitVec.ofNat 64 (2 ^ 54 - 1) ||| 3#64 <<< 54, Tag.capl⟩⟩

theorem root_valid (s t : State) (ht : checkKey t = checkKey s) : capValid t (rootCap s) = true :=
  sign_valid s t _ ht (by decide) (by decide)

theorem typed_valid (s t : State) (ht : checkKey t = checkKey s) : capValid t (typed s) = true :=
  sign_valid s t _ ht (by decide) (by decide)

/-- The root reaches every address with every permission. -/
theorem root_access (s t : State) (i : Nat) (a : W64) (n : Nat) (ht : checkKey t = checkKey s) (hi : i < 8)
    (ha : fldN a 0 56 + n ≤ 2 ^ 56) : capAccess t (rootCap s) i a n = none := by
  have hv := root_valid s t ht
  have ho : (rootCap s).otype = 0 := (by decide : ∀ v : BitVec 6, fld (setFld (BitVec.ofNat 64 (2 ^ 54 - 1)) 58 6 v) 54 4 = 0) _
  have hb : (rootCap s).base = 0 := (by decide : ∀ v : BitVec 2, fldN (setFld (at' 54 (0xFF : BitVec 8) : W64) 62 2 v) 0 54 = 0) _
  have hp : (rootCap s).top = 2 ^ 54 - 1 :=
    (by decide : ∀ v : BitVec 6, fldN (setFld (BitVec.ofNat 64 (2 ^ 54 - 1)) 58 6 v) 0 54 = 2 ^ 54 - 1) _
  have hq : (rootCap s).perm i = true :=
    (by decide : ∀ v : BitVec 2, ∀ j < 8, bit (setFld (at' 54 (0xFF : BitVec 8) : W64) 62 2 v) (54 + j) = true) _ i hi
  have hw : capWithin (rootCap s) a n = true := by
    simp only [capWithin, hb, hp, Bool.and_eq_true, decide_eq_true_eq]; omega
  simp [capAccess, capNeedValid, hv, ho, hw, hq]

/-- In the capability configuration a fetch through the root passes. -/
theorem capped_begins (c : CtxId) (s : State) (a : W64) (p : Phys) (h : checkKey s = checkKey capBase)
    (hp : (s.getCtx c).pcc = rootCap capBase) (hf : (s.getCtx c).pc = a) (ha : fldN a 0 56 + 4 ≤ 2 ^ 56)
    (hn : needCanonical c a .exec s = .ok () s) (hc : capsConf s = true)
    (ht : translateCtx c ⟨a, .exec, some (s.getCtx c).rh, none, false⟩ s = .ok p s) (hm : meetBank c s = s)
    (hi : issuing s = some c) (hr : (s.getCtx c).rh = false) : Begins c s (begun c s) := by
  have h1 := root_access _ s 2 a 4 h (by decide) ha
  have h2 : needCap (capAccess s (s.getCtx c).pcc 2 (s.getCtx c).pc 4) s = .ok () s := by
    rw [hp, hf, h1]; rfl
  rw [← hf] at ht hn
  refine ⟨hi, hr, s, ?_, rfl⟩
  unfold fetchCheck
  rw [run_bind_ok (run_get s), run_bind_ok hn, if_pos hc, run_bind_ok h2]
  refine (run_bind_ok ht).trans ?_
  exact congrArg (EStateM.Result.ok ()) hm

theorem witness_CapabilityInstructions :
    let t := begun 0 (capped rootCap)
    Begins 0 (capped rootCap) t ∧ capsConf t = true ∧ capValid t ⟨(t.getCtx 0).getX, (t.getCtx 0).getY⟩ = true ∧
      bit (t.getCtx 0).st 11 = true :=
  ⟨capped_begins _ _ 0 _ rfl rfl rfl (by decide) rfl rfl rfl rfl rfl rfl, rfl, root_valid _ _ rfl, rfl⟩

/-- The fields of the root that its check leaves alone. -/
theorem root_fields (s : State) : fldN (rootCap s).hi.val 0 54 = 0 ∧ (∀ j < 8, bit (rootCap s).hi.val (54 + j) = true) ∧
    fld (rootCap s).lo.val 54 4 = (0 : BitVec 4) :=
  ⟨(by decide : ∀ v : BitVec 2, fldN (setFld (at' 54 (0xFF : BitVec 8) : W64) 62 2 v) 0 54 = 0) _,
    (by decide : ∀ v : BitVec 2, ∀ j < 8, bit (setFld (at' 54 (0xFF : BitVec 8) : W64) 62 2 v) (54 + j) = true) _,
    (by decide : ∀ v : BitVec 6, fld (setFld (BitVec.ofNat 64 (2 ^ 54 - 1)) 58 6 v) 54 4 = (0 : BitVec 4)) _⟩

/-- In the fast bank of the capability configuration, with the root in PCC. -/
theorem witness_WriteSystemRegister_caps :
    let s := (capped rootCap).modCtx 0 fun k => { k with st := 0x5F00, fast := { k.fast with a := int 8 } }
    let t := begun 0 s
    Begins 0 s t ∧ (t.getCtx 0).getA = int 8 ∧ capsConf t = true ∧ bit (t.getCtx 0).st 14 = true ∧ bit (t.getCtx 0).st 11 = true ∧
      stage2Owner t (t.getCtx 0) = true :=
  ⟨capped_begins _ _ 0 _ rfl rfl rfl (by decide) rfl rfl rfl rfl rfl rfl, rfl, rfl, rfl, rfl, (root_fields capBase).2.1 7 (by decide)⟩

theorem typed_fields (s : State) : bit (typed s).hi.val 56 = true ∧ fld (typed s).lo.val 54 4 = (3 : BitVec 4) :=
  ⟨(by decide : ∀ v : BitVec 2, bit (setFld (at' 54 (0xFF : BitVec 8) : W64) 62 2 v) 56 = true) _,
    (by decide : ∀ v : BitVec 6, fld (setFld (BitVec.ofNat 64 (2 ^ 54 - 1) ||| 3#64 <<< 54) 58 6 v) 54 4 = (3 : BitVec 4)) _⟩

/-- The clauses of the capability group: an untyped pair to seal with type 1. -/
theorem witness_CapabilityInstructions_seal :
    let s := (capped rootCap).modCtx 0 fun k => { k.setA (int 1) with sys := { k.sys with tgrant := 2 } }
    let t := begun 0 s
    Begins 0 s t ∧ (t.getCtx 0).getA = int 1 ∧ (t.getCtx 0).getX = (rootCap capBase).hi ∧
      bit (rootCap capBase).hi.val 59 = true ∧ (t.getCtx 0).getY = (rootCap capBase).lo ∧
      fld (rootCap capBase).lo.val 54 4 = (0 : BitVec 4) ∧ bit (t.getCtx 0).sys.tgrant 1 = true ∧
      fldN (rootCap capBase).hi.val 0 54 = 0 :=
  ⟨capped_begins _ _ 0 _ rfl rfl rfl (by decide) rfl rfl rfl rfl rfl rfl, rfl, rfl, (root_fields _).2.1 5 (by decide), rfl,
    (root_fields _).2.2, rfl, (root_fields _).1⟩

/-- A pair of type 3 to open, or to enter through a gate. -/
theorem witness_CapabilityInstructions_open :
    let s := (capped typed).modCtx 0 fun k => { k with sys := { k.sys with tgrant := 8 } }
    let t := begun 0 s
    Begins 0 s t ∧ capValid t ⟨(t.getCtx 0).getX, (t.getCtx 0).getY⟩ = true ∧ (t.getCtx 0).getX = (typed capBase).hi ∧
      bit (typed capBase).hi.val 56 = true ∧ (t.getCtx 0).getY = (typed capBase).lo ∧
      fld (typed capBase).lo.val 54 4 = (3 : BitVec 4) ∧ bit (t.getCtx 0).sys.tgrant 3 = true :=
  ⟨capped_begins _ _ 0 _ rfl rfl rfl (by decide) rfl rfl rfl rfl rfl rfl, typed_valid _ _ rfl, rfl, (typed_fields _).1, rfl,
    (typed_fields _).2, rfl⟩

/-- SEAL, and UNSEAL of any sealed word, while the seal key is valid. -/
theorem witness_CapabilityInstructions_key :
    let s := { regs (int 5) (int 0) (int 0) with keys := { Keys.reset with skv := true } }
    let t := begun 0 s
    Begins 0 s t ∧ t.keys.skv = true ∧ isPlain (t.getCtx 0).getA.tag = true ∧ fld (5 : W64) 60 4 = (0 : BitVec 4) ∧
      bit (t.getCtx 0).st 11 = true := ⟨⟨rfl, rfl, _, rfl, rfl⟩, rfl, rfl, by decide, rfl⟩

/-- A in the scratchpad; DDC allows ALD and AST there with TAKE and GIVE. -/
theorem witness_CapabilityTransfers :
    let t := begun 0 (capped rootCap)
    Begins 0 (capped rootCap) t ∧ capsConf t = true ∧ (t.getCtx 0).getA = dptr pad ∧ (t.getCtx 0).ddc = rootCap capBase ∧
      needCanonical 0 pad .read t = .ok () t ∧ pad.toNat % 16 = 0 ∧ capAccess t (rootCap capBase) 0 pad 16 = none ∧
      capAccess t (rootCap capBase) 1 pad 16 = none ∧ bit (rootCap capBase).hi.val 57 = true ∧
      bit (rootCap capBase).hi.val 58 = true ∧
      (∃ q r u v, translateCtx 0 ⟨pad, .write, none, none, false⟩ t = .ok q u ∧
        translateCtx 0 ⟨pad + 8, .write, none, none, false⟩ u = .ok r v) :=
  ⟨capped_begins _ _ 0 _ rfl rfl rfl (by decide) rfl rfl rfl rfl rfl rfl, rfl, rfl, rfl, rfl, by decide,
    root_access _ _ _ _ _ rfl (by decide) (by decide), root_access _ _ _ _ _ rfl (by decide) (by decide),
    (root_fields _).2.1 3 (by decide), (root_fields _).2.1 4 (by decide), _, _, _, _, rfl, rfl⟩

/-- A gate that is valid and carries X: the root. -/
theorem witness_CapabilityTransfers_gate_x : capValid capBase (rootCap capBase) = true ∧
    fld (rootCap capBase).lo.val 54 4 = (0 : BitVec 4) ∧ bit (rootCap capBase).hi.val 56 = true :=
  ⟨root_valid _ _ rfl, (root_fields _).2.2, (root_fields _).2.1 2 (by decide)⟩

/-- A gate that is valid, and has no X: the root without bit 56. -/
theorem witness_CapabilityTransfers_gate : ∃ g : CapPair, capValid capBase g = true ∧ fld g.lo.val 54 4 = (0 : BitVec 4) ∧
    bit g.hi.val 56 = false :=
  ⟨capSign capBase ⟨⟨at' 54 (0xFB : BitVec 8), Tag.caph⟩, ⟨BitVec.ofNat 64 (2 ^ 54 - 1), Tag.capl⟩⟩,
    sign_valid _ _ _ rfl (by decide) (by decide),
    (by decide : ∀ v : BitVec 6, fld (setFld (BitVec.ofNat 64 (2 ^ 54 - 1)) 58 6 v) 54 4 = (0 : BitVec 4)) _,
    (by decide : ∀ v : BitVec 2, bit (setFld (at' 54 (0xFB : BitVec 8) : W64) 62 2 v) 56 = false) _⟩

/-! ## The tile unit -/

/-- One row of sixteen INT8 elements, and one of four FP32 elements; rows 16 bytes apart. -/
def sdInt : W64 := 0x00000000001091E0
def sdFp : W64 := 0x0000000000103060

/-- The tile ready; SD0 and SD1 as above; A, X and Y at the start of the scratchpad, whose first eight words are 0. -/
def tileAt : State :=
  let s := tiled (padWords (List.replicate 8 (int 0)) (regs (dptr pad) (dptr pad) (dptr pad)))
  { s with tile := { s.tile with sd := ⟨sdInt, sdFp, 0, 0⟩ } }

theorem tile_ready : TileReady false 0 tileAt (begun 0 tileAt) ∧ TileReady true 0 tileAt (begun 0 tileAt) := by
  have h : ∀ i, bit ((begun 0 tileAt).tile.prog.get i) 8 = false := by
    intro i; rcases ctxId_cases i with rfl | rfl | rfl | rfl <;> rfl
  exact ⟨⟨⟨rfl, rfl, rfl⟩, rfl, rfl, rfl, rfl, rfl, rfl, fun _ => h⟩, ⟨rfl, rfl, rfl⟩, rfl, rfl, rfl, rfl, rfl, rfl, fun _ => h⟩

theorem tile_plain : TilePlain (begun 0 tileAt) := ⟨rfl, by decide, rfl⟩

/-- Every instruction starts at its first row. -/
theorem tile_starts (w : W32) : TileStarts 0 w 0 (begun 0 tileAt) 0 0 := by
  refine ⟨fun i _ => ?_, .inl ⟨rfl, rfl, rfl⟩⟩
  rcases ctxId_cases i with rfl | rfl | rfl | rfl <;> rfl

/-- Stopped at row 1 of its first pass, the instruction goes on there. -/
theorem tile_continues :
    let s := { tileAt with tile := { tileAt.tile with prog := ⟨0x6000000000000101, 0, 0, 0⟩ } }
    TileReady true 0 s (begun 0 s) ∧ TileStarts 0 0x60000000 0 (begun 0 s) 0 1 := by
  refine ⟨⟨⟨rfl, rfl, rfl⟩, rfl, rfl, rfl, rfl, rfl, rfl, fun h => by cases h⟩, fun i hi => ?_, .inr ⟨?_, ?_, ?_, ?_, ?_, ?_⟩⟩
  · rcases ctxId_cases i with rfl | rfl | rfl | rfl <;> first | rfl | exact absurd rfl hi
  all_goals decide +kernel

/-- Every row of the list can be performed, one after the other, and q holds at the end. -/
def rowsOk (one : Nat → Nat → M Unit) (q : State → Bool := fun _ => true) : List (Nat × Nat) → State → Bool
  | [], t => q t
  | (p, r) :: rest, t => boundaryDue t 0 == false && okIn (one p r) t fun _ w => rowsOk one q rest w

theorem rows_do {one : Nat → Nat → M Unit} {q : State → Bool} :
    ∀ {l : List (Nat × Nat)} {t : State}, rowsOk one q l t = true → ∃ u, RowsDo 0 one l t u ∧ q u = true
  | [], t, h => ⟨t, rfl, h⟩
  | _ :: _, _, h => by
    obtain ⟨hb, h⟩ := Bool.and_eq_true_iff.1 h
    obtain ⟨_, w, hw, h'⟩ := of_okIn h
    obtain ⟨u, hu, hq⟩ := rows_do h'
    exact ⟨u, ⟨by simpa using hb, w, hw, hu⟩, hq⟩

theorem rows_run {one : Nat → Nat → M Unit} {l : List (Nat × Nat)} {t : State} (h : rowsOk one (fun _ => true) l t = true) :
    ∃ u, RowsDo 0 one l t u := (rows_do h).imp fun _ x => x.1

/-- A shape fits: streams off, INT8 and FP32. -/
theorem tile_forms : TileForm (begun 0 tileAt) 0 ⟨sdInt⟩ none ∧ TileForm (begun 0 tileAt) 0 ⟨sdFp⟩ none ∧
    (⟨sdInt⟩ : Shape).rows = 1 ∧ (⟨sdFp⟩ : Shape).rows = 1 ∧ (⟨sdInt⟩ : Shape).fmt = fINT8 ∧ (⟨sdFp⟩ : Shape).fmt = fFP32 :=
  ⟨⟨fun _ => rfl, rfl, by decide, by decide⟩, ⟨fun _ => rfl, rfl, by decide, by decide⟩, by decide, by decide, by decide, by decide⟩

theorem witness_TileClearAndMove :
    TileReady false 0 tileAt (begun 0 tileAt) ∧ TilePlain (begun 0 tileAt) ∧ SMap.wf (begun 0 tileAt).tile.trow = true ∧
      SMap.wf (begun 0 tileAt).tile.fold = true ∧ needFold 31 false (begun 0 tileAt) = .ok () (begun 0 tileAt) ∧
      (begun 0 tileAt).tile.tileq = [] ∧ TileForm (begun 0 tileAt) 0 ⟨sdFp⟩ none ∧
      (begun 0 tileAt).tile.sd.get (fld (0x2000 : BitVec 25) 13 2) = sdFp ∧ (⟨sdFp⟩ : Shape).count ≤ 32 / 2 ∧
      (⟨sdFp⟩ : Shape).scm = 0 :=
  ⟨tile_ready.1, tile_plain, rfl, rfl, rfl, rfl, tile_forms.2.1, rfl, by decide, by decide⟩

/-- Twin use needs FCFG. -/
theorem witness_TileClearAndMove_twin :
    let s := { tileAt with tile := { tileAt.tile with ntw := 16 } }
    needFold 15 true s = .ok () s ∧ (∃ e, needFold 15 false s = .error e s) := ⟨rfl, _, rfl⟩

/-- In Q-split, where TZERO.A traps. -/
theorem witness_TileClearAndMove_split :
    let s := { tileAt with tile := { tileAt.tile with tcfg := 1 } }
    TileReady false 0 s (begun 0 s) ∧ bit (begun 0 s).tile.tcfg 0 = true ∧ needFold 31 false (begun 0 s) = .ok () (begun 0 s) := by
  refine ⟨⟨⟨rfl, rfl, rfl⟩, rfl, rfl, rfl, rfl, rfl, rfl, fun _ i => ?_⟩, rfl, rfl⟩
  rcases ctxId_cases i with rfl | rfl | rfl | rfl <;> rfl

theorem witness_TileMemoryInstructions :
    let t := begun 0 tileAt
    let d : Shape := ⟨sdInt⟩
    TileReady true 0 (strike 0 none tileAt) t ∧ issuing tileAt = some 0 ∧ BaseOk 0 t 0 16 ∧ BaseOk 0 t 2 16 ∧ TileForm t 0 d none ∧
      TileStarts 0 0x60000000 0 t 0 0 ∧ TileStarts 0 0x61000000 0 t 0 0 ∧ 0 < d.rows ∧
      (∃ u, RowsDo 0 (fun _ r => do
        let row ← rowCheck 0 [⟨d.rowAt pad r, d.rowBytes, false⟩]
        let x ← readPart 0 false row 0
        modTile fun y => y.setLrow none false 0 r (d.split x)) (rowsLeft 1 1 0 0) t u) ∧
      (∃ u, RowsDo 0 (fun _ r => do
        let row ← rowCheck 0 [⟨d.rowAt pad r, d.rowBytes, true⟩]
        let y := meetLrow none false 0 r (← get)
        let ps ← prepPart 0 row 0 (d.join ((veiled y).lrow none false 0 r))
        modify (meetLrow none false 0 r)
        let _ ← readTile
        commitFoot 0 ps) (rowsLeft 1 1 0 0) t u) :=
  ⟨tile_ready.2, rfl, ⟨by decide, rfl, by decide⟩, ⟨by decide, rfl, by decide⟩, tile_forms.1, tile_starts _, tile_starts _, by decide,
    rows_run (by decide +kernel), rows_run (by decide +kernel)⟩

theorem witness_TileMemoryInstructions_fold :
    let t := begun 0 tileAt
    let d : Shape := ⟨sdFp⟩
    TileReady true 0 tileAt t ∧ needFold 0 false t = .ok () t ∧ d.fmt = fFP32 ∧ d.scm = 0 ∧ TileStarts 0 0x64000000 0 t 0 0 ∧
      (∃ u, RowsDo 0 (fun _ r => do
        let row ← rowCheck 0 [⟨d.rowAt pad r, 16, false⟩]
        let x ← readPart 0 false row 0
        let fz := bit (← get).tile.tcfg 1
        modTile fun y => ldacRow d none fz false false 0 r (elems 32 4 x) (elems 32 4 (x / 2 ^ (32 * 4))) y) (rowsLeft 1 1 0 0) t u) ∧
      (∃ u, RowsDo 0 (fun _ r => do
        let row ← rowCheck 0 [⟨d.rowAt pad r, 16, true⟩]
        let y := (meetFold none 0 r (← get)).tile
        let ps ← prepPart 0 row 0 (packElems 32 ((List.range 4).map fun n => (y.acc none 0 r n).toNat))
        modify (meetFold none 0 r)
        commitFoot 0 ps) (rowsLeft 1 1 0 0) t u) ∧
      (let g : EpiArgs := ⟨none, d, 0, false, 0, false, 0, false, 8⟩
       fmtEnabled t d.ocv = true ∧ g.nc * fmtBits d.ocv % 8 = 0 ∧ ∃ u, RowsDo 0 (fun _ m => do
        let row ← rowCheck 0 [⟨d.rowAt pad m, g.outBytes, true⟩]
        let x := meetEpi g m (← get)
        let (b, mx, fl) := epiRow g (bit x.tile.tcfg 3) m 0 (veiled x)
        let ps ← prepPart 0 row 0 b
        modify (meetEpi g m)
        let _ ← readTile
        modify fun y => { y with tile := if g.gm then (y.tile.orFlags 5 fl).raiseMax (maxEntry none m) mx else y.tile.orFlags 5 fl }
        commitFoot 0 ps) (rowsLeft 1 1 0 0) t u) :=
  ⟨tile_ready.2, rfl, by decide, by decide, tile_starts _, rows_run (by decide +kernel), rows_run (by decide +kernel), by decide, by decide,
    rows_run (by decide +kernel)⟩

/-- The scratchpad holds an image of FORMAT 1 with nothing in use. -/
def imaged : State := padWords (int 1 :: List.replicate 63 (int 0)) tileAt

theorem witness_TileSaveRestore :
    let t := begun 0 imaged
    let foot := fun (i : Nat) (w : Bool) => (⟨pad + BitVec.ofNat 64 (64 * i), 64, w⟩ : Foot)
    TileReady true 0 imaged t ∧ BaseOk 0 t 0 64 ∧ imageLen t.tile.tuse t.tile.fuse = 8 ∧
      rowsOk (fun _ i => do
        let row ← rowCheck 0 [foot i true]
        let x ← get
        let ps ← prepPart 0 row 0 ((imageBlocks (veiled (meetBlock i x))).getD i 0)
        modify (meetBlock i)
        let _ ← readTile
        commitFoot 0 ps) (fun u => moverRegs u == 0) (rowsLeft 1 8 0 0) t = true ∧
      okIn (do readPart 0 true (← rowCheck 0 [foot 0 false]) 0 : M Nat) t (fun x y =>
        let z := { y with tile := { brokenTile y y.free with image := [x] }, free := y.free + brokenSize }
        decide (fld (blockWord x 0) 0 8 = (1 : BitVec 8)) && rowsOk (fun _ i => do
          let row ← rowCheck 0 [foot i false]
          let b ← readPart 0 true row 0
          modify fun s => { s with tile := { s.tile with image := s.tile.image ++ [b] } }) (fun _ => true)
          (rowsLeft 1 (imageLen (fld (blockWord x 0) 8 8) (fld (blockWord x 0) 16 32)) 0 1) z) = true :=
  ⟨⟨⟨rfl, rfl, rfl⟩, rfl, rfl, rfl, rfl, rfl, rfl, fun h => by cases h⟩, ⟨by decide, rfl, by decide⟩, by decide +kernel,
    by decide +kernel, by decide +kernel⟩

theorem witness_TileImageRoundTrip : State.reset.tile.veil = 0 := rfl

/-- TROW, TCVT, TFN and TRED on INT8 and FP32 shapes. -/
theorem witness_TileRowEngine :
    TileReady false 0 tileAt (begun 0 tileAt) ∧ TilePlain (begun 0 tileAt) ∧ SMap.wf (begun 0 tileAt).tile.trow = true ∧
      TileForm (begun 0 tileAt) 0 ⟨sdInt⟩ none ∧ TileForm (begun 0 tileAt) 0 ⟨sdFp⟩ none ∧ (⟨sdInt⟩ : Shape).scm = 0 ∧
      fmtEnabled (begun 0 tileAt) (⟨sdFp⟩ : Shape).ocv = true ∧ (⟨sdFp⟩ : Shape).count ≤ fmtElems false (⟨sdFp⟩ : Shape).ocv ∧
      fmtFp (⟨sdFp⟩ : Shape).fmt = true ∧ (⟨sdFp⟩ : Shape).fmt ≠ fF19 ∧ (⟨sdFp⟩ : Shape).scm = 0 :=
  ⟨tile_ready.1, tile_plain, rfl, tile_forms.1, tile_forms.2.1, by decide, by decide, by decide, by decide, by decide, by decide⟩

/-- Values: 1, -2 and 1 in FP16; a NaN; 1 and 3 for a block of E4M3; a row of zeros for TRED. -/
theorem witness_TileRowEngine_values :
    FiniteOf [elemVal 1 0x3C00, elemVal 1 0xC000, elemVal 1 0x3C00] [(false, 1024, -10), (true, 1024, -9), (false, 1024, -10)] ∧
      fmtFp 1 = true ∧ (elemVal 1 0x7E00).isNan = true ∧ fmtMx 4 = true ∧
      (let xs : List (Bool × Nat × Int) := [(false, 1, 0), (true, 3, 0)]
       (∀ x ∈ xs, x.2.1 ≠ 0 → x.2.2 + bitLen x.2.1 - 1 ≤ 1) ∧ ∃ x ∈ xs, x.2.1 ≠ 0 ∧ x.2.2 + bitLen x.2.1 - 1 = 1) ∧
      (let d : Shape := ⟨sdFp⟩
       FiniteOf ((elems d.width d.count (tileAt.tile.lrow none false 1 0).bits).map (elemVal d.fmt)) (List.replicate 4 (false, 0, -149)) ∧
         FiniteOf [elemVal fFP32 (redOld none 0 0 0 tileAt.tile)] [(false, 0, -149)]) := by
  unfold FiniteOf; decide +kernel

theorem witness_TileMultiply :
    let t := begun 0 tileAt
    let d : Shape := ⟨sdInt⟩
    let g : MmaArgs := ⟨none, d, 0, 0, 32, false⟩
    TileReady true 0 tileAt t ∧ TileForm t 0 d none ∧ needFold 0 false t = .ok () t ∧ BaseOk 0 t 0 16 ∧ g.n ≤ 32 ∧
      TileStarts 0 0x62000000 0 t 0 0 ∧ 0 ≤ d.rows ∧
      (∃ u, RowsDo 0 (fun p m => do
        let row ← rowCheck 0 [⟨d.rowAt pad m, d.rowBytes, false⟩]
        let x ← readPart 0 true row 0
        mmaRow g (some (true, false)) p m (d.split x)) (rowsLeft 1 d.rows 0 0) t u) ∧
      okIn (do for e in rowsLeft 1 d.rows 0 0 do
        modify (meetLrow none false 0 e.2)
        mmaRow g (some (true, false)) e.1 e.2 ((← readTile).lrow none false 0 e.2) : M Unit) t (fun _ _ => true) = true :=
  ⟨tile_ready.2, tile_forms.1, rfl, ⟨by decide, rfl, by decide⟩, by decide, tile_starts _, by decide, rows_run (by decide +kernel),
    by decide +kernel⟩

/-- The values of one row: FP32 elements that are zero in the high pass; groups of 1, 0.25 and of special values. -/
theorem witness_TileMultiply_values :
    (let g : MmaArgs := ⟨none, ⟨sdFp⟩, 15, 0, 32, true⟩
     fmtInt g.d.fmt = false ∧ g.d.ok g.v.isSome = true ∧ g.ac + 16 < 32 ∧ 31 < Stream.side g.v ∧ g.n ≤ Stream.side g.v ∧
       SMap.wf tileAt.tile.fold = true ∧ (g.bank tileAt.tile).isNone = true ∧ bit tileAt.tile.tcfg 1 = false) ∧
    TilePlain tileAt ∧
    (let x : Bool × Nat × Int := (false, 1, 0)
     FiniteOf [groupSum [.fin false 1 0, .fin true 0 5]] [(false, 8, -3)] ∧ FiniteOf [.fin false 1 0, .fin true 1 (-2)] [x, (true, 1, -2)] ∧
       x.2.1 ≠ 0 ∧ x.2.2 ≤ 0) ∧
    FiniteOf [.fin true 0 0] [(true, 0, 0)] ∧
    (∃ l : List FpVal, .nan true ∈ l ∧ .nan false ∉ l) ∧ (∃ l : List FpVal, .inf true ∈ l ∧ .inf false ∈ l ∧ ∀ p ∈ l, p.isNan = false) ∧
    ∃ l : List FpVal, .inf true ∈ l ∧ .inf (!true) ∉ l ∧ ∀ p ∈ l, p.isNan = false :=
  ⟨by decide +kernel, ⟨rfl, by decide, rfl⟩, by unfold FiniteOf; decide, by unfold FiniteOf; decide,
    ⟨[.nan true], by decide, by decide⟩, ⟨[.inf true, .inf false], by decide, by decide, by decide⟩, [.inf true], by decide, by decide, by decide⟩

/-- 0 plus nothing is 0, alone and in a pair. -/
theorem witness_TileMultiply_promoted : Promoted [] 0 0 ∧ TwinPromotedAll [] 0 0 0 0 := ⟨rfl, rfl, rfl⟩

theorem witness_TileMultiplyInteger :
    (let g : MmaArgs := ⟨none, ⟨sdInt⟩, 31, 0, 32, false⟩
     fmtInt g.d.fmt = true ∧ g.d.ovp ≠ 2 ∧ g.ac < 32 ∧ 31 < Stream.side g.v ∧ g.n ≤ Stream.side g.v ∧
       SMap.wf tileAt.tile.fold = true ∧ (g.bank tileAt.tile).isNone = true) ∧ TilePlain tileAt :=
  ⟨by decide, rfl, by decide, rfl⟩

/-- A step that is out of range, with room for the exponents, and one that is not. -/
theorem witness_TileMultiplyInteger_retry :
    (let x : Int := (tileAt.tile.acc none 0 0 0).toInt + stepTotal (tileAt.tile.exponent 0 (Stream.part none 0 0)) [2 ^ 20] [2 ^ 20]
     2 ^ 31 ≤ x) ∧ (∀ p < 4, tileAt.tile.exponent 0 p + 8 ≤ 255) ∧
    (let x : Int := (tileAt.tile.acc none 0 0 0).toInt + stepTotal (tileAt.tile.exponent 0 (Stream.part none 0 0)) [2] [2]
     x < 2 ^ 31 ∧ (-(2 ^ 31) : Int) ≤ x) := by decide +kernel

/-- 3 × 4 summed over one element of INT8 rows. -/
theorem test_integer_multiply :
    okIn (mmaRow ⟨none, ⟨sdInt⟩, 0, 0, 1, false⟩ none 0 0 ⟨3, 0⟩)
      { tileAt with tile := tileAt.tile.setRow 0 0 ⟨4, 0⟩ } (fun _ t => t.tile.foldAt 0 0 0 == 12) = true := by decide +kernel

/-! ## Rhaha words and the coprocessor -/

/-- Rhaha mode, ENABLE0.RHAHA set; A is 7. Stage 1 is on, with its tables in the scratchpad: a page of 1 GiB at 0 that is
executable by the supervisor and has the Rhaha attribute. -/
def inRhaha : State :=
  let s := base fun k => { (k.setA (int 7)) with st := 0x8800, sys := { k.sys with tcr := 1, ttb1 := pad } }
  { s with
    chain := { s.chain with enable0 := 1 }
    spad := [(0, int (pad + 0x1003)), (512, int (pad + 0x2003)), (1024, int 0x251)] }

/-- The word that moves A to X and -1 to F0. -/
theorem witness_RhahaWord : ∃ t, BeginsRhaha 0 inRhaha t ∧ (let k := t.getCtx 0
    decide (k.slotErrs = [] ∧ k.rest = none ∧ rhSource k 0x20 = some (int 7) ∧ rhSource k 0xFF = some (int (-1)) ∧
      rhDestOk k 0x20 = true ∧ rhDestOk k 0x00 = true ∧ rhControl 0x20 = false ∧ k.hasSlot 0 = true ∧ k.hasSlot 31 = true) &&
      okIn (rhMove 0 false 0x20 (int 7) ⟨[], .none, false⟩) t (fun k0 t1 =>
        okIn (rhMove 0 true 0x00 (int (-1)) k0) t1 fun k1 t2 => okIn (rhPrepare 0 k1) t2 fun ma t3 =>
          let all := k1.acts ++ ma.1
          let acts := if (all.any fun x => match x with | .io q => !isLocal t3 q.addr | _ => false) = true then
              (all.filter fun x => match x with | .io _ => true | _ => false) ++ all.filter fun x => match x with | .io _ => false | _ => true
            else all
          okIn (rhRun 0 ⟨acts, false, k1.ctl, ma.2, rhUndo 0x20 0x00 k, false, []⟩ acts) t3 fun b t4 =>
            b && okIn (rhEffect 0 k1.ctl ma.2) (t4.modCtx 0 fun k => { k with rest := none }) fun b _ => b)) = true := by
  obtain ⟨a, u, h, hp⟩ := of_okIn (x := fetchCheck 0) (s := inRhaha) (p := fun _ u => let t := begun 0 u; let k := t.getCtx 0
    decide (k.slotErrs = [] ∧ k.rest = none ∧ rhSource k 0x20 = some (int 7) ∧ rhSource k 0xFF = some (int (-1)) ∧
      rhDestOk k 0x20 = true ∧ rhDestOk k 0x00 = true ∧ rhControl 0x20 = false ∧ k.hasSlot 0 = true ∧ k.hasSlot 31 = true) &&
      okIn (rhMove 0 false 0x20 (int 7) ⟨[], .none, false⟩) t (fun k0 t1 =>
        okIn (rhMove 0 true 0x00 (int (-1)) k0) t1 fun k1 t2 => okIn (rhPrepare 0 k1) t2 fun ma t3 =>
          let all := k1.acts ++ ma.1
          let acts := if (all.any fun x => match x with | .io q => !isLocal t3 q.addr | _ => false) = true then
              (all.filter fun x => match x with | .io _ => true | _ => false) ++ all.filter fun x => match x with | .io _ => false | _ => true
            else all
          okIn (rhRun 0 ⟨acts, false, k1.ctl, ma.2, rhUndo 0x20 0x00 k, false, []⟩ acts) t3 fun b t4 =>
            b && okIn (rhEffect 0 k1.ctl ma.2) (t4.modCtx 0 fun k => { k with rest := none }) fun b _ => b)) (by decide +kernel)
  exact ⟨begun 0 u, ⟨rfl, rfl, u, h, rfl⟩, hp⟩

/-- A coprocessor is there and out of reset, and enabled. -/
def withCp (s : State) : State :=
  { s with chain := { s.chain with enable0 := 2 }, pins := { s.pins with cpPresent := true, cpRstN := true } }

theorem witness_Coprocessor :
    let s := withCp (regs (int 1) (int 2) (int 3))
    let t := begun 0 s
    Begins 0 s t ∧ t.pins.cpPresent = true ∧ enabled t 1 = true ∧ t.pins.cpRstN = true ∧ cpFreeTag t = some 0 ∧
      (t.getCtx 0).slotErrs = [] ∧ fld (0x1200000 : BitVec 27) 21 2 = (1 : BitVec 2) ∧ fld (0x1200000 : BitVec 27) 14 5 = (0 : BitVec 5) ∧
      (t.getCtx 0).hasSlot 31 = true := ⟨⟨rfl, rfl, _, rfl, rfl⟩, rfl, by decide, rfl, by decide, rfl, by decide, by decide, rfl⟩

/-- Context 0 waits for the result with tag 5. -/
theorem witness_Coprocessor_result :
    let s := withCp ({ (base fun k => { k with cp := some ⟨5, .a, false⟩ }) with
      cp := { Coproc.reset with out := [⟨5, 0, false, false, 0⟩] } })
    s.pins.cpRstN = true ∧ s.cp.out.find? (fun o => o.tag == 5) = some ⟨5, 0, false, false, 0⟩ ∧
      (s.getCtx 0).cp = some ⟨5, .a, false⟩ ∧ (s.getCtx 0).run = .running ∧
      (∃ u, takeSync 0 (plainExc 18 0) ((cpAnswered 5 s).modCtx 0 fun k => { k with cp := none }) = .ok () u) ∧
      s.boot.phase = .start ∧ NoInterruptFirst 0 s ∧ (∀ o ∈ s.cp.out, o.tag ≠ 4) :=
  ⟨rfl, rfl, rfl, rfl, ⟨_, rfl⟩, rfl, fun _ => by decide, by decide⟩

/-! ## Resets, pins, time -/

/-- A core in the phase p that has been out of reset for 32 ticks, with nothing left to drain. -/
def inPhase (p : Phase) : State :=
  { State.reset with boot := { Boot.reset with phase := p }, time := { Time.reset with tick := 32 } }

theorem witness_ResetSequence :
    (inPhase .held).boot.phase ≠ .coldReset ∧ (inPhase .held).boot.phase ≠ .heldByWrst ∧
      (∀ k, (inPhase .held).boot.phase ≠ .drain k ∧ (inPhase .held).boot.phase ≠ .afterDrain k) ∧
      (let s := inPhase (.drain .core)
       s.caches.l1d = [] ∧ s.caches.l2 = [] ∧ s.caches.ebuf = [] ∧ (∀ l, s.mesh.egress.get l = []) ∧ s.mesh.offered = none ∧
         s.cw.fifo = [] ∧ ∀ q ∈ s.cw.ch.toList, q.state ≠ 1) ∧
      32 ≤ ((inPhase (.afterDrain .core)).time.tick - (inPhase (.afterDrain .core)).boot.rstTick).toNat ∧
      (let s := { inPhase .keys with
        time := { Time.reset with tick := 65536 }, keys := { Keys.reset with gen := { KeyGen.reset with txid := some 0 } } }
       s.keys.gen.txid.isSome = true ∧ 65536 ≤ (s.time.tick - s.keys.gen.since).toNat) ∧
      (let s := { inPhase .start with boot := { Boot.reset with phase := .start, lame := true, lameWb := true } }
       s.boot.lame = true ∧ s.boot.lameWb = true ∧ s.caches.l1d = []) :=
  ⟨by decide, by decide, fun _ => ⟨by simp [inPhase], by simp [inPhase]⟩,
    ⟨rfl, rfl, rfl, by intro l; rcases ctxId_cases l with rfl | rfl | rfl | rfl <;> rfl, rfl, rfl, by decide⟩, by decide, ⟨rfl, by decide⟩,
    rfl, rfl, rfl⟩

/-- In the Keys state: the first word of sixteen, the last one, and a seventeenth rejected word. -/
theorem witness_ResetSequence_keys (g : KeyGen)
    (h : g = { KeyGen.reset with txid := some 3 } ∨ g = { KeyGen.reset with txid := some 3, got := List.replicate 15 5, last := some 5 } ∨
      g = { KeyGen.reset with txid := some 3, rej := 16, last := some 7 }) :
    let s := { inPhase .keys with keys := { Keys.reset with gen := g }, chain := { Chain.reset with entsrc := 0x80000 } }
    let r : IoResp := ⟨0, 3, 0, ⟨7, Tag.int⟩⟩
    s.boot.phase = .keys ∧ s.keys.gen.txid = some r.txid ∧ r.sts = 0 ∧ s.keys.deferred = 0 ∧ fld s.chain.entsrc 19 12 ≠ s.chain.caddr ∧
      tollAllowsIo s s.chain.entsrc = true ∧ (g.rej + 0 < 17 ∧ (g.got.length < 15 ∨ g.got.length = 15) ∧ (g.rej = 16 → g.last = some r.data.val)) := by
  rcases h with rfl | rfl | rfl <;> decide +kernel

theorem witness_StartState :
    (let s := { inPhase .held with keys := { Keys.reset with wkv := true, skv := true } }
     s.keys.wkv = true ∧ s.keys.skv = true ∧ s.boot.locked = false ∧ (s.getCtx 0).run = .running) ∧
    (let s := { inPhase .held with chain := { Chain.reset with entsrc := 0x80000 } }
     s.keys.wkv = false ∧ s.keys.alm = false ∧ bit s.chain.entsrc 31 = false ∧ fld s.chain.entsrc 19 12 ≠ s.chain.caddr ∧
       tollAllowsIo s s.chain.entsrc = true) ∧
    (let s := { inPhase .held with chain := { Chain.reset with cvalid := true } }
     let f : ChainFrame := ⟨0, 0x0F, 1, crcOf (frameBody 4 0 0x0F 1), false, []⟩
     s.boot.phase = .held ∧ crcGood .write f = true ∧ f.ahead = [] ∧ s.chain.cvalid = true ∧ f.addr = s.chain.caddr ∧ s.chain.resp.length < 4 ∧
       f.reg = 0x0F ∧ bit f.data 0 = true ∧ bit f.data 4 = false) := by decide +kernel

theorem witness_PinEvents :
    let s := inPhase .start
    s.boot.phase ≠ .coldReset ∧ s.pins.frz = false ∧ s.pins.refclk = true ∧ s.boot.phase ≠ .heldByWrst ∧
      (∀ k, s.boot.phase ≠ .drain k ∧ s.boot.phase ≠ .afterDrain k) ∧ bit s.intr.mcsyn 63 = false ∧
      (let t := { s with pins := { Pins.reset with frz := true, stallMesh := 1024 * 1024 } }
       t.pins.frz = true ∧ fldN t.chain.bcfg 0 16 ≠ 0 ∧ fldN t.chain.bcfg 0 16 * 1024 ≤ stallCount t 0) :=
  ⟨by decide, rfl, rfl, by decide, fun _ => ⟨by simp [inPhase], by simp [inPhase]⟩, by decide, rfl, by decide, by decide⟩

/-- The timer interrupt pending, at the level l, mask level 0, the supervisor's stack in the scratchpad. -/
def interrupted (l : W64) : State :=
  { ready with intr := { ready.intr with ipend := 1 <<< 32, vlvl := vset ready.intr.vlvl 4 l } }

theorem witness_InterruptsAndTime :
    let s := interrupted 1
    interruptible s = some 0 ∧ bestVector s 0 = some 32 ∧ levelOf s 32 ≠ 7 ∧
      okIn (pushCheck 0 ⟨32, 0, false, false, some (levelOf s 32), (s.getCtx 0).pc, (s.getCtx 0).sys.vbar + BitVec.ofNat 64 1024, true,
        ⟨0, Tag.int⟩⟩) (discard 0 s) (fun r u => match r with
          | .error _ => false
          | .ok ps => okIn (prepWords 0 ps) u fun ws z => ws.all (pathOk z) && okIn (commitWords none 0 ws
              (savedFrame (discard 0 s) ((discard 0 s).getCtx 0) (s.getCtx 0).pc (ecauseOf 0 32 false 0 0) ⟨0, Tag.int⟩ false)) z
              fun _ _ => true) = true ∧
      interruptible (interrupted 7) = some 0 ∧ bestVector (interrupted 7) 0 = some 32 ∧ levelOf (interrupted 7) 32 = 7 := by
  decide +kernel

/-- Context 0 runs and context 1 is ready; both have priority 0. -/
def two : State := { (base id).modCtx 1 fun k => { k with run := .ready } with time := { Time.reset with tick := 0x10000 } }

theorem witness_InterruptsAndTime_drover :
    droverActive two = true ∧ topRanked two = some 1 ∧ runningCtx two = some 0 ∧ preemptible (two.getCtx 0) = true ∧
      rowsDue two 0 = false ∧ rankOf two 1 = rankOf two 0 ∧ two.drover.dquant ≠ 0 ∧ OneRunning two ∧
      two.drover.dquant.toNat * 256 ≤ (two.time.tick - two.drover.ranSince).toNat ∧
      (let s := { two with drover := { two.drover with dpri := 4 } }
       topRanked s = some 1 ∧ rankOf s 0 < rankOf s 1) ∧
      (let s := two.modCtx 0 fun k => { k with run := .stopped }
       topRanked s = some 1 ∧ runningCtx s = none) := by unfold OneRunning; decide +kernel

/-- Vector 19 at level 1, and a request of context 0 that has waited for 1,048,576 ticks. -/
def late : State :=
  let s := ready.modCtx 0 fun k => { k with io := some ⟨0x80000, .read, 0, .a, 0, 4, 0⟩ }
  { s with
    intr := { s.intr with vlvl := vset s.intr.vlvl 2 0x01000000 }
    time := { s.time with tick := 1048576 } }

theorem witness_InterruptsAndTime_time :
    (let s := { two with time := { two.time with timerArmed := true, ten := true, tcmp := 0x10000 } }
     s.time.tcmp.toNat ≤ s.time.tick.toNat) ∧
    (let s := two.modCtx 0 fun k => { k with ev := { k.ev with wdl := 0x10000 } }
     (s.getCtx 0).ev.wdl.toNat ≤ s.time.tick.toNat) ∧
    (let k := late.getCtx 0
     let b := late.modCtx 0 fun k => { k with io := none }
     k.io = some ⟨0x80000, .read, 0, .a, 0, 4, 0⟩ ∧ 1048576 ≤ (late.time.tick - 0).toNat ∧ k.rest = none ∧ bit k.st 26 = false ∧
       (fld k.st 8 3 : BitVec 3).toNat < (levelOf late 19).toNat ∧ k.win.rsv = false ∧
       okIn (pushCheck 0 ⟨19, 0, false, bit k.st 12, some (levelOf late 19), k.pc + 4, k.sys.vbar + 608, false, ⟨0, Tag.int⟩⟩) b
         (fun r u => match r with
           | .error _ => false
           | .ok ps => okIn (prepWords 0 ps) u fun ws z => ws.all (pathOk z) && okIn (commitWords none 0 ws
               (savedFrame b (b.getCtx 0) (k.pc + 4) (ecauseOf 0 19 false 0 0) ⟨0, Tag.int⟩ false)) z fun _ _ => true) = true) := by
  decide +kernel

/-- A dump region of 256 KiB, an armed dump clock at a tick of its period. -/
def observing : State :=
  { inPhase .start with
    chain := { Chain.reset with enable0 := 0x100 }
    time := { Time.reset with tick := 1024 }
    trace := { Trace.reset with dmpctl := 0x101, dmsize := 1, trsize := 1, trq := [Vector.replicate 4 0] } }

/-- The phase is one in which the observation plane works. -/
theorem observing_live : observing.boot.phase ≠ .coldReset ∧ observing.boot.phase ≠ .heldByWrst ∧
    ∀ k, observing.boot.phase ≠ .drain k ∧ observing.boot.phase ≠ .afterDrain k :=
  ⟨by decide, by decide, fun _ => ⟨by simp [observing, inPhase], by simp [observing, inPhase]⟩⟩

theorem witness_BackgroundEvents :
    (let x := observing.trace
     bit x.dmpctl 0 = true ∧ fld x.dmpctl 8 32 ≠ (0 : BitVec 32) ∧
       (observing.time.tick + observing.time.tsoff).toNat % (1024 * fldN x.dmpctl 8 32) = 0 ∧ x.dumpAt ≠ some observing.time.tick ∧
       4096 * fldN x.dmsize 0 16 ≠ 0 ∧ x.dmFull = false ∧ x.dumpOut = none ∧ x.copyOut = none ∧ x.trq = [Vector.replicate 4 0] ∧
       x.trOut = false ∧ x.trFull = false ∧ fld x.trsize 0 16 ≠ (0 : BitVec 16) ∧ enabled observing 8 = true ∧ laneFull observing 2 = false ∧
       observing.mesh.reqs = []) ∧
      (let s := { observing with trace := { observing.trace with dumpOut := some ⟨0⟩, trOut := true } }
       s.trace.dumpOut = some ⟨0⟩ ∧ s.trace.trOut = true ∧ s.mesh.reqs = []) ∧
      (let x := { observing.trace with copyQ := [List.replicate 64 0], dmhead := 4095 }
       x.copyOut = none ∧ x.copyQ = [List.replicate 64 0] ∧ 4096 * fldN x.dmsize 0 16 ≤ x.dmhead.toNat + 1 ∧ bit x.dmsize 16 = false) ∧
      (let x := { observing.trace with copyQ := [List.replicate 64 0], copyOut := some 4094 }
       x.copyOut = some 4094 ∧ (4094 : W32).toNat + 2 = 4096 * fldN x.dmsize 0 16) ∧
      (let s := { observing with rel := { Rel.reset with fcWin := 1000000000, wsbuf := [Vector.replicate 8 0] } }
       fldN s.rel.fccfg 0 16 * 1000000 ≤ s.rel.fcWin.toNat ∧ s.rel.wsbuf = [Vector.replicate 8 0]) := by decide +kernel

/-- A TLD whose one row is checked and has still to be performed, and power that is going or coming. -/
theorem witness_BackgroundEvents_tile :
    okIn (rowCheck 0 [⟨pad, 16, false⟩]) tileAt (fun row s =>
      let j : TileJob := ⟨⟨0, 0x60000000, 0, false, sdInt, pad, 0, true, false⟩, 0, 0, [row]⟩
      okIn (workJob [] j.op.work.perform j.op.work.finish j) { s with tile := { s.tile with tileq := [j] } } fun k t =>
        k.rest.isEmpty && t.mesh.reqs.isEmpty) = true ∧
    (let x := { tileAt.tile with tpDrain := true, tpOn := false }
     x.tpDrain = true ∧ x.tileq = [] ∧ { x with tpDrain := false }.tpOn = false) ∧
    { tileAt.tile with tpPowered := false }.tpPowered = false := by decide +kernel

/-! ## The mesh, the Causeway and the Mover -/

/-- One flit on lane l. -/
def flitOut (l : BitVec 2) : State :=
  { base id with mesh := { Mesh.reset with egress := Mesh.reset.egress.set l [⟨Line.zero, false, 7, true⟩] } }

theorem witness_MeshSendAndCauseway :
    draining (flitOut 3) = false ∧ (flitOut 3).caches.ebuf = [] ∧ (flitOut 3).mesh.egress.get 3 = [⟨Line.zero, false, 7, true⟩] ∧
      (flitOut 3).mesh.offered = none ∧ (flitOut 3).mesh.egress.get 0 = [] ∧ (flitOut 3).mesh.egress.get 2 = [] ∧
      (flitOut 3).mesh.mid.q2 = false ∧ (flitOut 3).mesh.mid.q3 = false ∧ (flitOut 3).pins.hfence = false ∧
      bit (flitOut 3).toll.ctl 0 = false ∧
      (let s := { flitOut 2 with toll := { Toll.reset with ctl := 1, rate := 1, tokM := 1023 } }
       bit s.toll.ctl 0 = true ∧ fld s.toll.rate 0 16 ≠ (0 : BitVec 16) ∧ ¬ 1024 ≤ s.toll.tokM ∧
         s.mesh.egress.get 2 = [⟨Line.zero, false, 7, true⟩] ∧ s.mesh.offered = none) ∧
      (flitOut 3).boot.phase = .start ∧ State.reset.boot.phase = .coldReset ∧ State.reset.mesh.egress.get 0 = [] ∧
      (∀ l, (base id).mesh.egress.get l = []) := by decide +kernel

/-- Channel 0 sends one FP32 element of scratchpad word 0; its header is gone when `sent` is 1. -/
def sending (sent : Nat) : State :=
  setCw 0 { CwCh.reset with state := 1, checked := true, credit := 1, sent := sent } (padWords [int 5] (base id))

theorem witness_MeshSendAndCauseway_beats :
    (∀ ch, cwAwaits (sending 1) ch = false) ∧ (∀ ch, cwAwaits (sending 0) ch = false) ∧ (sending 0).cw.last + 1 + BitVec.ofNat 4 0 = 0 ∧
      (cwCh (sending 0) 0).state = 1 ∧ (cwCh (sending 0) 0).checked = true ∧ (cwCh (sending 0) 0).credit ≠ 0 ∧
      (sending 1).pins.hfence = false ∧ (cwCh (sending 0) 0).sent = 0 ∧ (cwCh (sending 1) 0).sent = 1 ∧ (sending 1).cw.fifo = [] ∧
      (sending 1).cw.offered = false ∧ (cwCh (sending 1) 0).zeros = false ∧ (cwCh (sending 1) 0).lost = false ∧
      (cwCh (sending 1) 0).sk = false ∧ (sending 1).rel.latent = [] ∧ bit (sending 1).toll.ctl 0 = false ∧
      SMap.find? (sending 1).spad 0 = some (int 5) := by decide +kernel

/-- A beat that waits in the FIFO, under the fence or without a token, or that is offered; no channel is active. -/
theorem witness_MeshSendAndCauseway_fifo :
    let s := { base id with cw := { (base id).cw with fifo := [Beat.zero] } }
    (∀ ch, cwAwaits s ch = false) ∧ (∀ ch, (cwCh s ch).state ≠ 1) ∧ s.cw.fifo ≠ [] ∧ s.cw.offered = false ∧
      (let t := { s with pins := { s.pins with hfence := true } }
       t.pins.hfence = true) ∧
      (let t := { s with toll := { Toll.reset with ctl := 1, rate := 0x10000, tokC := 1023 } }
       bit t.toll.ctl 0 = true ∧ fld t.toll.rate 16 16 ≠ (0 : BitVec 16) ∧ t.toll.tokC < 1024 ∧ t.pins.hfence = false) ∧
      (let t := { s with cw := { s.cw with offered := true } }
       t.cw.offered = true) := by decide +kernel

/-- Channel 7 copies scratchpad word 0 to word 1. -/
def moving : State :=
  setMover 7 { mv with state := 1, cap := some (ctxRegime (base id) 0) } (padWords [int 5] (base id))

theorem witness_MoverBlocks :
    let m := moverCh moving 7
    m.state = 1 ∧ moving.boot.phase = .start ∧ moving.boot.lame = false ∧ ctxPerformed moving m.ctx = true ∧
      moving.rel.latent = [] ∧ m.cap = some (ctxRegime (base id) 0) ∧ m.sk = 0 ∧ m.dk = 0 ∧ m.rowBytes % 8 = 0 ∧ 64 * m.blk.toNat < m.rowBytes ∧
      okIn (mvBlock (mvUser 7 m (ctxRegime (base id) 0)) m) moving (fun r u => decide (r = none ∧ u.mover = moving.mover)) = true ∧
      SMap.find? moving.spad 0 = some (int 5) := by decide +kernel

/-- A data-space source outside the address space stops the channel. -/
theorem witness_MoverBlocks_stop :
    let m := { mv with state := 1, ctl := 1, src := 0xFFFFFFFFFFFFF000, srcD := true, cap := some (ctxRegime (base id) 0) }
    let s := setMover 7 m (base id)
    m.state = 1 ∧ s.boot.phase = .start ∧ ctxPerformed s m.ctx = true ∧ m.cap = some (ctxRegime (base id) 0) ∧
      okIn (mvBlock (mvUser 7 m (ctxRegime (base id) 0)) m) s (fun r _ => r.isSome) = true := by
  decide +kernel

/-- A request of this kind for the line at 0x1000, that context 0 awaits. -/
def asked (op : ReqOp) : State :=
  let s := base id
  { s with
    caches := { s.caches with cctl := 0x3F }
    mesh := { Mesh.reset with reqs := [⟨9, op, 0x1000, .ctx 0, false, true, false, false, none⟩] } }

theorem witness_MeshReceive :
    (asked .fillS).mesh.reqs.find? (fun r => r.txid == 9) = some ⟨9, .fillS, 0x1000, .ctx 0, false, true, false, false, none⟩ ∧
      cacheOn (asked .fillS) .l1d = true ∧ draining (asked .fillS) = false ∧ cacheFind (asked .fillS) .l1d 64 = none ∧
      (asked .fillS).boot.lame = false ∧ (asked .fillS).mesh.snoops = [] ∧ (asked .fillS).caches.ebuf = [] ∧
      wayLocked (asked .fillS) .l1d 7 = false ∧ SMap.find? (asked .fillS).caches.l1d (64 % 64 * 8 + 7) = none ∧
      (asked .lineOut).mesh.fills = [] ∧ cacheUninit (asked .poke) .l1d = false ∧
      (let s := { asked .promote with caches := { (asked .promote).caches with l1d := [(0, ⟨64, .shared, 0, Line.zero⟩)] } }
       cacheFind s .l1d 64 = some (0, ⟨64, .shared, 0, Line.zero⟩) ∧ cacheFind s .l2 64 = none ∧ SMap.wf s.caches.l1d = true ∧
         s.rel.latent = [] ∧ s.caches.ebuf = [] ∧ s.mesh.fills = [] ∧
         (∀ r ∈ s.mesh.reqs, (r.op = .fillS ∨ r.op = .fillO ∨ r.op = .lineOut) → r.addr.toNat / 64 ≠ 64)) ∧
      packetBad 15 0 = true ∧ packetBad 7 15 = false := by decide +kernel

/-- A store that is acknowledged, with the note of what it counts. -/
theorem witness_MeshReceive_store :
    let r : Req := ⟨9, .poke, 0x1000, .ctx 0, false, false, false, false, some ⟨0, 0x1000, true, false⟩⟩
    let s := { base id with mesh := { Mesh.reset with reqs := [r] } }
    s.mesh.reqs.find? (fun r => r.txid == 9) = some r := by decide +kernel

/-! ## Requests, posts and the chain -/

theorem witness_RequestsAndPosts :
    let s := base id
    servesIo s = true ∧ (fun q : IoReq => q.addr.toNat % 524288) ⟨0x470, true, false, 1, 0, 3⟩ = 0x400 + 16 * (7 : BitVec 3).toNat ∧
      (let t := s.modCtx 2 fun k => { k with io := some ⟨0x80000, .read, 5, .a, 0, 4, 0⟩ }
       t.boot.phase = .start ∧ ioWaiter t 5 = some (2, ⟨0x80000, .read, 5, .a, 0, 4, 0⟩) ∧ (t.getCtx 2).rest = none ∧
        okIn (takeSync 2 (plainExc 10 0)) (t.modCtx 2 fun k => { k with io := none, rest := none }) (fun _ _ => true) = true) ∧
      (let t := { s with coop := { Coop.reset with pwin := 0x8000_0001_BF00 } }
       bit t.coop.pwin 16 = true ∧ bit t.coop.pwin (32 + 15) = true ∧ fldN t.coop.pwin 0 8 ≤ 0xBF ∧ 0xBF ≤ fldN t.coop.pwin 8 8 ∧
        mapSealed t (BitVec.ofNat 52 (spadBase + 4096 * 0xBF)) = false) ∧
      bit s.coop.pwin 16 = false ∧ State.reset.boot.phase = .coldReset ∧ servesIo (inPhase (.drain .warm)) = false := by
  decide +kernel

/-- A frame of this command for core 0, with its CRC. -/
def frame (cmd : BitVec 4) (reg : BitVec 7) (data : W32) : ChainFrame := ⟨0, reg, data, crcOf (frameBody cmd 0 reg data), false, []⟩

theorem witness_ChainCommands :
    let s := { inPhase .held with chain := { Chain.reset with cvalid := true } }
    s.boot.phase ≠ .coldReset ∧ s.chain.cvalid = true ∧ s.chain.resp.length < 4 ∧ s.boot.phase ≠ .heldByWrst ∧
      (frame 1 0 0).ahead = [] ∧ chainReset s = false ∧ chainReset (inPhase (.drain .core)) = true ∧ crcGood .enum (frame 1 0 0) = true ∧ crcGood .identq (frame 2 0 0) = true ∧ crcGood .read (frame 3 0x28 0) = true ∧
      crcGood .read (frame 3 0x2D 0) = true ∧ crcGood .write (frame 4 0x13 0) = true ∧ crcGood .write (frame 4 0x2B 3) = true ∧
      crcGood .corerst (frame 6 0 0) = true ∧ crcGood .bwrite (frame 7 0x35 1) = true ∧
      crcGood .write { frame 4 0x13 0 with crc := 0xFF } = false ∧ bit (0 : BitVec 7) 6 = false := by decide +kernel

/-! ## The queue and the invariants -/

theorem witness_StepRunsFrontCommand : ∃ t,
    step { State.reset with pending := [.coldResetRelease] } = .next t ∧ t.boot.phase = .init ∧ t.pending = [] := ⟨_, rfl, rfl, rfl⟩

/-- A tick in cold reset, and one that counts. -/
theorem witness_StepRunsFrontCommand_tick :
    State.reset.pending = [] ∧ inColdReset State.reset = true ∧ (base id).pending = [] ∧ inColdReset (base id) = false ∧
      (base id).pins.refclk = true := by decide

/-- Frames that ask nothing go first: an idle one, an answer of another core, and one of a reserved command. -/
theorem test_frames_ahead : crcOf (0 : W64) = fld (0 : W64) 1 8 ∧
    (let s := { inPhase .held with chain := { Chain.reset with cvalid := true, resp := [⟨0, 5, 7⟩], sinceEnum := 64 } }
     (match exec (.respSend) s with | .next t => t.chain.resp == [] && t.chain.mcOut == Machine.frameOf 5 0 5 7 true | _ => false) = true) := by
  decide +kernel

/-- The opcode map: LD of slot 0, POST, and a reserved word. -/
theorem test_decode : decodeInsn 0 = .ld 0 0 none ∧ decodeTableWord 32 0 = some (.ld 0 0 none) ∧
    decodeInsn 0x26000000 = .reservedOpcode 0x26000000 := by decide +kernel

theorem witness_StepKeepsInvariants : (∃ t, step State.reset = .next t) ∧
    (∃ s c, issuing s = some c ∧ bit (s.getCtx c).st 11 = false) ∧
    ∃ s : State, s.boot.locked = true ∧ s.pending.head? ≠ some .coldReset :=
  ⟨⟨_, rfl⟩, ⟨base fun k => { k with st := 0 }, 0, by decide, by decide⟩,
    { base id with boot := { (base id).boot with locked := true } }, rfl, by decide⟩

theorem witness_StepKeepsScratchpad : SpadInv State.reset ∧ (∃ t, step State.reset = .next t) := ⟨⟨rfl, by simp [State.reset]⟩, _, rfl⟩

end Sys2Proof.Tests
end

namespace Sys2Proof

/-! ## Reserved words and the opcode map (R7, R128, R130) -/

/-- What `decodeInsn` answers: a reserved word as itself, any other as a command that its row admits. -/
inductive DecodedAs (w : W32) : Instr → Prop
  | reserved (hr : wordReserved w = true) : DecodedAs w (.reservedOpcode w)
  | assigned {i : Instr} (hr : ¬ wordReserved w = true) (hw : wellFormed i = true) (hne : ∀ v, i ≠ .reservedOpcode v) :
      DecodedAs w i

theorem DecodedAs.wellFormed {w : W32} {i : Instr} (h : DecodedAs w i) : wellFormed i = true := by
  cases h with
  | reserved hr => exact hr
  | assigned _ hw _ => exact hw

theorem DecodedAs.eq_reservedOpcode_iff {w : W32} {i : Instr} (h : DecodedAs w i) :
    i = .reservedOpcode w ↔ wordReserved w = true := by
  cases h with
  | reserved hr => exact iff_of_true rfl hr
  | assigned hr _ hne => exact iff_of_false (hne w) hr

theorem opcodeReserved_iff (op : BitVec 7) : opcodeReserved op = true ↔
    op.toNat = 0x13 ∨ op.toNat = 0x4F ∨ 0x54 ≤ op.toNat ∧ op.toNat ≤ 0x5F ∨ 0x6E ≤ op.toNat ∧ op.toNat ≤ 0x7B := by
  simp [opcodeReserved, ← BitVec.toNat_inj, or_assoc]

/-- Which words are reserved, in the numbers by which the opcode map branches. -/
theorem wordReserved_iff (w : W32) : wordReserved w = true ↔
    ((insnBits w 25 7).toNat = 0x13 ∨ (insnBits w 25 7).toNat = 0x4F ∨
      0x54 ≤ (insnBits w 25 7).toNat ∧ (insnBits w 25 7).toNat ≤ 0x5F ∨
      0x6E ≤ (insnBits w 25 7).toNat ∧ (insnBits w 25 7).toNat ≤ 0x7B) ∨
    ((insnBits w 25 7).toNat = 0x42 ∧ 4 ≤ (insnBits w 21 4).toNat ∨
      (insnBits w 25 7).toNat = 0x44 ∧ 12 ≤ (insnBits w 21 4).toNat ∨
      (insnBits w 25 7).toNat = 0x4C ∧ 5 ≤ (insnBits w 0 3).toNat ∨
      (insnBits w 25 7).toNat = 0x50 ∧ 17 ≤ (insnBits w 20 5).toNat ∨
      (insnBits w 25 7).toNat = 0x51 ∧ 7 ≤ (insnBits w 21 4).toNat ∨
      (insnBits w 25 7).toNat = 0x52 ∧ 1 ≤ (insnBits w 21 4).toNat ∨
      (insnBits w 25 7).toNat = 0x53 ∧ 4 ≤ (insnBits w 21 4).toNat ∨
      (insnBits w 25 7).toNat = 0x6D ∧ 3 ≤ (insnBits w 21 2).toNat) := by
  rw [wordReserved, Bool.or_eq_true, opcodeReserved_iff]
  refine or_congr Iff.rfl ?_
  simp only [functionReserved, insnBits]
  split
  case h_9 => simp only [imp_false, Bool.false_eq_true, false_iff] at *; omega
  all_goals simp only [decide_eq_true_eq, beq_iff_eq]; omega

/-! ## Each part of the map

In a table of opcodes or of a group's functions, the last row takes what is left: `hr` says which of it is reserved. -/

theorem decodeMemory_decodedAs {w : W32} (h : (insnBits w 25 7).toNat < 0x14) : DecodedAs w (decodeMemory w) := by
  have hr : wordReserved w = true ↔ (insnBits w 25 7).toNat = 0x13 := by grind [wordReserved_iff]
  unfold decodeMemory
  split
  case h_20 => exact .reserved (hr.mpr (by grind))
  all_goals exact .assigned (hr.not.mpr (by omega)) rfl nofun

theorem decodeInteger_decodedAs {w : W32} (hlo : 0x14 ≤ (insnBits w 25 7).toNat) (hhi : (insnBits w 25 7).toNat < 0x28) :
    DecodedAs w (decodeInteger w) := by
  have hr : ¬ wordReserved w = true := by grind [wordReserved_iff]
  unfold decodeInteger
  split
  case h_21 => grind
  all_goals exact .assigned hr rfl nofun

theorem decodeFloat_decodedAs {w : W32} (hlo : 0x28 ≤ (insnBits w 25 7).toNat) (hhi : (insnBits w 25 7).toNat < 0x41) :
    DecodedAs w (decodeFloat w) := by
  have hr : ¬ wordReserved w = true := by grind [wordReserved_iff]
  unfold decodeFloat
  split
  case h_26 => grind
  all_goals exact .assigned hr rfl nofun

theorem decodeAlu1_decodedAs {w : W32} (h : (insnBits w 25 7).toNat = 0x42) : DecodedAs w (decodeAlu1 w) := by
  have hr : wordReserved w = true ↔ 4 ≤ (insnBits w 21 4).toNat := by grind [wordReserved_iff]
  unfold decodeAlu1
  split
  case h_5 => exact .reserved (hr.mpr (by grind))
  all_goals exact .assigned (hr.not.mpr (by omega)) rfl nofun

theorem decodeFop1_decodedAs {w : W32} (h : (insnBits w 25 7).toNat = 0x44) : DecodedAs w (decodeFop1 w) := by
  have hr : wordReserved w = true ↔ 12 ≤ (insnBits w 21 4).toNat := by grind [wordReserved_iff]
  unfold decodeFop1
  split
  case h_13 => exact .reserved (hr.mpr (by grind))
  all_goals exact .assigned (hr.not.mpr (by omega)) rfl nofun

theorem decodeCache_decodedAs {w : W32} (h : (insnBits w 25 7).toNat = 0x4C) : DecodedAs w (decodeCache w) := by
  have hr : wordReserved w = true ↔ 5 ≤ (insnBits w 0 3).toNat := by grind [wordReserved_iff]
  unfold decodeCache
  split
  case h_6 => exact .reserved (hr.mpr (by grind))
  all_goals exact .assigned (hr.not.mpr (by omega)) rfl nofun

theorem decodeCap_decodedAs {w : W32} (h : (insnBits w 25 7).toNat = 0x50) : DecodedAs w (decodeCap w) := by
  have hr : wordReserved w = true ↔ 17 ≤ (insnBits w 20 5).toNat := by grind [wordReserved_iff]
  unfold decodeCap
  split
  case h_18 => exact .reserved (hr.mpr (by grind))
  all_goals exact .assigned (hr.not.mpr (by omega)) rfl nofun

theorem decodeContext_decodedAs {w : W32} (h : (insnBits w 25 7).toNat = 0x51) : DecodedAs w (decodeContext w) := by
  have hr : wordReserved w = true ↔ 7 ≤ (insnBits w 21 4).toNat := by grind [wordReserved_iff]
  unfold decodeContext
  split
  case h_8 => exact .reserved (hr.mpr (by grind))
  all_goals exact .assigned (hr.not.mpr (by omega)) rfl nofun

theorem decodeMark_decodedAs {w : W32} (h : (insnBits w 25 7).toNat = 0x53) : DecodedAs w (decodeMark w) := by
  have hr : wordReserved w = true ↔ 4 ≤ (insnBits w 21 4).toNat := by grind [wordReserved_iff]
  unfold decodeMark
  split
  case h_5 => exact .reserved (hr.mpr (by grind))
  all_goals exact .assigned (hr.not.mpr (by omega)) rfl nofun

theorem decodeShape_decodedAs {w : W32} (h : (insnBits w 25 7).toNat = 0x6D) : DecodedAs w (decodeShape w) := by
  have hr : wordReserved w = true ↔ 3 ≤ (insnBits w 21 2).toNat := by grind [wordReserved_iff]
  unfold decodeShape
  split
  case h_4 => exact .reserved (hr.mpr (by grind))
  all_goals exact .assigned (hr.not.mpr (by omega)) rfl nofun

theorem decodeTlbinv_decodedAs {w : W32} (h : (insnBits w 25 7).toNat = 0x4B) : DecodedAs w (decodeTlbinv w) := by
  have hr : ¬ wordReserved w = true := by grind [wordReserved_iff]
  unfold decodeTlbinv
  split
  all_goals exact .assigned hr rfl nofun

theorem decodeClear_decodedAs {w : W32} (h : (insnBits w 25 7).toNat = 0x66) : DecodedAs w (decodeClear w) := by
  have hr : ¬ wordReserved w = true := by grind [wordReserved_iff]
  simp only [decodeClear]
  split
  all_goals exact .assigned hr rfl nofun

theorem decodeCoop_decodedAs {w : W32} (h : (insnBits w 25 7).toNat = 0x52) : DecodedAs w (decodeCoop w) := by
  have hr : wordReserved w = true ↔ insnBits w 21 4 ≠ 0 := by
    rw [Ne, ← BitVec.toNat_inj, show (0 : BitVec 4).toNat = 0 from rfl]
    grind [wordReserved_iff]
  unfold decodeCoop
  split
  case isTrue hf => exact .assigned (hr.not.mpr (not_not.mpr hf)) rfl nofun
  case isFalse hf => exact .reserved (hr.mpr hf)

theorem decodeFormatR_decodedAs {w : W32} (hlo : 0x41 ≤ (insnBits w 25 7).toNat) (hhi : (insnBits w 25 7).toNat < 0x60) :
    DecodedAs w (decodeFormatR w) := by
  have hr : wordReserved w = true → (insnBits w 25 7).toNat = 0x42 ∨ (insnBits w 25 7).toNat = 0x44 ∨
      (insnBits w 25 7).toNat = 0x4C ∨ 0x4F ≤ (insnBits w 25 7).toNat := by
    grind [wordReserved_iff]
  simp only [decodeFormatR]
  split
  case h_2 h => exact decodeAlu1_decodedAs h
  case h_4 h => exact decodeFop1_decodedAs h
  case h_8 h =>
    split
    all_goals exact .assigned (mt hr (by omega)) rfl nofun
  case h_11 h => exact decodeTlbinv_decodedAs h
  case h_12 h => exact decodeCache_decodedAs h
  case h_15 h => exact decodeCap_decodedAs h
  case h_16 h => exact decodeContext_decodedAs h
  case h_17 h => exact decodeCoop_decodedAs h
  case h_18 h => exact decodeMark_decodedAs h
  case h_19 => exact .reserved ((wordReserved_iff w).mpr (.inl (by grind)))
  all_goals exact .assigned (mt hr (by omega)) rfl nofun

theorem decodeTile_decodedAs {w : W32} (hlo : 0x60 ≤ (insnBits w 25 7).toNat) : DecodedAs w (decodeTile w) := by
  have hr : wordReserved w = true → 0x6D ≤ (insnBits w 25 7).toNat := by grind [wordReserved_iff]
  have hcp : wordReserved w = true → (insnBits w 25 7).toNat < 0x7C := by rw [wordReserved_iff]; omega
  simp only [decodeTile]
  split
  case h_7 h => exact decodeClear_decodedAs h
  case h_13 h =>
    split
    all_goals exact .assigned (mt hr (by omega)) rfl nofun
  case h_14 h => exact decodeShape_decodedAs h
  case h_15 =>
    split
    case isTrue h => exact .assigned (mt hcp (not_lt.mpr h)) rfl nofun
    case isFalse h => exact .reserved ((wordReserved_iff w).mpr (.inl (by grind)))
  all_goals exact .assigned (mt hr (by omega)) rfl nofun

/-- The opcode map answers every native word: a reserved one as RESERVED_OPCODE, any other as a command of its row. -/
theorem decodeInsn_decodedAs (w : W32) : DecodedAs w (decodeInsn w) := by
  simp only [decodeInsn]
  split_ifs with hm hi hf hr
  · exact decodeMemory_decodedAs hm
  · exact decodeInteger_decodedAs (not_lt.mp hm) hi
  · exact decodeFloat_decodedAs (not_lt.mp hi) hf
  · exact decodeFormatR_decodedAs (not_lt.mp hf) hr
  · exact decodeTile_decodedAs (not_lt.mp hr)

end Sys2Proof

namespace Sys2Proof.Machine

open Sys2Proof

/-! ## TRAP, STILE and reserved words -/

/-- TRAP N raises the vector that R151 gives it, and nothing else happens. -/
theorem trapInstr_setWidth (n : BitVec 8) (c : CtxId) (t : State) : trapInstr (n.setWidth 25) c t =
    .error (.exc ⟨if n.toNat < 16 then BitVec.ofNat 6 (48 + n.toNat) else 47, n, none, 4, false, false⟩) t := by
  have hn : fld (n.setWidth 25) 0 8 = n := by ext i hi; simp [hi, hi.trans (by decide : 8 < 25)]
  have hz : fld (n.setWidth 25) 8 17 = 0 := by ext i hi; simp
  unfold trapInstr
  rw [hz, run_bind_ok (run_needDef _ t), hn]
  rfl

theorem execTrap_setWidth {c : CtxId} {s t : State} (h : Begins c s t) (n : BitVec 8) :
    execTrap (n.setWidth 25) s = .next (stopped c s t
      ⟨if n.toNat < 16 then BitVec.ofNat 6 (48 + n.toNat) else 47, n, none, 4, false, false⟩) :=
  runInstr_stop h (trapInstr_setWidth n c t)

/-- The exception of STILE: undefined but in the Open world of the two-worlds configuration with a Sealed entry, then privileged
in user code, else the Sealed entry (R151, R387). -/
theorem stileInstr_zero (c : CtxId) (t : State) : stileInstr 0 c t = .error (.exc (
    if (t.getCtx c).world = true ∨ capsConf t = true ∨ bit t.intr.sentry 0 = false then plainExc 1 0
    else if (t.getCtx c).sup = true then ⟨0, 0, none, 4, true, false⟩ else plainExc 2 0)) t := by
  unfold stileInstr
  rw [run_bind_ok (run_get t)]
  by_cases hu : (t.getCtx c).world = true ∨ capsConf t = true ∨ bit t.intr.sentry 0 = false
  · have hd : (0 == (0 : BitVec 25) && !capsConf t && !(t.getCtx c).world && bit t.intr.sentry 0) = false := by
      rcases hu with h | h | h <;> rw [h] <;> simp
    simp only [hd]
    rw [run_bind_error (run_needDef false t), if_pos hu]
    rfl
  · have hd : (0 == (0 : BitVec 25) && !capsConf t && !(t.getCtx c).world && bit t.intr.sentry 0) = true := by
      simp only [not_or, Bool.not_eq_true, Bool.not_eq_false] at hu
      obtain ⟨hworld, hcaps, hentry⟩ := hu
      simp [hworld, hcaps, hentry]
    simp only [hd]
    rw [run_bind_ok (run_needDef true t), if_neg hu]
    cases hs : (t.getCtx c).sup with
    | false => exact run_bind_error (run_needPriv false t)
    | true => exact run_bind_ok (run_needPriv true t)

theorem execStile_zero {c : CtxId} {s t : State} (h : Begins c s t) : execStile 0 s = .next (stopped c s t (
    if (t.getCtx c).world = true ∨ capsConf t = true ∨ bit t.intr.sentry 0 = false then plainExc 1 0
    else if (t.getCtx c).sup = true then ⟨0, 0, none, 4, true, false⟩ else plainExc 2 0)) :=
  runInstr_stop h (stileInstr_zero c t)

theorem execReservedOpcode_of_wordReserved {c : CtxId} {s t : State} (h : Begins c s t) {w : W32}
    (hw : wordReserved w = true) : execReservedOpcode w s = .next (stopped c s t (plainExc 1 0)) := by
  rw [execReservedOpcode, if_pos hw]
  exact runInstr_stop h (run_undef t)

/-- Settles O22: the opcode map by its parts, and each system call by what its body raises. -/
theorem systemCalls : Obligations.SystemCalls :=
  ⟨fun w => ⟨(decodeInsn_decodedAs w).wellFormed, (decodeInsn_decodedAs w).eq_reservedOpcode_iff⟩,
    fun _ _ _ h => ⟨execTrap_setWidth h, execStile_zero h, fun _ hw => execReservedOpcode_of_wordReserved h hw⟩⟩

end Sys2Proof.Machine

namespace Sys2Proof.Machine
open Sys2Proof

/-- A context right after reset. -/
theorem getCtx_reset (c : CtxId) :
    State.reset.getCtx c = Ctx.reset c false 0 (if c = 0 then .running else .stopped) := by
  rcases ctxId_cases c with rfl | rfl | rfl | rfl <;> rfl

theorem resetSt_of_oneWorld (c : CtxId) : resetSt c false = 0x00000F00#32 ||| c.setWidth 32 <<< 24 := rfl

/-- No bank is in force after reset but the main one. -/
theorem resetSt_main (c : CtxId) (w : Bool) : bit (resetSt c w) 14 = false ∧ bit (resetSt c w) 26 = false := by
  rcases ctxId_cases c with rfl | rfl | rfl | rfl <;> cases w <;> decide

theorem vget_replicate {α : Type} (n : Nat) (x : α) (i : Nat) : vget (Vector.replicate n x) i x = x := by
  unfold vget
  by_cases h : i < n <;> simp [h]

/-- Settles O58. -/
theorem resetState : Obligations.ResetState := by
  refine ⟨⟨rfl, by simp [State.reset]⟩, rfl, rfl, rfl, rfl, rfl, ?_, rfl, rfl, rfl, rfl, rfl, rfl, rfl, rfl, rfl, ?_, rfl, rfl, rfl, rfl, ?_, ?_⟩
  · intro c
    obtain ⟨hfib, hesc⟩ := resetSt_main c false
    rw [getCtx_reset]
    refine ⟨?_, ?_, ?_, rfl, rfl⟩ <;>
      simp only [Ctx.getA, Ctx.getX, Ctx.getY, Ctx.inEsc, Ctx.fib, Ctx.reset, hfib, hesc, Bool.false_eq_true, if_false]
  · intro l
    rcases ctxId_cases l with rfl | rfl | rfl | rfl <;> rfl
  · intro ch
    exact congrArg MoverCh.state (vget_replicate 8 MoverCh.reset ch.toNat)
  · intro ch
    exact congrArg CwCh.state (vget_replicate 16 CwCh.reset ch.toNat)
end Sys2Proof.Machine

namespace Sys2Proof.Machine
open Sys2Proof

theorem localEa_low (d : BitVec 22) (a : CoreId) :
    fld (at' 0 (fld d 0 19) ||| at' 19 a : W64) 0 19 = fld d 0 19 := by
  ext i hi; simp [at', hi]; omega

theorem localEa_core (d : BitVec 22) (a : CoreId) :
    fld (fld (at' 0 (fld d 0 19) ||| at' 19 a : W64) 0 32) 19 12 = a := by
  ext i hi
  simp [at', hi, show 19 + i < 64 by omega]

theorem localEa_bit31 (d : BitVec 22) (a : CoreId) :
    bit (fld (at' 0 (fld d 0 19) ||| at' 19 a : W64) 0 32) 31 = false := by
  simp [at']

theorem localEa_high (d : BitVec 22) (a : CoreId) :
    fld (at' 0 (fld d 0 19) ||| at' 19 a : W64) 32 32 = 0 := by
  ext i hi
  have ha : a.getLsbD (32 + i - 19) = false := BitVec.getLsbD_of_ge _ _ (by omega)
  simp [at', ha]
  omega

theorem fldN_port {d : BitVec 22} (h : fld d 19 3 = 0) : fldN d 0 19 = d.toNat := by
  have := congrArg BitVec.toNat h
  simp at this ⊢
  omega

/-- Mode 6 names a local port, which the windows allow. -/
theorem needMode_io_port (c : CtxId) {d : BitVec 22} (h : fld d 19 3 = 0) (t : State) : needMode c .io 6 d t = .ok () t := by
  unfold needMode
  rw [run_bind_ok (run_needDef _ t)]
  simp only [h]
  rfl

/-- An OUT to a local port that its checks let through, and whose write leads to u, ends there. -/
theorem localOut_ends {c : CtxId} {s t u : State} {v : W64} {g : Tag} {d : BitVec 22} {p : W64 → Bool} (hb : Begins c s t)
    (ha : (t.getCtx c).getA = ⟨v, g⟩) (hs : (s.getCtx c).getA = ⟨v, g⟩) (hg : g ≠ Tag.poison)
    (hio : ∀ a : W32, isLocal t a = true → ioAllowed t (t.getCtx c) a = true) (hp : p v = true) (hd : fld d 19 3 = 0)
    (hw : localWrite c d.toNat ⟨v, g⟩ t = .ok () u) : localOut d p s = .next (ends c s u) := by
  have hl : isLocal t (fld (at' 0 (fld d 0 19) ||| at' 19 t.chain.caddr : W64) 0 32) = true := by
    simp only [isLocal, localEa_bit31, localEa_core]; simp
  have ht : (g != Tag.poison) = true := by simpa using hg
  have hio := hio _ hl
  unfold localOut
  rw [hb.1]
  simp only [hs, hp, if_true]
  refine runHold_ends hb ?_
  unfold outInstr ioAccess
  rw [run_bind_ok (needMode_io_port c hd t), run_bind_ok (run_getC c t)]
  simp only [ha, ht, Bool.not_true, Bool.false_eq_true, if_false]
  rw [run_bind_ok (rfl : needBase c .io 6 t = .ok () t), run_bind_ok (rfl : addrOf c 6 d t = .ok _ t),
    run_bind_ok (run_get t)]
  have he : effAddr t (t.getCtx c) 6 d = at' 0 (fld d 0 19) ||| at' 19 t.chain.caddr := rfl
  simp only [he, hl]
  have hn : needIo c (at' 0 (fld d 0 19) ||| at' 19 t.chain.caddr) (!true) 6 t = .ok () t := by
    unfold needIo
    rw [run_bind_ok (run_get t)]
    simp only [localEa_high, hio]
    rfl
  rw [run_bind_ok hn]
  simp only [if_true]
  have hf : fldN (at' 0 (fld d 0 19) ||| at' 19 t.chain.caddr : W64) 0 19 = d.toNat := by
    exact (congrArg BitVec.toNat (localEa_low d _)).trans (fldN_port hd)
  rw [hf, run_bind_ok ((run_bind_ok (run_getC c t)).trans (by rw [ha]; exact hw)),
    run_bind_ok (rfl : postIncrement c 6 d u = .ok () u), run_bind_ok (run_advance c u)]
  rfl

/-! ## The writes (R60, R319, R332, R338, R444) -/

theorem vset_vset {α : Type} {n : Nat} (v : Vector α n) (i : Nat) (x y : α) : vset (vset v i x) i y = vset v i y := by
  ext j hj
  simp only [vset, Vector.getElem_setIfInBounds]
  split <;> rfl

theorem vget_vset_same {α : Type} {n : Nat} (v : Vector α n) {i : Nat} (h : i < n) (x d : α) : vget (vset v i x) i d = x := by
  simp [vget, vset, h]

theorem vget_vset_ne {α : Type} {n : Nat} (v : Vector α n) {i j : Nat} (h : j ≠ i) (x d : α) :
    vget (vset v i x) j d = vget v j d := by
  simp [vget, vset, Ne.symm h]

theorem moverCh_setMover (ch : BitVec 3) (m : MoverCh) (s : State) : moverCh (setMover ch m s) ch = m :=
  vget_vset_same _ ch.isLt _ _

theorem setMover_setMover (ch : BitVec 3) (m m' : MoverCh) (s : State) :
    setMover ch m' (setMover ch m s) = setMover ch m' s := by
  simp only [setMover, vset_vset]

theorem cwCh_setCw (ch : BitVec 4) (k : CwCh) (s : State) : cwCh (setCw ch k s) ch = k :=
  vget_vset_same _ ch.isLt _ _

theorem setCw_setCw (ch : BitVec 4) (k k' : CwCh) (s : State) : setCw ch k' (setCw ch k s) = setCw ch k' s := by
  simp only [setCw, vset_vset]

theorem moverCheck_setMover (ch : BitVec 3) (x m : MoverCh) (t : State) : moverCheck (setMover ch x t) m = moverCheck t m := rfl

theorem setFld_cctl (w v : BitVec 6) : setFld w 0 3 (v.setWidth 3) = (w &&& 0x38) ||| (v &&& 7) := by
  ext i hi
  have : i = 0 ∨ i = 1 ∨ i = 2 ∨ i = 3 ∨ i = 4 ∨ i = 5 := by omega
  rcases this with rfl | rfl | rfl | rfl | rfl | rfl <;> simp [setFld]

theorem run_needSupPort {k : Ctx} (h : bit k.st 11 = true) (t : State) : needSupPort k t = .ok () t := by
  simp only [needSupPort, Ctx.sup, h, if_true]; rfl

/-- CCTL takes its enable bits once no store of a context is outstanding (R319). -/
theorem localWrite_cctl {c : CtxId} {t : State} (w : TWord) (hsup : bit (t.getCtx c).st 11 = true)
    (hs : ctxStoresInFlight t = false) : localWrite c 0x1000 w t = .ok () { t with caches := { t.caches with
      cctl := (t.caches.cctl &&& 0x38) ||| (w.val.setWidth 6 &&& 7) } } := by
  unfold localWrite
  rw [run_bind_ok (run_get t)]
  simp only [Nat.reduceLT, Nat.reduceLeDiff, Nat.reduceEqDiff, if_false, if_true, false_and, and_false]
  rw [run_bind_ok (run_needSupPort hsup t)]
  unfold cctlOp
  rw [run_bind_ok (run_get t)]
  simp only [hs, Bool.false_eq_true, if_false]
  rw [← setFld_cctl]
  have : fld w.val 0 3 = (w.val.setWidth 6).setWidth 3 := by ext i hi; simp
  rw [this]
  rfl

/-- A write of MBOUTk while OUT_FULL is 0 (R60). -/
theorem localWrite_mbout {c : CtxId} {t : State} (n : BitVec 2) (w : TWord) (hsup : bit (t.getCtx c).st 11 = true)
    (hseal : t.chain.sealedOnly = false) (hfull : t.chain.outFull = false) :
    localWrite c (0x14 + n.toNat) w t = .ok () { t with chain := { t.chain with
      mbout := vset t.chain.mbout n.toNat (w.val.setWidth 32), outFull := n == 3 } } := by
  have hn := n.isLt
  have hport : needChainPort t (t.getCtx c) t = .ok () t := by
    simp only [needChainPort, Ctx.sup, hsup, hseal]; rfl
  have hword : (chainWord t (0x14 + n.toNat)).isNone = false := by
    rcases ctxId_cases n with rfl | rfl | rfl | rfl <;> rfl
  have hval : fld w.val 0 32 = w.val.setWidth 32 := by ext i hi; simp
  unfold localWrite
  rw [run_bind_ok (run_get t)]
  simp only [show 0x14 + n.toNat < 0x60 by omega, if_true]
  rw [run_bind_ok hport]
  simp only [hword, Bool.false_eq_true, if_false, hval]
  unfold chainPortWrite mboutWrite
  simp only [show 0x14 ≤ 0x14 + n.toNat ∧ 0x14 + n.toNat < 0x18 by omega, if_true, hfull, Bool.false_eq_true, if_false,
    and_self, Nat.add_sub_cancel_left]
  rcases ctxId_cases n with rfl | rfl | rfl | rfl <;> rfl

/-- A write of MCTL of a Mover channel (R329). -/
theorem localWrite_mctl {c : CtxId} (t : State) (ch : BitVec 3) (w : TWord) :
    localWrite c (0x1104 + 16 * ch.toNat) w t = .ok () (mctlWrite ch c w.val t) := by
  have hch := ch.isLt
  have hno : (0x1104 + 16 * ch.toNat - 0x1100) / 16 = ch.toNat := by omega
  have hi : (0x1104 + 16 * ch.toNat) % 16 = 4 := by omega
  unfold localWrite
  rw [run_bind_ok (run_get t)]
  simp only [hno, hi, BitVec.ofNat_toNat, BitVec.setWidth_eq]
  rw [if_neg (by omega), if_neg (by omega), if_neg (by omega), if_neg (by omega), if_neg (by omega), if_neg (by omega),
    if_pos (by omega)]
  rfl

/-- A write of CCTL of a Causeway channel (R443). -/
theorem localWrite_causewayCtl {c : CtxId} (t : State) (ch : BitVec 4) (w : TWord) :
    localWrite c (0x1203 + 16 * ch.toNat) w t = .ok () (cwWrite ch 3 c w t) := by
  have hch := ch.isLt
  have hno : (0x1203 + 16 * ch.toNat - 0x1200) / 16 = ch.toNat := by omega
  have hi : (0x1203 + 16 * ch.toNat) % 16 = 3 := by omega
  unfold localWrite
  rw [run_bind_ok (run_get t)]
  simp only [hno, hi, BitVec.ofNat_toNat, BitVec.setWidth_eq]
  rw [if_neg (by omega), if_neg (by omega), if_neg (by omega), if_neg (by omega), if_neg (by omega), if_neg (by omega),
    if_neg (by omega), if_pos (by omega)]
  rfl

/-- GO of a Mover channel whose parameters are in order (R332). -/
theorem mctlWrite_go {ch : BitVec 3} {c : CtxId} {t : State} {v : W64} {m : MoverCh}
    (hgo : bit v 31 = true) (hcont : bit v 30 = false) (hidle : (moverCh t ch).state ≠ 1)
    (hm : m = { moverCh t ch with
      ctl := v.setWidth 7, ctx := c, cap := some (ctxRegime t c), mark := (t.getCtx c).sys.markr, rows := 0, blk := 0, state := 1, cause := 0 })
    (hok : moverCheck t m = none) : mctlWrite ch c v t = setMover ch m t := by
  have hi : ((moverCh t ch).state == 1) = false := by simpa using hidle
  have hv : fld v 0 7 = v.setWidth 7 := by ext i hi; simp
  unfold mctlWrite
  simp only [hgo, hcont, hi, Bool.and_false, Bool.false_and, Bool.or_self, Bool.false_eq_true, if_false, if_true, hv]
  unfold moverStart
  simp only [moverCh_setMover]
  have hr : ctxRegime (setMover ch { moverCh t ch with ctl := v.setWidth 7 } t) c = ctxRegime t c := rfl
  have hk : (setMover ch { moverCh t ch with ctl := v.setWidth 7 } t).getCtx c = t.getCtx c := rfl
  rw [hr, hk, ← hm]
  rw [moverCheck_setMover, hok]
  exact setMover_setMover ..

/-- CONT of a stopped Mover channel whose parameters are in order (R338). -/
theorem mctlWrite_cont {ch : BitVec 3} {c : CtxId} {t : State} {v : W64} {m : MoverCh}
    (hgo : bit v 31 = false) (hcont : bit v 30 = true) (hstop : (moverCh t ch).state = 3)
    (hm : m = { moverCh t ch with ctl := v.setWidth 7, state := 1, cause := 0 })
    (hok : moverCheck t m = none) : mctlWrite ch c v t = setMover ch m t := by
  have hv : fld v 0 7 = v.setWidth 7 := by ext i hi; simp
  unfold mctlWrite
  simp only [hgo, hcont, hstop, hv, Bool.false_and, Bool.true_and, Bool.or_false, Bool.false_eq_true, if_false, if_true, bne_self_eq_false,
    (by decide : ((3 : BitVec 2) == 1) = false)]
  unfold moverResume
  simp only [moverCh_setMover]
  rw [← hm]
  rw [moverCheck_setMover, hok]
  exact setMover_setMover ..

/-- GO of a Causeway channel whose parameters are in order (R444). -/
theorem cwWrite_go {ch : BitVec 4} {c : CtxId} {t : State} {w : TWord} {k : CwCh}
    (hgo : bit w.val 31 = true) (hidle : (cwCh t ch).state ≠ 1)
    (hk : k = { cwCh t ch with
      sk := bit w.val 0, ctx := c, cap := some (ctxRegime t c), mark := (t.getCtx c).sys.markr, state := 1, cause := 0, sent := 0
      lost := false, zeros := false, checked := false })
    (hok : cwParamsOk t ch k = true) : cwWrite ch 3 c w t = setCw ch k t := by
  have hi : ((cwCh t ch).state == 1) = false := by simpa using hidle
  unfold cwWrite
  simp only [hgo, hi, Bool.not_false, Bool.and_self, if_true, Bool.false_eq_true, if_false]
  unfold cwStart
  simp only [cwCh_setCw]
  have hr : ctxRegime (setCw ch { cwCh t ch with sk := bit w.val 0 } t) c = ctxRegime t c := rfl
  have hq : (setCw ch { cwCh t ch with sk := bit w.val 0 } t).getCtx c = t.getCtx c := rfl
  rw [hr, hq, ← hk]
  have hc : cwParamsOk (setCw ch { cwCh t ch with sk := bit w.val 0 } t) ch k = cwParamsOk t ch k := rfl
  rw [hc, hok, if_pos rfl]
  exact setCw_setCw ..

/-- Settles O35: each command is an OUT to its port, and each port's write is one of the rules above. -/
theorem localPortWrites : Obligations.LocalPortWrites := by
  intro c s t v g hb k ha hs hg hsup hio
  have run := fun (d : BitVec 22) (p : W64 → Bool) (u : State) (hp : p v = true) (hd : fld d 19 3 = 0)
    (hw : localWrite c d.toNat ⟨v, g⟩ t = .ok () u) => localOut_ends hb ha hs hg hio hp hd hw
  refine ⟨fun hbusy hreqs => ?_, fun hseal hfull n => ?_, fun hgo hcont ch hidle hok => ?_,
    fun hgo hcont ch hstop hok => ?_, fun hgo ch hidle hok => ?_⟩
  · refine run 0x1000 (fun _ => true) _ rfl (by decide) (localWrite_cctl ⟨v, g⟩ hsup ?_)
    unfold ctxStoresInFlight
    rw [hbusy, Bool.false_or, List.any_eq_false]
    intro r hr hx
    simp only [Bool.and_eq_true, Bool.or_eq_true, beq_iff_eq] at hx
    rw [hreqs r hr hx.1] at hx
    cases hx.2
  · have hp : (0x14#22 + n.setWidth 22).toNat = 0x14 + n.toNat := by
      rcases ctxId_cases n with rfl | rfl | rfl | rfl <;> rfl
    exact run _ (fun _ => true) _ rfl (by rcases ctxId_cases n with rfl | rfl | rfl | rfl <;> decide)
      (hp ▸ localWrite_mbout n ⟨v, g⟩ hsup hseal hfull)
  · have hp : (0x1104#22 + at' 4 ch).toNat = 0x1104 + 16 * ch.toNat := by clear * -; revert ch; decide
    exact run _ (fun v => bit v 31 && !bit v 30) _ (by rw [hgo, hcont]; rfl) (by clear * -; revert ch; decide)
      (hp ▸ (localWrite_mctl t ch ⟨v, g⟩).trans (congrArg _ (mctlWrite_go hgo hcont hidle rfl hok)))
  · have hp : (0x1104#22 + at' 4 ch).toNat = 0x1104 + 16 * ch.toNat := by clear * -; revert ch; decide
    exact run _ (fun v => bit v 30 && !bit v 31) _ (by rw [hgo, hcont]; rfl) (by clear * -; revert ch; decide)
      (hp ▸ (localWrite_mctl t ch ⟨v, g⟩).trans (congrArg _ (mctlWrite_cont hgo hcont hstop rfl hok)))
  · have hp : (0x1203#22 + at' 4 ch).toNat = 0x1203 + 16 * ch.toNat := by clear * -; revert ch; decide
    exact run _ (fun v => bit v 31) _ hgo (by clear * -; revert ch; decide)
      (hp ▸ (localWrite_causewayCtl t ch ⟨v, g⟩).trans (congrArg _ (cwWrite_go hgo hidle rfl hok)))

end Sys2Proof.Machine

namespace Sys2Proof.Machine
open Sys2Proof

/-! ## The coprocessor port (R36 to R39, R169 to R175) -/

/-- An instruction that does not retire yet leaves what its body did, and the pair of a SKIP as it may still be (R116). -/
theorem runHold_waits {c : CtxId} {s t v : State} {body : CtxId → M Bool} (h : Begins c s t) (hb : body c t = .ok false v) :
    ∃ p, runHold body s = .next (accountChange s (v.modCtx c fun k => { k with skipPair := p })) := by
  obtain ⟨hi, hr, u, hf, rfl⟩ := h
  unfold begun at hb
  unfold runHold
  rw [hi]
  simp only [runBody, hr, Bool.true_or, if_true]
  rw [run_bind_ok hf, run_bind_ok (run_getC c u), run_bind_ok (run_modC c _ u), run_bind_ok hb]
  by_cases hp : (u.getCtx c).skipPair = true
  · refine ⟨(v.getCtx c).run == .running, ?_⟩
    simp only [hp, Bool.not_false, Bool.and_self, if_true]
    rfl
  · refine ⟨(v.getCtx c).skipPair, ?_⟩
    simp only [hp]
    exact congrArg (fun t => Host.Outcome.next (accountChange s t)) (modCtx_id v c).symm

/-- A frame slot without errors reads as it stands. -/
theorem readSlot_of_noErrs {c : CtxId} {t : State} (h : (t.getCtx c).slotErrs = []) (i : BitVec 5) :
    readSlot c i t = .ok ((t.getCtx c).slot i) t := by
  have hm : meetSlot c ((t.getCtx c).slotPlace i.toNat) t = t := by simp [meetSlot, h]
  unfold readSlot
  rw [run_bind_ok (run_modify _ t), hm, run_bind_ok (run_getC c t)]
  rfl

theorem run_cpAccepts {w : TWord} (h : w.tag ≠ Tag.poison ∧ isReserved w.tag = false) (t : State) : cpAccepts w t = .ok () t := by
  have hp : (w.tag == Tag.poison) = false := by simpa using h.1
  simp only [cpAccepts, hp, h.2, Bool.or_self, Bool.false_eq_true, if_false]
  rfl

/-- CP_PRIV: the world beside the privilege (R36). -/
theorem cpPriv_eq (sup world : Bool) : (bAt 0 sup ||| bAt 1 world : BitVec 2) = BitVec.ofBool world ++ BitVec.ofBool sup := by
  cases sup <;> cases world <;> rfl

/-- Operands that may be sent are, under a free tag (R38, R170). -/
theorem cpInstr_accepted {t : State} {tag : BitVec 3} {a a' b b' : TWord} {g : BitVec 3 → M Bool} (ha : a = a')
    (hb : b = b') (hok : ∀ x ∈ [a, b], x.tag ≠ Tag.poison ∧ isReserved x.tag = false) (hrst : t.pins.cpRstN = true)
    (htag : cpFreeTag t = some tag) {r : EStateM.Result Stop State Bool} (hg : g tag t = r) :
    (do cpAccepts a'; cpAccepts b'; match (if t.pins.cpRstN then cpFreeTag t else none) with | none => wait | some t => g t : M Bool) t = r := by
  subst ha hb
  rw [run_bind_ok (run_cpAccepts (hok a (by simp)) t), run_bind_ok (run_cpAccepts (hok b (by simp)) t)]
  simp only [hrst, if_true, htag, hg]

/-- CP_INSN issues under a free tag and waits (R169 to R172). -/
theorem cpInstr_issues {c : CtxId} {t : State} {w : BitVec 27} {tag : BitVec 3} {a b f : TWord}
    (hdef : (t.pins.cpPresent && enabled t 1 &&
      (if fld w 21 2 = (3 : BitVec 2) then (t.getCtx c).hasSlot (fld w 14 5) else fld w 14 5 == (0 : BitVec 5))) = true)
    (hrst : t.pins.cpRstN = true) (hf : (t.getCtx c).slotErrs = []) (hfw : f = if fld w 21 2 = (3 : BitVec 2) then
      (t.getCtx c).slot (fld w 14 5) else TWord.zero) (ha : a = cpOperand (t.getCtx c) (fld w 23 2) (t.getCtx c).getY)
    (hb : b = cpOperand (t.getCtx c) (fld w 21 2) f) (hok : ∀ x ∈ [a, b], x.tag ≠ Tag.poison ∧ isReserved x.tag = false)
    (htag : cpFreeTag t = some tag) :
    cpInstr w c t = .ok false ((cpIssue c (bit w 13) ⟨0xF8000000 ||| w.setWidth 32, a, b, tag, c,
      bAt 0 (t.getCtx c).sup ||| bAt 1 (t.getCtx c).world⟩ t).modCtx c fun k => { k with cp := some ⟨tag, cpDest (fld w 19 2), bit w 13⟩ }) := by
  unfold cpInstr
  rw [run_bind_ok (run_get t)]
  simp only
  rw [run_bind_ok ((run_needDef _ t).trans (if_pos hdef))]
  by_cases h3 : fld w 21 2 = (3 : BitVec 2)
  · rw [if_pos h3] at hfw ⊢
    rw [run_bind_ok (readSlot_of_noErrs hf _), ← hfw]
    exact cpInstr_accepted ha hb hok hrst htag (by rw [← ha, ← hb]; rfl)
  · rw [if_neg h3] at hfw ⊢
    rw [run_bind_ok (run_pure TWord.zero t), ← hfw]
    exact cpInstr_accepted ha hb hok hrst htag (by rw [← ha, ← hb]; rfl)

/-- The state after an issue: it stands behind those that wait, the first of which is offered (R36, R38). -/
theorem cpIssue_eq (c : CtxId) (ord : Bool) (i : CpIssue) (t : State) : cpIssue c ord i t = { t with cp :=
    { out := t.cp.out ++ [(⟨i.itag, c, false, ord, t.time.tick⟩ : CpOut)]
      issueQ := t.cp.issueQ ++ [i]
      lastIssue := match t.cp.issueQ with | [] => i | j :: _ => j
      stallFrom := if t.cp.out.isEmpty then t.time.tick else t.cp.stallFrom } } := by
  unfold cpIssue cpOffer
  cases h : t.cp.issueQ <;> rfl

/-- What the tag of a result may be (R170). -/
theorem cpResultWord_eq (w : TWord) : cpResultWord w =
    if w.tag ∈ [Tag.raw, Tag.int, Tag.flt, Tag.dptr, Tag.cptr, Tag.ioptr, Tag.shape, Tag.poison] then w else ⟨w.val, Tag.poison⟩ := by
  obtain ⟨v, tag⟩ := w
  have h : (isPlain tag || tag == Tag.flt || isPtr tag || tag == Tag.shape || tag == Tag.poison) =
      decide (tag ∈ [Tag.raw, Tag.int, Tag.flt, Tag.dptr, Tag.cptr, Tag.ioptr, Tag.shape, Tag.poison]) := by
    revert tag; decide
  simp only [cpResultWord, h, decide_eq_true_eq]

section
variable {s : State} {tag : BitVec 3} {o : CpOut} {w : CpWait}

/-- A result for the context that waits for it is that context's (R173). -/
theorem execCpResult_awaited (hrst : s.pins.cpRstN = true) (ho : s.cp.out.find? (fun o => o.tag == tag) = some o)
    (hw : (s.getCtx o.ctx).cp = some w) (ht : w.tag = tag) (hsq : o.squashed = false) (hrun : (s.getCtx o.ctx).run = .running)
    (res : TWord) (bad : Bool) (code : BitVec 8) :
    execCpResult tag res bad code s = .next (cpTake o.ctx w res bad code s) := by
  have hc : (w.tag == tag && !o.squashed && (s.getCtx o.ctx).run == .running) = true := by simp [ht, hsq, hrun]
  simp only [execCpResult, hrst, Bool.not_true, Bool.false_eq_true, if_false, ho, hw, hc, if_true]

/-- A result without error is written, and the instruction retires (R170, R173). -/
theorem cpTake_good (c : CtxId) (w : CpWait) (res : TWord) (code : BitVec 8) (s : State) :
    cpTake c w res false code s = countCtx 0 11 1 c none (retire c s
      (((cpAnswered w.tag s).modCtx c fun k => { k with cp := none }).modCtx c fun k =>
        let q := k.setDest w.dest (cpResultWord res)
        { q with pc := q.pc + 4, skipPair := false })) := rfl

/-- A result with an error raises vector 18, when no interrupt goes first (R174, R370). -/
theorem cpTake_bad {c : CtxId} {u : State} {code : BitVec 8} (res : TWord) (hn : NoInterruptFirst c s)
    (hu : takeSync c (plainExc 18 code) ((cpAnswered w.tag s).modCtx c fun k => { k with cp := none }) = .ok () u) :
    cpTake c w res true code s = dropFills c (accountChange s u) := by
  have hb : (atBoundary (s.getCtx c) && (bestVector s c).isSome) = false := by
    cases h : atBoundary (s.getCtx c)
    · rfl
    · rw [hn h]; rfl
  unfold plainExc at hu
  simp only [cpTake, Bool.true_and, hb, Bool.false_eq_true, if_false, if_true, hu]

/-- An interrupt that is takeable before the instruction goes first: the instruction is discarded (R370). -/
theorem cpTake_interrupted {c : CtxId} (res : TWord) (code : BitVec 8) (hn : ¬ NoInterruptFirst c s) :
    cpTake c w res true code s =
      dropFills c (accountChange s ((cpAnswered w.tag s).modCtx c fun k => { k with cp := none })) := by
  obtain ⟨hat, hv⟩ := Classical.not_imp.1 hn
  have hb : (atBoundary (s.getCtx c) && (bestVector s c).isSome) = true := by
    rw [hat, Bool.true_and]
    exact Option.isSome_iff_ne_none.2 hv
  simp only [cpTake, Bool.true_and, hb, if_true]

/-- A result that no instruction awaits is a machine check (R175). -/
theorem execCpResult_stray (hrst : s.pins.cpRstN = true) (ho : ∀ o ∈ s.cp.out, o.tag ≠ tag) (res : TWord) (bad : Bool)
    (code : BitVec 8) : execCpResult tag res bad code s = .next (machineCheck 3 0 0 s) := by
  have hf : s.cp.out.find? (fun o => o.tag == tag) = none := by
    rw [List.find?_eq_none]
    intro o h
    simpa using ho o h
  simp only [execCpResult, hrst, Bool.not_true, Bool.false_eq_true, if_false, hf]

end

theorem inReset_eq_false {s : State} (hd : ∀ k, s.boot.phase ≠ .drain k ∧ s.boot.phase ≠ .afterDrain k)
    (hc : s.boot.phase ≠ .coldReset) (hw : s.boot.phase ≠ .heldByWrst) : inReset s = false := by
  unfold inReset
  cases h : s.boot.phase with
  | coldReset => exact absurd h hc
  | heldByWrst => exact absurd h hw
  | drain k => exact absurd h (hd k).1
  | afterDrain k => exact absurd h (hd k).2
  | _ => rfl

/-- Settles O47: the issue by its parts, and each result by what it answers. -/
theorem coprocessor : Obligations.Coprocessor := by
  refine ⟨?_, fun s tag res code hr => ⟨?_, ?_⟩, fun s tag res bad code hr => ?_, fun s hd hc hw hp => ?_⟩
  · intro c s t w tag hbegin k third operand a b hs hp he hr hd hok ht
    have hdef : (t.pins.cpPresent && enabled t 1 &&
        (if fld w 21 2 = (3 : BitVec 2) then k.hasSlot (fld w 14 5) else fld w 14 5 == (0 : BitVec 5))) = true := by
      rw [hp, he]
      split at hd
      · rename_i h3
        simp only [show fld w 21 2 = (3 : BitVec 2) from h3, if_true, hd, Bool.and_self]
      · rename_i h3
        simp only [show ¬ fld w 21 2 = (3 : BitVec 2) from h3, if_false, hd, Bool.and_self, beq_self_eq_true]
    have hb2 : b = cpOperand k third (if third = 3 then k.slot (fld w 14 5) else TWord.zero) := by
      rcases ctxId_cases third with h | h | h | h <;> simp [b, operand, cpOperand, h]
    obtain ⟨p, h⟩ := runHold_waits hbegin (cpInstr_issues hdef hr hs rfl rfl hb2 hok ht)
    refine ⟨p, h.trans ?_⟩
    rw [cpIssue_eq, modCtx_modCtx, cpPriv_eq]
    rfl
  · intro o w ho hw ht hsq hrun
    subst ht
    have run := fun bad => execCpResult_awaited hr ho hw rfl hsq hrun res bad code
    refine ⟨(run false).trans ?_, fun hn u hu => (run true).trans (congrArg _ (cpTake_bad res hn hu)),
      fun hn => (run true).trans (congrArg _ (cpTake_interrupted res code hn))⟩
    rw [cpTake_good, cpResultWord_eq]
  · exact fun (ho : ∀ o ∈ s.cp.out, o.tag ≠ tag) bad => execCpResult_stray hr ho res bad code
  · exact if_pos (by rw [hr]; rfl)
  · show execCpResetRelease s = _
    rw [execCpResetRelease, inReset_eq_false hd hc hw]
    simp only [hp, Bool.false_eq_true, if_false, if_true]

end Sys2Proof.Machine

namespace Sys2Proof.Machine
open Sys2Proof

/-! ## A key read that wakes a context

The clause of O48 about a word that key generation accepts says `t.ctx = s.ctx`. The next entropy read is a packet, before which the steps
of an idle egress are accounted while the counters run (R461); a counter that overflows then raises IPEND bit 36, which wakes a context that
waits (R404, R456). -/

/-- A context that waits for nothing stays as it is. -/
theorem OnlyPerf.ready {s t : State} (h : OnlyPerf s t) {c : CtxId} (hr : (s.getCtx c).run = .ready) : (t.getCtx c).run = .ready := by
  rw [(h.2 c).eq_of (by rw [hr]; decide), hr]

/-- PMC p counts a step in which the row engine is idle, when it selects that state without a filter (R454, R461). -/
theorem countEngine_idleRow (k : Steps) {v s t : State} (i : Nat) {p : Nat} (hsel : vget t.perf.pmsel p 0 = 0x100F421)
    (hq : v.tile.tileq = []) (hp : v.tile.part = none) : countEngine k v s i p t = bumpPmc t p 1 := by
  have he : ∀ num mi, engineState k v s i num 2 0 mi = some (1, none, .none) := fun num mi => by
    simp [engineState, tileEngineState, hq, hp, engineIdle]
  have hpass : ∀ b a, eventPasses b a 0x100F421 4 0x21 none .none none = true := by
    intro b a; cases b <;> rfl
  have hcls : fldN (0x100F421 : BitVec 25) 8 4 = 4 := rfl
  have heng : fldN (0x100F421 : BitVec 25) 4 4 = 2 := rfl
  have hmt : fldN (0x100F421 : BitVec 25) 16 3 = 0 := rfl
  have hst : fldN (0x100F421 : BitVec 25) 0 4 = 1 := rfl
  have hevt : fldN (0x100F421 : BitVec 25) 0 8 = 0x21 := rfl
  unfold countEngine
  simp only [hsel, hcls, heng, hmt, hst, hevt, bne_self_eq_false, Bool.false_eq_true, if_false]
  rw [he]
  simp only [hpass]
  rfl

/-- A counter that overflows under OVI raises IPEND bit 36 (R456). -/
theorem bumpPmc_overflow {s : State} {k n : Nat} (h : 2 ^ 48 ≤ (vget s.perf.pmc k 0).toNat + n) (hi : bit s.perf.pmctl (16 + k) = true) :
    ∃ p, bumpPmc s k n = setPend 36 { s with perf := p } := by
  unfold bumpPmc
  simp only [if_neg (Nat.not_lt.2 h), hi, if_true]
  exact ⟨_, rfl⟩

/-- In the Keys state the counters run, PMC 0 counts idle steps of the row engine and is about to overflow, and context 1 waits, so that
vector 36 is takeable in it. -/
def countingKeys (g : KeyGen) : State := { State.reset with
  ctx := { State.reset.ctx with q1 := { Ctx.reset 1 false 0 .waiting with st := 0 } }
  boot := { Boot.reset with phase := .keys }
  chain := { Chain.reset with entsrc := 0x80000000 }
  keys := { Keys.reset with gen := g }
  perf := { Perf.reset with
    pmctl := 0x10001, pmc := vset Perf.reset.pmc 0 (BitVec.allOnes 48), pmsel := vset Perf.reset.pmsel 0 0x100F421, uopDebt := 1 }
  intr := { Intr.reset with vlvl := vset Intr.reset.vlvl 4 0x1600000000 } }

/-- countingKeys with IPEND bit 36, and what else accounting may have changed. -/
def pendingKeys (p : Perf) (g : KeyGen) (n : Nat) : State := { countingKeys g with
  perf := p, free := n, intr := { (countingKeys g).intr with ipend := setBit 0 36 true } }

theorem bestVector_pendingKeys (p : Perf) (g : KeyGen) (n : Nat) : bestVector (pendingKeys p g n) 1 = some 36 := by
  have h : bestVector (pendingKeys p g n) 1 = bestVector (pendingKeys Perf.reset KeyGen.reset 0) 1 := rfl
  rw [h]
  decide +kernel

/-- Context 1 is woken. -/
theorem wakeIrqs_pendingKeys (p : Perf) (g : KeyGen) (n : Nat) : ((wakeIrqs (pendingKeys p g n)).getCtx 1).run = .ready := by
  have h0 : wakeByIrq 0 (pendingKeys p g n) = pendingKeys p g n := rfl
  have h1 : ((wakeByIrq 1 (pendingKeys p g n)).getCtx 1).run = .ready := by
    have hw : ((pendingKeys p g n).getCtx 1).run = .waiting := rfl
    unfold wakeByIrq
    rw [if_pos (by rw [hw, bestVector_pendingKeys]; rfl), getCtx_modCtx]
    exact wokenByIrq_run hw _
  show ((wakeByIrq 3 (wakeByIrq 2 (wakeByIrq 1 (wakeByIrq 0 (pendingKeys p g n))))).getCtx 1).run = .ready
  rw [h0]
  exact (wakeByIrq_eq 3 _).ready ((wakeByIrq_eq 2 _).ready h1)

/-- A retired micro-operation took a step (R452). -/
theorem stepsOf_pos {s : State} (h : s.perf.uopDebt = 1) : ∃ m, (stepsOf s).n = m + 1 := by
  have few : ∀ x e f, 1 ≤ max ((1 + 3) / 4 + Config.freeNat x % (1 - (1 + 3) / 4 + 1)) e + f := by intros; omega
  refine Nat.exists_eq_add_of_le' ?_
  unfold stepsOf
  simp only [h]
  exact few _ _ _

/-- What the engines count in the first step, with the first counter, is counted before everything else in the steps. -/
theorem countEngines_ready {k : Steps} {v s : State} {c : CtxId} {m : Nat} (hn : k.n = m + 1)
    (h : ((countEngine k v s 0 0 s).getCtx c).run = .ready) : ((countEngines k v s).getCtx c).run = .ready := by
  have inner : ∀ i (l : List Nat) t, OnlyPerf t (l.foldl (fun u p => countEngine k v s i p u) t) := fun i l t =>
    foldl_perf _ (fun u p => countEngine_eq k v s i p u) l t
  have h0 := (inner 0 ((List.range 15).map Nat.succ) _).ready h
  have hr : List.range 16 = 0 :: (List.range 15).map Nat.succ := List.range_succ_eq_map
  have hk : List.range k.n = 0 :: (List.range m).map Nat.succ := by rw [hn]; exact List.range_succ_eq_map
  unfold countEngines
  simp only [hk, List.foldl_cons]
  refine (OnlyPerf.put _ _ _).ready ((foldl_perf _ (fun t i => inner i _ t) _ _).ready ?_)
  rw [hr]
  exact h0

/-- In the Keys state, the steps up to now wake context 1: there is one at least, as a micro-operation has retired, and PMC 0 counts it. -/
theorem account_countingKeys (g : KeyGen) : ((account (countingKeys g) (countingKeys g)).getCtx 1).run = .ready := by
  obtain ⟨m, hm⟩ := stepsOf_pos (s := countingKeys g) rfl
  have hc : counting (countingKeys g) = true := (by decide : (bit (0x10001 : W64) 0 && !false) = true)
  have hgo : (!counting (countingKeys g) || inReset (countingKeys g) || (countingKeys g).boot.lame) = false := by rw [hc]; rfl
  have hrun : runningCtx (countingKeys g) = some 0 := rfl
  unfold account
  simp only [hgo, Bool.false_eq_true, if_false]
  generalize stepsOf (countingKeys g) = k at hm ⊢
  refine (OnlyPerf.put _ _ _).ready ?_
  unfold countSteps
  simp only [hrun, Option.isSome_some, if_true]
  refine (countMicro_eq _ _).ready <| (countWaits_eq _ _ _).ready <| (OnlyPerf.put _ _ _).ready <|
    (countAllArraySlots_eq _ _ _).ready <| (countSlots_eq _ _ _).ready <| countEngines_ready hm ?_
  rw [countEngine_idleRow _ _ rfl rfl rfl]
  have hfull : 2 ^ 48 ≤ (vget (countingKeys g).perf.pmc 0 0).toNat + 1 := (by decide : 2 ^ 48 ≤ (BitVec.allOnes 48).toNat + 1)
  obtain ⟨p, hp⟩ := bumpPmc_overflow (s := addFc 0 k.n (addFc 2 k.rows (addFc 3 (k.n - k.retiring)
    { countingKeys g with free := (countingKeys g).free + 7 }))) hfull
    (by decide : bit (0x10001 : W64) 16 = true)
  rw [hp]
  exact wakeIrqs_pendingKeys p g _

/-- A word that key generation accepts is followed by the next read, which finds context 1 of countingKeys woken. -/
theorem keyWord_countingKeys : ∃ g, keyWord 5 (countingKeys { KeyGen.reset with txid := some 0 }) = keyRead (countingKeys g) := ⟨⟨[5], 0, some 5, none, 0⟩, by
    have hbad : ((5 : W64) == 0 || (5 : W64) == BitVec.allOnes 64 || KeyGen.reset.last == some (5 : W64)) = false := by decide
    unfold keyWord
    simp only [countingKeys, hbad, Bool.false_eq_true, if_false]
    rfl⟩

/-- A request that an idle egress takes changes the contexts as the accounting before it does. -/
theorem sendIoReq_getCtx {s : State} (h : (counting s && egressIdle s) = true) (a : W32) (o : IoOpc) (w : Issuer) (x y : BitVec 8)
    (d : TWord) (c : CtxId) : (bumpTxid y (sendIoReq a o w x d s)).getCtx c = (account s s).getCtx c := by
  simp only [bumpTxid, sendIoReq, sendPacket, h, if_true]

theorem keyRead_countingKeys (g : KeyGen) : ((keyRead (countingKeys g)).getCtx 1).run = .ready := by
  have hl : isLocal (countingKeys g) (countingKeys g).chain.entsrc = false :=
    (by decide : (!bit (0x80000000 : W32) 31 && fld (0x80000000 : W32) 19 12 == 0) = false)
  have ht : tollAllowsIo (countingKeys g) (countingKeys g).chain.entsrc = true :=
    (by decide : tollAllowsIo State.reset 0x80000000 = true)
  unfold keyRead
  simp only [hl, ht, Bool.false_eq_true, if_false, Bool.not_true]
  rw [sendIoReq_getCtx]
  · exact account_countingKeys { g with txid := some (ioTxid (countingKeys g)), since := (countingKeys g).time.tick }
  · exact (by decide : (bit (0x10001 : W64) 0 && !false && egressIdle State.reset) = true)

/-- Refutes O48: a word that key generation accepts sends the next entropy read, and the steps before its packet overflow a counter, which
wakes context 1, so that the contexts are not as they were. -/
theorem not_resetSequence : ¬ Obligations.ResetSequence := by
  intro h
  let s := countingKeys { KeyGen.reset with txid := some 0 }
  let r : IoResp := ⟨0, 0, 0, ⟨5, Tag.raw⟩⟩
  obtain ⟨-, -, -, -, -, -, -, -, hkeys, -⟩ := h s
  obtain ⟨hnext, -⟩ := hkeys r rfl rfl rfl
  obtain ⟨t, ht, -, hctx, -⟩ := hnext (by decide) (.inr (by decide)) (.inl (by decide)) (by decide)
  obtain ⟨g, hg⟩ := keyWord_countingKeys
  have hexec : exec (.ioResponse r) s = .next (keyRead (countingKeys g)) := by
    show execIoResponse r s = _
    unfold execIoResponse
    rw [if_pos (by decide), if_pos (by decide), if_pos (by decide)]
    exact congrArg _ hg
  have hread : t = keyRead (countingKeys g) := by
    rw [hexec] at ht
    injection ht with ht
    exact ht.symm
  have hrun := keyRead_countingKeys g
  rw [← hread, State.getCtx, hctx] at hrun
  cases hrun

end Sys2Proof.Machine

namespace Sys2Proof.Machine
open Sys2Proof

/-! ## What events, records and alarms leave unchanged -/

/-- Of a context, only its state and what it waits for may have changed (R400, R407). -/
def CtxKept (k k' : Ctx) : Prop := k' = { k with run := k'.run, ev := k'.ev }

theorem CtxKept.refl (k : Ctx) : CtxKept k k := rfl

theorem CtxKept.trans {k l m : Ctx} (h : CtxKept k l) (g : CtxKept l m) : CtxKept k m := by
  unfold CtxKept at *
  rw [h] at g
  exact g

theorem SameOrWoken.kept {k k' : Ctx} (h : SameOrWoken k k') : CtxKept k k' := by
  rcases h with rfl | ⟨hw, n, rfl⟩
  · exact CtxKept.refl _
  · simp [CtxKept, Ctx.wokenByIrq, hw]

section
variable {k k' : Ctx}
theorem CtxKept.pc (h : CtxKept k k') : k'.pc = k.pc := by rw [h]
theorem CtxKept.st (h : CtxKept k k') : k'.st = k.st := by rw [h]
theorem CtxKept.getA (h : CtxKept k k') : k'.getA = k.getA := by rw [h]; rfl
theorem CtxKept.getX (h : CtxKept k k') : k'.getX = k.getX := by rw [h]; rfl
theorem CtxKept.getY (h : CtxKept k k') : k'.getY = k.getY := by rw [h]; rfl
theorem CtxKept.stk (h : CtxKept k k') : k'.stk = k.stk := by rw [h]; rfl
end

theorem setEvent_kept (c d : CtxId) (n : Nat) (s : State) : CtxKept (s.getCtx d) ((setEvent c n s).getCtx d) := by
  unfold setEvent
  by_cases e : d = c
  · subst e
    rw [getCtx_modCtx]
    dsimp only
    split <;> rfl
  · rw [getCtx_modCtx_ne _ _ e]
    rfl

/-- A fold of steps that keep every context keeps them. -/
theorem foldl_kept {α : Type} (f : State → α → State) (hf : ∀ s a c, CtxKept (s.getCtx c) ((f s a).getCtx c)) (l : List α) (s : State)
    (c : CtxId) : CtxKept (s.getCtx c) ((l.foldl f s).getCtx c) := by
  induction l generalizing s with
  | nil => exact CtxKept.refl _
  | cons a l ih => exact (hf s a c).trans (ih _)

theorem setEvents_kept (n : Nat) (p : CtxId → Bool) (s : State) (c : CtxId) :
    CtxKept (s.getCtx c) ((setEvents n p s).getCtx c) := by
  refine foldl_kept _ (fun t d c => ?_) _ s c
  split
  · exact setEvent_kept d c n t
  · exact CtxKept.refl _

theorem hitWatch_kept (w : Option CtxId) (n : Nat) (s : State) (c : CtxId) :
    CtxKept (s.getCtx c) ((hitWatch w n s).getCtx c) := setEvents_kept ..

/-- The watches of a line change the contexts and nothing else (R409). -/
theorem hitWatch_eq (w : Option CtxId) (n : Nat) (s : State) : hitWatch w n s = { s with ctx := (hitWatch w n s).ctx } :=
  setEvents_eq ..

/-! ## The observation plane while the counters are still -/

/-- From s to t, only the trace registers, the mesh, and what contexts wait for have changed. -/
def Observed (s t : State) : Prop :=
  t = { s with ctx := t.ctx, trace := t.trace, mesh := t.mesh } ∧ ∀ c, CtxKept (s.getCtx c) (t.getCtx c)

theorem Observed.refl (s : State) : Observed s s := ⟨rfl, fun _ => CtxKept.refl _⟩

theorem Observed.trans {s t u : State} (h : Observed s t) (g : Observed t u) : Observed s u := by
  refine ⟨?_, fun c => (h.2 c).trans (g.2 c)⟩
  obtain ⟨h, -⟩ := h
  obtain ⟨g, -⟩ := g
  rw [h] at g
  exact g

theorem Observed.of_trace {s t : State} (h : t = { s with trace := t.trace }) : Observed s t := by
  rw [h]; exact ⟨rfl, fun _ => CtxKept.refl _⟩

theorem Observed.of_mesh {s t : State} (h : t = { s with mesh := t.mesh }) : Observed s t := by
  rw [h]; exact ⟨rfl, fun _ => CtxKept.refl _⟩

theorem Observed.counting {s t : State} (h : Observed s t) : counting t = counting s := by rw [h.1]; rfl

theorem traceRec_observed (typ : BitVec 6) (x : Option (CtxId × W32)) (p q : W64) (s : State) : Observed s (traceRec typ x p q s) :=
  .of_trace (traceRec_eq ..)

theorem hitWatch_observed (w : Option CtxId) (n : Nat) (s : State) : Observed s (hitWatch w n s) := by
  refine ⟨?_, hitWatch_kept w n s⟩
  have h := hitWatch_eq w n s
  generalize hitWatch w n s = t at h
  rw [h]

theorem account_of_still {v s : State} (h : counting v = false) : account v s = s := by
  unfold account
  rw [h]
  rfl

/-- A packet while the counters do not run changes the lanes and nothing else. -/
theorem sendPacket_observed {s : State} (h : counting s = false) (p : List Flit) : Observed s (sendPacket p s) := by
  unfold sendPacket
  split
  · exact Observed.refl s
  · simp only [h, Bool.false_and, Bool.false_eq_true, if_false]
    exact .of_mesh rfl

theorem sendReq_observed {s : State} (h : counting s = false) (r : Req) (size : BitVec 4) (m : W64) (ls : List Line) :
    Observed s (sendReq r size m ls s) := by
  unfold sendReq
  exact Observed.trans (.of_mesh rfl) (sendPacket_observed (by exact h) _)

theorem sendLines_observed {s : State} (h : counting s = false) (who : Requester) (a : Nat) (ls : List Line) :
    Observed s (sendLines who a ls s) := by
  unfold sendLines
  generalize ls.zipIdx = l
  induction l generalizing s with
  | nil => exact Observed.refl s
  | cons e l ih =>
    have head := (sendReq_observed h ⟨(freeTxid s).getD 0, .poke, BitVec.ofNat 52 (a + 64 * e.2), who, false, false, false, false, none⟩
      0 (BitVec.allOnes 64) [e.1]).trans (hitWatch_observed none (lineNo (BitVec.ofNat 52 (a + 64 * e.2))) _)
    exact head.trans (ih (head.counting.trans h))

theorem dumpDone_observed (s : State) : Observed s (dumpDone s) := by
  unfold dumpDone
  split
  · exact Observed.refl s
  · split
    · exact Observed.refl s
    · exact Observed.trans (.of_trace rfl) (traceRec_observed ..)

/-- A dump while the counters do not run (R469). -/
theorem dumpDue_observed {s : State} (h : counting s = false) (r : BitVec 4) : Observed s (dumpDue r s) := by
  refine (dumpDone_observed s).trans ?_
  have hd := (dumpDone_observed s).counting.trans h
  unfold dumpDue
  generalize dumpDone s = u at hd
  dsimp only
  split
  · exact .of_trace rfl
  · exact Observed.trans (.of_trace rfl) (sendLines_observed (by exact hd) ..)

theorem snapTrigger_observed (n : BitVec 4) (s : State) : Observed s (snapTrigger n s) := by
  unfold snapTrigger
  dsimp only
  split
  · exact Observed.refl s
  · split <;> exact .of_trace rfl

/-- The stop instant (R464): the counters keep what they count, and FRZTICK is now. -/
theorem stopCounters_observed (s : State) :
    Observed { s with pins := { s.pins with frz := true }, perf := { s.perf with frztick := s.time.tick } } (stopCounters s) := by
  have hs : counting { s with pins := { s.pins with frz := true }, perf := { s.perf with frztick := s.time.tick } } = false := by
    simp [counting]
  unfold stopCounters
  generalize ({ s with pins := _, perf := _ } : State) = t at hs
  dsimp only
  refine Observed.trans ?_ (traceRec_observed ..)
  have dump : Observed t (if bit t.perf.frzcfg 20 = true then dumpDue 1 t else t) := by
    split
    · exact dumpDue_observed hs 1
    · exact Observed.refl t
  refine dump.trans ?_
  generalize (if bit t.perf.frzcfg 20 = true then dumpDue 1 t else t) = u
  split
  · exact snapTrigger_observed 5 u
  · exact Observed.refl u

theorem freezeTrigger_eq (b : Nat) (s : State) : freezeTrigger b s = { s with perf := (freezeTrigger b s).perf } := by
  unfold freezeTrigger
  split <;> rfl

/-! ## Alarms and samples (R45, R490 to R497) -/

/-- From s to t, only what an alarm touches has changed: the keys, the Wayside records, and ALARM_OUT and the tamper detector of the pins. -/
def Alarmed (s t : State) : Prop :=
  t = { s with
    keys := t.keys
    rel := { s.rel with wsSeq := t.rel.wsSeq, wsbuf := t.rel.wsbuf, wslast := t.rel.wslast, wsNow := t.rel.wsNow }
    chain := { s.chain with wsDrop := t.chain.wsDrop }
    pins := { s.pins with alarmOut := t.pins.alarmOut, tamper := t.pins.tamper } }

theorem Alarmed.refl (s : State) : Alarmed s s := rfl

theorem Alarmed.trans {s t u : State} (h : Alarmed s t) (g : Alarmed t u) : Alarmed s u := by
  unfold Alarmed at *
  rw [h] at g
  exact g

theorem wayside_alarmed (cause : BitVec 8) (c : Option CtxId) (d : W32) (s : State) : Alarmed s (wayside cause c d s) := rfl

theorem alarmFire_alarmed (which : BitVec 3) (s : State) : Alarmed s (alarmFire which s) := rfl

theorem fireAlarm_alarmed (s t : State) : Alarmed t (fireAlarm s t) := by
  unfold fireAlarm
  dsimp only
  split
  · exact Alarmed.refl t
  · split
    · rfl
    · exact alarmFire_alarmed ..

theorem countViolation_alarmed (kind : Nat) (s : State) : Alarmed s (countViolation kind s) := rfl

theorem violation_alarmed (kind : Nat) (s : State) : Alarmed s (violation kind s) :=
  (countViolation_alarmed kind s).trans (fireAlarm_alarmed ..)

/-- An alarm counts nothing. -/
theorem fireAlarm_svTm (s t : State) : (fireAlarm s t).keys.svTm = t.keys.svTm := by
  unfold fireAlarm
  dsimp only
  split
  · rfl
  · split <;> rfl

theorem violation_svTm (s : State) : (violation 2 s).keys.svTm = satInc s.keys.svTm := fireAlarm_svTm ..

theorem sampleAlarm_alarmed (s : State) : Alarmed s (sampleAlarm s) := by
  unfold sampleAlarm
  dsimp only
  generalize (if (s.pins.alarmIn && s.pins.tamper.s1) = true then true
    else if (!s.pins.alarmIn && !s.pins.tamper.s1) = true then false else s.pins.tamper.high) = high
  split
  · refine Alarmed.trans ?_ (violation_alarmed ..)
    rfl
  · rfl

theorem Alarmed.alarmIn {s t : State} (h : Alarmed s t) : t.pins.alarmIn = s.pins.alarmIn := by rw [h]

/-- Two samples of a low line: whatever came before, the line is held low, and nothing is counted. -/
theorem sampleAlarm_low_twice {s : State} (h : s.pins.alarmIn = false) :
    (sampleAlarm (sampleAlarm s)).pins.tamper = ⟨false, false, false⟩ ∧
      (sampleAlarm (sampleAlarm s)).keys.svTm = s.keys.svTm := by
  simp [sampleAlarm, h]

/-- Two samples of a high line, after it was held low, count a tamper event. -/
theorem sampleAlarm_high_twice {s : State} (h : s.pins.alarmIn = true) (ht : s.pins.tamper = ⟨false, false, false⟩) :
    (sampleAlarm (sampleAlarm s)).keys.svTm = satInc s.keys.svTm := by
  simp [sampleAlarm, h, ht, violation_svTm]

/-! ## The steps up to now -/

theorem foldl_sampleAlarm (l : List Nat) (s : State) : Alarmed s (l.foldl (fun t _ => sampleAlarm t) s) := by
  induction l generalizing s with
  | nil => exact Alarmed.refl s
  | cons _ l ih => exact (sampleAlarm_alarmed s).trans (ih _)

theorem sampleSteps_alarmed (n : Nat) (s : State) :
    Alarmed { s with pins := { s.pins with sampSteps := BitVec.ofNat 6 (s.pins.sampSteps.toNat + n) } } (sampleSteps n s) :=
  foldl_sampleAlarm ..

/-- The steps up to now leave the clock as it is, and of a context only what a counter's overflow wakes. -/
theorem accountSteps_time (s : State) : (accountSteps s).time = s.time ∧ ∀ c, SameOrWoken (s.getCtx c) ((accountSteps s).getCtx c) := by
  have ha := account_eq s s
  have pace : ∀ n t, (countPace n t).time = t.time ∧ (countPace n t).ctx = t.ctx := fun n t => by
    unfold countPace
    split <;> exact ⟨rfl, rfl⟩
  unfold accountSteps
  split
  · exact ⟨rfl, fun c => SameOrWoken.refl _⟩
  split
  · exact ⟨rfl, fun c => SameOrWoken.refl _⟩
  generalize account s s = t at ha
  dsimp only
  generalize t.perf.stepDebt + _ = n
  generalize hu : monitorSteps n _ = u
  obtain ⟨ht, hc⟩ := pace n u
  have hut : u.time = s.time ∧ u.ctx = t.ctx := by rw [← hu]; exact ⟨(congrArg State.time ha.1).trans rfl, rfl⟩
  have hsame : ∀ c, SameOrWoken (s.getCtx c) ((countPace n u).getCtx c) := fun c => by
    have : (countPace n u).getCtx c = t.getCtx c := congrArg (fun q : Quad Ctx => q.get c) (hc.trans hut.2)
    rw [this]; exact ha.2 c
  split
  · exact ⟨ht.trans hut.1, hsame⟩
  · have hs := sampleSteps_alarmed n (countPace n u)
    generalize sampleSteps n (countPace n u) = w at hs
    refine ⟨?_, fun c => ?_⟩
    · rw [hs]; exact ht.trans hut.1
    · have : w.getCtx c = (countPace n u).getCtx c := by rw [hs]
      rw [this]; exact hsame c

end Sys2Proof.Machine

namespace Sys2Proof.Machine
open Sys2Proof

/-! ## The pins (R40 to R50, R55, R64) -/

theorem inColdReset_eq_false {s : State} (hc : s.boot.phase ≠ .coldReset) (hw : s.boot.phase ≠ .heldByWrst) : inColdReset s = false := by
  simp [inColdReset, hc, hw]

theorem satInc_eq {n : Nat} (x : BitVec n) : satInc x = if x = BitVec.allOnes n then BitVec.allOnes n else x + 1 := by
  unfold satInc
  split
  · assumption
  · rfl

theorem bit_setBit_same {n : Nat} (x : BitVec n) {i : Nat} (h : i < n) : bit (setBit x i true) i = true := by
  simp [setBit, h]

theorem bit_setBit_ne {n : Nat} (x : BitVec n) {i j : Nat} (h : j ≠ i) (b : Bool) : bit (setBit x i b) j = bit x j := by
  by_cases hj : j < n
  · by_cases hij : j < i
    · cases b <;> simp [setBit, hj, hij]
    · cases b <;> simp [setBit, hj, hij, show j - i ≠ 0 by omega]
  · simp [BitVec.getLsbD_of_ge _ _ (Nat.not_lt.1 hj)]

/-- A pending bit is set, whatever it wakes (R369). -/
theorem setPend_intr (v : Nat) (s : State) : (setPend v s).intr = { s.intr with ipend := setBit s.intr.ipend v true } := by
  unfold setPend
  rw [wakeIrqs_intr]

/-- A machine check is pending, with its syndrome valid, and its source is kept when it is the first (R397). -/
theorem machineCheck_intr (src : BitVec 4) (a : BitVec 2) (d : W64) (s : State) :
    bit (machineCheck src a d s).intr.ipend 0 = true ∧ bit (machineCheck src a d s).intr.mcsyn 63 = true ∧
      (bit s.intr.mcsyn 63 = false → fld (machineCheck src a d s).intr.mcsyn 0 4 = src) := by
  unfold machineCheck
  simp only [setPend_intr]
  refine ⟨bit_setBit_same _ (by decide), ?_, fun h => ?_⟩
  · by_cases h : bit s.intr.mcsyn 63 = true
    · simp only [h, if_true]
      rw [bit_setBit_ne _ (by decide)]
      exact h
    · simp only [if_neg h]
      simp [bAt, at']
  · simp only [h]
    ext i hi
    have : i = 0 ∨ i = 1 ∨ i = 2 ∨ i = 3 := by omega
    rcases this with rfl | rfl | rfl | rfl <;> simp [bAt, at']

theorem machineCheck_woken (src : BitVec 4) (a : BitVec 2) (d : W64) (s : State) (c : CtxId) :
    SameOrWoken (s.getCtx c) ((machineCheck src a d s).getCtx c) := by
  unfold machineCheck
  exact (setPend_eq 0 _).2 c

/-- The egress is busy with a packet or a beat that has begun (R44). -/
def fenceBusy (s : State) : Bool :=
  s.mesh.mid.q2 || s.mesh.mid.q3 || s.mesh.offered == some 2 || s.mesh.offered == some 3 || s.cw.offered

/-- HFENCE rises (R43, R44): what the accounting before it may change does not concern the egress. -/
theorem execHfenceRise_eq {s : State} (h : inColdReset s = false) :
    let t := accountChange s { s with pins := { s.pins with hfence := true } }
    execHfenceRise s = .next { t with pins := { t.pins with fenceAck := !fenceBusy s } } ∧
      (t.mesh, t.cw, t.spad) = (s.mesh, s.cw, s.spad) := by
  intro t
  have ht : OnlyPerf { s with pins := { s.pins with hfence := true } } t := accountChange_eq ..
  have hpins : t.pins.hfence = true := by rw [ht.1]
  have hmesh : t.mesh = s.mesh := by rw [ht.1]
  have hcw : t.cw = s.cw := by rw [ht.1]
  have hspad : t.spad = s.spad := by rw [ht.1]
  have hcold : inColdReset t = false := (congrArg (fun b : Boot => b.phase == .coldReset || b.phase == .heldByWrst)
    (show t.boot = s.boot by rw [ht.1])).trans h
  refine ⟨?_, by rw [hmesh, hcw, hspad]⟩
  unfold execHfenceRise
  simp only [h, Bool.false_eq_true, if_false]
  unfold ackFence
  simp only [show accountChange s { s with pins := { s.pins with hfence := true } } = t from rfl, hpins, hmesh, hcw, hcold,
    Bool.true_and, Bool.not_false, Bool.and_true]
  rfl

/-- FRZ rises (R42, R464). -/
theorem execFrzRise_eq {s : State} (h : inColdReset s = false) (hf : s.pins.frz = false) :
    ∃ t, execFrzRise s = .next t ∧ t.pins.frz = true ∧ t.perf.frztick = s.time.tick ∧
      t.perf.pmc = (accountSteps s).perf.pmc ∧ t.perf.fc = (accountSteps s).perf.fc ∧ ∀ c, CtxKept (s.getCtx c) (t.getCtx c) := by
  obtain ⟨htime, hwoken⟩ := accountSteps_time s
  obtain ⟨hform, hkept⟩ := stopCounters_observed (accountSteps s)
  refine ⟨stopCounters (accountSteps s), ?_, by rw [hform], by rw [hform]; exact congrArg Time.tick htime, by rw [hform], by rw [hform],
    fun c => (hwoken c).kept.trans (hkept c)⟩
  unfold execFrzRise
  simp only [hf, h, Bool.false_eq_true, if_false]

/-- A tamper event is counted once, and the line stays high (R45, R494). -/
theorem execTamperEvent_eq {s : State} (h : inColdReset s = false) :
    ∃ t, execTamperEvent s = .next t ∧ t.keys.svTm = satInc s.keys.svTm ∧ t.pins.alarmIn = true := by
  unfold execTamperEvent
  simp only [h, Bool.false_eq_true, if_false]
  refine ⟨_, rfl, ?_, ?_⟩
  · obtain ⟨hlow, hcount⟩ := sampleAlarm_low_twice (s := { s with pins := { s.pins with alarmIn := false } }) rfl
    rw [sampleAlarm_high_twice rfl (by exact hlow)]
    exact congrArg satInc hcount
  · exact (sampleAlarm_alarmed _).alarmIn.trans (sampleAlarm_alarmed _).alarmIn

/-- The reference clock is lost: a machine check of source 1 (R55). -/
theorem execRefclkLoss_eq {s : State} (h : inColdReset s = false) (hr : s.pins.refclk = true) :
    execRefclkLoss s = .next (machineCheck 1 0 0
      { s with pins := { s.pins with refclk := false }, chain := { s.chain with refloss := true } }) := by
  unfold execRefclkLoss
  simp only [hr, h, Bool.not_true, Bool.false_or, Bool.false_eq_true, if_false]

/-- The applied level of the pace governor (R50, R502). -/
theorem paceLines_eq {s : State} (h : inReset s = false) :
    let level := if s.pins.curHi then (15 : BitVec 4) else if s.pace.cap.toNat < s.pins.paceHw.toNat then s.pins.paceHw else s.pace.cap
    paceLines s = { s with pace := { s.pace with
      act := level, lim := s.pace.lim || decide (s.pace.floor.toNat < level.toNat) } } := by
  unfold paceLines
  rw [h]
  rfl

/-! ## The watchdog (R64) -/

/-- The count of a source starts again, and nothing that a machine check or a record left changes. -/
theorem stallRestart_spec {src : BitVec 2} (h : src ≠ 3) (s : State) :
    stallCount (stallRestart src s) src = 0 ∧ (stallRestart src s).chain = s.chain ∧ (stallRestart src s).intr = s.intr ∧
      (stallRestart src s).ctx = s.ctx := by
  have hc : src = 0 ∨ src = 1 ∨ src = 2 := by
    rcases ctxId_cases src with h | h | h | h
    · exact .inl h
    · exact .inr (.inl h)
    · exact .inr (.inr h)
    · contradiction
  rcases hc with rfl | rfl | rfl
  · exact ⟨rfl, rfl, rfl, rfl⟩
  · exact ⟨rfl, rfl, rfl, rfl⟩
  · refine ⟨?_, rfl, rfl, rfl⟩
    show (if s.cp.out.isEmpty = true then 0 else (s.time.tick - s.time.tick).toNat) = 0
    simp

/-- A source that has waited for STALL_LIM × 1,024 ticks is reported (R64). -/
theorem execStallWatchdog_eq {s : State} {src : BitVec 2} (hc : inColdReset s = false) (hs : src ≠ 3)
    (hl : fldN s.chain.bcfg 0 16 ≠ 0) (hw : fldN s.chain.bcfg 0 16 * 1024 ≤ stallCount s src) :
    ∃ t, execStallWatchdog src s = .next t ∧ t.chain.stall = true ∧ t.chain.stallSrc = src ∧ bit t.intr.ipend 0 = true ∧
      bit t.intr.mcsyn 63 = true ∧ stallCount t src = 0 ∧ ∀ c, SameOrWoken (s.getCtx c) (t.getCtx c) := by
  have hsrc : (src == 3) = false := by simpa using hs
  unfold execStallWatchdog
  simp only [hl, hsrc, Nat.not_lt.2 hw, hc, decide_false, Bool.or_self, Bool.false_eq_true, if_false]
  obtain ⟨hpend, hsyn, -⟩ := machineCheck_intr 2 0 0 { s with chain := { s.chain with stall := true, stallSrc := src } }
  have hwoken := machineCheck_woken 2 0 0 { s with chain := { s.chain with stall := true, stallSrc := src } }
  have hchain := machineCheck_chain { s with chain := { s.chain with stall := true, stallSrc := src } } 2 0 0
  generalize machineCheck 2 0 0 _ = t at hpend hsyn hwoken hchain
  have hu := freezeTrigger_eq 18 (wayside 2 none (src.setWidth 32) t)
  generalize freezeTrigger 18 _ = u at hu
  have hv : ∃ x, (if bit u.trace.xrcfg 2 = true then snapTrigger 4 u else u) = { u with trace := x } := by
    unfold snapTrigger
    dsimp only
    split
    · split
      · exact ⟨_, rfl⟩
      · split <;> exact ⟨_, rfl⟩
    · exact ⟨_, rfl⟩
  obtain ⟨x, hx⟩ := hv
  rw [hx]
  obtain ⟨hcount, hchain', hintr', hctx'⟩ := stallRestart_spec hs { u with trace := x }
  have huchain : u.chain = { t.chain with wsDrop := (wayside 2 none (src.setWidth 32) t).chain.wsDrop } := by rw [hu]; rfl
  have huintr : u.intr = t.intr := by rw [hu]; rfl
  have huctx : u.ctx = t.ctx := by rw [hu]; rfl
  refine ⟨_, rfl, ?_, ?_, ?_, ?_, hcount, fun c => ?_⟩
  · rw [hchain']; show u.chain.stall = true; rw [huchain, hchain]
  · rw [hchain']; show u.chain.stallSrc = src; rw [huchain, hchain]
  · rw [hintr']; show bit u.intr.ipend 0 = true; rw [huintr]; exact hpend
  · rw [hintr']; show bit u.intr.mcsyn 63 = true; rw [huintr]; exact hsyn
  · have : (stallRestart src { u with trace := x }).getCtx c = t.getCtx c := congrArg (fun q : Quad Ctx => q.get c) (hctx'.trans huctx)
    rw [this]; exact hwoken c

/-- Settles O50: each pin by the rule above that says what its event does. -/
theorem pinEvents : Obligations.PinEvents := by
  intro s hcold hheld pins busy
  have hc := inColdReset_eq_false hcold hheld
  refine ⟨execHfenceRise_eq hc, rfl, fun hf => ?_, fun hf => ?_, ?_, fun hr => ?_, rfl, fun hd => ?_, fun src hs hl hw =>
    execStallWatchdog_eq hc hs hl hw⟩
  · obtain ⟨t, ht, hfrz, htick, hpmc, hfc, hkept⟩ := execFrzRise_eq hc hf
    exact ⟨t, ht, hfrz, htick, hpmc, hfc, fun c => ⟨(hkept c).pc, (hkept c).st, (hkept c).getA⟩⟩
  · show execFrzFall s = _
    unfold execFrzFall
    simp only [hf, hc, Bool.not_false, Bool.and_self, if_true]
    rfl
  · obtain ⟨t, ht, hcount, hline⟩ := execTamperEvent_eq hc
    exact ⟨t, ht, hcount.trans (satInc_eq _), hline⟩
  · obtain ⟨hpend, hsyn, hsrc⟩ := machineCheck_intr 1 0 0
      { s with pins := { s.pins with refclk := false }, chain := { s.chain with refloss := true } }
    exact ⟨_, execRefclkLoss_eq hc hr, by rw [machineCheck_pins], by rw [machineCheck_chain], hpend, hsyn,
      fun h => congrArg BitVec.toNat (hsrc h)⟩
  · have hr := inReset_eq_false hd hcold hheld
    exact ⟨fun v => congrArg _ (paceLines_eq (s := pins fun p => { p with paceHw := v }) hr),
      congrArg _ (paceLines_eq (s := pins fun p => { p with curHi := true }) hr),
      congrArg _ (paceLines_eq (s := pins fun p => { p with curHi := false }) hr)⟩

end Sys2Proof.Machine

namespace Sys2Proof.Machine
open Sys2Proof

/-! ## Fences (R448, R475) -/

theorem FencesNoted.refl (s : State) : FencesNoted s s := ⟨fun _ => ⟨_, rfl⟩, rfl⟩

theorem FencesNoted.trans {s t u : State} (h : FencesNoted s t) (g : FencesNoted t u) : FencesNoted s u := by
  obtain ⟨hc, he⟩ := h
  obtain ⟨gc, ge⟩ := g
  refine ⟨fun c => ?_, ?_⟩
  · obtain ⟨w, hw⟩ := hc c
    obtain ⟨w', hw'⟩ := gc c
    exact ⟨w', by rw [hw', hw]⟩
  · rw [← he, ← ge]

/-- Where FENCEs are noted, nothing but contexts changes. -/
theorem FencesNoted.eq {s t : State} (h : FencesNoted s t) : t = { s with ctx := t.ctx } := by
  rw [← h.2]

theorem noteFence_noted (c : CtxId) (s : State) : FencesNoted s (noteFence c s) := by
  unfold noteFence
  split
  · split
    · refine ⟨fun d => ?_, rfl⟩
      by_cases e : d = c
      · subst e; rw [getCtx_modCtx]; exact ⟨_, rfl⟩
      · rw [getCtx_modCtx_ne _ _ e]; exact ⟨_, rfl⟩
    · exact FencesNoted.refl s
  · exact FencesNoted.refl s

theorem noteFences_noted (s : State) : FencesNoted s (noteFences s) := by
  unfold noteFences
  generalize ([0, 1, 2, 3] : List CtxId) = l
  induction l generalizing s with
  | nil => exact FencesNoted.refl s
  | cons c l ih => exact (noteFence_noted c s).trans (ih _)

/-! ## What the egress chooses (R21 to R23, R43) -/

theorem startWriteBacks_of_started {s : State} (h : ∀ e ∈ s.caches.ebuf, e.started = true) : startWriteBacks s = s := by
  unfold startWriteBacks
  generalize s.caches.ebuf = l at h
  induction l with
  | nil => rfl
  | cons e l ih =>
    have : startEntry e s = s := by simp [startEntry, h e List.mem_cons_self]
    rw [List.foldl_cons, this]
    exact ih fun e he => h e (List.mem_cons_of_mem _ he)

/-- Outside a drain, and with every write-back under way, only flits leave. -/
theorem execMeshFlitSend_eq {s : State} (hd : draining s = false) (he : ∀ e ∈ s.caches.ebuf, e.started = true) (ready : BitVec 4) :
    execMeshFlitSend ready s = .next (ackFence (driveFlit ready s)) := by
  unfold execMeshFlitSend drainStep
  rw [hd]
  simp only [Bool.not_false, if_true, startWriteBacks_of_started he]

theorem laneReady_of_empty {s : State} {l : BitVec 2} (h : s.mesh.egress.get l = []) : laneReady s l = false := by
  simp [laneReady, h]

theorem atResetValues_eq_false {s : State}
    (h : s.boot.phase ≠ .coldReset ∧ s.boot.phase ≠ .heldByWrst ∧ ∀ k, s.boot.phase ≠ .afterDrain k) : atResetValues s = false := by
  obtain ⟨hc, hw, ha⟩ := h
  unfold atResetValues
  split <;> simp_all

theorem atResetValues_eq_true {s : State}
    (h : ¬ (s.boot.phase ≠ .coldReset ∧ s.boot.phase ≠ .heldByWrst ∧ ∀ k, s.boot.phase ≠ .afterDrain k)) : atResetValues s = true := by
  unfold atResetValues
  split
  · rfl
  · rfl
  · rfl
  · exact absurd ⟨‹_›, ‹_›, ‹_›⟩ h

/-- Lane 0 alone answers in cold reset and after a drain (R24, R56). -/
theorem chooseLane_of_no_lane {s : State} (ho : s.mesh.offered = none) (h : ∀ l, laneReady s l = false) : chooseLane s = none := by
  simp [chooseLane, ho, h]

theorem driveFlit_of_no_lane {s : State} (ho : s.mesh.offered = none) (h : chooseLane s = none) (ready : BitVec 4) :
    driveFlit ready s = s := by
  simp [driveFlit, offerNext, h, ho]

/-- The lane order (R21 to R23): an offered flit stays, lane 0 goes first, a packet that has begun goes on, and lanes 2 and 3 alternate. -/
theorem chooseLane_eq_some {s : State} {l other : BitVec 2} (hl : l = 0 ∨ l = 2 ∧ other = 3 ∨ l = 3 ∧ other = 2)
    (hf : s.mesh.egress.get l ≠ []) (h : s.mesh.offered = some l ∨ s.mesh.offered = none ∧ (l = 0 ∨ atResetValues s = false ∧
      s.mesh.egress.get 0 = [] ∧ (s.mesh.mid.get l = true ∧ s.mesh.mid.get other = false ∨ s.mesh.mid.q2 = false ∧
        s.mesh.mid.q3 = false ∧ s.pins.hfence = false ∧ (s.mesh.egress.get other = [] ∨ s.mesh.lastReq = decide (l = 3))))) :
    chooseLane s = some l := by
  unfold chooseLane
  rcases h with ho | ⟨ho, hz | ⟨hawake, h0, h⟩⟩
  · rw [ho]
  · subst hz
    have : laneReady s 0 = true := by simpa [laneReady] using hf
    simp only [ho, this, if_true]
  · have ready : s.mesh.mid.get l = true ∨ s.pins.hfence = false → laneReady s l = true := fun hm => by
      have : (s.mesh.mid.get l || !s.pins.hfence) = true := by simpa using hm
      simp [laneReady, hf, hawake, this]
    simp only [ho, laneReady_of_empty h0, Bool.false_eq_true, if_false]
    rcases hl with rfl | ⟨rfl, rfl⟩ | ⟨rfl, rfl⟩
    · exact absurd h0 hf
    · rcases h with ⟨hm, -⟩ | ⟨h2, h3, hh, h⟩
      · rw [if_pos (show s.mesh.mid.q2 = true from hm), if_pos (ready (.inl hm))]
      · have : (!s.mesh.lastReq || !laneReady s 3) = true := by
          rcases h with h | h
          · rw [laneReady_of_empty h]; exact Bool.or_true _
          · rw [h]; rfl
        simp only [h2, h3, ready (.inr hh), this, Bool.false_eq_true, if_false, Bool.and_self, if_true]
    · rcases h with ⟨hm, hm'⟩ | ⟨h2, h3, hh, h⟩
      · simp only [show s.mesh.mid.q2 = false from hm', show s.mesh.mid.q3 = true from hm, ready (.inl hm), Bool.false_eq_true, if_false,
          if_true]
      · have : (laneReady s 2 && (!s.mesh.lastReq || !laneReady s 3)) = false := by
          rcases h with h | h
          · rw [laneReady_of_empty h]; rfl
          · rw [h, ready (.inr hh)]; exact Bool.and_false _
        simp only [h2, h3, this, Bool.false_eq_true, if_false]
        rw [if_pos (ready (.inr hh))]

/-! ## A flit transfers (R20, R448) -/

theorem driveFlit_held {s : State} {l : BitVec 2} (hl : chooseLane s = some l) (ho : s.mesh.offered = none) (h : tollHolds s l = true)
    (ready : BitVec 4) : driveFlit ready s = { s with toll := { s.toll with held := true } } := by
  simp [driveFlit, offerNext, hl, h, ho]

theorem driveFlit_waits {s : State} {l : BitVec 2} {f : Flit} {q : List Flit} (hl : chooseLane s = some l) (h : tollHolds s l = false)
    (hf : s.mesh.egress.get l = f :: q) {ready : BitVec 4} (hr : bit ready l.toNat = false) :
    driveFlit ready s = { s with mesh := { s.mesh with offered := some l, lastFlit := f } } := by
  simp [driveFlit, offerNext, hl, h, offerFlit, hf, hr]

/-- The last flit of a post: the post has left, and is counted (R448, R458). -/
theorem postGone_perf (s : State) : OnlyPerf { s with mesh := { s.mesh with posts := s.mesh.posts.drop 1 } } (postGone s) := by
  unfold postGone
  split
  · have : ({ s.mesh with posts := s.mesh.posts.drop 1 } : Mesh) = s.mesh := by
      cases hm : s.mesh
      simp_all
    rw [this]
    exact OnlyPerf.refl s
  · rename_i h
    rw [h]
    exact (countEvent_eq ..).trans (countEvent_eq ..)

/-- Where a flit of lane l transfers, the mesh takes the next one, and a post may end; else only the counters, the stall count and the
bucket of the rate limit change. -/
theorem takeFlit_perf {l : BitVec 2} {s : State} {f : Flit} {q : List Flit} (hf : s.mesh.egress.get l = f :: q) :
    ∃ toll, OnlyPerf { s with
      mesh := { popFlit l f q s.mesh with posts := if l = 3 ∧ f.last = true then s.mesh.posts.drop 1 else s.mesh.posts }
      pins := { s.pins with stallMesh := 0 }
      toll := toll } (takeFlit l s) := by
  unfold takeFlit
  rw [hf]
  dsimp only
  generalize (if (l != 0 && meshLimited s) = true then { s.toll with tokM := s.toll.tokM - 1024 } else s.toll) = toll
  refine ⟨toll, ?_⟩
  by_cases h : l = 3 ∧ f.last = true
  · rw [if_pos h, if_pos (by simpa using h)]
    exact postGone_perf _
  · rw [if_neg h, if_neg (by simpa using h)]
    exact OnlyPerf.refl _

/-- The FIFO of a lane after a transfer: what stands behind it moves up (R16). -/
theorem popFlit_egress (l : BitVec 2) (f : Flit) (q : List Flit) (m : Mesh) :
    (popFlit l f q m).egress = m.egress.set l ((q ++ m.stage.get l).take 4) ∧
      (popFlit l f q m).stage = m.stage.set l ((q ++ m.stage.get l).drop 4) := by
  simp [popFlit, Mesh.feed]

theorem driveFlit_transfers {s : State} {l : BitVec 2} {f : Flit} {q : List Flit} (hl : chooseLane s = some l)
    (h : tollHolds s l = false) (hf : s.mesh.egress.get l = f :: q) {ready : BitVec 4} (hr : bit ready l.toNat = true) :
    ∃ u toll, driveFlit ready s = noteFences u ∧ OnlyPerf { s with
      mesh := { popFlit l f q s.mesh with posts := if l = 3 ∧ f.last = true then s.mesh.posts.drop 1 else s.mesh.posts }
      pins := { s.pins with stallMesh := 0 }
      toll := toll } u := by
  have hn : offerNext s = { s with mesh := { s.mesh with offered := some l, lastFlit := f } } := by
    simp [offerNext, hl, h, offerFlit, hf]
  unfold driveFlit
  rw [hn]
  simp only [hr, if_true]
  generalize ht : ({ s with mesh := _ } : State) = t
  have ha := account_eq t t
  generalize account t t = a at ha
  have hm : a.mesh = { s.mesh with offered := some l, lastFlit := f } := by rw [ha.1, ← ht]
  have hp : a.pins = s.pins := by rw [ha.1, ← ht]
  obtain ⟨toll, hu⟩ := takeFlit_perf (l := l) (s := a) (f := f) (q := q) (by rw [hm]; exact hf)
  refine ⟨_, toll, rfl, OnlyPerf.trans ⟨?_, fun c => ?_⟩ hu⟩
  · rw [hm, hp, ha.1, ← ht]
    rfl
  · have := ha.2 c
    rw [← ht] at this
    exact this

/-- The fence is acknowledged (R40, R44): what the pin shows follows from the mesh, the Causeway and the pins. -/
theorem ackFence_eq (s : State) : ackFence s = { s with pins := { s.pins with fenceAck := s.pins.hfence && !(s.mesh.mid.q2 || s.mesh.mid.q3 ||
    s.mesh.offered == some 2 || s.mesh.offered == some 3 || s.cw.offered) &&
      !(s.boot.phase == .coldReset || s.boot.phase == .heldByWrst) } } := rfl

end Sys2Proof.Machine

namespace Sys2Proof.Machine
open Sys2Proof

/-! ## What a record, a count and a noted fence leave unchanged -/

/-- From s to t, only the counters and the trace have changed, and of the contexts what they wait for. -/
def Recorded (s t : State) : Prop :=
  t = { s with ctx := t.ctx, perf := t.perf, free := t.free, trace := t.trace, intr := { s.intr with ipend := t.intr.ipend } } ∧
    ∀ c, CtxKept (s.getCtx c) (t.getCtx c)

theorem Recorded.trans {s t u : State} (h : Recorded s t) (g : Recorded t u) : Recorded s u := by
  refine ⟨?_, fun c => (h.2 c).trans (g.2 c)⟩
  obtain ⟨h, -⟩ := h
  obtain ⟨g, -⟩ := g
  rw [h] at g
  exact g

theorem OnlyPerf.recorded {s t : State} (h : OnlyPerf s t) : Recorded s t := by
  refine ⟨?_, fun c => (h.2 c).kept⟩
  rw [h.1]

theorem traceRec_recorded (typ : BitVec 6) (ctx : Option (CtxId × W32)) (p q : W64) (s : State) :
    Recorded s (traceRec typ ctx p q s) := by
  rw [traceRec_eq]
  exact ⟨rfl, fun _ => CtxKept.refl _⟩

theorem FencesNoted.recorded {s t : State} (h : FencesNoted s t) : Recorded s t := by
  refine ⟨?_, fun c => ?_⟩
  · rw [h.eq]
  · obtain ⟨w, hw⟩ := h.1 c
    rw [hw]
    rfl

theorem cwLeave_recorded (c : BitVec 4) (k : CwCh) (s : State) : Recorded (setCw c k s) (cwLeave c k s) :=
  (accountChange_eq ..).recorded.trans <| (traceRec_recorded ..).trans (noteFences_noted _).recorded

/-! ## Channels of the Causeway -/

theorem cwCh_setCw_ne {c d : BitVec 4} (h : d ≠ c) (k : CwCh) (s : State) : cwCh (setCw c k s) d = cwCh s d :=
  vget_vset_ne _ (fun e => h (BitVec.eq_of_toNat_eq e)) _ _

theorem Recorded.setCw {s t : State} (h : Recorded s t) (c : BitVec 4) (k : CwCh) : Recorded (setCw c k s) (setCw c k t) := by
  refine ⟨?_, h.2⟩
  obtain ⟨h, -⟩ := h
  rw [h]
  rfl

/-- Elements per beat and bytes per element of a form (R308, R444). -/
theorem cwPerBeat_eq (f : BitVec 4) : cwPerBeat f = if f = 1 then 16 else if f = 3 then 4 else 8 := by
  revert f; decide

theorem elemBytes_eq (k : CwCh) :
    k.elemBytes = if k.hdr.extractLsb' 0 4 = 1 then 2 else if k.hdr.extractLsb' 0 4 = 3 then 8 else 4 := by
  have : ∀ f : BitVec 4, (match f.toNat with | 1 => 2 | 3 => 8 | _ => 4 : Nat) = if f = 1 then 2 else if f = 3 then 8 else 4 := by decide
  exact this _

/-- A contribution has its header and at least one beat of data (R308). -/
theorem two_le_cwTotal (w : W64) : 2 ≤ cwTotal w := by
  have h := cwPerBeat_eq (fld w 0 4)
  unfold cwTotal
  dsimp only
  generalize cwPerBeat (fld w 0 4) = p at h
  have hp : 0 < p := by
    rw [h]
    split
    · omega
    · split <;> omega
  have : 0 < (fldN w 48 16 + 1 + p - 1) / p := Nat.div_pos (by omega) hp
  omega

theorem cwChecks_of_checked {s : State} (h : ∀ ch, cwAwaits s ch = false) : cwChecks s = s := by
  unfold cwChecks
  generalize List.range 16 = l
  induction l with
  | nil => rfl
  | cons i l ih => rw [List.foldl_cons, h, if_neg (by decide)]; exact ih

theorem cwOffer_of_checked {s : State} (h : ∀ ch, cwAwaits s ch = false) : cwOffer s = offerBeat (cwFill s) := by
  unfold cwOffer
  rw [cwChecks_of_checked h, ite_self]

/-- The FIFO takes nothing while it is full or no channel is ready. -/
theorem cwFill_of_still {s : State} (h : 8 ≤ s.cw.fifo.length ∨ ∀ c, (cwPending s c && cwHasCredit s c) = false) : cwFill s = s := by
  unfold cwFill
  split
  · rfl
  · have : cwReady s = [] := by
      unfold cwReady
      rw [List.filter_eq_nil_iff]
      intro c _
      rw [(h.resolve_left ‹_›) c]
      decide
    rw [this]
    rfl

/-- The first ready channel, counted from the one served last, is served (R28). -/
theorem cwReady_eq_cons {s : State} {n : Nat} (hn : n < 16)
    (h : (cwPending s (s.cw.last + 1 + BitVec.ofNat 4 n) && cwHasCredit s (s.cw.last + 1 + BitVec.ofNat 4 n)) = true)
    (hb : ∀ m < n, (cwPending s (s.cw.last + 1 + BitVec.ofNat 4 m) && cwHasCredit s (s.cw.last + 1 + BitVec.ofNat 4 m)) = false) :
    ∃ cs, cwReady s = (s.cw.last + 1 + BitVec.ofNat 4 n) :: cs := by
  unfold cwReady
  have hr : List.range 16 = List.range (n + 1 + (15 - n)) := by congr 1; omega
  rw [hr, List.range_add, List.range_succ, List.map_append, List.map_append, List.filter_append, List.filter_append]
  have : ((List.range n).map fun i => s.cw.last + 1 + BitVec.ofNat 4 i).filter (fun c => cwPending s c && cwHasCredit s c) = [] := by
    rw [List.filter_eq_nil_iff]
    intro c hc
    obtain ⟨m, hm, rfl⟩ := List.mem_map.1 hc
    rw [hb m (List.mem_range.1 hm)]
    decide
  rw [this, List.map_singleton, List.filter_singleton, h]
  exact ⟨_, rfl⟩

/-! ## The beat on offer (R26 to R28, R43, R500) -/

theorem sameView_self (s t : State) (h : t = { s with toll := t.toll }) : sameView s t = true := by
  rw [h]
  show sameView s s = true
  simp [sameView]

theorem accountChange_of_sameView {s t : State} (h : sameView s t = true) : accountChange s t = t := by
  simp [accountChange, h]

/-- Without an offered beat nothing transfers. -/
theorem execCausewayBeat_of_none {s t : State} (h : cwOffer s = t) (ho : t.cw.offered = false) (ht : t = { s with toll := t.toll }) :
    execCausewayBeat s = .next (ackFence t) := by
  unfold execCausewayBeat
  simp only [h, ho, Bool.false_eq_true, if_false]
  rw [accountChange_of_sameView (sameView_self s t ht)]

/-- The first beat is on offer, unless the fence or the rate limit holds it. -/
theorem offerBeat_offers {s : State} {b : Beat} {q : List Beat} (hf : s.cw.fifo = b :: q)
    (h : s.cw.offered = true ∨ s.pins.hfence = false ∧ cwTollHolds s = false) :
    ∃ b', offerBeat s = { s with cw := { s.cw with offered := true, lastBeat := b' } } := by
  unfold offerBeat
  rw [hf]
  rcases h with h | ⟨hh, ht⟩
  · refine ⟨s.cw.lastBeat, ?_⟩
    simp only [h, Bool.true_or, if_true]
    rw [← h]
  · by_cases ho : s.cw.offered = true
    · refine ⟨s.cw.lastBeat, ?_⟩
      simp only [ho, Bool.true_or, if_true]
      rw [← ho]
    · refine ⟨b, ?_⟩
      simp only [ho, hh, ht, Bool.false_eq_true, Bool.or_self, if_false]

/-- How channel k stands when its beat has transferred (R27, R446). -/
def sentBeat (isSeal : Bool) (k : CwCh) : CwCh :=
  { k with
    credit := k.credit - 1
    state := if isSeal then (if k.lost then 3 else 2) else k.state
    cause := if isSeal && k.lost then 6 else k.cause }

theorem cwTake_recorded {s : State} {b : Beat} {q : List Beat} (hf : s.cw.fifo = b :: q) :
    ∃ toll, Recorded { setCw b.ch (sentBeat b.isSeal (cwCh s b.ch))
      { s with cw := { s.cw with fifo := q, offered := false, lastBeat := b } } with
      pins := { s.pins with stallCw := 0 }, toll := toll } (cwTake s) := by
  unfold cwTake
  rw [hf]
  dsimp only
  generalize (if cwLimited s = true then { s.toll with tokC := s.toll.tokC - 1024 } else s.toll) = toll
  refine ⟨toll, ?_⟩
  have hu := (countEvent_eq 6 4 1 ((cwCh s b.ch).cap.map fun g => (g.sup, g.sealed)) (.cw b.ch) none
    { setCw b.ch { cwCh s b.ch with credit := (cwCh s b.ch).credit - 1 }
      { s with cw := { s.cw with fifo := q, offered := false, lastBeat := b } } with
      pins := { s.pins with stallCw := 0 }, toll := toll }).recorded
  generalize countEvent _ _ _ _ _ _ _ = u at hu
  split
  · rename_i hs
    have leaves : ∀ k, Recorded { setCw b.ch k { s with cw := { s.cw with fifo := q, offered := false, lastBeat := b } } with
        pins := { s.pins with stallCw := 0 }, toll := toll } (cwLeave b.ch k u) := fun k => by
      have := (hu.setCw b.ch k).trans (cwLeave_recorded b.ch k u)
      simpa only [setCw, vset_vset] using this
    convert leaves _ using 4
    simp only [sentBeat, hs, if_true, Bool.true_and]
    split <;> rfl
  · rename_i hs
    have : sentBeat b.isSeal (cwCh s b.ch) = { cwCh s b.ch with credit := (cwCh s b.ch).credit - 1 } := by simp [sentBeat, hs]
    rw [this]
    exact hu

end Sys2Proof.Machine

namespace Sys2Proof.Machine
open Sys2Proof

/-! ## Beats of the Causeway (R26 to R28, R308, R445, R446) -/

/-- The beat on offer transfers with one credit. -/
theorem execCausewayBeat_transfers {s t : State} {b : Beat} {q : List Beat} (h : cwOffer s = t) (ho : t.cw.offered = true)
    (hf : t.cw.fifo = b :: q) :
    ∃ v, execCausewayBeat s = .next v ∧ v.cw.fifo = q ∧ v.cw.offered = false ∧ v.cw.lastBeat = b ∧ v.cw.last = t.cw.last ∧
      v.pins.stallCw = 0 ∧ v.mesh = t.mesh ∧ cwCh v b.ch = sentBeat b.isSeal (cwCh t b.ch) ∧
      (∀ d, d ≠ b.ch → cwCh v d = cwCh t d) ∧ v.spad = t.spad := by
  obtain ⟨toll, hr⟩ := cwTake_recorded hf
  replace hr := hr.trans (accountChange_eq s (cwTake t)).recorded
  refine ⟨ackFence (accountChange s (cwTake t)), ?_, ?_⟩
  · unfold execCausewayBeat
    simp only [h, ho, if_true]
  generalize accountChange s (cwTake t) = v at hr
  obtain ⟨hr, -⟩ := hr
  have hcw : (ackFence v).cw = { t.cw with
      ch := vset t.cw.ch b.ch.toNat (sentBeat b.isSeal (cwCh t b.ch)), fifo := q, offered := false, lastBeat := b } := by
    show v.cw = _
    rw [hr]
    rfl
  refine ⟨by rw [hcw], by rw [hcw], by rw [hcw], by rw [hcw], ?_, ?_, ?_, fun d hd => ?_, ?_⟩
  · show v.pins.stallCw = 0
    rw [hr]
  · show v.mesh = t.mesh
    rw [hr]
    rfl
  · unfold cwCh
    rw [hcw]
    exact vget_vset_same _ b.ch.isLt _ _
  · unfold cwCh
    rw [hcw]
    exact vget_vset_ne _ (fun e => hd (BitVec.eq_of_toNat_eq e)) _ _
  · show v.spad = t.spad
    rw [hr]
    rfl

/-- The beat of the channel that is served goes into the empty FIFO, is offered and transfers. -/
theorem execCausewayBeat_serves {s u : State} {c : BitVec 4} {cs : List (BitVec 4)} {data : BitVec 256}
    (hc : ∀ ch, cwAwaits s ch = false) (hf : s.cw.fifo = []) (hh : s.pins.hfence = false)
    (ht : (cwLimited s && decide (s.toll.tokC < 1024)) = false)
    (hready : cwReady s = c :: cs) (hb : cwBeat c s = (true, cwPush c data u)) (hu : u = { s with mesh := u.mesh }) :
    ∃ v, execCausewayBeat s = .next v ∧ v.cw.fifo = [] ∧
      v.cw.lastBeat = ⟨c, (cwCh s c).rid, data, (cwCh s c).sent + 1 == cwTotal (cwCh s c).hdr⟩ ∧ v.cw.last = c ∧
      cwCh v c = sentBeat ((cwCh s c).sent + 1 == cwTotal (cwCh s c).hdr) { cwCh s c with sent := (cwCh s c).sent + 1 } ∧
      (∀ d, d ≠ c → cwCh v d = cwCh s d) := by
  have hfill : cwFill s = cwPush c data u := by
    unfold cwFill
    rw [hf, hready]
    rw [List.length_nil, if_neg (by decide)]
    unfold cwServe
    rw [hb]
  have hcw : u.cw = s.cw := by rw [hu]
  have hch : cwCh u c = cwCh s c := by unfold cwCh; rw [hcw]
  have hpush : (cwPush c data u).cw.fifo = [⟨c, (cwCh s c).rid, data, (cwCh s c).sent + 1 == cwTotal (cwCh s c).hdr⟩] := by
    unfold cwPush
    rw [hch]
    show u.cw.fifo ++ _ = _
    rw [hcw, hf]
    rfl
  have htoll : cwTollHolds (cwPush c data u) = false := by
    have : (cwPush c data u).toll = s.toll := by
      show u.toll = _
      rw [hu]
    unfold cwTollHolds cwLimited
    rw [this, Bool.and_assoc]
    exact Bool.and_eq_false_imp.2 fun _ => ht
  obtain ⟨b', hoff⟩ := offerBeat_offers hpush (.inr ⟨by show u.pins.hfence = false; rw [hu]; exact hh, htoll⟩)
  obtain ⟨v, hv, hfifo, -, hlast, hl, -, -, hself, hothers, -⟩ := execCausewayBeat_transfers
    ((cwOffer_of_checked hc).trans ((congrArg offerBeat hfill).trans hoff)) rfl hpush
  refine ⟨v, hv, hfifo, hlast, hl, hself.trans ?_, fun d hd => (hothers d hd).trans ?_⟩
  · congr 1
    have : cwCh (cwPush c data u) c = { cwCh u c with sent := (cwCh u c).sent + 1 } := cwCh_setCw ..
    exact this.trans (by rw [hch])
  · have : cwCh (cwPush c data u) d = cwCh u d := cwCh_setCw_ne hd ..
    refine Eq.trans this ?_
    unfold cwCh
    rw [hcw]

/-! ## What a beat carries (R308) -/

/-- Word o of a contribution whose source is the scratchpad: zero beyond the last element. -/
def sourceWord (s : State) (k : CwCh) (o : Nat) : W64 :=
  if k.bytes ≤ 8 * o then 0
  else
    let w : W64 := match SMap.find? s.spad ((fldN k.src 0 20 + 8 * o) / 8) with | some w => w.val | none => 0
    if k.bytes < 8 * o + 8 then w &&& BitVec.ofNat 64 (2 ^ (8 * (k.bytes - 8 * o)) - 1) else w

theorem run_spadRead_held {s : State} {i : Nat} {w : TWord} (hl : s.rel.latent = []) (h : SMap.find? s.spad i = some w) (b : Bool) :
    spadRead b i s = .ok w s := by
  have : spadLook s i = .clean w := by simp [spadLook, latentAt, hl, spadHeld, h]
  unfold spadRead
  simp only [run_bind_ok (run_get s), this]
  rfl

theorem cwSpad_held {s : State} {i : Nat} {w : TWord} (hl : s.rel.latent = []) (h : SMap.find? s.spad i = some w) (c : BitVec 4) :
    cwSpad c i s = .ok w.val s := by
  have : spadLook s i = .clean w := by simp [spadLook, latentAt, hl, spadHeld, h]
  unfold cwSpad
  simp only [run_bind_ok (run_get s), this, run_bind_ok (run_spadRead_held hl h false)]
  rfl

theorem fld_or {n : Nat} (x y : BitVec n) (lo len : Nat) : fld (x ||| y) lo len = fld x lo len ||| fld y lo len := by
  ext i hi
  simp

/-- A word placed at its offset is read there, and nowhere else. -/
theorem fld_at'_word (w : W64) {i : Nat} (hi : i < 4) (j : Nat) :
    fld (at' (64 * i) w : BitVec 256) (64 * j) 64 = if j = i then w else 0 := by
  ext m hm
  by_cases h : j = i
  · subst h
    simp [at', show 64 * j + m < 256 by omega, BitVec.getLsbD_eq_getElem hm]
  · rw [if_neg h]
    by_cases hlt : j < i
    · simp [at', show 64 * j + m < 64 * i by omega]
    · have : w.getLsbD (64 * j + m - 64 * i) = false := BitVec.getLsbD_of_ge _ _ (by omega)
      simp [at', this]

theorem cwWord_spad {s : State} {k : CwCh} (hl : s.rel.latent = []) (hsk : k.sk = false) {o : Nat} {w : TWord}
    (h : SMap.find? s.spad ((fldN k.src 0 20 + o) / 8) = some w) (c : BitVec 4) : cwWord c k o s = .ok w.val s := by
  unfold cwWord
  rw [hsk]
  exact cwSpad_held hl h c

/-- The words of a beat of data, one behind the other. -/
theorem cwBeatData_spad {s : State} {k : CwCh} (c : BitVec 4) (j : Nat) (hl : s.rel.latent = []) (hsk : k.sk = false)
    (hz : k.zeros = false) {n : Nat} (hn : n ≤ 4) (h : ∀ i < n, 8 * (4 * j + i) < k.bytes →
      ∃ w, SMap.find? s.spad ((fldN k.src 0 20 + 8 * (4 * j + i)) / 8) = some w) :
    ∃ d, cwBeatData c k j n s = .ok d s ∧ (∀ i < n, fld d (64 * i) 64 = sourceWord s k (4 * j + i)) ∧
      ∀ i, n ≤ i → fld d (64 * i) 64 = 0 := by
  induction n with
  | zero => exact ⟨0, rfl, by simp, by simp⟩
  | succ n ih =>
    obtain ⟨d, hd, hwords, hzero⟩ := ih (by omega) fun i hi => h i (by omega)
    have ho : 32 * j + 8 * n = 8 * (4 * j + n) := by omega
    unfold cwBeatData
    rw [run_bind_ok hd]
    simp only [ho, hz, Bool.or_false]
    have placed : ∀ w, w = sourceWord s k (4 * j + n) →
        (∀ i < n + 1, fld (d ||| at' (64 * n) w) (64 * i) 64 = sourceWord s k (4 * j + i)) ∧
        ∀ i, n + 1 ≤ i → fld (d ||| at' (64 * n) w) (64 * i) 64 = 0 := by
      rintro w rfl
      refine ⟨fun i hi => ?_, fun i hi => ?_⟩
      · rw [fld_or, fld_at'_word _ (by omega)]
        by_cases e : i = n
        · subst e
          rw [hzero i (by omega), if_pos rfl]
          exact BitVec.zero_or
        · rw [hwords i (by omega), if_neg e]
          exact BitVec.or_zero
      · rw [fld_or, fld_at'_word _ (by omega), hzero i (by omega), if_neg (by omega)]
        exact BitVec.or_zero
    by_cases hb : k.bytes ≤ 8 * (4 * j + n)
    · have hnone : sourceWord s k (4 * j + n) = 0 := if_pos hb
      obtain ⟨h1, h2⟩ := placed 0 hnone.symm
      have hd0 : d ||| at' (64 * n) (0 : W64) = d := by simp [at']
      rw [hd0] at h1 h2
      refine ⟨d, ?_, h1, h2⟩
      simp only [hb, decide_true, if_true]
      rfl
    · obtain ⟨w, hw⟩ := h n (by omega) (by omega)
      have hword : sourceWord s k (4 * j + n) = if k.bytes < 8 * (4 * j + n) + 8 then
          w.val &&& BitVec.ofNat 64 (2 ^ (8 * (k.bytes - 8 * (4 * j + n))) - 1) else w.val := by
        simp only [sourceWord, if_neg hb, hw]
      obtain ⟨h1, h2⟩ := placed _ hword.symm
      refine ⟨_, ?_, h1, h2⟩
      simp only [hb, decide_false, Bool.false_eq_true, if_false]
      rw [run_bind_ok (cwWord_spad hl hsk hw c)]
      rfl

theorem cwBeat_header {s : State} {c : BitVec 4} (h : (cwCh s c).sent = 0) :
    cwBeat c s = (true, cwPush c ((cwCh s c).hdr.setWidth 256) s) := by
  unfold cwBeat
  simp only [h, if_true]

theorem cwBeat_data {s : State} {c : BitVec 4} {d : BitVec 256} (h : 0 < (cwCh s c).sent)
    (hd : cwBeatData c (cwCh s c) ((cwCh s c).sent - 1) 4 s = .ok d s) : cwBeat c s = (true, cwPush c d (dropChFills (.cw c) s)) := by
  unfold cwBeat
  simp only [Nat.ne_of_gt h, if_false, hd]

/-- A channel that may send (R27, R28), as the model asks it. -/
theorem cwReady_iff (s : State) (c : BitVec 4) : (cwPending s c && cwHasCredit s c) = true ↔
    (cwCh s c).state = 1 ∧ (cwCh s c).checked = true ∧ (cwCh s c).sent < cwTotal (cwCh s c).hdr ∧
      (s.cw.fifo.filter fun b => b.ch == c).length < (cwCh s c).credit.toNat := by
  unfold cwPending cwHasCredit cwInFifo cwCh
  simp only [Bool.and_eq_true, beq_iff_eq, decide_eq_true_eq, and_assoc]

/-! ## What leaves the core -/

theorem laneReady_of_reset {s : State} (h : atResetValues s = true) {l : BitVec 2} (hl : l ≠ 0) : laneReady s l = false := by
  have : (l == 0) = false := beq_eq_false_iff_ne.2 hl
  unfold laneReady
  rw [h, this]
  simp

/-- The conditions under which the rate limit lets lane l go (R500). -/
theorem tollHolds_iff {s : State} {l : BitVec 2} (h : s.mesh.offered = some l ∨ s.mesh.offered = none) :
    tollHolds s l = true ↔ ¬ (l = 0 ∨ s.mesh.offered = some l ∨ bit s.toll.ctl 0 = false ∨ fld s.toll.rate 0 16 = 0 ∨
      1024 ≤ s.toll.tokM) := by
  rcases h with h | h
  · simp [tollHolds, h]
  · simp only [tollHolds, h, meshLimited, Option.isNone_none, Bool.true_and, Bool.and_eq_true, bne_iff_ne, decide_eq_true_eq, not_or,
      reduceCtorEq, not_false_eq_true, true_and, Bool.not_eq_false, Nat.not_le]
    tauto

theorem creditReturn_eq {s : State} (h : inColdReset s = false) (ch : BitVec 4) :
    execCreditReturn ch s = .next (accountChange s (setCw ch
      { cwCh s ch with credit := if (cwCh s ch).credit = 63 then 63 else (cwCh s ch).credit + 1 } s)) := by
  unfold execCreditReturn
  simp only [h, Bool.false_eq_true, if_false, satInc_eq]
  rfl

/-- Settles O53: the mesh by the lane order and the transfer of a flit, the Causeway by the beat on offer and by the beat of the channel
that is served. -/
theorem meshSendAndCauseway : Obligations.MeshSendAndCauseway := by
  intro s acked awake
  have sent (t : State) : ackFence t = acked t := rfl
  refine ⟨fun hd he => ?_, fun ch hc hw => creditReturn_eq (inColdReset_eq_false hc hw) ch, fun hc => ?_⟩
  · have runs (ready : BitVec 4) : exec (.meshFlitSend ready) s = .next (acked (driveFlit ready s)) := execMeshFlitSend_eq hd he ready
    refine ⟨fun hempty ho ready => ?_, fun hawake h0 ho ready => ?_, fun l f q ready hf h1 => ?_⟩
    · rw [runs, driveFlit_of_no_lane ho (chooseLane_of_no_lane ho fun l => laneReady_of_empty (hempty l))]
    · rw [runs, driveFlit_of_no_lane ho (chooseLane_of_no_lane ho fun l => ?_)]
      by_cases hl : l = 0
      · rw [hl]
        exact laneReady_of_empty h0
      · exact laneReady_of_reset (atResetValues_eq_true hawake) hl
    · intro other hwhich free
      have hl : chooseLane s = some l := by
        refine chooseLane_eq_some (other := other) ?_ (by rw [hf]; exact List.cons_ne_nil _ _) ?_
        · rcases ctxId_cases l with rfl | rfl | rfl | rfl
          · exact .inl rfl
          · exact absurd rfl h1
          · exact .inr (.inl ⟨rfl, rfl⟩)
          · exact .inr (.inr ⟨rfl, rfl⟩)
        · exact hwhich.imp id (And.imp id (Or.imp id (And.imp atResetValues_eq_false id)))
      have hfree : tollHolds s l = true ↔ ¬ free := tollHolds_iff (hwhich.imp id And.left)
      refine ⟨fun hn => ?_, fun hy hr => ?_, fun hy hr => ?_⟩
      · have ho : s.mesh.offered = none := hwhich.elim (fun ho => absurd (.inr (.inl ho)) hn) And.left
        rw [runs, driveFlit_held hl ho (hfree.2 hn)]
      · obtain ⟨u, toll, hdrive, hu⟩ := driveFlit_transfers hl (Bool.eq_false_iff.2 fun h => hfree.1 h hy) hf hr
        obtain ⟨hegress, hstage⟩ := popFlit_egress l f q s.mesh
        obtain ⟨hform, hwoken⟩ := hu
        have hnoted := noteFences_noted u
        have ht := hnoted.eq
        generalize noteFences u = t at hdrive hnoted ht
        have hmesh : t.mesh = { popFlit l f q s.mesh with
            posts := if l = 3 ∧ f.last = true then s.mesh.posts.drop 1 else s.mesh.posts } := by rw [ht, hform]
        have hpins : t.pins = { s.pins with stallMesh := 0 } := by rw [ht, hform]
        have hboot : t.boot = s.boot := by rw [ht, hform]
        have hcw : t.cw = s.cw := by rw [ht, hform]
        have hrest : (t.caches, t.spad, t.cw, t.mesh.reqs) = (s.caches, s.spad, s.cw, s.mesh.reqs) := by
          rw [hcw, hmesh, ht, hform]
          rfl
        refine ⟨acked t, by rw [runs, hdrive], ?_, ?_, ?_, ?_, ?_, ?_, ?_, ⟨acked u, hwoken, hnoted.1, ?_⟩, hrest⟩
        · show t.mesh.egress = _
          rw [hmesh, ← hegress]
        · show t.mesh.stage = _
          rw [hmesh, ← hstage]
        · show t.mesh.lastFlit = _
          rw [hmesh]
          rfl
        · show t.mesh.offered = _
          rw [hmesh]
          rfl
        · show t.mesh.mid = _
          rw [hmesh]
          rfl
        · show t.mesh.posts = _
          rw [hmesh]
        · show (acked t).pins = (acked { s with mesh := t.mesh, pins := { s.pins with stallMesh := 0 } }).pins
          simp only [acked, hpins, hboot, hcw]
        · rw [ht]
      · rw [runs, driveFlit_waits hl (Bool.eq_false_iff.2 fun h => hfree.1 h hy) hf hr]
  · intro per size count total ready held still
    have htotal (k : CwCh) : cwTotal k.hdr = total k := by
      simp only [cwTotal, cwPerBeat_eq]
      rfl
    have hready (c : BitVec 4) : (cwPending s c && cwHasCredit s c) = true ↔ ready c := by rw [cwReady_iff, htotal]
    have hstill (h : still) : cwOffer s = offerBeat s := by
      rw [cwOffer_of_checked hc, cwFill_of_still (h.imp id fun h c => Bool.eq_false_iff.2 fun e => h c ((hready c).1 e))]
    have hheld : held ↔ (cwLimited s && decide (s.toll.tokC < 1024)) = true := by
      simp [held, cwLimited, and_assoc]
    have hholds (ho : s.cw.offered = false) : cwTollHolds s = (cwLimited s && decide (s.toll.tokC < 1024)) := by
      simp [cwTollHolds, ho]
    refine ⟨fun hf ho h => ?_, fun hf ho h hh => ?_, fun hf ho h hh hl => ?_, fun b q hf h hoff => ?_, ?_⟩
    · refine execCausewayBeat_of_none ((hstill h).trans ?_) ho rfl
      unfold offerBeat
      rw [hf]
    · refine execCausewayBeat_of_none ((hstill h).trans ?_) ho rfl
      unfold offerBeat
      obtain ⟨b, q, hq⟩ := List.exists_cons_of_ne_nil hf
      rw [hq]
      simp only [hh, Bool.or_true, if_true]
    · refine execCausewayBeat_of_none (t := { s with toll := { s.toll with held := true } }) ((hstill h).trans ?_) ho rfl
      unfold offerBeat
      obtain ⟨b, q, hq⟩ := List.exists_cons_of_ne_nil hf
      rw [hq, hholds ho]
      simp only [ho, hh, Bool.or_self, Bool.false_eq_true, if_false, hheld.1 hl, if_true]
    · obtain ⟨b', hb⟩ := offerBeat_offers hf (hoff.imp id fun ⟨hh, hn⟩ => ⟨hh, by
        cases ho : s.cw.offered
        · exact (hholds ho).trans (Bool.eq_false_iff.2 fun e => hn (hheld.2 e))
        · simp [cwTollHolds, ho]⟩)
      obtain ⟨v, hv, hfifo, ho, hlast, -, hstall, hmesh, hself, hothers, hspad⟩ :=
        execCausewayBeat_transfers ((hstill h).trans hb) rfl hf
      exact ⟨v, hv, hfifo, ho, hlast, hstall, hmesh, hself, hothers, hspad⟩
    · intro c n hn hcn hr hbefore hf ho hh hl k
      obtain ⟨cs, hcs⟩ := cwReady_eq_cons hn (by rw [← hcn]; exact (hready c).2 hr)
        fun m hm => Bool.eq_false_iff.2 fun e => hbefore m hm ((hready _).1 e)
      rw [← hcn] at hcs
      have serves := fun data u => execCausewayBeat_serves (u := u) (data := data) hc hf hh
        (Bool.eq_false_iff.2 fun e => hl (hheld.2 e)) hcs
      obtain ⟨hstate, -, hsent, -⟩ := hr
      refine ⟨fun h0 => ?_, fun hpos hsk hz hlost hlat hheldWords => ?_⟩
      · obtain ⟨v, hv, hfifo, hlast, hl, hself, hothers⟩ := serves _ s (cwBeat_header h0) rfl
        have hseal : ((cwCh s c).sent + 1 == cwTotal (cwCh s c).hdr) = false := by
          have := two_le_cwTotal (cwCh s c).hdr
          rw [beq_eq_false_iff_ne, h0]
          omega
        rw [hseal] at hlast hself
        refine ⟨v, hv, hlast, hl, hfifo, ?_, hothers⟩
        rw [hself, h0]
        rfl
      · replace hpos : 0 < (cwCh s c).sent := hpos
        obtain ⟨d, hd, hwords, -⟩ := cwBeatData_spad (k := cwCh s c) c ((cwCh s c).sent - 1) hlat hsk hz (Nat.le_refl 4) fun i hi hb =>
          hheldWords _ (by show 32 * ((cwCh s c).sent - 1) ≤ _; omega) (by show _ < 32 * (cwCh s c).sent; omega) (by rw [CwCh.bytes, elemBytes_eq] at hb; exact hb)
        obtain ⟨v, hv, hfifo, hlast, hl, hself, hothers⟩ := serves d _ (cwBeat_data hpos hd) rfl
        refine ⟨v, d, hv, ?_, hl, hfifo, fun i hi => ?_, ?_, hothers⟩
        · rw [hlast, htotal]
        · intro o
          rw [hwords i hi]
          simp only [sourceWord, CwCh.bytes, elemBytes_eq]
          rfl
        · rw [hself, htotal]
          by_cases hseal : (cwCh s c).sent + 1 = total (cwCh s c)
          · simp [sentBeat, hseal, hlost, k]
          · simp [sentBeat, hseal, hlost, hstate, k]

end Sys2Proof.Machine

namespace Sys2Proof.Machine
open Sys2Proof

/-! ## What sending leaves unchanged -/

/-- From s to t, only the mesh and the counters have changed, and of the contexts what they wait for. -/
def Sent (s t : State) : Prop :=
  t = { s with ctx := t.ctx, perf := t.perf, free := t.free, mesh := t.mesh, intr := { s.intr with ipend := t.intr.ipend } } ∧
    ∀ c, CtxKept (s.getCtx c) (t.getCtx c)

theorem Sent.refl (s : State) : Sent s s := ⟨rfl, fun _ => CtxKept.refl _⟩

theorem Sent.trans {s t u : State} (h : Sent s t) (g : Sent t u) : Sent s u := by
  refine ⟨?_, fun c => (h.2 c).trans (g.2 c)⟩
  obtain ⟨h, -⟩ := h
  obtain ⟨g, -⟩ := g
  rw [h] at g
  exact g

theorem Sent.of_mesh {s t : State} (h : t = { s with mesh := t.mesh }) : Sent s t := by
  rw [h]; exact ⟨rfl, fun _ => CtxKept.refl _⟩

theorem OnlyPerf.sent {s t : State} (h : OnlyPerf s t) : Sent s t := by
  refine ⟨?_, fun c => (h.2 c).kept⟩
  rw [h.1]

theorem sendPacket_sent (p : List Flit) (s : State) : Sent s (sendPacket p s) := by
  obtain ⟨t, ht, h⟩ := sendPacket_eq p s
  rw [h]
  exact ht.sent.trans (.of_mesh rfl)

theorem sendReq_sent (r : Req) (size : BitVec 4) (m : W64) (ls : List Line) (s : State) : Sent s (sendReq r size m ls s) := by
  unfold sendReq
  exact Sent.trans (.of_mesh rfl) (sendPacket_sent _ _)

/-- A write that the Tollgate lets go (R499). -/
theorem sendWrite_sent (op : ReqOp) (a : PAddr) (who : Requester) (size : BitVec 4) (m : W64) (d : Line) {exempt : Bool} {s : State}
    (h : (exempt || tollAllowsMem s a) = true) : Sent s (sendWrite op a who size m d exempt s) := by
  unfold sendWrite
  rw [if_pos h]
  exact sendReq_sent ..

theorem hitWatch_sent (w : Option CtxId) (n : Nat) (s : State) : Sent s (hitWatch w n s) := by
  refine ⟨?_, hitWatch_kept w n s⟩
  have h := hitWatch_eq w n s
  generalize hitWatch w n s = t at h
  rw [h]

/-! ## Regions of the observation plane (R466 to R480) -/

theorem nextHead_eq (h n units : Nat) (w : Bool) : nextHead h n units w =
    (BitVec.ofNat 32 (if units ≤ h + n ∧ w = true then h + n - units else h + n), decide (units ≤ h + n) && !w) := by
  unfold nextHead
  by_cases hu : units ≤ h + n
  · rw [if_neg (by omega)]
    cases w <;> simp [hu]
  · rw [if_pos (by omega)]
    simp [hu]

/-- Dump slots are of 256 bytes and trace records of 32 (R470, R474). -/
theorem regionUnits_dump (size : BitVec 17) : regionUnits size 256 = 4096 * fldN size 0 16 := Nat.mul_comm _ _
theorem regionUnits_trace (size : BitVec 17) : regionUnits size 32 = 32768 * fldN size 0 16 := Nat.mul_comm _ _

theorem regionUnits_eq_zero {size : BitVec 17} {m : Nat} (hm : m ≠ 0) : (fld size 0 16 == 0) = decide (m * fldN size 0 16 = 0) := by
  have : fld size 0 16 = 0 ↔ fldN size 0 16 = 0 := ⟨fun h => congrArg BitVec.toNat h, fun h => BitVec.eq_of_toNat_eq h⟩
  rw [Bool.eq_iff_iff, beq_iff_eq, decide_eq_true_eq, this, Nat.mul_eq_zero]
  exact ⟨.inr, fun h => h.resolve_left hm⟩

theorem regionBusy_eq_true {s : State} {who : Requester} (h : ∃ r ∈ s.mesh.reqs, r.who = who) : regionBusy s who = true := by
  simpa [regionBusy] using h

theorem regionBusy_eq_false {s : State} {who : Requester} (h : ∀ r ∈ s.mesh.reqs, r.who ≠ who) : regionBusy s who = false := by
  simpa [regionBusy] using h

/-- A record changes the queue of records and the counts of lost ones (R474). -/
theorem traceRec_trace (typ : BitVec 6) (ctx : Option (CtxId × W32)) (p q : W64) (s : State) :
    (traceRec typ ctx p q s).trace = { s.trace with
      trq := (traceRec typ ctx p q s).trace.trq
      trLost := (traceRec typ ctx p q s).trace.trLost
      trMissed := (traceRec typ ctx p q s).trace.trMissed } := by
  unfold traceRec
  dsimp only
  generalize (if (decide (0 < s.trace.trMissed) && traceOn s 9) = true then 2 else 1 : Nat) = need
  split
  · rfl
  · split <;> rfl

/-! ## Dumps (R469, R470) -/

theorem dumpTick_eq {s : State} (hon : bit s.trace.dmpctl 0 = true) (hn : fld s.trace.dmpctl 8 32 ≠ 0)
    (hm : (s.time.tick + s.time.tsoff).toNat % (1024 * fldN s.trace.dmpctl 8 32) = 0) :
    dumpTick s = (s.trace.dumpAt != some s.time.tick) := by
  have hpos : fldN s.trace.dmpctl 8 32 ≠ 0 := fun h => hn (BitVec.eq_of_toNat_eq h)
  have hn' : (fldN s.trace.dmpctl 8 32 * 1024 != 0) = true := bne_iff_ne.2 (by omega)
  unfold dumpTick tstamp
  rw [Nat.mul_comm] at hm
  dsimp only
  rw [hon, hn', beq_iff_eq.2 hm]
  rfl

/-- The slot of the next dump: behind a copy on its way and the dumps complete behind it. -/
theorem dumpSlot_eq (t : Trace) : dumpSlot t = match t.copyOut with
    | none => if t.dmhead.toNat < 4096 * fldN t.dmsize 0 16 then t.dmhead.toNat else 0
    | some a => (BitVec.ofNat 32 (if 4096 * fldN t.dmsize 0 16 ≤ a.toNat + (2 + t.behind) ∧ bit t.dmsize 16 = true then
        a.toNat + (2 + t.behind) - 4096 * fldN t.dmsize 0 16 else a.toNat + (2 + t.behind))).toNat := by
  unfold dumpSlot headOf
  simp only [nextHead_eq, regionUnits_dump] <;> rfl

theorem dumpDue_skips {s : State} (r : BitVec 4) (h : 4096 * fldN (dumpDone s).trace.dmsize 0 16 = 0 ∨ (dumpDone s).trace.dmFull = true ∨
    (dumpDone s).trace.dumpOut.isSome = true) :
    dumpDue r s = { dumpDone s with trace := { (dumpDone s).trace with dmSkip := satInc (dumpDone s).trace.dmSkip } } := by
  unfold dumpDue
  generalize dumpDone s = u at h
  dsimp only
  rw [regionUnits_eq_zero (m := 4096) (by decide), if_pos (by simpa [or_assoc] using h)]

theorem dumpDue_sends {s : State} (r : BitVec 4) (hz : 4096 * fldN (dumpDone s).trace.dmsize 0 16 ≠ 0)
    (hf : (dumpDone s).trace.dmFull = false) (ho : (dumpDone s).trace.dumpOut = none) :
    dumpDue r s = sendLines .dump ((dumpDone s).trace.dmbase.toNat * 2 ^ 20 + 256 * dumpSlot (dumpDone s).trace)
      (rawLines (dumpWords (dumpDone s) r) 4)
      { dumpDone s with trace := { (dumpDone s).trace with dumpOut := some ⟨BitVec.ofNat 32 (dumpSlot (dumpDone s).trace)⟩ } } := by
  unfold dumpDue
  generalize dumpDone s = u at *
  dsimp only
  rw [regionUnits_eq_zero (m := 4096) (by decide), hf, ho, decide_eq_false hz]
  rfl

theorem dumpDone_waits {s : State} (h : s.trace.dumpOut = none ∨ ∃ r ∈ s.mesh.reqs, r.who = .dump) : dumpDone s = s := by
  unfold dumpDone
  rcases h with h | h
  · rw [h]
  · rw [regionBusy_eq_true h]
    split <;> rfl

/-- A complete dump (R470): SEQ rises, and DMHEAD moves on, or will with the copy before it. -/
theorem dumpDone_completes {s : State} {d : DumpOut} (hd : s.trace.dumpOut = some d) (h : ∀ r ∈ s.mesh.reqs, r.who ≠ .dump) :
    (dumpDone s).trace.dumpOut = none ∧ (dumpDone s).trace.dmSeq = s.trace.dmSeq + 1 ∧
      ((dumpDone s).trace.dmhead, (dumpDone s).trace.behind) = (if s.trace.copyOut = none then
        ((nextHead d.head.toNat 1 (regionUnits s.trace.dmsize 256) (bit s.trace.dmsize 16)).1, s.trace.behind)
        else (s.trace.dmhead, s.trace.behind + 1)) ∧
      (dumpDone s).trace.dmFull =
        (s.trace.dmFull || (nextHead d.head.toNat 1 (regionUnits s.trace.dmsize 256) (bit s.trace.dmsize 16)).2) := by
  unfold dumpDone
  rw [hd]
  simp only [regionBusy_eq_false h, Bool.false_eq_true, if_false]
  rw [traceRec_trace]
  refine ⟨rfl, rfl, ?_, rfl⟩
  cases s.trace.copyOut <;> rfl

/-! ## Trace records (R474) -/

theorem traceDone_of_none {s : State} (h : s.trace.trOut = false) : traceDone s = s := by
  simp [traceDone, h]

theorem traceSend_idle {s : State} (h : s.trace.trq = [] ∨ s.trace.trFull = true) : traceSend s = s := by
  unfold traceSend
  dsimp only
  split
  · rfl
  · rename_i hq
    rw [hq] at h
    rw [if_pos]
    simp [h.resolve_left (List.cons_ne_nil _ _)]

/-- Sending a record changes no other field of the trace registers. -/
theorem traceSend_trace (s : State) : ∃ b, (traceSend s).trace = { s.trace with trOut := b } := by
  unfold traceSend
  dsimp only
  split
  · exact ⟨_, rfl⟩
  · split
    · exact ⟨_, rfl⟩
    · refine ⟨true, ?_⟩
      rw [((sendWrite_sent .poke _ .trace 0 _ _ (Bool.true_or _)).trans (hitWatch_sent none _ _)).1]

/-- What a region that is full does (R463, R474). -/
theorem traceFull_spec (s : State) : (traceFull s).trace = s.trace ∧
    (bit s.trace.trctl 16 = true → bit (traceFull s).intr.ipend 36 = true) ∧
    (bit s.perf.frzcfg 17 = true → bit (traceFull s).perf.frzstat 17 = true) := by
  unfold traceFull
  have hp : (if bit s.trace.trctl 16 = true then setPend 36 s else s).perf = s.perf := by split <;> simp
  have ht : (if bit s.trace.trctl 16 = true then setPend 36 s else s).trace = s.trace := by split <;> simp
  have hi : bit s.trace.trctl 16 = true →
      bit (if bit s.trace.trctl 16 = true then setPend 36 s else s).intr.ipend 36 = true := fun h => by
    rw [if_pos h, setPend_intr]
    exact bit_setBit_same _ (by decide)
  generalize (if bit s.trace.trctl 16 = true then setPend 36 s else s) = u at *
  refine ⟨?_, ?_, fun h => ?_⟩
  · rw [freezeTrigger_eq]; exact ht
  · rw [freezeTrigger_eq]; exact hi
  · unfold freezeTrigger
    rw [hp, if_pos h]
    exact bit_setBit_same _ (by decide)

/-- A record that was acknowledged is finished (R474): TRHEAD moves on, wraps where it may, or the region is full. -/
theorem traceDone_completes {s : State} (ho : s.trace.trOut = true) (hr : ∀ r ∈ s.mesh.reqs, r.who ≠ .trace) {e : W32 × Bool}
    (he : nextHead (headOf s.trace.trhead (regionUnits s.trace.trsize 32)) 1 (regionUnits s.trace.trsize 32) (bit s.trace.trsize 16) = e) :
    (traceDone s).trace = { s.trace with
      trOut := false, trq := s.trace.trq.drop 1, trhead := e.1, trFull := s.trace.trFull || e.2 } ∧
    (e.2 = true → bit s.trace.trctl 16 = true → bit (traceDone s).intr.ipend 36 = true) ∧
    (e.2 = true → bit s.perf.frzcfg 17 = true → bit (traceDone s).perf.frzstat 17 = true) := by
  unfold traceDone
  simp only [ho, regionBusy_eq_false hr, Bool.not_true, Bool.or_self, Bool.false_eq_true, if_false, he]
  by_cases hf : e.2 = true
  · rw [if_pos hf]
    obtain ⟨htrace, hpend, hfrz⟩ := traceFull_spec { s with trace := { s.trace with
      trOut := false, trq := s.trace.trq.drop 1, trhead := e.1, trFull := s.trace.trFull || e.2 } }
    exact ⟨htrace, fun _ => hpend, fun _ => hfrz⟩
  · rw [if_neg hf]
    exact ⟨rfl, fun h => absurd h hf, fun h => absurd h hf⟩

/-- The trace registers after TRACE_RECORD_WRITE: the record is finished, and the next one may be on its way. -/
theorem execTraceRecordWrite_eq {s : State} (h : inReset s = false) : execTraceRecordWrite s = .next (traceSend (traceDone s)) := by
  unfold execTraceRecordWrite
  rw [h]
  rfl

/-! ## The snapshot copy (R480) -/

theorem execSnapshotCopy_starts {s : State} (h : inReset s = false) (hc : s.trace.copyOut = none) :
    execSnapshotCopy s = .next (copyStart s) := by
  unfold execSnapshotCopy
  simp only [h, hc, Bool.false_eq_true, if_false]

theorem execSnapshotCopy_ends {s : State} (h : inReset s = false) {a : W32} (hc : s.trace.copyOut = some a)
    (hr : ∀ r ∈ s.mesh.reqs, r.who ≠ .snap) :
    execSnapshotCopy s = .next { s with trace := { s.trace with
      copyOut := none, copyQ := s.trace.copyQ.drop 1, behind := 0
      dmhead := (nextHead a.toNat (2 + s.trace.behind) (regionUnits s.trace.dmsize 256) (bit s.trace.dmsize 16)).1 } } := by
  unfold execSnapshotCopy
  simp only [h, hc, regionBusy_eq_false hr, Bool.false_eq_true, if_false]

/-! ## The Wayside path (R51) -/

/-- One beat of the first record: the first takes its mark, the eighth ends it. -/
theorem waysideBeat_eq {s : State} {r : WsRecord} {q : List WsRecord} (hq : s.rel.wsbuf = r :: q) :
    waysideBeat true s = { s with rel := { s.rel with
      wsbuf := if s.rel.wsBeat = 7 then q else r :: q
      wsBeat := s.rel.wsBeat + 1
      wsNow := if s.rel.wsBeat = 0 then s.rel.wsNow.filter (fun y => r != y) else s.rel.wsNow } } := by
  unfold waysideBeat
  by_cases h0 : s.rel.wsBeat = 0
  · simp only [h0, hq]
    rfl
  · by_cases h7 : s.rel.wsBeat = 7
    · have : ¬ (7 : BitVec 3) = 0 := by decide
      simp only [h7, hq, this, if_false]
      rfl
    · simp only [h0, h7, hq, if_false]
      rfl

/-- The beats of a record that have not gone yet, one after the other; the last ends the record. -/
theorem waysideBeats_eq {r : WsRecord} {q : List WsRecord} (l : List Nat) (s : State) (hq : s.rel.wsbuf = r :: q)
    (hl : l.length + s.rel.wsBeat.toNat = 8) :
    l.foldl (fun t _ => waysideBeat true t) s = { s with rel := { s.rel with
      wsbuf := q, wsBeat := 0
      wsNow := if s.rel.wsBeat = 0 then s.rel.wsNow.filter (fun y => r != y) else s.rel.wsNow } } := by
  have hlt := s.rel.wsBeat.isLt
  induction l generalizing s with
  | nil =>
    rw [List.length_nil] at hl
    omega
  | cons i l ih =>
    rw [List.length_cons] at hl
    rw [List.foldl_cons, waysideBeat_eq hq]
    by_cases h7 : s.rel.wsBeat = 7
    · have hnil : l = [] := List.length_eq_zero_iff.1 (by rw [h7] at hl; simpa using hl)
      rw [hnil, h7]
      rfl
    · have hne : s.rel.wsBeat.toNat ≠ 7 := fun h => h7 (BitVec.eq_of_toNat_eq h)
      have hnext : (s.rel.wsBeat + 1).toNat = s.rel.wsBeat.toNat + 1 := by
        rw [BitVec.toNat_add]
        exact Nat.mod_eq_of_lt (by simp; omega)
      have hpos : s.rel.wsBeat + 1 ≠ 0 := fun h => by
        rw [h] at hnext
        simp at hnext
      rw [if_neg h7, ih _ rfl (by show _ + (s.rel.wsBeat + 1).toNat = 8; omega) (by show (s.rel.wsBeat + 1).toNat < 8; omega)]
      simp only [hpos, if_false]

/-! ## The fault window (R485) -/

theorem execFcWindowEnd_eq {s : State} (h : inColdReset s = false) (hw : fldN s.rel.fccfg 0 16 * 1000000 ≤ s.rel.fcWin.toNat) :
    execFcWindowEnd s = .next { s with rel := { s.rel with
      fcstat := s.rel.fcstat.map fun f => setFld f 0 8 0
      fcWin := s.rel.fcWin - BitVec.ofNat 64 (fldN s.rel.fccfg 0 16 * 1000000), fcDeclCount := 0, fcDeclUnc := 0 } } := by
  unfold execFcWindowEnd
  simp only [h, Nat.not_lt.2 hw, decide_false, Bool.or_self, Bool.false_eq_true, if_false]

/-- The count of a structure is cleared, and the rest of its register stays. -/
theorem fcstat_cleared (v : Vector W64 8) {n : Nat} (hn : n < 8) :
    fld (vget (v.map fun f => setFld f 0 8 0) n 0) 0 8 = 0 ∧ fld (vget (v.map fun f => setFld f 0 8 0) n 0) 8 56 = fld (vget v n 0) 8 56 := by
  have : vget (v.map fun f => setFld f 0 8 0) n 0 = setFld (vget v n 0) 0 8 0 := by
    simp [vget, hn]
  rw [this]
  generalize vget v n 0 = w
  have low : ∀ i < 8, (0xFFFFFFFFFFFFFF00 : W64).getLsbD i = false := by decide
  have high : ∀ i < 56, (0xFFFFFFFFFFFFFF00 : W64).getLsbD (8 + i) = true := by decide
  have hmask : setFld w 0 8 0 = w &&& 0xFFFFFFFFFFFFFF00 := by simp [setFld]
  rw [hmask]
  refine ⟨?_, ?_⟩
  · ext i hi
    rw [BitVec.getElem_extractLsb', BitVec.getLsbD_and, Nat.zero_add, low i hi, Bool.and_false]
    simp
  · ext i hi
    rw [BitVec.getElem_extractLsb', BitVec.getLsbD_and, high i hi, Bool.and_true, BitVec.getElem_extractLsb']

/-! ## Tile completion and power (R213, R214, R216) -/

theorem workQueue_of_done (before todo : List TileJob) (s : State) (h : ∀ j ∈ todo, j.rest = []) : workQueue before todo s = s := by
  induction todo generalizing before with
  | nil => rfl
  | cons j todo ih =>
    unfold workQueue
    rw [h j List.mem_cons_self]
    exact ih _ fun i hi => h i (List.mem_cons_of_mem _ hi)

theorem tileStores_eq_false {s : State} (h : ∀ r ∈ s.mesh.reqs, r.op = .poke → r.who.ctx? = none) : tileStores s = false := by
  unfold tileStores
  rw [List.any_eq_false]
  intro r hr
  by_cases hp : r.op = .poke
  · have := h r hr hp
    cases hw : r.who <;> simp_all [Requester.ctx?]
  · simp [hp]

/-- When the queue has done what it can, the oldest instruction without work left completes. -/
theorem execTileComplete_eq {s t : State} {j : TileJob} {q : List TileJob} (hs : s.tile.tileq ≠ [])
    (ht : workQueue [] s.tile.tileq s = t) (hq : t.tile.tileq = j :: q) (hj : j.rest = [])
    (h : q ≠ [] ∨ ∀ r ∈ t.mesh.reqs, r.op = .poke → r.who.ctx? = none) :
    execTileComplete s = .next (noteFences (settle (accountChange t { t with tile := { t.tile with tileq := q } }))) := by
  have hwait : (t.tile.tileq.length == 1 && tileStores t) = false := by
    rcases h with h | h
    · have : q.length ≠ 0 := fun e => h (List.length_eq_zero_iff.1 e)
      rw [hq, List.length_cons, beq_eq_false_iff_ne.2 (by omega)]
      rfl
    · rw [tileStores_eq_false h, Bool.and_false]
  unfold execTileComplete
  have hne : s.tile.tileq.isEmpty = false := List.isEmpty_eq_false_iff.2 hs
  simp only [hne, ht, Bool.false_eq_true, if_false]
  have hfind : t.tile.tileq.find? (fun j => j.rest.isEmpty) = some j := by
    rw [hq, List.find?_cons, hj]
    rfl
  simp only [hfind, hwait, Bool.false_eq_true, if_false]
  rw [hq, List.erase_cons_head]

end Sys2Proof.Machine

namespace Sys2Proof.Machine
open Sys2Proof

theorem execDumpDue_due {s : State} (h : inReset s = false) (hd : dumpTick s = true) :
    execDumpDue s = .next (dumpDue 0 { account s s with trace := { (account s s).trace with dumpAt := some s.time.tick } }) := by
  unfold execDumpDue
  rw [hd, h]
  have : (account s s).time = s.time := by rw [(account_eq s s).1]
  simp only [this, Bool.not_false, Bool.and_self, if_true]

/-- A trace record is sent (R467, R474): its half of the line, in its place. -/
theorem traceSend_sends {s : State} {r : TrRecord} {q : List TrRecord} (hq : s.trace.trq = r :: q) (ho : s.trace.trOut = false)
    (hf : s.trace.trFull = false) (hz : fld s.trace.trsize 0 16 ≠ 0) (he : enabled s 8 = true) (hl : laneFull s 2 = false) {h : Nat}
    (hh : headOf s.trace.trhead (regionUnits s.trace.trsize 32) = h) :
    traceSend s = hitWatch none ((s.trace.trbase.toNat * 2 ^ 20 + 32 * h) / 64)
      (sendWrite .poke (BitVec.ofNat 52 ((s.trace.trbase.toNat * 2 ^ 20 + 32 * h) / 64 * 64)) .trace 0 (traceLine h r).2 (traceLine h r).1
        true { s with trace := { s.trace with trOut := true } }) := by
  have hz' : (fld s.trace.trsize 0 16 == 0) = false := beq_eq_false_iff_ne.2 hz
  unfold traceSend
  simp only [hq, hh, ho, hf, hz', he, hl, Bool.not_true, Bool.or_self, Bool.false_eq_true, if_false]

/-- A snapshot copy that has no region, or a full one, is dropped (R480). -/
theorem copyStart_drops {s : State} {ws : List W64} {rest : List (List W64)} (hq : s.trace.copyQ = ws :: rest)
    (ho : s.trace.dumpOut = none) (hl : laneFull s 2 = false) (h : 4096 * fldN s.trace.dmsize 0 16 = 0 ∨ s.trace.dmFull = true) :
    copyStart s = { s with trace := { s.trace with copyQ := rest } } := by
  unfold copyStart
  simp only [hq, ho, hl]
  rw [if_neg (by decide), regionUnits_eq_zero (m := 4096) (by decide), if_pos (by simpa using h)]

/-- The slots of a snapshot copy: two that follow each other, round the end where the region may wrap (R480). -/
theorem copySlots_eq (s : State) {units h : Nat} (hu : regionUnits s.trace.dmsize 256 = units) (hh : headOf s.trace.dmhead units = h) :
    copySlots s = if h + 1 < units then some (h, h + 1) else if bit s.trace.dmsize 16 = true then some (h, 0) else none := by
  unfold copySlots
  simp only [hu, hh]

theorem copyStart_tries {s : State} {ws : List W64} {rest : List (List W64)} (hq : s.trace.copyQ = ws :: rest)
    (ho : s.trace.dumpOut = none) (hl : laneFull s 2 = false) (hz : 4096 * fldN s.trace.dmsize 0 16 ≠ 0) (hf : s.trace.dmFull = false) :
    copyStart s = match copySlots s with
      | none => { s with trace := { s.trace with copyQ := rest, dmFull := true } }
      | some (a, b) => sendLines .snap (s.trace.dmbase.toNat * 2 ^ 20 + 256 * b) (rawLines (ws.drop 32) 4)
        (sendLines .snap (s.trace.dmbase.toNat * 2 ^ 20 + 256 * a) (rawLines (ws.take 32) 4)
          { s with trace := { s.trace with
            copyOut := some (BitVec.ofNat 32 a)
            dmFull := (nextHead a 2 (regionUnits s.trace.dmsize 256) (bit s.trace.dmsize 16)).2 } }) := by
  unfold copyStart
  simp only [hq, ho, hl]
  rw [if_neg (by decide), regionUnits_eq_zero (m := 4096) (by decide), hf, decide_eq_false hz]
  rfl

/-- Settles O52: each event of the observation plane and the tile unit by the rule above that says what it does. -/
theorem backgroundEvents : Obligations.BackgroundEvents := by
  intro s x live slots first wrap moved filled
  have hreset (h : live) : inReset s = false := inReset_eq_false h.2.2 h.1 h.2.1
  have hnext (h n : Nat) (size : BitVec 17) : nextHead h n (4096 * fldN size 0 16) (bit size 16) =
      (moved h n (4096 * fldN size 0 16) (bit size 16), filled h n (4096 * fldN size 0 16) (bit size 16)) := nextHead_eq ..
  refine ⟨fun hlive hon hn hm => ⟨fun hat => ?_, fun hat => ?_⟩, fun h => congrArg _ (dumpDone_waits h), fun d hd h => ?_, ?_, ?_,
    fun r q hq => ?_, fun hc hw h => ?_, fun j q hq hr h => ?_, fun j q k t hq hj hr hk hkr => ?_, fun hd hq => ?_, fun hon hd => ?_,
    fun hon hp => ?_⟩
  · show execDumpDue s = .next s
    have htick : dumpTick s = false := by
      rw [dumpTick_eq hon hn hm, hat]
      exact bne_self_eq_false _
    unfold execDumpDue
    rw [htick]
    rfl
  · intro a u hu y units slot
    have htick : dumpTick s = true := by
      rw [dumpTick_eq hon hn hm]
      exact bne_iff_ne.2 hat
    have hu : dumpDone { account s s with trace := { (account s s).trace with dumpAt := some s.time.tick } } = u := by
      injection hu
    have hdue := execDumpDue_due (hreset hlive) htick
    refine ⟨fun hskip => ?_, fun hz hf ho => ?_⟩
    · show execDumpDue s = _
      rw [hdue, dumpDue_skips 0 (by rw [hu]; exact hskip), hu]
      rfl
    · show execDumpDue s = _
      rw [hdue, dumpDue_sends 0 (by rw [hu]; exact hz) (by rw [hu]; exact hf) (by rw [hu]; exact ho), hu, dumpSlot_eq] <;> rfl
  · obtain ⟨hout, hseq, hhead, hfull⟩ := dumpDone_completes hd h
    rw [regionUnits_dump, hnext] at hhead hfull
    exact ⟨_, rfl, hout, hseq, hhead, hfull⟩
  · intro records h r q hq hlive
    have hrec : headOf s.trace.trhead (regionUnits s.trace.trsize 32) = h := by
      rw [regionUnits_trace]
      rfl
    have hruns := execTraceRecordWrite_eq (hreset hlive)
    refine ⟨fun ho hf hz he hl => ?_, fun ho hr => ?_⟩
    · show execTraceRecordWrite s = _
      rw [hruns, traceDone_of_none ho, traceSend_sends hq ho hf hz he hl hrec]
    · intro full
      have he : nextHead (headOf s.trace.trhead (regionUnits s.trace.trsize 32)) 1 (regionUnits s.trace.trsize 32) (bit s.trace.trsize 16) =
          (moved h 1 records (bit x.trsize 16), full) := by
        rw [hrec, regionUnits_trace]
        exact nextHead_eq ..
      obtain ⟨htrace, hpend, hfrz⟩ := traceDone_completes ho hr he
      have hrest : s.trace.trq.drop 1 = q := by rw [hq]; rfl
      rw [hrest] at htrace
      have hsame (h : full = true ∨ q = []) : traceSend (traceDone s) = traceDone s :=
        traceSend_idle (by rw [htrace]; exact h.symm.imp id fun h => by simp [h])
      obtain ⟨b, hb⟩ := traceSend_trace (traceDone s)
      rw [htrace] at hb
      refine ⟨_, hruns, by rw [hb], by rw [hb], by rw [hb], fun hfull hirq => ?_, fun hfull hcfg => ?_, fun hq => ?_⟩
      · rw [hsame (.inl hfull)]
        exact hpend hfull hirq
      · rw [hsame (.inl hfull)]
        exact hfrz hfull hcfg
      · rw [hsame (.inr hq), htrace]
  · intro hlive
    refine ⟨fun ws rest hc hq ho hl => ?_, fun h hc hr => ?_⟩
    · have hruns := execSnapshotCopy_starts (hreset hlive) hc
      have hslots := copySlots_eq s (regionUnits_dump _) (h := first) rfl
      refine ⟨fun h => ?_, fun hz hf hend hwrap => ?_, fun hz hf hroom => ?_⟩
      · exact hruns.trans (congrArg _ (copyStart_drops hq ho hl h))
      · refine hruns.trans (congrArg _ ?_)
        rw [copyStart_tries hq ho hl hz hf, hslots, if_neg (by exact Nat.not_lt.2 hend), if_neg (by exact Bool.eq_false_iff.1 hwrap)]
      · refine hruns.trans (congrArg _ ?_)
        have hpair : copySlots s = some (first, if first + 1 < slots then first + 1 else 0) := by
          rw [hslots]
          by_cases hr : first + 1 < slots
          · rw [if_pos hr, if_pos hr]
          · rw [if_neg hr, if_neg hr, if_pos (hroom.resolve_left hr)]
        rw [copyStart_tries hq ho hl hz hf, hpair, regionUnits_dump]
        dsimp only
        rw [hnext]
    · refine (execSnapshotCopy_ends (hreset hlive) hc hr).trans ?_
      rw [regionUnits_dump, hnext]
  · refine congrArg _ (waysideBeats_eq _ s hq ?_)
    have := s.rel.wsBeat.isLt
    rw [List.length_range]
    omega
  · refine ⟨_, execFcWindowEnd_eq (inColdReset_eq_false hc hw) h, fun n hn => fcstat_cleared _ hn, ?_⟩
    have hlt : fldN s.rel.fccfg 0 16 < 2 ^ 16 := BitVec.isLt _
    show (s.rel.fcWin - BitVec.ofNat 64 _).toNat = _
    have hnat : (BitVec.ofNat 64 (fldN s.rel.fccfg 0 16 * 1000000)).toNat = fldN s.rel.fccfg 0 16 * 1000000 := by
      rw [BitVec.toNat_ofNat]
      exact Nat.mod_eq_of_lt (by omega)
    rw [BitVec.toNat_sub_of_le (by rw [BitVec.le_def, hnat]; exact h), hnat]
  · exact execTileComplete_eq (by rw [hq]; exact List.cons_ne_nil _ _) (by rw [workQueue_of_done _ _ _ (by rw [hq]; exact hr)]) hq
      (hr j List.mem_cons_self) h
  · intro u h
    have hqueue : workQueue [] s.tile.tileq s = u := by
      rw [hq]
      unfold workQueue
      rw [if_neg (by simpa using hj), hk]
      exact workQueue_of_done _ _ _ hr
    have hu : u.tile.tileq = k :: q := by
      rw [show u.tile = _ from congrArg State.tile (accountChange_eq s _).1]
      rfl
    exact execTileComplete_eq (by rw [hq]; exact List.cons_ne_nil _ _) hqueue hu hkr h
  · show execTpwrDrainEnd s = _
    unfold execTpwrDrainEnd
    rw [hd, hq]
    rfl
  · show execTpwrGateOpen s = _
    unfold execTpwrGateOpen
    rw [hon, hd]
    rfl
  · show execTpwrPowerUp s = _
    unfold execTpwrPowerUp
    rw [hon, hp]
    rfl

end Sys2Proof.Machine

namespace Sys2Proof.Machine
open Sys2Proof

/-! ## A line in its set (R315, R317) -/

/-- The first number below n that f finds something for. -/
theorem findSome?_range_eq_some {α : Type} (f : Nat → Option α) {n : Nat} {b : α} :
    (List.range n).findSome? f = some b ↔ ∃ w < n, f w = some b ∧ ∀ i < w, f i = none := by
  induction n with
  | zero => simp
  | succ n ih =>
    rw [List.range_succ, List.findSome?_append, Option.or_eq_some_iff, ih, List.findSome?_eq_none_iff]
    simp only [List.mem_range, List.findSome?_singleton]
    constructor
    · rintro (⟨w, hw, h⟩ | ⟨hn, h⟩)
      · exact ⟨w, by omega, h⟩
      · exact ⟨n, by omega, h, hn⟩
    · rintro ⟨w, hw, h, hbefore⟩
      by_cases e : w = n
      · subst e
        exact .inr ⟨hbefore, h⟩
      · exact .inl ⟨w, by omega, h, hbefore⟩

/-- What way w of line n's set holds of line n: nothing while it is locked out. -/
def wayHolds (s : State) (c : CacheId) (n w : Nat) : Option (Nat × CLine) :=
  if wayLocked s c w then none
  else match SMap.find? (s.caches.lines c) ((n % c.sets) * c.ways + w) with
    | some l => if l.line == n then some ((n % c.sets) * c.ways + w, l) else none
    | none => none

theorem cacheFind_eq_some {s : State} {c : CacheId} {n : Nat} {e : Nat × CLine} :
    cacheFind s c n = some e ↔ ∃ w < c.ways, wayHolds s c n w = some e ∧ ∀ i < w, wayHolds s c n i = none :=
  findSome?_range_eq_some (wayHolds s c n)

theorem wayHolds_of_cacheFind_none {s : State} {c : CacheId} {n : Nat} (h : cacheFind s c n = none) {w : Nat} (hw : w < c.ways) :
    wayHolds s c n w = none :=
  List.findSome?_eq_none_iff.1 (show (List.range c.ways).findSome? (wayHolds s c n) = none from h) w (List.mem_range.2 hw)

theorem wayHolds_eq_some {s : State} {c : CacheId} {n w k : Nat} {l : CLine} (h : wayHolds s c n w = some (k, l)) :
    wayLocked s c w = false ∧ k = (n % c.sets) * c.ways + w ∧ SMap.find? (s.caches.lines c) k = some l ∧ l.line = n := by
  unfold wayHolds at h
  split at h
  · contradiction
  · rename_i hl
    split at h
    · split at h
      · cases h
        exact ⟨by simpa using hl, rfl, ‹_›, by simpa using ‹(_ == n) = true›⟩
      · contradiction
    · contradiction

theorem lines_cachePut (s : State) (c : CacheId) (k : Nat) (l : CLine) :
    (cachePut s c k l).caches.lines c = SMap.put (s.caches.lines c) k l := by
  cases c <;> rfl

/-- A line put into a way of its set is found there, when no way before holds the line. -/
theorem cacheFind_cachePut {s : State} {c : CacheId} {n w : Nat} {l : CLine} (hw : w < c.ways) (hu : wayLocked s c w = false)
    (hl : l.line = n) (hb : ∀ i < w, wayHolds s c n i = none) :
    cacheFind (cachePut s c ((n % c.sets) * c.ways + w) l) c n = some ((n % c.sets) * c.ways + w, l) := by
  have locked (i : Nat) : wayLocked (cachePut s c ((n % c.sets) * c.ways + w) l) c i = wayLocked s c i := rfl
  refine cacheFind_eq_some.2 ⟨w, hw, ?_, fun i hi => ?_⟩
  · unfold wayHolds
    rw [locked, hu, lines_cachePut, SMap.find?_put_same]
    simp [hl]
  · have := hb i hi
    unfold wayHolds at this ⊢
    rw [locked, lines_cachePut, SMap.find?_put_ne _ _ (by omega)]
    exact this

/-- A line found is found where it was, when it is written there. -/
theorem cacheFind_cachePut_found {s : State} {c : CacheId} {n k : Nat} {l l' : CLine} (h : cacheFind s c n = some (k, l))
    (hl : l'.line = n) : cacheFind (cachePut s c k l') c n = some (k, l') := by
  obtain ⟨w, hw, hhit, hb⟩ := cacheFind_eq_some.1 h
  obtain ⟨hu, rfl, -, -⟩ := wayHolds_eq_some hhit
  exact cacheFind_cachePut hw hu hl hb

/-- Where the caches and the lock-out are the same, a line is found in the same place. -/
theorem cacheFind_congr {s t : State} (hc : t.caches = s.caches) (hr : t.rel.wlock = s.rel.wlock) (c : CacheId) (n : Nat) :
    cacheFind t c n = cacheFind s c n := by
  unfold cacheFind wayLocked
  rw [hc, hr]

/-- A free way of the set takes the line, and no age rises (R317). -/
theorem chooseVictim_free {s : State} {c : CacheId} {n w : Nat} (hw : w < c.ways) (hu : wayLocked s c w = false)
    (hf : SMap.find? (s.caches.lines c) ((n % c.sets) * c.ways + w) = none) :
    ∃ v < c.ways, chooseVictim s c n = (v, 0) ∧ wayLocked s c v = false ∧
      SMap.find? (s.caches.lines c) ((n % c.sets) * c.ways + v) = none := by
  unfold chooseVictim
  dsimp only
  generalize hws : (List.range c.ways).filter (fun w => !wayLocked s c w) = ws
  have hmem : w ∈ ws := by rw [← hws]; simp [hw, hu]
  cases hv : ws.find? fun w => (SMap.find? (s.caches.lines c) ((n % c.sets) * c.ways + w)).isNone with
  | none =>
    have := List.find?_eq_none.1 hv w hmem
    rw [hf] at this
    exact absurd rfl this
  | some v =>
    have hin := List.mem_of_find?_eq_some hv
    have hnone := List.find?_some hv
    rw [← hws, List.mem_filter, List.mem_range] at hin
    exact ⟨v, hin.1, rfl, by simpa using hin.2, by simpa using hnone⟩

/-- A line that L1D does not hold goes into a free way of its set. -/
theorem insertL1D_free {s : State} {n : Nat} (h : cacheFind s .l1d n = none) {w : Nat} (hw : w < 8) (hu : wayLocked s .l1d w = false)
    (hf : SMap.find? s.caches.l1d (n % 64 * 8 + w) = none) (st : LineState) (d : Line) (age : BitVec 2) :
    ∃ k, insertL1D n st d age s = some (cachePut s .l1d k ⟨n, st, age, d⟩) ∧
      cacheFind (cachePut s .l1d k ⟨n, st, age, d⟩) .l1d n = some (k, ⟨n, st, age, d⟩) := by
  obtain ⟨v, hv, hchoose, hvu, hvf⟩ := chooseVictim_free (c := .l1d) (n := n) hw hu hf
  refine ⟨n % 64 * 8 + v, ?_, cacheFind_cachePut (c := .l1d) hv hvu rfl fun i hi =>
    wayHolds_of_cacheFind_none h (Nat.lt_trans hi hv)⟩
  have hread : readOut .l1d (n % 64 * 8 + v) s = (s, none) := by
    unfold readOut
    rw [show SMap.find? (s.caches.lines .l1d) (n % 64 * 8 + v) = none from hvf]
  unfold insertL1D
  rw [h, hchoose]
  simp only [ageSet, if_true, hread]

end Sys2Proof.Machine

namespace Sys2Proof.Machine
open Sys2Proof

/-! ## Answers to memory requests (R318, R325, R503) -/

theorem txid_of_reqOf {s : State} {txid : BitVec 8} {r : Req} (h : reqOf s txid = some r) : r.txid = txid := by
  simpa using List.find?_some h

/-- No snoop waits for line n: none acts. -/
theorem wakeSnoops_quiet {s : State} {n : Nat} (h : ∀ q ∈ s.mesh.snoops, q.line ≠ n) : wakeSnoops n s = s := by
  unfold wakeSnoops
  split
  · rfl
  · have hnone : (s.mesh.snoops.filter fun q => q.line == n) = [] := List.filter_eq_nil_iff.2 fun q hq => by simpa using h q hq
    have hall : (s.mesh.snoops.filter fun q => q.line != n) = s.mesh.snoops := List.filter_eq_self.2 fun q hq => by simpa using h q hq
    rw [hnone, hall]
    rfl

theorem noteFill_kept {f : Fill} (h : f.req.who ≠ .evict) (s : State) :
    noteFill f s = { s with mesh := { s.mesh with fills := s.mesh.fills ++ [f] } } := by
  unfold noteFill
  rw [if_neg (by simpa using h)]

theorem retryHeld_of_none {s : State} (h : ∀ f ∈ s.mesh.fills, f.held = false) : retryHeld s = s := by
  have : s.mesh.fills.filter (·.held) = [] := List.filter_eq_nil_iff.2 fun f hf => by simp [h f hf]
  unfold retryHeld
  rw [this]
  rfl

theorem drainStep_of_not_draining {s : State} (h : draining s = false) : drainStep s = s := by
  unfold drainStep
  rw [h]
  rfl

/-- A line for L1D with a free way goes there, and its access learns of it. -/
theorem placeFill_l1d {r : Req} {s : State} {n w : Nat} (hn : lineNo r.addr = n) (hd : draining s = false) (hl : s.boot.lame = false)
    (hto : (r.l1i, r.l1d, r.l2) = (false, true, false)) (hon : cacheOn s .l1d = true) (hwho : r.who ≠ .evict)
    (hnone : cacheFind s .l1d n = none) (he : ∀ e ∈ s.caches.ebuf, e.line ≠ n) (hw : w < 8) (hu : wayLocked s .l1d w = false)
    (hf : SMap.find? s.caches.l1d (n % 64 * 8 + w) = none) (excl : Bool) (d : Line) :
    ∃ k, let t := cachePut s .l1d k ⟨n, if excl then .exclusive else .shared, fillAge r.stream, d⟩
      placeFill r excl d s = { t with mesh := { t.mesh with fills := t.mesh.fills ++ [⟨r, false, excl, false, d⟩] } } ∧
        cacheFind t .l1d n = some (k, ⟨n, if excl then .exclusive else .shared, fillAge r.stream, d⟩) := by
  obtain ⟨hl1i, hl1d, hl2⟩ : r.l1i = false ∧ r.l1d = true ∧ r.l2 = false := by simpa using hto
  obtain ⟨k, hput, hfind⟩ := insertL1D_free hnone hw hu hf (if excl then .exclusive else .shared) d (fillAge r.stream)
  refine ⟨k, ?_, hfind⟩
  have hbuf : (s.caches.ebuf.any fun e => e.line == n) = false := by simpa using he
  have halloc : allocFill r excl d s = some (cachePut s .l1d k ⟨n, if excl then .exclusive else .shared, fillAge r.stream, d⟩) := by
    unfold allocFill
    simp [hn, hl1i, hl1d, hl2, hon, hbuf, hput]
  unfold placeFill
  simp only [hd, hl, halloc, Bool.or_self, Bool.false_eq_true, if_false]
  exact noteFill_kept hwho _

/-- A promoted line of L1D is exclusive (R325). -/
theorem promoted_l1d {s : State} {n k : Nat} {l : CLine} (h : cacheFind s .l1d n = some (k, l)) (hs : l.st = .shared) :
    cacheFind (promoted n s) .l1d n = some (k, { l with st := .exclusive }) ∧ (promoted n s).mesh = s.mesh := by
  obtain ⟨w, -, hhit, -⟩ := cacheFind_eq_some.1 h
  obtain ⟨-, -, -, hline⟩ := wayHolds_eq_some hhit
  unfold promoted
  simp only [h, hs, beq_self_eq_true, if_true]
  have hup : cacheFind (cachePut s .l1d k { l with st := .exclusive }) .l1d n = some (k, { l with st := .exclusive }) :=
    cacheFind_cachePut_found h hline
  generalize hv : cachePut s .l1d k { l with st := .exclusive } = v at hup
  have hm : v.mesh = s.mesh := by rw [← hv]; rfl
  split
  · split
    · exact ⟨hup, hm⟩
    · exact ⟨hup, hm⟩
  · exact ⟨hup, hm⟩

/-! ## Snoops (R324) -/

/-- Of what a context waits for and watches: the watch is as it was, and no event is lost. -/
def EventsGrow (e e' : Events) : Prop := e'.watch = e.watch ∧ ∀ i, bit e.evpend i = true → bit e'.evpend i = true

theorem EventsGrow.refl (e : Events) : EventsGrow e e := ⟨rfl, fun _ h => h⟩

theorem EventsGrow.trans {e f g : Events} (h : EventsGrow e f) (h' : EventsGrow f g) : EventsGrow e g :=
  ⟨h'.1.trans h.1, fun i hi => h'.2 i (h.2 i hi)⟩

theorem SameOrWoken.grow {k k' : Ctx} (h : SameOrWoken k k') : EventsGrow k.ev k'.ev := by
  rcases h with rfl | ⟨-, now, rfl⟩
  · exact EventsGrow.refl _
  · unfold Ctx.wokenByIrq
    split
    · exact ⟨rfl, fun _ h => h⟩
    · exact EventsGrow.refl _

theorem bit_setBit_mono {n : Nat} (x : BitVec n) (i : Nat) {j : Nat} (h : bit x j = true) : bit (setBit x i true) j = true := by
  by_cases e : j = i
  · subst e
    exact bit_setBit_same x (BitVec.lt_of_getLsbD h)
  · rw [bit_setBit_ne x e]
    exact h

theorem setEvent_ev (c : CtxId) (k : Nat) (s : State) :
    ((setEvent c k s).getCtx c).ev.evpend = setBit (s.getCtx c).ev.evpend k true ∧
      ((setEvent c k s).getCtx c).ev.watch = (s.getCtx c).ev.watch := by
  unfold setEvent
  rw [getCtx_modCtx]
  dsimp only
  split <;> exact ⟨rfl, rfl⟩

theorem setEvent_grow (c d : CtxId) (k : Nat) (s : State) : EventsGrow (s.getCtx d).ev ((setEvent c k s).getCtx d).ev := by
  by_cases e : d = c
  · subst e
    obtain ⟨hp, hw⟩ := setEvent_ev d k s
    exact ⟨hw, fun i hi => by rw [hp]; exact bit_setBit_mono _ _ hi⟩
  · unfold setEvent
    rw [getCtx_modCtx_ne _ _ e]
    exact EventsGrow.refl _

theorem foldl_setEvent_grow (k : Nat) (p : CtxId → Bool) (l : List CtxId) (s : State) (c : CtxId) :
    EventsGrow (s.getCtx c).ev ((l.foldl (fun t d => if p d then setEvent d k t else t) s).getCtx c).ev := by
  induction l generalizing s with
  | nil => exact EventsGrow.refl _
  | cons d l ih =>
    refine EventsGrow.trans ?_ (ih _)
    dsimp only
    split
    · exact setEvent_grow d c k s
    · exact EventsGrow.refl _

theorem setEvents_grow (k : Nat) (p : CtxId → Bool) (s : State) (c : CtxId) :
    EventsGrow (s.getCtx c).ev ((setEvents k p s).getCtx c).ev := foldl_setEvent_grow ..

/-- Every context that is picked has the event. -/
theorem setEvents_sets {k : Nat} (hk : k < 8) {p : CtxId → Bool} (s : State) {c : CtxId} (h : p c = true) :
    bit ((setEvents k p s).getCtx c).ev.evpend k = true := by
  have fold : ∀ (l : List CtxId) (t : State), c ∈ l →
      bit ((l.foldl (fun t d => if p d then setEvent d k t else t) t).getCtx c).ev.evpend k = true := by
    intro l
    induction l with
    | nil => intro t hc; cases hc
    | cons d l ih =>
      intro t hc
      rw [List.foldl_cons]
      by_cases e : c = d
      · subst e
        refine (foldl_setEvent_grow k p l _ c).2 k ?_
        rw [if_pos h, (setEvent_ev c k t).1]
        exact bit_setBit_same _ hk
      · exact ih _ ((List.mem_cons.1 hc).resolve_left e)
  refine fold _ s ?_
  rcases ctxId_cases c with rfl | rfl | rfl | rfl <;> decide

theorem lineGone_grow (n : Nat) (s : State) (c : CtxId) : EventsGrow (s.getCtx c).ev ((lineGone n s).getCtx c).ev := by
  unfold lineGone
  split
  · exact EventsGrow.refl _
  · exact setEvents_grow ..

theorem lineGone_eq (n : Nat) (s : State) : lineGone n s = { s with ctx := (lineGone n s).ctx } := by
  unfold lineGone
  split
  · rfl
  · exact setEvents_eq ..

/-- An invalidating snoop changes the contexts that watch its line, and nothing else (R409). -/
theorem snoopWatch_eq (q : Snoop) (s : State) : snoopWatch q s = { s with ctx := (snoopWatch q s).ctx } := by
  unfold snoopWatch
  split
  · have h := lineGone_eq q.line s
    have g := hitWatch_eq none q.line (lineGone q.line s)
    generalize lineGone q.line s = u at h g
    rw [g, h]
  · rfl

theorem snoopWatch_hits {q : Snoop} (hk : q.kill = true) {s : State} {c : CtxId} (hw : (s.getCtx c).ev.watch = .line q.line) :
    bit ((snoopWatch q s).getCtx c).ev.evpend 0 = true := by
  unfold snoopWatch
  rw [if_pos hk]
  refine setEvents_sets (by decide) _ ?_
  rw [(lineGone_grow q.line s c).1, hw]
  simp

theorem laneOf_answer : laneOf 0 = 0 ∧ laneOf 1 = 0 := by decide

/-- A packet stands behind the others of its lane (R16). -/
theorem sendPacket_lane (cls : BitVec 4) (h : BitVec 512) (d : List Line) (s : State) :
    (sendPacket (packet cls h d) s).mesh.lane (laneOf cls) = s.mesh.lane (laneOf cls) ++ packet cls h d := by
  have feed (m : Mesh) (l : BitVec 2) (fs : List Flit) : (m.feed l fs).lane l = m.lane l ++ fs := by
    simp [Mesh.feed, Mesh.lane]
  unfold sendPacket packet
  dsimp only
  rw [feed]
  have : (if (counting s && egressIdle s) = true then account s s else s).mesh = s.mesh := by
    split
    · rw [(account_eq s s).1]
    · rfl
  rw [this]

theorem sendPacket_grow (p : List Flit) (s : State) (c : CtxId) : EventsGrow (s.getCtx c).ev ((sendPacket p s).getCtx c).ev := by
  obtain ⟨t, ht, h⟩ := sendPacket_eq p s
  have : (sendPacket p s).getCtx c = t.getCtx c := by rw [h]
  rw [this]
  exact (ht.2 c).grow

end Sys2Proof.Machine

namespace Sys2Proof.Machine
open Sys2Proof

theorem clearLatent_of_none {s : State} (h : s.rel.latent = []) (i : BitVec 3) (p : EccEvent → Bool) : clearLatent i p s = s := by
  unfold clearLatent
  rw [h]
  rfl

/-- Without errors in the storage a lookup finds none (R322). -/
theorem meetLine_of_none {s : State} (h : s.rel.latent = []) (c : CacheId) (n : Nat) : meetLine c n s = s := by
  unfold meetLine meetErrors
  dsimp only
  rw [clearLatent_of_none h, h]
  rfl

theorem cacheFind_cacheDel_l2 {s : State} (h : s.rel.latent = []) (k n : Nat) : cacheFind (cacheDel s .l1d k) .l2 n = cacheFind s .l2 n := by
  unfold cacheDel
  split
  · rfl
  · rw [clearLatent_of_none (by exact h)]
    rfl

/-- What answers a snoop of line n at once: no write-back and no held fill of it stands between. -/
structure SnoopFree (n : Nat) (s : State) : Prop where
  latent : s.rel.latent = []
  reqs : ∀ r ∈ s.mesh.reqs, (r.op = .fillS ∨ r.op = .fillO ∨ r.op = .lineOut) → lineNo r.addr ≠ n
  ebuf : ∀ e ∈ s.caches.ebuf, e.line ≠ n
  fills : ∀ f ∈ s.mesh.fills, f.held = false
  l2 : cacheFind s .l2 n = none
  uninit : cacheUninit s .l1d = false

section
variable {n : Nat} {s : State} (h : SnoopFree n s)
include h

theorem SnoopFree.onlyPerf {t : State} (g : OnlyPerf s t) : SnoopFree n t := by
  obtain ⟨g, -⟩ := g
  have hm : t.mesh = s.mesh := by rw [g]
  have hc : t.caches = s.caches := by rw [g]
  have hr : t.rel = s.rel := by rw [g]
  refine ⟨by rw [hr]; exact h.latent, by rw [hm]; exact h.reqs, by rw [hc]; exact h.ebuf, by rw [hm]; exact h.fills, ?_, ?_⟩
  · rw [cacheFind_congr hc (by rw [hr])]
    exact h.l2
  · unfold cacheUninit
    rw [hc]
    exact h.uninit

theorem SnoopFree.waits : snoopWaits s n = false := by
  have : fillInFlight s n = false := by
    unfold fillInFlight
    rw [List.any_eq_false]
    intro r hr hb
    have hfill : r.op = .fillS ∨ r.op = .fillO ∧ True := by
      simp only [Bool.and_eq_true, Bool.or_eq_true, beq_iff_eq] at hb
      exact hb.1.1.imp id fun h => ⟨h, trivial⟩
    have hline : lineNo r.addr = n := by
      simp only [Bool.and_eq_true, beq_iff_eq] at hb
      exact hb.2
    exact h.reqs r hr (hfill.imp id fun h => .inl h.1) hline
  unfold snoopWaits
  rw [this]
  rfl

theorem SnoopFree.heldFill : heldFill s n = false := by
  unfold Machine.heldFill
  rw [List.any_eq_false]
  intro f hf
  simp [h.fills f hf]

theorem SnoopFree.lineOut : lineOutInFlight s n = false := by
  unfold lineOutInFlight
  rw [List.any_eq_false]
  intro r hr hb
  simp only [Bool.and_eq_true, beq_iff_eq] at hb
  exact h.reqs r hr (.inr (.inr hb.1)) hb.2

theorem SnoopFree.ebufFind : s.caches.ebuf.find? (fun e => e.line == n) = none :=
  List.find?_eq_none.2 fun e he => by simpa using h.ebuf e he

theorem SnoopFree.meets : snoopMeets n s = s := by
  unfold snoopMeets
  rw [meetLine_of_none h.latent, meetLine_of_none h.latent]

theorem SnoopFree.copy : snoopCopy s n = (cacheFind s .l1d n).map fun e => (e.2.data, e.2.st == .modified) := by
  have h2 : snoopFind s .l2 n = none := by
    unfold snoopFind
    rw [h.l2]
    split <;> rfl
  unfold snoopCopy
  rw [h2]
  unfold snoopFind
  rw [h.uninit]
  cases cacheFind s .l1d n <;> rfl

/-- The core does not hold the line (R324). -/
theorem answerSnoop_absent {q : Snoop} (hq : q.line = n) (h1 : cacheFind s .l1d n = none) :
    answerSnoop q s = snoopResp 0 q (snoopWatch q s) := by
  unfold answerSnoop
  subst hq
  simp only [h.meets, h.ebufFind, h.copy, h1, Option.map_none, h.heldFill, Bool.false_eq_true, if_false]

/-- L1D holds the line (R324): it answers with the data when that is dirty, and keeps the line shared or gives it up. -/
theorem answerSnoop_present {q : Snoop} (hq : q.line = n) {k : Nat} {l : CLine} (h1 : cacheFind s .l1d n = some (k, l)) :
    answerSnoop q s =
      let t := snoopWatch q (snoopHeld q (if q.kill then cacheDel s .l1d k else cachePut s .l1d k { l with st := .shared }))
      if l.st = .modified then snoopDirty q l.data t else snoopResp 1 q t := by
  subst hq
  have hcache : snoopCache q .l2 (snoopCache q .l1d s) =
      if q.kill then cacheDel s .l1d k else cachePut s .l1d k { l with st := .shared } := by
    have hfirst : snoopCache q .l1d s = if q.kill then cacheDel s .l1d k else cachePut s .l1d k { l with st := .shared } := by
      unfold snoopCache
      rw [h1]
    have hkeep : cacheFind (if q.kill then cacheDel s .l1d k else cachePut s .l1d k { l with st := .shared }) .l2 q.line = none := by
      split
      · rw [cacheFind_cacheDel_l2 h.latent, h.l2]
      · exact h.l2
    rw [hfirst]
    unfold snoopCache
    rw [hkeep]
  unfold answerSnoop
  simp only [h.meets, h.ebufFind, h.copy, h1, Option.map_some, hcache, h.lineOut, Bool.false_eq_true, if_false, beq_iff_eq]

end

/-- What comes of a snoop's answer, behind w on lane 0: the rest is as it was. -/
def Answered (s : State) (w : List Flit) (t : State) : Prop :=
  t.caches = s.caches ∧ t.boot = s.boot ∧ t.mesh.lane 0 = s.mesh.lane 0 ++ w ∧ ∀ c, EventsGrow (s.getCtx c).ev (t.getCtx c).ev

theorem snoopResp_answered (opc : BitVec 4) (q : Snoop) (s : State) :
    Answered s (packet 1 (memHeader (lineAddr q.line) opc q.src q.txid 0 0) []) (snoopResp opc q s) := by
  unfold snoopResp
  refine ⟨?_, ?_, sendPacket_lane 1 _ _ s, sendPacket_grow _ s⟩
  · rw [(sendPacket_sent _ s).1]
  · rw [(sendPacket_sent _ s).1]

theorem snoopDirty_answered (q : Snoop) (d : Line) (s : State) :
    Answered s (packet 1 (memHeader (lineAddr q.line) 2 q.src q.txid 0 0) [] ++ packet 0 (memHeader (lineAddr q.line) 1 q.src q.txid 0 0) [d])
      (snoopDirty q d s) := by
  obtain ⟨hcaches, hboot, hlane, hgrow⟩ := snoopResp_answered 2 q s
  unfold snoopDirty
  generalize snoopResp 2 q s = t at hcaches hboot hlane hgrow
  refine ⟨?_, ?_, ?_, fun c => (hgrow c).trans (sendPacket_grow _ t c)⟩
  · rw [(sendPacket_sent _ t).1]
    exact hcaches
  · rw [(sendPacket_sent _ t).1]
    exact hboot
  · exact (sendPacket_lane 0 _ _ t).trans (by rw [show laneOf 0 = 0 from rfl, hlane, List.append_assoc])

/-- A snoop outside cold reset, of a line that nothing stands in the way of, is answered at once. -/
theorem takeSnoop_answers {q : Snoop} {s : State} (hc : inColdReset s = false) (h : SnoopFree q.line s) :
    ∃ t, OnlyPerf s t ∧ SnoopFree q.line t ∧ takeSnoop q s = drainStep (answerSnoop q t) := by
  have ht := countEvent_eq 5 0 1 none .none (some ((lineAddr q.line).setWidth 64)) s
  refine ⟨_, ht, h.onlyPerf ht, ?_⟩
  unfold takeSnoop
  rw [hc]
  simp only [(h.onlyPerf ht).waits, Bool.false_eq_true, if_false]

theorem draining_congr {s t : State} (h : t.boot = s.boot) : draining t = draining s := by
  unfold draining
  rw [h]

/-- The answer goes out from what the snoop left of v, whose contexts and lanes are those of s. -/
theorem Answered.drained {s t v u : State} {q : Snoop} {w : List Flit} (ht : OnlyPerf s t) (hd : draining s = false)
    (hv : v = { t with caches := v.caches, mesh := { t.mesh with fills := v.mesh.fills } }) (h : Answered (snoopWatch q v) w u) :
    drainStep u = u ∧ u.caches = v.caches ∧ u.mesh.lane 0 = s.mesh.lane 0 ++ w ∧
      (q.kill = true → ∀ c, (s.getCtx c).ev.watch = .line q.line → bit (u.getCtx c).ev.evpend 0 = true) := by
  obtain ⟨hcaches, hboot, hlane, hgrow⟩ := h
  rw [snoopWatch_eq] at hcaches hboot hlane
  have hvb : v.boot = s.boot := by rw [hv, ht.1]
  have hvl : v.mesh.lane 0 = s.mesh.lane 0 := by rw [hv, ht.1]; rfl
  refine ⟨drainStep_of_not_draining ?_, hcaches, hlane.trans (by rw [← hvl]), fun hk c hw => (hgrow c).2 0 (snoopWatch_hits hk ?_)⟩
  · exact (draining_congr (hboot.trans hvb)).trans hd
  · have : v.getCtx c = t.getCtx c := by rw [hv]
    rw [this, (ht.2 c).grow.1, hw]

theorem cacheDel_of_hit {s : State} {c : CacheId} {k : Nat} {l : CLine} (h : s.rel.latent = [])
    (hf : SMap.find? (s.caches.lines c) k = some l) : cacheDel s c k = setCache s c (SMap.del (s.caches.lines c) k) := by
  unfold cacheDel
  rw [hf]
  exact clearLatent_of_none (by exact h) _ _

/-- A snoop leaves the line in L1D shared, or takes it away; of the rest it concerns the held fills alone. -/
theorem snoopLeaves (q : Snoop) {t : State} {n k : Nat} {l : CLine} (h : SnoopFree n t) (h1 : cacheFind t .l1d n = some (k, l))
    (hwf : SMap.wf t.caches.l1d = true) :
    let v := snoopHeld q (if q.kill then cacheDel t .l1d k else cachePut t .l1d k { l with st := .shared })
    v = { t with caches := v.caches, mesh := { t.mesh with fills := v.mesh.fills } } ∧
      SMap.find? v.caches.l1d k = if q.kill then none else some { l with st := .shared } := by
  obtain ⟨w, -, hhit, -⟩ := cacheFind_eq_some.1 h1
  obtain ⟨-, -, hf, -⟩ := wayHolds_eq_some hhit
  rw [cacheDel_of_hit h.latent hf]
  intro v
  cases hk : q.kill
  · simp only [v, hk, Bool.false_eq_true, if_false]
    exact ⟨rfl, SMap.find?_put_same _ _ _⟩
  · simp only [v, hk, if_true]
    exact ⟨rfl, SMap.find?_del_same _ _ hwf⟩

/-- Settles O55: each answer by what it ends, and a snoop by whether L1D holds its line. -/
theorem meshReceive : Obligations.MeshReceive := by
  intro s
  refine ⟨fun txid r hr => ?_, fun kill addr src txid => ?_, fun cls opc => ⟨fun hb hc hw => ?_, fun hb => ?_⟩⟩
  · intro n rest quiet
    replace hr : reqOf s txid = some r := hr
    have hend : endReq r s = { s with mesh := { s.mesh with reqs := rest } } := by
      unfold endReq
      rw [txid_of_reqOf hr]
    refine ⟨fun d hop hwho => ?_, fun d hop hwho hto hon hquiet hd hl hnone he ⟨w, hw, hu, hf⟩ x => ?_, fun hop => ?_,
      fun hop hd hf hlast => ?_, fun hop k l hfind hs => ?_, fun hop hwho hquiet => ?_⟩
    · intro t
      have arrives (x : Bool) : dataArrives x txid d s = t := by
        unfold dataArrives
        simp only [hr, hend]
        rcases hop with hop | hop
        · rw [hop]
          exact noteFill_kept hwho _
        · rw [hop]
          exact noteFill_kept hwho _
      exact ⟨congrArg _ (arrives false), congrArg _ (arrives true)⟩
    · have hruns : exec (if x then .dataX txid d else .dataS txid d) s = .next (dataArrives x txid d s) := by cases x <;> rfl
      obtain ⟨k, hplace, hfind⟩ := placeFill_l1d (s := { s with mesh := { s.mesh with reqs := rest } }) (n := n) rfl hd hl hto hon hwho
        hnone he hw hu hf x d
      refine ⟨_, k, hruns, ?_⟩
      have harrives : dataArrives x txid d s = placeFill r x d { s with mesh := { s.mesh with reqs := rest } } := by
        unfold dataArrives
        simp only [hr, hend, hop]
        rw [wakeSnoops_quiet]
        rw [hplace]
        exact hquiet
      rw [harrives, hplace]
      exact ⟨hfind, rfl, rfl, rfl⟩
    · intro ended t
      have hack : acknowledged r s = noteFences t := by
        unfold acknowledged
        rw [hend]
        rcases hop with hop | hop
        · rw [hop]
          rfl
        · rw [hop]
          rfl
      refine ⟨noteFences t, noteFences_noted t, ?_, ?_⟩
      · show execAck txid s = _
        unfold execAck
        rcases hop with hop | hop
        · simp only [hr, hop, hack]
        · simp only [hr, hop, hack]
      · show execErr txid s = _
        unfold execErr
        rcases hop with hop | hop
        · simp only [hr, hop, hack]
        · simp only [hr, hop, hack]
    · show execAck txid s = _
      have hlater : (rest.any fun x => x.op == .lineOut && lineNo x.addr == n) = false := by
        rw [List.any_eq_false]
        intro x hx hb
        simp only [Bool.and_eq_true, beq_iff_eq] at hb
        exact hlast x hx hb.1 hb.2
      unfold execAck acknowledged freeEntry
      simp only [hr, hop, hend]
      rw [if_neg (by rw [hlater]; decide), retryHeld_of_none (by exact hf), drainStep_of_not_draining (by exact hd)]
    · obtain ⟨hup, hmesh⟩ := promoted_l1d (s := { s with mesh := { s.mesh with reqs := rest } }) hfind hs
      refine ⟨_, ?_, hup, by rw [hmesh]⟩
      show execAck txid s = _
      unfold execAck acknowledged
      simp only [hr, hop, hend]
      rfl
    · show execErr txid s = _
      have hends : wakeSnoops n (noteFill ⟨r, true, false, false, Vector.replicate 8 TWord.poison⟩ (endReq r s)) =
          { s with mesh := { s.mesh with
            reqs := rest, fills := s.mesh.fills ++ [⟨r, true, false, false, Vector.replicate 8 TWord.poison⟩] } } := by
        rw [hend, noteFill_kept hwho, wakeSnoops_quiet (by exact hquiet)]
      unfold execErr
      rcases hop with hop | hop | hop | hop <;> simp only [hr, hop] <;> exact congrArg _ hends
  · intro n run reply
    have hruns : run = .next (takeSnoop ⟨n, src, txid, kill⟩ s) := by
      cases kill <;> rfl
    refine ⟨fun hcold => ?_, fun hc hw hd hlat hreqs he hf hl2 hun hwf => ?_⟩
    · have : inColdReset s = true := by
        rcases hcold with h | h <;> simp [inColdReset, h]
      rw [hruns]
      unfold takeSnoop
      rw [if_pos this]
      rfl
    · intro old
      obtain ⟨t, ht, hfree, htake⟩ := takeSnoop_answers (q := ⟨n, src, txid, kill⟩) (inColdReset_eq_false hc hw)
        ⟨hlat, hreqs, he, hf, hl2, hun⟩
      have hcaches : t.caches = s.caches := by rw [ht.1]
      have hfind : cacheFind t .l1d n = cacheFind s .l1d n := cacheFind_congr hcaches (by rw [ht.1]) _ _
      cases h1 : cacheFind s .l1d n with
      | none =>
        rw [answerSnoop_absent hfree rfl (hfind.trans h1)] at htake
        obtain ⟨hdrain, hcache, hlane, hhits⟩ := (snoopResp_answered 0 ⟨n, src, txid, kill⟩ _).drained (v := t) ht hd rfl
        rw [hdrain] at htake
        rw [← htake] at hcache hlane hhits
        exact ⟨_, hruns, hhits, fun _ => ⟨hcache.trans hcaches, hlane⟩, fun k l h => nomatch h⟩
      | some e =>
        obtain ⟨k, l⟩ := e
        obtain ⟨hform, hcopy⟩ := snoopLeaves ⟨n, src, txid, kill⟩ hfree (hfind.trans h1) (by rw [hcaches]; exact hwf)
        rw [answerSnoop_present hfree rfl (hfind.trans h1)] at htake
        dsimp only at htake
        by_cases hm : l.st = .modified
        · rw [if_pos hm] at htake
          obtain ⟨hdrain, hcache, hlane, hhits⟩ := (snoopDirty_answered ⟨n, src, txid, kill⟩ l.data _).drained ht hd hform
          rw [hdrain] at htake
          rw [← htake] at hcache hlane hhits
          refine ⟨_, hruns, hhits, (fun h => nomatch h), fun k' l' h => ?_⟩
          cases h
          rw [hcache, if_pos hm]
          exact ⟨hcopy, hlane⟩
        · rw [if_neg hm] at htake
          obtain ⟨hdrain, hcache, hlane, hhits⟩ := (snoopResp_answered 1 ⟨n, src, txid, kill⟩ _).drained ht hd hform
          rw [hdrain] at htake
          rw [← htake] at hcache hlane hhits
          refine ⟨_, hruns, hhits, (fun h => nomatch h), fun k' l' h => ?_⟩
          cases h
          rw [hcache, if_neg hm]
          exact ⟨hcopy, hlane⟩
  · show execBadPacket cls opc s = _
    unfold execBadPacket
    rw [hb, inColdReset_eq_false hc hw]
    rfl
  · show execBadPacket cls opc s = _
    unfold execBadPacket
    rw [hb]
    rfl

end Sys2Proof.Machine

namespace Sys2Proof.Machine
open Sys2Proof

/-! ## The tick counter FC1 and the switch of the counters (R452) -/

/-- From s to t, neither PMCTL nor FC1 has changed: no event and no accounting does that. -/
def FcKept (s t : State) : Prop := t.perf.pmctl = s.perf.pmctl ∧ vget t.perf.fc 1 0 = vget s.perf.fc 1 0

theorem FcKept.refl (s : State) : FcKept s s := ⟨rfl, rfl⟩

theorem FcKept.trans {s t u : State} (h : FcKept s t) (g : FcKept t u) : FcKept s u := ⟨g.1.trans h.1, g.2.trans h.2⟩

theorem FcKept.of_perf {s t : State} (h : t.perf = s.perf) : FcKept s t := by
  unfold FcKept
  rw [h]
  exact ⟨rfl, rfl⟩

theorem foldl_fcKept {α : Type} (f : State → α → State) (hf : ∀ s a, FcKept s (f s a)) (l : List α) (s : State) :
    FcKept s (l.foldl f s) := by
  induction l generalizing s with
  | nil => exact FcKept.refl s
  | cons a l ih => exact (hf s a).trans (ih _)

theorem addFc_fcKept {i : Nat} (h : 1 ≠ i) (n : Nat) (s : State) : FcKept s (addFc i n s) := ⟨rfl, vget_vset_ne _ h _ _⟩

theorem bumpPmc_fcKept (s : State) (k n : Nat) : FcKept s (bumpPmc s k n) := by
  unfold bumpPmc
  dsimp only
  split
  · exact FcKept.refl s
  · split
    · unfold FcKept
      rw [setPend_perf]
      exact ⟨rfl, rfl⟩
    · exact FcKept.refl s

theorem countEvent_fcKept (cls evt n : Nat) (cause : Option (Bool × Bool)) (m : Master) (a : Option W64) (s : State) :
    FcKept s (countEvent cls evt n cause m a s) := by
  unfold countEvent
  split
  · exact FcKept.refl s
  · refine foldl_fcKept _ (fun t k => ?_) _ _
    split
    · exact bumpPmc_fcKept t k n
    · exact FcKept.refl t

theorem countSlots_fcKept (n : Nat) (v s : State) : FcKept s (countSlots n v s) :=
  FcKept.trans (t := { s with free := s.free + 2 }) (FcKept.refl s) <|
    (countEvent_fcKept ..).trans <| (countEvent_fcKept ..).trans (countEvent_fcKept ..)

theorem countArraySlots_fcKept (n w : Nat) (q : Option (BitVec 2)) (v s : State) : FcKept s (countArraySlots n w q v s) := by
  unfold countArraySlots
  dsimp only
  split
  · exact countEvent_fcKept ..
  · exact FcKept.trans (t := { s with free := s.free + 1 }) (FcKept.refl s) ((countEvent_fcKept ..).trans (countEvent_fcKept ..))

theorem countAllArraySlots_fcKept (k : Steps) (v s : State) : FcKept s (countAllArraySlots k v s) := by
  unfold countAllArraySlots
  split
  · exact FcKept.refl s
  · split
    · exact foldl_fcKept _ (fun t q => countArraySlots_fcKept _ _ _ _ _) _ _
    · exact countArraySlots_fcKept ..

theorem countEngine_fcKept (k : Steps) (v s : State) (i p : Nat) (t : State) : FcKept t (countEngine k v s i p t) := by
  unfold countEngine
  dsimp only
  generalize (engineState _ _ _ _ _ _ _ _) = e
  split
  · exact FcKept.refl t
  · cases e with
    | none => exact FcKept.refl t
    | some x =>
      dsimp only
      split
      · exact bumpPmc_fcKept ..
      · exact FcKept.refl t

theorem countEngines_fcKept (k : Steps) (v s : State) : FcKept s (countEngines k v s) :=
  foldl_fcKept _ (fun t i => foldl_fcKept _ (fun u p => countEngine_fcKept k v s i p u) _ t) _ s

theorem countFree_fcKept (cls evt : Nat) (m : Option (Bool × Bool) × Master) (s : State) : FcKept s (countFree cls evt m s) :=
  foldl_fcKept _ (fun _ _ => countEvent_fcKept ..) _ s

theorem countMicro_fcKept (v s : State) : FcKept s (countMicro v s) :=
  foldl_fcKept _ (fun t m => (foldl_fcKept _ (fun u e => countFree_fcKept 1 e m u) _ t).trans (countFree_fcKept ..)) _ s

theorem countWaits_fcKept (n : Nat) (v s : State) : FcKept s (countWaits n v s) := by
  have first : FcKept s (match runningCtx v with
      | some c => if ((v.getCtx c).ev.fence.any fun f => f.done.isNone) = true then
          countEvent 2 6 n (some ((v.getCtx c).sup, (v.getCtx c).world)) (.ctx c) none s else s
      | none => s) := by
    split
    · split
      · exact countEvent_fcKept ..
      · exact FcKept.refl s
    · exact FcKept.refl s
  refine first.trans (foldl_fcKept _ (fun t i => ?_) _ _)
  dsimp only
  split
  · exact countEvent_fcKept ..
  · exact FcKept.refl t

theorem clearDebts_fcKept (s : State) : FcKept s (clearDebts s) := ⟨rfl, rfl⟩

theorem countSteps_fcKept (k : Steps) (v s : State) : FcKept s (countSteps k v s) := by
  have fix : FcKept s (addFc 0 k.n (addFc 2 k.rows (if (runningCtx v).isSome = true then addFc 3 (k.n - k.retiring) s else s))) := by
    refine FcKept.trans ?_ ((addFc_fcKept (by decide) _ _).trans (addFc_fcKept (by decide) _ _))
    split
    · exact addFc_fcKept (by decide) _ _
    · exact FcKept.refl s
  exact fix.trans <| (countEngines_fcKept ..).trans <| (countSlots_fcKept ..).trans <| (countAllArraySlots_fcKept ..).trans <|
    (clearDebts_fcKept _).trans <| (countWaits_fcKept ..).trans (countMicro_fcKept ..)

theorem account_fcKept (v s : State) : FcKept s (account v s) := by
  unfold account
  split
  · exact FcKept.refl s
  · exact FcKept.trans (t := { s with free := s.free + 7 }) (FcKept.refl s)
      ((countSteps_fcKept ..).trans ⟨rfl, rfl⟩)

theorem accountChange_fcKept (s t : State) : FcKept t (accountChange s t) := by
  unfold accountChange
  split
  · exact account_fcKept s t
  · exact FcKept.refl t

/-! ## What goes on behind the instructions -/

/-- From s to t, something has gone on behind the instructions: lines moved, packets and records went, events were counted. The clock, the
tile unit, the rates and the registers of every context are as they were, and the scratchpad too if `pad`. -/
structure Background (pad : Prop) (s t : State) : Prop where
  ctx : ∀ c, CtxKept (s.getCtx c) (t.getCtx c)
  boot : t.boot = s.boot
  time : t.time = s.time
  tile : t.tile = s.tile
  pending : t.pending = s.pending
  fcWin : t.rel.fcWin = s.rel.fcWin
  toll : (t.toll.rate, t.toll.ctl, t.toll.tokM, t.toll.tokC) = (s.toll.rate, s.toll.ctl, s.toll.tokM, s.toll.tokC)
  pins : (t.pins.refclk, t.pins.frz) = (s.pins.refclk, s.pins.frz)
  caddr : t.chain.caddr = s.chain.caddr
  perf : FcKept s t
  spad : pad → t.spad = s.spad

section
variable {pad : Prop} {s t u : State}

theorem Background.refl (s : State) : Background pad s s :=
  ⟨fun _ => CtxKept.refl _, rfl, rfl, rfl, rfl, rfl, rfl, rfl, rfl, FcKept.refl s, fun _ => rfl⟩

theorem Background.trans (h : Background pad s t) (g : Background pad t u) : Background pad s u :=
  ⟨fun c => (h.ctx c).trans (g.ctx c), g.boot.trans h.boot, g.time.trans h.time, g.tile.trans h.tile, g.pending.trans h.pending,
    g.fcWin.trans h.fcWin, g.toll.trans h.toll, g.pins.trans h.pins, g.caddr.trans h.caddr, h.perf.trans g.perf,
    fun p => (g.spad p).trans (h.spad p)⟩

/-- What keeps the scratchpad keeps the rest. -/
theorem Background.weaken {pad' : Prop} (h : Background pad s t) (g : pad' → pad) : Background pad' s t :=
  ⟨h.ctx, h.boot, h.time, h.tile, h.pending, h.fcWin, h.toll, h.pins, h.caddr, h.perf, fun p => h.spad (g p)⟩

theorem Background.of_onlyPerf (h : OnlyPerf s t) (g : FcKept s t) : Background pad s t := by
  refine ⟨fun c => (h.2 c).kept, ?_, ?_, ?_, ?_, ?_, ?_, ?_, ?_, g, fun _ => ?_⟩ <;> rw [h.1]

/-- Only contexts changed, and of them only what they wait for. -/
theorem Background.of_ctx (h : t = { s with ctx := t.ctx }) (g : ∀ c, CtxKept (s.getCtx c) (t.getCtx c)) : Background pad s t := by
  refine ⟨g, ?_, ?_, ?_, ?_, ?_, ?_, ?_, ?_, .of_perf ?_, fun _ => ?_⟩ <;> rw [h]

/-- Only places changed of which the relation says nothing. -/
theorem Background.of_rest (h : t = { s with
    mesh := t.mesh, caches := t.caches, tlbs := t.tlbs, cw := t.cw, cp := t.cp, trace := t.trace, intr := t.intr, keys := t.keys
    pace := t.pace, free := t.free
    rel := { t.rel with fcWin := s.rel.fcWin }
    chain := { s.chain with wsDrop := t.chain.wsDrop }
    toll := { t.toll with rate := s.toll.rate, ctl := s.toll.ctl, tokM := s.toll.tokM, tokC := s.toll.tokC }
    pins := { t.pins with refclk := s.pins.refclk, frz := s.pins.frz } }) : Background pad s t := by
  refine ⟨fun c => ?_, ?_, ?_, ?_, ?_, ?_, ?_, ?_, ?_, .of_perf ?_, fun _ => ?_⟩
  · have : t.getCtx c = s.getCtx c := by rw [h]
    rw [this]
    exact CtxKept.refl _
  all_goals rw [h]

end

theorem Background.foldl {pad : Prop} {α : Type} (f : State → α → State) (hf : ∀ s a, Background pad s (f s a)) (l : List α) (s : State) :
    Background pad s (l.foldl f s) := by
  induction l generalizing s with
  | nil => exact Background.refl s
  | cons a l ih => exact (hf s a).trans (ih _)

end Sys2Proof.Machine

namespace Sys2Proof.Machine
open Sys2Proof

variable {pad : Prop}

/-! ## Counts, packets, records and events -/

theorem countEvent_background (cls evt n : Nat) (cause : Option (Bool × Bool)) (m : Master) (a : Option W64) (s : State) :
    Background pad s (countEvent cls evt n cause m a s) := .of_onlyPerf (countEvent_eq ..) (countEvent_fcKept ..)

theorem countSpec_background (who : Requester) (evt : Nat) (a : W64) (s : State) : Background pad s (countSpec who evt a s) :=
  countEvent_background ..

theorem account_background (v s : State) : Background pad s (account v s) := .of_onlyPerf (account_eq v s) (account_fcKept v s)

theorem accountChange_background (s t : State) : Background pad t (accountChange s t) :=
  .of_onlyPerf (accountChange_eq s t) (accountChange_fcKept s t)

theorem setPend_background (v : Nat) (s : State) : Background pad s (setPend v s) :=
  .of_onlyPerf (setPend_eq v s) (.of_perf (setPend_perf s v))

theorem wayside_background (cause : BitVec 8) (c : Option CtxId) (d : W32) (s : State) : Background pad s (wayside cause c d s) :=
  .of_rest rfl

theorem setEvents_background (k : Nat) (p : CtxId → Bool) (s : State) : Background pad s (setEvents k p s) :=
  .of_ctx (setEvents_eq k p s) (setEvents_kept k p s)

theorem hitWatch_background (w : Option CtxId) (n : Nat) (s : State) : Background pad s (hitWatch w n s) := setEvents_background ..

theorem traceRec_background (typ : BitVec 6) (c : Option (CtxId × W32)) (p q : W64) (s : State) :
    Background pad s (traceRec typ c p q s) := by
  rw [traceRec_eq]
  exact .of_rest rfl

theorem noteFences_background (s : State) : Background pad s (noteFences s) :=
  .of_ctx (noteFences_noted s).eq fun c => by
    obtain ⟨w, hw⟩ := (noteFences_noted s).1 c
    rw [hw]
    rfl

theorem sendPacket_background (p : List Flit) (s : State) : Background pad s (sendPacket p s) := by
  unfold sendPacket
  split
  · exact Background.refl s
  · dsimp only
    refine Background.trans (t := if (counting s && egressIdle s) = true then account s s else s) ?_ (.of_rest rfl)
    split
    · exact account_background s s
    · exact Background.refl s

theorem sendReq_background (r : Req) (size : BitVec 4) (m : W64) (d : List Line) (s : State) :
    Background pad s (sendReq r size m d s) := by
  unfold sendReq
  exact Background.trans (.of_rest rfl) (sendPacket_background _ _)

theorem tollRefuse_background (mem : Bool) (cls : BitVec 4) (c : Option CtxId) (s : State) :
    Background pad s (tollRefuse mem cls c s) := by
  unfold tollRefuse
  dsimp only
  generalize (s.toll.mref == 0 && s.toll.iref == 0) = first
  refine Background.trans (t := if mem = true then { s with toll := { s.toll with mref := satInc s.toll.mref } }
    else { s with toll := { s.toll with iref := satInc s.toll.iref } }) ?_ ?_
  · split
    · exact .of_rest rfl
    · exact .of_rest rfl
  · cases first
    · exact Background.refl _
    · exact wayside_background ..

theorem sendWrite_background (op : ReqOp) (a : PAddr) (who : Requester) (size : BitVec 4) (m : W64) (d : Line) (x : Bool) (s : State) :
    Background pad s (sendWrite op a who size m d x s) := by
  unfold sendWrite
  split
  · exact sendReq_background ..
  · exact tollRefuse_background ..

/-! ## Storage errors (R322, R484) -/

theorem clearLatent_background (n : BitVec 3) (p : EccEvent → Bool) (s : State) : Background pad s (clearLatent n p s) := by
  unfold clearLatent
  split
  · exact Background.refl s
  · exact .of_rest rfl

theorem declareLasting_background (n : BitVec 3) (unc : Bool) (s : State) : Background pad s (declareLasting n unc s) := by
  unfold declareLasting
  dsimp only
  exact Background.trans (.of_rest rfl) ((setPend_background 37 _).trans (wayside_background ..))

theorem countError_background (n : BitVec 3) (way : BitVec 4) (unc : Bool) (s : State) : Background pad s (countError n way unc s) := by
  unfold countError
  dsimp only
  generalize (if unc = true then _ else _ : W64) = f
  have hc : Background pad s (countEvent 2 (if unc = true then 5 else 4) 1 none .none none
      { s with rel := { s.rel with fcstat := vset s.rel.fcstat n.toNat f } }) :=
    Background.trans (.of_rest rfl) (countEvent_background ..)
  generalize countEvent _ _ _ _ _ _ _ = t at hc
  split
  · exact hc
  · split
    · split
      · exact hc
      · exact hc.trans (declareLasting_background ..)
    · split
      · exact hc.trans (declareLasting_background ..)
      · exact hc

theorem machineCheck_background (src : BitVec 4) (a : BitVec 2) (d : W64) (s : State) : Background pad s (machineCheck src a d s) := by
  unfold machineCheck
  dsimp only
  exact Background.trans (.of_rest rfl) (setPend_background 0 _)

theorem setCache_background (s : State) (c : CacheId) (m : SMap CLine) : Background pad s (setCache s c m) := .of_rest rfl

theorem cachePut_background (s : State) (c : CacheId) (k : Nat) (l : CLine) : Background pad s (cachePut s c k l) := .of_rest rfl

theorem cacheDel_background (s : State) (c : CacheId) (k : Nat) : Background pad s (cacheDel s c k) := by
  unfold cacheDel
  split
  · exact Background.refl s
  · exact (setCache_background ..).trans (clearLatent_background ..)

theorem lineGone_background (n : Nat) (s : State) : Background pad s (lineGone n s) := by
  unfold lineGone
  split
  · exact Background.refl s
  · exact setEvents_background ..

theorem letGo_background (n : Nat) (s : State) : Background pad s (letGo n s) := by
  unfold letGo
  split
  · exact Background.refl s
  · exact sendPacket_background ..

theorem eccCache_background (c : CacheId) (e : EccEvent) (s : State) : Background pad s (eccCache c e s) := by
  unfold eccCache
  dsimp only
  split
  · exact Background.refl s
  · rename_i k l _
    have hc := countError_background (pad := pad) e.str e.way (e.uncorrectable || e.addrTag) s
    generalize countError _ _ _ s = t at hc
    split
    · exact hc
    split
    · have hd := hc.trans (cacheDel_background t c k)
      split
      · exact hd
      · refine hd.trans (Background.trans ?_ (lineGone_background ..))
        split
        · exact letGo_background ..
        · exact Background.refl _
    split
    · exact hc.trans ((cacheDel_background ..).trans ((machineCheck_background ..).trans (lineGone_background ..)))
    · exact hc.trans ((cachePut_background ..).trans (machineCheck_background ..))

theorem meetLine_background (c : CacheId) (n : Nat) (s : State) : Background pad s (meetLine c n s) := by
  unfold meetLine meetErrors
  exact (clearLatent_background ..).trans (.foldl _ (fun t e => eccCache_background c e t) _ _)

/-! ## Lines that move (R315 to R318) -/

theorem readOut_background (c : CacheId) (k : Nat) (s : State) : Background pad s (readOut c k s).1 := by
  unfold readOut
  split
  · exact Background.refl s
  · exact meetLine_background ..

theorem ebufPush_background {l2 : Bool} {n : Nat} {d : Line} {s t : State} (h : ebufPush l2 n d s = some t) : Background pad s t := by
  unfold ebufPush at h
  generalize (if l2 = true then 16 else 8) = room at h
  split at h
  · cases h
    exact .of_rest rfl
  · contradiction

theorem dropLine_background (c : CacheId) (k : Nat) (l : CLine) (s : State) : Background pad s (dropLine c k l s) := by
  unfold dropLine
  dsimp only
  split
  · exact cacheDel_background ..
  · refine (cacheDel_background s c k).trans (Background.trans ?_ (lineGone_background ..))
    split
    · exact letGo_background ..
    · exact Background.refl _

theorem drainL1D_background (k : Nat) (s : State) : Background pad s (drainL1D k s) := by
  have hr := readOut_background (pad := pad) .l1d k s
  unfold drainL1D
  generalize readOut .l1d k s = r at hr
  obtain ⟨t, l⟩ := r
  cases l with
  | none => exact hr
  | some l =>
    dsimp only
    split
    · split
      · exact hr
      · rename_i u hu
        refine hr.trans ((cacheDel_background t .l1d k).trans ((ebufPush_background hu).trans (Background.trans ?_ (lineGone_background ..))))
        split
        · exact cacheDel_background ..
        · exact Background.refl _
    · exact hr.trans (dropLine_background ..)

theorem drainL2_background (k : Nat) (s : State) : Background pad s (drainL2 k s) := by
  have hr := readOut_background (pad := pad) .l2 k s
  unfold drainL2
  generalize readOut .l2 k s = r at hr
  obtain ⟨t, l⟩ := r
  cases l with
  | none => exact hr
  | some l =>
    dsimp only
    split
    · exact hr
    · split
      · split
        · exact hr
        · rename_i u hu
          exact hr.trans ((cacheDel_background t .l2 k).trans ((ebufPush_background hu).trans (lineGone_background ..)))
      · exact hr.trans (dropLine_background ..)

theorem startEntry_background (e : EvEntry) (s : State) : Background pad s (startEntry e s) := by
  unfold startEntry
  dsimp only
  split
  · exact Background.refl s
  · exact Background.trans (.of_rest rfl) ((sendWrite_background ..).trans (countEvent_background ..))

theorem startWriteBacks_background (s : State) : Background pad s (startWriteBacks s) :=
  .foldl _ (fun t e => startEntry_background e t) _ s

/-- The drain moves lines and sends packets. -/
theorem drainStep_background (s : State) : Background pad s (drainStep s) := by
  have lines (drain : Nat → State → State) (hd : ∀ k t, Background pad t (drain k t)) (l : SMap CLine) (t : State) :
      Background pad t (l.foldl (fun t e => drain e.1 t) t) := .foldl _ (fun t e => hd e.1 t) l t
  unfold drainStep
  split
  · exact Background.refl s
  · exact (lines drainL1D drainL1D_background _ _).trans
      ((lines drainL2 drainL2_background _ _).trans (startWriteBacks_background _))

end Sys2Proof.Machine

namespace Sys2Proof.Machine
open Sys2Proof

/-! ## Frames and slots (R30 to R33) -/

/-- What a core does with a frame of this command whose CRC is good. -/
def chainAct (cmd : ChainCmd) (f : ChainFrame) : State → State :=
  match cmd with
  | .enum => enumAct f
  | .identq => identAct f
  | .read => readAct f
  | .write => writeAct f
  | .corerst => corerstAct f
  | .bwrite => bwriteAct f

/-- A slot is driven on the chain's own signals; nothing else changes. -/
theorem driveSlot_form (w : W64) (s : State) : ∃ o n, driveSlot w s = { s with chain := { s.chain with
    mcOut := o, mcFro := true, mcDelayed := none, sinceEnum := n } } := by
  unfold driveSlot
  dsimp only
  cases hd : s.chain.mcDelayed with
  | some e => exact ⟨e, 0, rfl⟩
  | none => exact ⟨w, min 64 (s.chain.sinceEnum + 1), by simp⟩

@[simp] theorem driveSlot_boot (w : W64) (s : State) : (driveSlot w s).boot = s.boot := by
  obtain ⟨_, _, h⟩ := driveSlot_form w s
  rw [h]

theorem respAct_boot (w : W64) (s : State) : (respAct w s).boot = s.boot := by
  unfold respAct
  split
  · exact driveSlot_boot ..
  · split <;> exact driveSlot_boot ..

theorem idleFrame_boot (w : W64) (s : State) : (idleFrame w s).boot = s.boot := by
  unfold idleFrame
  dsimp only
  split
  · rfl
  · split
    · rw [driveSlot_boot]
      rfl
    · split
      · exact respAct_boot ..
      · exact driveSlot_boot ..

/-- A waiting answer takes the slot of an IDLE frame, unless an ENUM frame keeps it away (R32). -/
theorem respAct_eq (w : W64) (s : State) : respAct w s = match s.chain.resp with
    | r :: rs => if s.chain.mcDelayed.isNone && decide (64 ≤ s.chain.sinceEnum) then
        driveSlot (frameOf 5 r.addr r.reg r.data true) { s with chain := { s.chain with resp := rs } } else driveSlot w s
    | [] => driveSlot w s := by
  unfold respAct
  cases s.chain.resp with
  | nil => rfl
  | cons r rs =>
    dsimp only
    by_cases hd : s.chain.mcDelayed.isSome ∨ s.chain.sinceEnum < 64
    · rw [if_pos (by simpa using hd), if_neg (by
        rcases hd with hd | hd
        · simp [Option.isSome_iff_ne_none.mp hd]
        · simp [show ¬ 64 ≤ s.chain.sinceEnum by omega])]
    · obtain ⟨hn, hl⟩ := not_or.mp hd
      have hn : s.chain.mcDelayed = none := by simpa using hn
      rw [if_neg (by simpa using hd), if_pos (by simp [hn, Nat.le_of_not_lt hl])]

theorem countCrc_eq (s : State) : countCrc s = { s with chain := { s.chain with
    mcCrcerr := if s.chain.mcCrcerr = BitVec.allOnes _ then s.chain.mcCrcerr else s.chain.mcCrcerr + 1 } } := rfl

/-- What becomes of a frame that asks nothing of any core. -/
theorem idleFrame_eq (w : W64) (s : State) : idleFrame w s =
    if 1 ≤ fldN w 60 4 ∧ fldN w 60 4 < 8 ∧ fldN w 60 4 ≠ 5 then s
    else if crcOf w ≠ fld w 1 8 then driveSlot w (countCrc s)
    else if fldN w 60 4 = 0 then respAct w s
    else driveSlot w s := by
  unfold idleFrame
  dsimp only
  generalize fldN w 60 4 = n
  have : (n != 0 && n != 5 && decide (n < 8)) = decide (1 ≤ n ∧ n < 8 ∧ n ≠ 5) := by
    rw [Bool.eq_iff_iff]
    simp
    omega
  rw [this]
  simp only [decide_eq_true_eq, bne_iff_ne]

/-- A frame of zeros is an idle one with a good CRC. -/
theorem idleFrame_zero (s : State) : idleFrame 0 s = respAct 0 s := by
  have hc : crcOf (0 : W64) = fld (0 : W64) 1 8 := by decide +kernel
  rw [idleFrame_eq, if_neg (by decide), if_neg (by simp only [hc]; decide), if_pos (by decide)]

/-! ## Commands (R31 to R35) -/

section
variable {f : ChainFrame} {s : State}

/-- The first of the frames before a command goes first. -/
theorem chainFrame_cons {w : W64} {ws : List W64} (hp : s.boot.phase ≠ .coldReset) (h : f.ahead = w :: ws) (cmd : ChainCmd) :
    chainFrame cmd f (chainAct cmd f) s = chainFrame cmd { f with ahead := ws } (chainAct cmd { f with ahead := ws }) (idleFrame w s) := by
  have cold (t : State) (ht : t.boot = s.boot) : ¬ (t.boot.phase == .coldReset) = true := by
    rw [ht]
    simpa using hp
  unfold chainFrame
  rw [if_neg (cold s rfl), if_neg (cold _ (idleFrame_boot w s)), h]
  cases cmd <;> rfl

theorem chainFrame_nil {cmd : ChainCmd} (hp : s.boot.phase ≠ .coldReset) (h : f.ahead = []) (act : State → State) :
    chainFrame cmd f act s = if crcGood cmd f then act s else badFrame cmd f s := by
  unfold chainFrame
  rw [if_neg (by simpa using hp), h]
  rfl

/-- A core that is in reset, or has four answers waiting, queues none. -/
theorem chainRoom_eq_false (h : 4 ≤ s.chain.resp.length ∨ chainReset s = true) : chainRoom s = false := by
  unfold chainRoom
  rcases h with h | h
  · simp [show ¬ s.chain.resp.length < 4 by omega]
  · simp [h]

theorem chainRoom_eq_true (hl : s.chain.resp.length < 4) (hw : s.boot.phase ≠ .heldByWrst)
    (hd : ∀ r, s.boot.phase ≠ .drain r ∧ s.boot.phase ≠ .afterDrain r) : chainRoom s = true := by
  have : chainReset s = false := by
    unfold chainReset
    split
    · exact absurd (by assumption) hw
    · exact absurd (by assumption) (hd _).1
    · exact absurd (by assumption) (hd _).2
    · rfl
  simp [chainRoom, this, hl]

theorem identAct_named (hb : bit f.reg 6 = false) : identAct f s =
    if !chainMine s f then driveSlot (forwardOf .identq f f.tk) s
    else if chainRoom s then
      driveSlot (forwardOf .identq f true) (queueResp s.chain.caddr f.reg (identSel s (fldN f.reg 0 6)) s)
    else driveSlot (forwardOf .identq f false) s := by
  unfold identAct
  simp only [hb]
  rfl

/-- A request that names another core, or that comes before ENUM, goes on as it is. -/
theorem chainAct_of_not_mine {cmd : ChainCmd}
    (hc : cmd ∈ [ChainCmd.read, .write, .corerst] ∨ cmd = .identq ∧ bit f.reg 6 = false)
    (hm : chainMine s f = false) : chainAct cmd f s = driveSlot (forwardOf cmd f f.tk) s := by
  cases cmd with
  | enum => simp at hc
  | bwrite => simp at hc
  | identq =>
    have hb : bit f.reg 6 = false := by simpa only [reduceCtorEq, List.mem_cons, List.not_mem_nil, or_false, true_and, false_or] using hc
    rw [chainAct, identAct_named hb, hm]
    rfl
  | read => simp [chainAct, readAct, hm]
  | write => simp [chainAct, writeAct, hm]
  | corerst => simp [chainAct, corerstAct, hm]

/-- A request that the core has no room for goes on unmarked. -/
theorem chainAct_of_no_room {cmd : ChainCmd}
    (hc : cmd ∈ [ChainCmd.read, .write, .corerst] ∨ cmd = .identq ∧ bit f.reg 6 = false)
    (hm : chainMine s f = true) (hr : chainRoom s = false) : chainAct cmd f s = driveSlot (forwardOf cmd f false) s := by
  cases cmd with
  | enum => simp at hc
  | bwrite => simp at hc
  | identq =>
    have hb : bit f.reg 6 = false := by simpa only [reduceCtorEq, List.mem_cons, List.not_mem_nil, or_false, true_and, false_or] using hc
    rw [chainAct, identAct_named hb, hm, hr]
    rfl
  | read => simp [chainAct, readAct, hm, hr]
  | write => simp [chainAct, writeAct, hm, hr]
  | corerst => simp [chainAct, corerstAct, hm, hr]

theorem bwriteAct_of_no_room (hv : s.chain.cvalid = true) (hr : chainRoom s = false) :
    bwriteAct f s = driveSlot (forwardOf .bwrite f false) s := by
  simp [bwriteAct, hv, hr]

/-- ENUM gives an address to a core that has none, and finds a mismatch with the one that it has (R70, R71). -/
theorem enumAct_eq : ∃ o n, enumAct f s = { s with chain := { s.chain with
    caddr := if s.chain.cvalid then s.chain.caddr else f.addr
    cvalid := true
    mismatch := s.chain.mismatch || (s.chain.cvalid && f.addr != s.chain.caddr)
    mcDelayed := some (frameOf 1 (f.addr + 1) f.reg f.data f.tk)
    mcOut := o, mcFro := true, sinceEnum := n } } := by
  have hk : (if s.chain.cvalid then { s.chain with mismatch := s.chain.mismatch || f.addr != s.chain.caddr }
      else { s.chain with caddr := f.addr, cvalid := true }) = { s.chain with
        caddr := if s.chain.cvalid then s.chain.caddr else f.addr
        cvalid := true
        mismatch := s.chain.mismatch || (s.chain.cvalid && f.addr != s.chain.caddr) } := by
    cases hv : s.chain.cvalid with
    | false => simp
    | true => rw [if_pos rfl]; simp [hv]
  unfold enumAct
  dsimp only at hk ⊢
  rw [hk]
  obtain ⟨o, n, h⟩ := driveSlot_form 0 { s with chain := { s.chain with
    caddr := if s.chain.cvalid then s.chain.caddr else f.addr
    cvalid := true
    mismatch := s.chain.mismatch || (s.chain.cvalid && f.addr != s.chain.caddr) } }
  exact ⟨o, n, by rw [h]⟩

theorem identAct_taken (hb : bit f.reg 6 = false) (hm : chainMine s f = true) (hr : chainRoom s = true) :
    identAct f s = driveSlot (forwardOf .identq f true) (queueResp s.chain.caddr f.reg (identSel s (fldN f.reg 0 6)) s) := by
  rw [identAct_named hb, hm, hr]
  rfl

theorem readAct_taken (hm : chainMine s f = true) (hr : chainRoom s = true) :
    readAct f s = driveSlot (forwardOf .read f true) (chainReadEffect f.reg.toNat (queueResp s.chain.caddr f.reg
      ((chainWord (chainReadBefore f.reg.toNat s) f.reg.toNat).getD 0) (chainReadBefore f.reg.toNat s))) := by
  simp [readAct, hm, hr]

end

end Sys2Proof.Machine

namespace Sys2Proof.Machine
open Sys2Proof

/-! ## A core reset (R57, R65) -/

theorem alarmFire_background (n : BitVec 3) (s : State) : Background True s (alarmFire n s) := .of_rest rfl

theorem endKeys_background (s : State) : Background True s (endKeys s) := by
  unfold endKeys
  dsimp only
  split
  · exact .of_rest rfl
  · have clear : Background True s { s with keys := { s.keys with gen := KeyGen.reset, deferred := 0 } } := .of_rest rfl
    exact clear.trans (alarmFire_background _ _)

theorem warmMesh_background (s : State) : Background True s (warmMesh s) := by
  unfold warmMesh
  dsimp only
  refine Background.trans ?_ (.foldl _ (fun t f => ?_) _ _)
  · exact .of_rest rfl
  · exact letGo_background ..

theorem resetCtxs_getA (b : Bool) (vec : W64) (c : CtxId) : ((resetCtxs b vec).get c).getA = TWord.poison := by
  have main (d : CtxId) (run : RunState) : (Ctx.reset d b vec run).getA = TWord.poison := by
    obtain ⟨hfib, hesc⟩ := resetSt_main d b
    simp only [Ctx.getA, Ctx.inEsc, Ctx.fib, Ctx.reset, hfib, hesc, Bool.false_eq_true, if_false]
  rcases ctxId_cases c with rfl | rfl | rfl | rfl <;> exact main _ _

/-- A core reset begins to drain; the scratchpad, the address and the cause are kept, the contexts and the tile unit begin anew. -/
theorem beginReset_core {s : State} (hd : ∀ r, s.boot.phase ≠ .drain r ∧ s.boot.phase ≠ .afterDrain r) :
    (beginReset .core s).boot.phase = .drain .core ∧
      (beginReset .core s).boot.rcause = (if s.boot.lame then 0xC else 0x4) ∧ (beginReset .core s).boot.go = false ∧
      (beginReset .core s).spad = s.spad ∧ (beginReset .core s).chain.caddr = s.chain.caddr ∧
      (∀ c, ((beginReset .core s).getCtx c).getA = TWord.poison) ∧ (beginReset .core s).tile = State.reset.tile := by
  have cause : resetCause s .core = if s.boot.lame then 0xC else 0x4 := by
    unfold resetCause
    split
    · exact absurd (by assumption) (hd _).1
    · exact absurd (by assumption) (hd _).2
    · cases s.boot.lame <;> rfl
  unfold beginReset
  dsimp only
  generalize hw : warmState _ = w
  have drained : Background True w (drainStep (warmMesh w)) := (warmMesh_background w).trans (drainStep_background _)
  have keys := endKeys_background s
  generalize endKeys s = e at hw keys
  rw [drained.boot, drained.tile, drained.caddr, drained.spad trivial]
  subst hw
  refine ⟨rfl, cause, rfl, keys.spad trivial, keys.caddr, fun c => ?_, rfl⟩
  rw [(drained.ctx c).getA]
  exact resetCtxs_getA ..

/-! ## Register writes (R9, R34) -/

section
variable {f : ChainFrame} {s : State}

theorem writeFrame_taken {bc : Bool} (hp : s.boot.phase ≠ .coldReset) (ha : f.ahead = [])
    (hg : crcGood (if bc then .bwrite else .write) f = true) (hv : s.chain.cvalid = true)
    (hm : bc = true ∨ f.addr = s.chain.caddr) (hr : chainRoom s = true) :
    writeFrame f bc s = writeReg f.reg.toNat f.data (driveSlot (forwardOf (if bc then .bwrite else .write) f (f.tk || !bc)) s) := by
  cases bc with
  | true =>
    have hg : crcGood .bwrite f = true := hg
    simp [writeFrame, chainFrame_nil hp ha, hg, bwriteAct, hv, hr]
  | false =>
    have hg : crcGood .write f = true := hg
    have hm : f.addr = s.chain.caddr := by simpa using hm
    simp [writeFrame, chainFrame_nil hp ha, hg, writeAct, chainMine, hv, hm, hr]

theorem writeTo_picked {p : BitVec 7 → Bool} (h : p f.reg = true) (bc : Bool) :
    writeTo p f bc s = exec (if bc then .bwrite f else .chainWrite f) s := by
  unfold writeTo
  rw [if_pos h]
  cases bc <;> rfl

end

theorem writeMbin_full {s : State} (h : s.chain.inFull = true) (n : Nat) (v : W32) :
    writeMbin n v s = { s with chain := { s.chain with inOvr := true } } := if_pos h

theorem writeMbin_of_lt {s : State} (h : s.chain.inFull = false) {n : Nat} (hn : n ≠ 3) (v : W32) :
    writeMbin n v s = { s with chain := { s.chain with mbin := vset s.chain.mbin n v, inFull := false } } := by
  simp [writeMbin, h, hn]

theorem writeMbin_last {s : State} (h : s.chain.inFull = false) (v : W32) :
    writeMbin 3 v s = setPend 34 { s with chain := { s.chain with mbin := vset s.chain.mbin 3 v, inFull := true } } := by
  simp [writeMbin, h]

theorem vset_eq_set {α : Type} {n : Nat} (v : Vector α n) (i : Fin n) (x : α) : vset v i x = v.set i x := by
  ext j hj
  simp [vset, Vector.getElem_setIfInBounds, Vector.getElem_set]

/-- A field that was set reads as it was set. -/
theorem fld_setFld_same {n : Nat} (x : BitVec n) (lo len : Nat) (v : BitVec len) (h : lo + len ≤ n) :
    fld (setFld x lo len v) lo len = v := by
  ext i hi
  simp [setFld, show lo + i < n by omega, hi]

/-- A field above the one that was set is as it was. -/
theorem fld_setFld_above {n : Nat} (x : BitVec n) (lo len : Nat) (v : BitVec len) {lo' len' : Nat} (h : lo + len ≤ lo') :
    fld (setFld x lo len v) lo' len' = fld x lo' len' := by
  ext i hi
  have hv : v.getLsbD (lo' + i - lo) = false := BitVec.getLsbD_of_ge _ _ (by omega)
  have hx (hn : ¬ lo' + i < n) : x.getLsbD (lo' + i) = false := BitVec.getLsbD_of_ge _ _ (by omega)
  by_cases hn : lo' + i < n
  · simp [setFld, show ¬ lo' + i < lo by omega, show ¬ lo' + i - lo < len by omega, hv, hn]
  · simp [setFld, hn, hx hn]

theorem vget_map {α β : Type} {n : Nat} (v : Vector α n) (g : α → β) {i : Nat} (h : i < n) (d : β) (e : α) :
    vget (v.map g) i d = g (vget v i e) := by
  simp [vget, h]

/-- FCCFG takes the window within its bounds and the rest as written; the counts of the fault classes begin anew (R483, R485). -/
theorem writeFccfg_rel (v : W32) (s : State) : (writeFccfg v s).rel.fcWin = 0 ∧
    fldN (writeFccfg v s).rel.fccfg 0 16 = max 1 (min 64000 (fldN v 0 16)) ∧ fld (writeFccfg v s).rel.fccfg 16 9 = fld v 16 9 ∧
    (∀ n < 8, fld (vget (writeFccfg v s).rel.fcstat n 0) 0 8 = 0 ∧
      fld (vget (writeFccfg v s).rel.fcstat n 0) 8 56 = fld (vget s.rel.fcstat n 0) 8 56) := by
  refine ⟨rfl, ?_, ?_, fun n hn => ?_⟩
  · have : fldN (writeFccfg v s).rel.fccfg 0 16 =
        (if fldN v 0 16 = 0 then 1 else if 64000 < fldN v 0 16 then 64000 else fld v 0 16 : BitVec 16).toNat := by
      show (fld (setFld (fld v 0 25) 0 16 _) 0 16).toNat = _
      rw [fld_setFld_same _ _ _ _ (by decide)]
    rw [this]
    split
    · simp [*]
    · split
      · rw [Nat.min_eq_left (by omega)]
        rfl
      · show fldN v 0 16 = _
        omega
  · show fld (setFld (fld v 0 25) 0 16 _) 16 9 = _
    rw [fld_setFld_above _ _ _ _ (by decide)]
    ext i hi
    simp
  · have : vget (writeFccfg v s).rel.fcstat n 0 = setFld (vget s.rel.fcstat n 0) 0 8 0 := vget_map _ _ hn _ _
    rw [this]
    exact ⟨fld_setFld_same _ _ _ _ (by decide), fld_setFld_above _ _ _ _ (by decide)⟩

/-- A limit that stays in effect keeps its tokens, up to the new rate; one that takes effect starts full (R500). -/
theorem bucketAfter_on {o r : BitVec 16} (ho : o ≠ 0) (hr : r ≠ 0) (tok : Nat) :
    bucketAfter true true o r tok = min tok (1024 * r.toNat) := by
  unfold bucketAfter
  dsimp only
  rw [if_neg (by simpa using ⟨hr, ho⟩), Nat.mul_comm]

theorem bucketAfter_new (was on : Bool) (r : BitVec 16) (tok : Nat) : bucketAfter was on 0 r tok = 1024 * r.toNat := by
  simp [bucketAfter, Nat.mul_comm]

theorem snapshotWords_length (s : State) (cause : BitVec 4) : (snapshotWords s cause).length = 64 := by
  simp [snapshotWords]

/-- TRIG takes a snapshot, or counts a missed one while the last is not read (R480). -/
theorem writeXrstat_trig {s : State} (h0 : s.boot.phase ≠ .coldReset) (hw : s.boot.phase ≠ .heldByWrst) {v : W32} (hv : bit v 1 = true) :
    (writeXrstat v s).trace.xrFull = true ∧
      (s.trace.xrFull = false ∨ bit v 0 = true → (writeXrstat v s).trace.xrCause = 1 ∧ (writeXrstat v s).trace.xrData.length = 64 ∧
        (writeXrstat v s).trace.xrMissed = if bit v 0 then 0 else s.trace.xrMissed) ∧
      (s.trace.xrFull = true → bit v 0 = false →
        (writeXrstat v s).trace.xrData = s.trace.xrData ∧ (writeXrstat v s).trace.xrCause = s.trace.xrCause) := by
  have trig (t : State) (ht : t.boot = s.boot) : snapTrigger 1 t =
      if t.trace.xrFull then { t with trace := { t.trace with xrMissed := satInc t.trace.xrMissed } }
      else { t with trace := { t.trace with
        xrFull := true, xrCause := 1, xrData := snapshotWords t 1
        copyQ := if bit t.trace.xrcfg 4 then t.trace.copyQ ++ [snapshotWords t 1] else t.trace.copyQ } } := by
    unfold snapTrigger
    rw [if_neg (by rw [ht]; exact not_or.mpr ⟨h0, hw⟩)]
  unfold writeXrstat
  rw [if_pos hv]
  cases hb : bit v 0 with
  | true =>
    rw [if_pos rfl, trig, if_neg (by simp)]
    · exact ⟨rfl, fun _ => ⟨rfl, snapshotWords_length .., rfl⟩, fun _ h => absurd h (by simp)⟩
    · rfl
  | false =>
    rw [if_neg (by simp), trig s rfl]
    cases hf : s.trace.xrFull with
    | true =>
      rw [if_pos rfl]
      exact ⟨hf, fun h => absurd h (by simp), fun _ _ => ⟨rfl, rfl⟩⟩
    | false =>
      rw [if_neg (by simp)]
      exact ⟨rfl, fun _ => ⟨rfl, snapshotWords_length .., rfl⟩, fun h => absurd h (by simp)⟩

end Sys2Proof.Machine

namespace Sys2Proof.Machine
open Sys2Proof

/-! ## The chain's commands -/

section
variable {f : ChainFrame} {s : State}

/-- A write of MBIN n by the host: refused while IN_FULL is 1, else taken, and with the last word vector 34 is pending (R60). -/
theorem writeMbin_boundary (n : Fin 4) (v : W32) (t : State) :
    (t.chain.inFull = true → (writeMbin n v t).chain.mbin = t.chain.mbin ∧ (writeMbin n v t).chain.inOvr = true ∧
      (writeMbin n v t).intr = t.intr) ∧
    (t.chain.inFull = false → (writeMbin n v t).chain.mbin = t.chain.mbin.set n v ∧
      (writeMbin n v t).chain.inFull = decide (n.val = 3) ∧
      (n.val = 3 → bit (writeMbin n v t).intr.ipend 34 = true) ∧ (n.val ≠ 3 → (writeMbin n v t).intr = t.intr)) := by
  refine ⟨fun h => ?_, fun h => ?_⟩
  · rw [writeMbin_full h]
    exact ⟨rfl, rfl, rfl⟩
  · rw [← vset_eq_set]
    by_cases hn : n.val = 3
    · rw [hn, writeMbin_last h, setPend_chain, setPend_intr]
      exact ⟨rfl, rfl, fun _ => bit_setBit_same t.intr.ipend (by decide), fun h => absurd rfl h⟩
    · rw [writeMbin_of_lt h hn]
      exact ⟨rfl, by simp [hn], fun h => absurd h hn, fun _ => rfl⟩

/-- A write of the chain register 0x10 + n is a write of MBIN n. -/
theorem writeReg_mbin (n : Fin 4) (v : W32) (t : State) : writeReg (0x10 + n) v t = writeMbin n v t := by
  simp [writeReg, show ¬ 0x10 + n.val < 0x0F by omega, show ¬ 0x10 + n.val = 0x0F by omega, show 0x10 + n.val < 0x14 by omega]

/-- A write of TSOFFHI applies both halves of the offset (R450). -/
theorem writeReg_tsoffhi (v : W32) (t : State) : writeReg 0x27 v t = { t with time := { t.time with
    tsoffHi := v, tsoff := t.time.tsoffLo.setWidth 64 ||| v.setWidth 64 <<< 32 } } := by
  have low : t.time.tsoffLo.setWidth 64 = at' 0 t.time.tsoffLo := by simp [at']
  rw [low]
  rfl

/-- A read of TLATLO gives the low half of the time that was latched (R478). -/
theorem chainWord_tlatlo (t : State) : chainWord t 0x28 = some (t.time.tlat.setWidth 32) :=
  congrArg some (by ext i hi; simp)

theorem mbin_picked {r : BitVec 7} (n : Fin 4) (h : r.toNat = 0x10 + n) : (fld r 2 5 == 4) = true := by
  have : r = BitVec.ofNat 7 (0x10 + n) := BitVec.eq_of_toNat_eq (by rw [h]; simp; omega)
  subst this
  revert n
  decide

end

/-- Settles O57. -/
theorem chainCommands : Obligations.ChainCommands := by
  intro s f hp k run counted answering passed
  have hrun : ∀ cmd f s, run cmd f s = .next (chainFrame cmd f (chainAct cmd f) s) := by
    intro cmd f s
    cases cmd <;> rfl
  have hpassed : ∀ w, passed w = idleFrame w s := by
    intro w
    rw [idleFrame_eq, respAct_eq] <;> rfl
  refine ⟨fun cmd w ws h => ?_, ?_, fun ha => ⟨fun cmd hc => ?_, fun cmd hc hg => ⟨fun hm => ?_, fun hv hm hr => ?_⟩,
    fun hg hv hr => ?_, fun hg => ?_, fun hv hl hw hd => ?_⟩⟩
  · rw [hrun, hrun, chainFrame_cons hp h, hpassed]
  · have : exec .respSend s = .next (if s.boot.phase == .coldReset then s else idleFrame 0 s) := rfl
    rw [this, if_neg (by simpa using hp), idleFrame_zero, respAct_eq] <;> rfl
  · rw [hrun, chainFrame_nil hp ha, hc]
    cases cmd <;> rfl
  · rw [hrun, chainFrame_nil hp ha, if_pos hg, chainAct_of_not_mine hc]
    rcases hm with hm | hm
    · simp [chainMine, show s.chain.cvalid = false from hm]
    · simp [chainMine, show f.addr ≠ s.chain.caddr from hm]
  · rw [hrun, chainFrame_nil hp ha, if_pos hg, chainAct_of_no_room hc _ (chainRoom_eq_false hr)]
    simp [chainMine, show s.chain.cvalid = true from hv, show f.addr = s.chain.caddr from hm]
  · rw [← bwriteAct_of_no_room hv (chainRoom_eq_false hr)]
    show Host.Outcome.next (chainFrame .bwrite f (bwriteAct f) s) = _
    rw [chainFrame_nil hp ha, if_pos hg]
  · obtain ⟨o, n, h⟩ := enumAct_eq (f := f) (s := s)
    refine ⟨enumAct f s, ?_, ?_⟩
    · show Host.Outcome.next (chainFrame .enum f (enumAct f) s) = _
      rw [chainFrame_nil hp ha, if_pos hg]
    · rw [h]
      exact ⟨rfl, rfl, rfl, rfl, rfl⟩
  intro reply
  have hroom : chainRoom s = true := chainRoom_eq_true hl hw hd
  have hmine (hm : f.addr = k.caddr) : chainMine s f = true := by
    simp [chainMine, show s.chain.cvalid = true from hv, show f.addr = s.chain.caddr from hm]
  refine ⟨fun hm hb hg => ?_, fun hm hg => ?_, fun hm hg => ?_, fun bc hg hm => ?_⟩
  · show Host.Outcome.next (chainFrame .identq f (identAct f) s) = _
    rw [chainFrame_nil hp ha, if_pos hg, identAct_taken hb (hmine hm) hroom]
    rfl
  · have taken := readAct_taken (hmine hm) hroom
    have read : chainFrame .read f (readAct f) s = readAct f s := by rw [chainFrame_nil hp ha, if_pos hg]
    refine ⟨fun h28 h2d => ?_, fun hr => ?_, fun hr => ?_⟩
    · have h28 : f.reg.toNat ≠ 0x28 := fun h => h28 (BitVec.eq_of_toNat_eq h)
      have h2d : f.reg.toNat ≠ 0x2D := fun h => h2d (BitVec.eq_of_toNat_eq h)
      show Host.Outcome.next (chainFrame .read f (readAct f) s) = _
      rw [read, taken]
      simp only [chainReadBefore, chainReadEffect, h28, h2d, if_false]
      rfl
    · have : exec (.tlatloRead f) s = .next (readAct f s) := by
        show Host.Outcome.next (if f.reg == 0x28 then chainFrame .read f (readAct f) s else s) = _
        rw [if_pos (by simp [hr]), read]
      rw [this, taken, show f.reg.toNat = 0x28 from congrArg BitVec.toNat hr, chainReadBefore, if_pos rfl, chainWord_tlatlo]
      rfl
    · have : exec (.xrdataRead f) s = .next (readAct f s) := by
        show Host.Outcome.next (if f.reg == 0x2D then chainFrame .read f (readAct f) s else s) = _
        rw [if_pos (by simp [hr]), read]
      rw [this, taken, show f.reg.toNat = 0x2D from congrArg BitVec.toNat hr]
      rfl
  · refine ⟨corerstAct f s, ?_, ?_⟩
    · show Host.Outcome.next (chainFrame .corerst f (corerstAct f) s) = _
      rw [chainFrame_nil hp ha, if_pos hg]
    · have : corerstAct f s = beginReset .core (driveSlot (forwardOf .corerst f true) s) := by
        simp [corerstAct, hmine hm, hroom]
      rw [this]
      obtain ⟨o, n, ht⟩ := driveSlot_form (forwardOf .corerst f true) s
      rw [ht]
      exact beginReset_core hd
  · intro taken plain v is
    have hplain : plain = .next (writeReg f.reg.toNat f.data taken) := by
      rw [← writeFrame_taken hp ha hg hv hm hroom]
      cases bc <;> rfl
    have wr {i : BitVec 7} (h : f.reg = i) : plain = .next (writeReg i.toNat v taken) := by rw [hplain, h]
    have picked {p : BitVec 7 → Bool} (h : p f.reg = true) : writeTo p f bc s = plain := writeTo_picked h bc
    have named {i : BitVec 7} (h : f.reg = i) : writeTo (fun r => r == i) f bc s = plain := picked (by simp [h])
    obtain ⟨o, n, htaken⟩ : ∃ o n, taken = { s with chain := { s.chain with
        mcOut := o, mcFro := true, mcDelayed := none, sinceEnum := n } } := driveSlot_form ..
    refine ⟨fun hr => ⟨?_, wr hr⟩, fun hr => ⟨named hr, (wr hr).trans ?_⟩, fun n hn => ?_, fun hr => ⟨named hr, (wr hr).trans ?_⟩,
      fun hr => ⟨named hr, (wr hr).trans ?_⟩, fun hr => ⟨named hr, wr hr⟩, fun hr hv => ?_, fun hr => ?_,
      fun hr => ⟨named hr, (wr hr).trans ?_⟩, fun hr => ?_, fun hr => ⟨named hr, wr hr⟩⟩
    · cases bc <;> rfl
    · rw [htaken]
      rfl
    · refine ⟨writeMbin n v taken, picked (p := fun r => fld r 2 5 == 4) (mbin_picked n hn), ?_, ?_⟩
      · rw [hplain, hn, writeReg_mbin]
      · have h := writeMbin_boundary n v taken
        rw [htaken] at h ⊢
        exact h
    · exact (congrArg Host.Outcome.next (writeReg_tsoffhi v taken)).trans (by rw [htaken])
    · have : writeReg (0x22 : BitVec 7).toNat v taken = if !enabled taken 8 then taken else
          { taken with trace := { taken.trace with trhead := v, trFull := false } } := rfl
      rw [this, show enabled taken 8 = bit k.enable0 8 by rw [htaken]; rfl]
      cases bit k.enable0 8 <;> rfl
    · refine ⟨writeXrstat v taken, picked (p := fun r => r == 0x2B && bit f.data 1) ?_, wr hr, ?_⟩
      · rw [show bit f.data 1 = true from hv, hr]
        rfl
      · have h := writeXrstat_trig (s := taken) (by rw [htaken]; exact hp) (by rw [htaken]; exact hw) hv
        rw [show taken.trace = s.trace by rw [htaken]] at h
        exact h
    · refine ⟨writeFccfg v taken, named hr, wr hr, ?_⟩
      have h := writeFccfg_rel v taken
      rw [show taken.rel = s.rel by rw [htaken]] at h
      exact h
    · rw [htaken]
      rfl
    · refine ⟨setToll taken.toll.ctl v taken, named hr, wr hr, rfl, ?_, fun hon hold hnew => ?_, fun hold => ?_⟩
      · rw [htaken]
        rfl
      · rw [htaken]
        show bucketAfter (bit s.toll.ctl 0) (bit s.toll.ctl 0) (fld s.toll.rate 0 16) (fld v 0 16) s.toll.tokM = _
        rw [hon, bucketAfter_on hold hnew]
      · rw [htaken]
        show bucketAfter (bit s.toll.ctl 0) (bit s.toll.ctl 0) (fld s.toll.rate 0 16) (fld v 0 16) s.toll.tokM = _
        rw [hold, bucketAfter_new]

end Sys2Proof.Machine

namespace Sys2Proof.Machine
open Sys2Proof

/-! ## Reads that change nothing of the core but what goes on behind it -/

/-- Whether it ends or stops, what m does goes on behind the instructions. -/
structure Quiet {α : Type} (s₀ : State) (m : M α) : Prop where
  carries : Carries (Background False s₀) m

section
variable {α β : Type} {s₀ : State}

theorem Quiet.pure (a : α) : Quiet s₀ (pure a : M α) := ⟨Carries.pure a⟩

theorem Quiet.throw (e : Stop) : Quiet s₀ (throw e : M α) := ⟨Carries.throw e⟩

theorem Quiet.wait : Quiet s₀ (wait : M α) := Quiet.throw _

theorem Quiet.bind {m : M α} {f : α → M β} (hm : Quiet s₀ m) (hf : ∀ a, Quiet s₀ (f a)) : Quiet s₀ (m >>= f) :=
  ⟨hm.carries.bind fun a => (hf a).carries⟩

theorem Quiet.ite {b : Prop} [Decidable b] {m n : M α} (hm : Quiet s₀ m) (hn : Quiet s₀ n) : Quiet s₀ (if b then m else n) :=
  ⟨hm.carries.ite hn.carries⟩

theorem Quiet.modify {f : State → State} (h : ∀ s, Background False s (f s)) : Quiet s₀ (modify f : M PUnit) :=
  ⟨Carries.modify fun s hs => hs.trans (h s)⟩

/-- A part that sets the state sets one that comes from the state it read. -/
theorem Quiet.get_bind {f : State → M β} (h : ∀ s, Background False s₀ s → Quiet s₀ (f s)) : Quiet s₀ (get >>= f) :=
  ⟨fun s hs => (h s hs).carries s hs⟩

theorem Quiet.set {t : State} (h : Background False s₀ t) : Quiet s₀ (set t : M PUnit) := ⟨Carries.set h⟩

theorem freshFree_quiet : Quiet s₀ freshFree :=
  .get_bind fun _ hs => .bind (.set (hs.trans (.of_rest rfl))) fun _ => .pure _

theorem freeB_quiet : Quiet s₀ freeB := freshFree_quiet.bind fun _ => .pure _

theorem freeBounded_quiet : Quiet s₀ freeBounded := freshFree_quiet.bind fun _ => .pure _

theorem pickFree_quiet (l : List α) : Quiet s₀ (pickFree l) := by
  induction l with
  | nil => exact .pure none
  | cons a l ih => exact freeB_quiet.bind fun _ => .ite (.pure _) ih

end

/-! ## Lines that a read brings (R314 to R320) -/

section
variable {s₀ : State}

theorem spadPut_background (s : State) (i : Nat) (w : TWord) : Background False s (spadPut s i w) := by
  have put : Background False s { s with spad := SMap.put s.spad i (deliver w) } :=
    ⟨fun _ => CtxKept.refl _, rfl, rfl, rfl, rfl, rfl, rfl, rfl, rfl, FcKept.refl s, False.elim⟩
  exact put.trans (clearLatent_background ..)

theorem spadRead_quiet (bulk : Bool) (i : Nat) : Quiet s₀ (spadRead bulk i) := by
  unfold spadRead
  refine .get_bind fun s hs => ?_
  have put (b : Bool) (w : TWord) : Background False s₀ (spadPut (countError 3 0 b s) i w) :=
    hs.trans ((countError_background ..).trans (spadPut_background ..))
  split
  · exact .pure _
  · exact .bind (.set (put ..)) fun _ => .pure _
  · exact .ite (.bind (.set ((put ..).trans (machineCheck_background ..))) fun _ => .pure _) (.bind (.set (put ..)) fun _ => .pure _)

theorem ageSet_background {pad : Prop} (c : CacheId) (n : Nat) (b : BitVec 2) (s : State) : Background pad s (ageSet c n b s) := by
  unfold ageSet
  split
  · exact .refl s
  · exact setCache_background ..

theorem evictL2_background {pad : Prop} {l : CLine} {s t : State} (h : evictL2 l s = some t) : Background pad s t := by
  unfold evictL2 at h
  split at h
  · cases h
    split
    · exact cachePut_background ..
    · exact .refl s
  · split at h
    · obtain ⟨u, hu, rfl⟩ := Option.map_eq_some_iff.mp h
      exact (ebufPush_background hu).trans (lineGone_background ..)
    · cases h
      exact (letGo_background ..).trans (lineGone_background ..)
    · cases h
      exact lineGone_background ..

theorem insertL2_background {pad : Prop} {n : Nat} {st : LineState} {d : Line} {age : BitVec 2} {s t : State}
    (h : insertL2 n st d age s = some t) : Background pad s t := by
  unfold insertL2 at h
  split at h
  · cases h
    exact (cachePut_background ..).trans (clearLatent_background ..)
  · dsimp only at h
    have hr := (ageSet_background (pad := pad) .l2 n (chooseVictim s .l2 n).2 s).trans
      (readOut_background .l2 ((n % 512) * 8 + (chooseVictim s .l2 n).1) _)
    split at h
    · rename_i u hu
      cases h
      rw [hu] at hr
      exact hr.trans (cachePut_background ..)
    · rename_i u v hu
      obtain ⟨w, hw, rfl⟩ := Option.map_eq_some_iff.mp h
      rw [hu] at hr
      exact hr.trans ((cacheDel_background ..).trans ((evictL2_background hw).trans (cachePut_background ..)))

theorem evictL1D_background {pad : Prop} {l : CLine} {s t : State} (h : evictL1D l s = some t) : Background pad s t := by
  unfold evictL1D at h
  split at h
  · split at h
    · exact insertL2_background h
    · obtain ⟨u, hu, rfl⟩ := Option.map_eq_some_iff.mp h
      refine Background.trans ?_ ((ebufPush_background hu).trans (lineGone_background ..))
      split
      · exact cacheDel_background ..
      · exact .refl s
  · cases h
    split
    · exact .refl s
    · exact (letGo_background ..).trans (lineGone_background ..)
  · cases h
    exact lineGone_background ..

theorem insertL1D_background {pad : Prop} {n : Nat} {st : LineState} {d : Line} {age : BitVec 2} {s t : State}
    (h : insertL1D n st d age s = some t) : Background pad s t := by
  unfold insertL1D at h
  split at h
  · cases h
    exact (cachePut_background ..).trans (clearLatent_background ..)
  · dsimp only at h
    have hr := (ageSet_background (pad := pad) .l1d n (chooseVictim s .l1d n).2 s).trans
      (readOut_background .l1d ((n % 64) * 8 + (chooseVictim s .l1d n).1) _)
    split at h
    · rename_i u hu
      cases h
      rw [hu] at hr
      exact hr.trans (cachePut_background ..)
    · rename_i u v hu
      rw [hu] at hr
      exact hr.trans ((cacheDel_background ..).trans ((cachePut_background ..).trans (evictL1D_background h)))

theorem insertL1I_background {pad : Prop} (n : Nat) (d : Line) (s : State) : Background pad s (insertL1I n d s) := by
  unfold insertL1I
  split
  · exact cachePut_background ..
  · exact (ageSet_background ..).trans ((cacheDel_background ..).trans (cachePut_background ..))

theorem noteFill_background {pad : Prop} (f : Fill) (s : State) : Background pad s (noteFill f s) := by
  unfold noteFill
  split
  · exact .refl s
  · exact .of_rest rfl

theorem allocFill_background {pad : Prop} {r : Req} {excl : Bool} {d : Line} {s t : State} (h : allocFill r excl d s = some t) :
    Background pad s t := by
  unfold allocFill at h
  dsimp only at h
  have hi : Background pad s (if (r.l1i && cacheOn s .l1i) = true then insertL1I (lineNo r.addr) d s else s) := by
    split
    · exact insertL1I_background ..
    · exact .refl s
  generalize (if (r.l1i && cacheOn s .l1i) = true then insertL1I (lineNo r.addr) d s else s) = s0 at h hi
  split at h
  · cases h
  split at h
  · cases h
  rename_i s1 h1
  have h1 : Background pad s0 s1 := by
    split at h1
    · exact insertL2_background h1
    · cases h1
      exact .refl _
  split at h
  · cases h
  rename_i s2 h2
  have h2 : Background pad s1 s2 := by
    split at h2
    · exact insertL1D_background h2
    · cases h2
      exact .refl _
  cases h
  refine hi.trans (h1.trans (h2.trans ?_))
  split
  · exact letGo_background ..
  · exact .refl _

theorem placeFill_background {pad : Prop} (r : Req) (excl : Bool) (d : Line) (s : State) : Background pad s (placeFill r excl d s) := by
  unfold placeFill
  dsimp only
  split
  · refine Background.trans ?_ (noteFill_background _ _)
    split
    · exact letGo_background ..
    · exact .refl s
  · split
    · rename_i t ht
      exact (allocFill_background ht).trans (noteFill_background _ _)
    · exact .of_rest rfl

theorem retryHeld_background {pad : Prop} (s : State) : Background pad s (retryHeld s) := by
  unfold retryHeld
  refine .foldl _ (fun t f => ?_) _ _
  have erase : Background pad t { t with mesh := { t.mesh with fills := t.mesh.fills.erase f } } := .of_rest rfl
  exact erase.trans (placeFill_background ..)

theorem meetRead_background {pad : Prop} (mode : ReadMode) (n : Nat) (s : State) : Background pad s (meetRead mode n s) := by
  unfold meetRead
  dsimp only
  have hm : Background pad s (if cacheOn s mode.first = true then meetLine mode.first n s else s) := by
    split
    · exact meetLine_background ..
    · exact .refl s
  generalize (if cacheOn s mode.first = true then meetLine mode.first n s else s) = t at hm
  split
  · exact hm
  · exact hm.trans ((meetLine_background ..).trans (meetLine_background ..))

theorem countLooks_background {pad : Prop} (who : Requester) (c : CacheId) (a : W64) (n : Nat) (v s : State) :
    Background pad s (countLooks who c a n v s) := by
  have count (b : Bool) (evt : Nat) (t : State) : Background pad t (if b then countSpec who evt a t else t) := by
    split
    · exact countSpec_background ..
    · exact .refl t
  exact (count _ _ s).trans ((count _ _ _).trans ((count _ _ _).trans (count _ _ _)))

theorem touch_quiet (c : CacheId) (k : Nat) (l : CLine) : Quiet s₀ (touch c k l) := .modify fun _ => cachePut_background ..

theorem ebufRecall_quiet (n : Nat) : Quiet s₀ (ebufRecall n) := by
  unfold ebufRecall
  refine .get_bind fun s hs => ?_
  split
  · exact .pure _
  rename_i e _
  refine .ite .wait ?_
  dsimp only
  have out : Background False s { s with caches := { s.caches with ebuf := s.caches.ebuf.filter fun x => x.line != n } } := .of_rest rfl
  split
  · rename_i u hu
    have put : Background False { s with caches := { s.caches with ebuf := s.caches.ebuf.filter fun x => x.line != n } } u := by
      split at hu
      · exact insertL2_background hu
      · exact insertL1D_background hu
    exact .bind (.set (hs.trans (out.trans (put.trans (retryHeld_background u))))) fun _ => .pure _
  · exact .wait

theorem freeLine_quiet : Quiet s₀ freeLine := by
  unfold freeLine
  iterate 8 refine freeBounded_quiet.bind fun _ => ?_
  exact .pure _

theorem uninitHit_quiet (cs : List CacheId) : Quiet s₀ (uninitHit cs) := .get_bind fun _ _ => .ite freeB_quiet (.pure _)

theorem cachedLine_quiet (mode : ReadMode) (stream : Bool) (n : Nat) : Quiet s₀ (cachedLine mode stream n) := by
  unfold cachedLine
  refine .get_bind fun s _ => ?_
  split
  · exact (touch_quiet ..).bind fun _ => .pure _
  split
  · exact .pure _
  refine (touch_quiet ..).bind fun _ => .get_bind fun t ht => ?_
  refine .ite (.bind (.set ?_) fun _ => .pure _) (.ite ?_ (.pure _))
  · split
    · exact ht.trans (insertL1I_background ..)
    · exact ht
  · split
    · rename_i u hu
      exact .bind (.set (ht.trans (insertL1D_background hu))) fun _ => .pure _
    · exact .bind .wait fun _ => .pure _

theorem needLane_quiet (l : BitVec 2) : Quiet s₀ (needLane l) := .get_bind fun _ _ => .ite .wait (.pure _)

theorem requestRead_quiet (op : ReqOp) (addr : PAddr) (who : Requester) (size : BitVec 4) (l1i l1d l2 stream : Bool) :
    Quiet s₀ (requestRead op addr who size l1i l1d l2 stream) := by
  unfold requestRead
  refine .get_bind fun s hs => ?_
  split
  · exact .wait
  · refine .ite ((needLane_quiet 2).bind fun _ => .set (hs.trans (sendReq_background ..))) (.set (hs.trans ?_))
    exact (tollRefuse_background true 4 who.ctx? s).trans (.of_rest rfl)

theorem requestLine_quiet (who : Requester) (mode : ReadMode) (stream : Bool) (n : Nat) : Quiet s₀ (requestLine who mode stream n) :=
  .get_bind fun _ _ => .ite (requestRead_quiet ..) (requestRead_quiet ..)

theorem readLine_quiet (who : Requester) (mode : ReadMode) (stream : Bool) (a : W64) (n : Nat) :
    Quiet s₀ (readLine who mode stream a n) := by
  have looked (v : State) : Quiet s₀ (modify (countLooks who mode.first a n v) : M PUnit) := .modify fun _ => countLooks_background ..
  unfold readLine
  refine (uninitHit_quiet _).bind fun b => .ite (freeLine_quiet.bind fun _ => .pure _) (.get_bind fun s _ => ?_)
  split
  · exact .pure _
  refine (Quiet.modify fun _ => meetRead_background ..).bind fun _ => .get_bind fun v _ => (cachedLine_quiet ..).bind fun d => ?_
  split
  · exact (looked v).bind fun _ => .pure _
  refine (ebufRecall_quiet n).bind fun r => .ite ((cachedLine_quiet ..).bind fun d => ?_) (.get_bind fun t _ => .ite .wait ?_)
  · split
    · exact (looked v).bind fun _ => .pure _
    · exact .wait
  · exact (looked v).bind fun _ => (requestLine_quiet ..).bind fun _ => .get_bind fun _ _ => .ite (.pure _) .wait

end

end Sys2Proof.Machine

namespace Sys2Proof.Machine
open Sys2Proof

/-! ## Translation (R340 to R361) -/

/-- A computation that may end in a translation fault is quiet, however it ends. -/
structure QuietX {α : Type} (s₀ : State) (x : X α) : Prop where
  run : Quiet s₀ x.run

section
variable {α β : Type} {s₀ : State}

theorem QuietX.pure (a : α) : QuietX s₀ (pure a : X α) := ⟨Quiet.pure _⟩

theorem QuietX.throw (e : XFault) : QuietX s₀ (throw e : X α) := ⟨Quiet.pure _⟩

theorem QuietX.bind {x : X α} {f : α → X β} (hx : QuietX s₀ x) (hf : ∀ a, QuietX s₀ (f a)) : QuietX s₀ (x >>= f) := by
  refine ⟨?_⟩
  rw [ExceptT.run_bind]
  refine hx.run.bind fun r => ?_
  cases r with
  | ok a => exact (hf a).run
  | error e => exact .pure _

theorem QuietX.ite {b : Prop} [Decidable b] {x y : X α} (hx : QuietX s₀ x) (hy : QuietX s₀ y) : QuietX s₀ (if b then x else y) := by
  split
  · exact hx
  · exact hy

theorem QuietX.lift {m : M α} (h : Quiet s₀ m) : QuietX s₀ (liftM m : X α) := ⟨h.bind fun _ => .pure _⟩

theorem QuietX.modify {f : State → State} (h : ∀ s, Background False s (f s)) : QuietX s₀ (modify f : X PUnit) :=
  .lift (.modify h)

theorem QuietX.get_bind {f : State → X β} (h : ∀ s, QuietX s₀ (f s)) : QuietX s₀ (get >>= f) :=
  QuietX.bind (.lift ⟨Carries.get⟩) h

theorem QuietX.tryCatch {x : X α} {f : XFault → X α} (hx : QuietX s₀ x) (hf : ∀ e, QuietX s₀ (f e)) :
    QuietX s₀ (tryCatchThe XFault x f) := by
  refine ⟨hx.run.bind fun r => ?_⟩
  cases r with
  | ok a => exact .pure _
  | error e => exact (hf e).run

/-- A check that fails ends the translation; else it goes on. -/
theorem QuietX.check {b : Prop} [Decidable b] {e : XFault} {f : PUnit → X β} (h : QuietX s₀ (f ())) :
    QuietX s₀ (if b then (MonadExcept.throw e : X PUnit) >>= f else f ()) := .ite (.bind (.throw e) fun _ => h) h

theorem walkWord_quiet (who : Requester) (pa : PAddr) : Quiet s₀ (walkWord who pa) := by
  unfold walkWord
  refine .ite (.bind ((spadRead_quiet ..).bind fun _ => .pure _) fun w => ?_) ((readLine_quiet ..).bind fun _ => .pure _)
  exact .bind (.modify fun _ => countSpec_background ..) fun _ => .pure _

theorem walkRead_quiet (who : Requester) (g : Regime) (stage2 s1w : Bool) (lvl ipa : Nat) (pa : PAddr) :
    QuietX s₀ (walkRead who g stage2 s1w lvl ipa pa) := by
  unfold walkRead
  refine .get_bind fun s => .check (.check (.bind (.lift (walkWord_quiet ..)) fun w => ?_))
  cases w with
  | none => exact .throw _
  | some v => exact .ite (.throw _) (.pure _)

theorem walkCached_quiet (g : Regime) (stage2 : Bool) (lvl a : Nat) : Quiet s₀ (walkCached g stage2 lvl a) :=
  .ite (.pure _) (.get_bind fun _ _ => (pickFree_quiet _).bind fun _ => .pure _)

theorem keepWalk_quiet (g : Regime) (stage2 : Bool) (lvl a : Nat) (e : W64) : Quiet s₀ (keepWalk g stage2 lvl a e) := by
  refine .modify fun s => ?_
  dsimp only
  split
  · exact .refl s
  · exact .of_rest rfl

theorem walkFrom_quiet (g : Regime) (stage2 s1w : Bool) (ipa : Nat) {rd : Nat → Nat → X W64} (hrd : ∀ lvl p, QuietX s₀ (rd lvl p))
    (a fuel lvl table : Nat) : QuietX s₀ (walkFrom g stage2 s1w ipa rd a fuel lvl table) := by
  induction fuel generalizing lvl table with
  | zero => exact .throw _
  | succ fuel ih =>
    unfold walkFrom
    refine .bind (.lift (walkCached_quiet ..)) fun c => ?_
    have go (e : W64) : QuietX s₀ (do
        if !bit e 0 then throw (XFault.mk 1 stage2 lvl 0 0 s1w ipa)
        if (bit e 1 && lvl == 4) || (!bit e 1 && decide (lvl < 2)) then throw (XFault.mk 2 stage2 lvl 0 0 s1w ipa)
        if bit e 1 then
          keepWalk g stage2 lvl a e
          walkFrom g stage2 s1w ipa rd a fuel (lvl + 1) (entryAddr e)
        else if lvl == 4 && bit e 56 then
          let j := lvlIndex stage2 lvl a / 16 * 16 + Config.freeNat (← (freshFree : M Nat)) % 16
          let e' ← rd lvl (table + 8 * j)
          return (if bit e' 0 && !bit e' 1 && bit e' 56 then e' else e, lvl)
        else return (e, lvl)) := by
      refine .check (.check (.ite (.bind (.lift (keepWalk_quiet ..)) fun _ => ih _ _) (.ite ?_ (.pure _))))
      exact .bind (.lift freshFree_quiet) fun _ => .bind (hrd _ _) fun _ => .pure _
    cases c with
    | some e => exact .bind (.pure e) go
    | none => exact .bind (hrd _ _) go

theorem keepEntry_background {pad : Prop} (fresh : Bool) (covers : TlbEntry → Bool) (t : TlbEntry) (s : State) :
    Background pad s (keepEntry fresh covers t s) := .of_rest rfl

theorem stage2Leaf_quiet (who : Requester) (g : Regime) (s1w fresh : Bool) (ipa : Nat) :
    QuietX s₀ (stage2Leaf who g s1w fresh ipa) := by
  unfold stage2Leaf
  refine .get_bind fun s => .bind (.lift (pickFree_quiet _)) fun r => ?_
  cases r with
  | some r => exact .pure _
  | none =>
    refine .bind (walkFrom_quiet _ _ _ _ (fun _ _ => walkRead_quiet ..) ..) fun r => ?_
    exact .ite (.bind (.modify fun _ => keepEntry_background ..) fun _ => .pure _) (.pure _)

theorem stage1Read_quiet (who : Requester) (g : Regime) (fresh : Bool) (lvl p : Nat) : QuietX s₀ (stage1Read who g fresh lvl p) := by
  unfold stage1Read
  exact .ite (.bind (stage2Leaf_quiet ..) fun _ => .check (.check (walkRead_quiet ..))) (walkRead_quiet ..)

theorem walkLeaves_quiet (who : Requester) (g : Regime) (fresh : Bool) (a : Nat) : QuietX s₀ (walkLeaves who g fresh a) := by
  unfold walkLeaves
  have stage2 (l1 : Option (W64 × Nat)) (ipa : Nat) : QuietX s₀ (do
      let l2 ← if g.en2 then (do return some (← stage2Leaf who g false fresh ipa) : X (Option (W64 × Nat))) else pure none
      return (l1, l2)) :=
    .ite (.bind (.bind (stage2Leaf_quiet ..) fun _ => .pure _) fun _ => .pure _) (.bind (.pure _) fun _ => .pure _)
  refine .ite (.bind (.bind ?_ fun _ => .pure _) fun l1 => stage2 ..) (.bind (.pure _) fun l1 => stage2 ..)
  exact walkFrom_quiet _ _ _ _ (fun _ _ => stage1Read_quiet ..) ..

theorem countXlate_background {pad : Prop} (who : Requester) (x : XReq) (s : State) : Background pad s (countXlate who x s) :=
  (countSpec_background ..).trans (countSpec_background ..)

theorem leavesOf_quiet (who : Requester) (g : Regime) (x : XReq) (fresh : Bool) (a : Nat) : QuietX s₀ (leavesOf who g x fresh a) := by
  unfold leavesOf
  refine .get_bind fun s => .bind (.lift (pickFree_quiet _)) fun r => ?_
  cases r with
  | some t => exact .pure _
  | none =>
    have missed : QuietX s₀ (if ((g.en1 || g.en2) && !fresh) = true then modify (countXlate who x) else pure () : X Unit) :=
      .ite (.modify fun _ => countXlate_background ..) (.pure _)
    exact .bind (.tryCatch (walkLeaves_quiet ..) fun _ => .bind missed fun _ => .throw _) fun _ => .bind missed fun _ => .pure _

theorem keepLeaf_quiet (g : Regime) (a ipa : Nat) (l1 l2 : Option (W64 × Nat)) (fresh : Bool) : Quiet s₀ (keepLeaf g a ipa l1 l2 fresh) :=
  .ite (.modify fun _ => keepEntry_background ..) (.pure _)

theorem checkLeaves_quiet (g : Regime) (x : XReq) (l1 l2 : Option (W64 × Nat)) (ipa : Nat) (pa : PAddr) :
    QuietX s₀ (checkLeaves g x l1 l2 ipa pa) := by
  unfold checkLeaves
  refine .get_bind fun s => ?_
  extract_lets right e1 dev mark found marks keys inside device sealed stage2
  have hmark (b : Nat) (t : BitVec 4) : QuietX s₀ (mark b t) := by
    cases l1 with
    | none =>
      cases l2 with
      | none => exact .pure _
      | some _ => exact .ite (.throw _) (.pure _)
    | some _ =>
      cases l2 with
      | none => exact .check (.pure _)
      | some _ => exact .check (.ite (.throw _) (.pure _))
  have hfound (u : Unit) : QuietX s₀ (found u) := .pure _
  have hmarks (u : Unit) : QuietX s₀ (marks u) := .bind (hmark 6 4) fun _ => .ite (.bind (hmark 7 5) hfound) (hfound ())
  have hkeys (u : Unit) : QuietX s₀ (keys u) := by
    show QuietX s₀ (match x.keys, l1 with | some _, some (_, _) => _ | _, _ => _)
    split
    · exact .check (hmarks ())
    · exact hmarks ()
  have hinside (u : Unit) : QuietX s₀ (inside u) := .check (hkeys ())
  have hdevice (u : Unit) : QuietX s₀ (device u) := .check (hinside ())
  have hsealed (u : Unit) : QuietX s₀ (sealed u) := .check (hdevice ())
  have hstage2 (u : Unit) : QuietX s₀ (stage2 u) := by
    cases l2 with
    | none => exact hsealed ()
    | some _ => exact .check (hsealed ())
  clear_value stage2
  cases l1 with
  | none =>
    dsimp only
    split
    · exact .bind (.throw _) hstage2
    · exact hstage2 ()
  | some _ =>
    refine .check (.check ?_)
    dsimp only
    split
    · exact .check (.check (hstage2 ()))
    · exact .check (hstage2 ())

theorem translateOnce_quiet (who : Requester) (g : Regime) (x : XReq) (fresh : Bool) : QuietX s₀ (translateOnce who g x fresh) := by
  unfold translateOnce
  refine .bind (leavesOf_quiet ..) fun l => ?_
  exact .ite (.bind (.lift (keepLeaf_quiet ..)) fun _ => checkLeaves_quiet ..) (checkLeaves_quiet ..)

theorem translate_quiet (who : Requester) (g : Regime) (x : XReq) : Quiet s₀ (translate who g x) := by
  unfold translate
  refine .ite (.pure _) ((translateOnce_quiet ..).run.bind fun r => ?_)
  cases r with
  | ok p => exact .pure _
  | error f => exact .ite (translateOnce_quiet ..).run (.pure _)

end

end Sys2Proof.Machine

namespace Sys2Proof.Machine
open Sys2Proof

/-! ## Causeway sources (R444 to R446) -/

theorem setCw_background {pad : Prop} (c : BitVec 4) (k : CwCh) (s : State) : Background pad s (setCw c k s) := .of_rest rfl

theorem dropChFills_background {pad : Prop} (who : Requester) (s : State) : Background pad s (dropChFills who s) := .of_rest rfl

theorem Alarmed.background {pad : Prop} {s t : State} (h : Alarmed s t) : Background pad s t := by
  rw [h]
  exact .of_rest rfl

theorem noteForged_background {pad : Prop} (e : ChStop) (s : State) : Background pad s (noteForged e s) := by
  unfold noteForged
  split
  · exact (violation_alarmed 0 s).background
  · exact .refl s

theorem cwLeave_background {pad : Prop} (c : BitVec 4) (k : CwCh) (s : State) : Background pad s (cwLeave c k s) := by
  unfold cwLeave
  refine Background.trans ?_ ((accountChange_background s { s with cw := { s.cw with ch := vset s.cw.ch c.toNat k } }).trans
    ((traceRec_background ..).trans (noteFences_background _)))
  exact .of_rest rfl

/-- A step that is undone keeps what a context had, but for the events that it was given. -/
theorem keepEvents_keepFound_kept {k t : Ctx} (h : CtxKept k t) : CtxKept k ((k.keepEvents t).keepFound t) := by
  have events : CtxKept k (k.keepEvents t) := by
    unfold Ctx.keepEvents
    split <;> rfl
  have slots : (k.keepEvents t).slotErrs = t.slotErrs := by rw [events, h]
  have found (l : List (Nat × Bool)) (hl : ∀ e ∈ l, t.slotErrs.contains e = true) (u : Ctx) :
      l.foldl (fun u e => if t.slotErrs.contains e then u else (if e.2 then u.loseSlot e.1 else u).clearSlotErrs (· == e.1)) u = u := by
    induction l generalizing u with
    | nil => rfl
    | cons e l ih =>
      rw [List.foldl_cons, if_pos (hl e List.mem_cons_self)]
      exact ih (fun e he => hl e (List.mem_cons_of_mem _ he)) u
  have : (k.keepEvents t).keepFound t = k.keepEvents t := by
    unfold Ctx.keepFound
    refine found _ (fun e he => ?_) _
    rw [slots] at he
    simpa using he
  rw [this]
  exact events

/-- What goes on behind the instructions does so as well when the access that brought it about waits. -/
theorem Background.rollback {s t : State} (h : Background False s t) : Background False s (rollback s t) := by
  refine ⟨fun c => ?_, rfl, rfl, rfl, rfl, h.fcWin, h.toll, rfl, rfl, h.perf, False.elim⟩
  have := keepEvents_keepFound_kept (h.ctx c)
  rcases ctxId_cases c with rfl | rfl | rfl | rfl <;> exact this

section
variable {s₀ : State}

theorem chCheck_go_quiet (u : ChUser) (k : AccKind) (l : List W64) : Quiet s₀ (chCheck.go u k l) := by
  induction l with
  | nil => exact .pure _
  | cons v vs ih =>
    unfold chCheck.go
    refine (translate_quiet ..).bind fun r => ?_
    cases r with
    | error f => exact .pure _
    | ok p =>
      refine .ite (.pure _) (ih.bind fun q => ?_)
      cases q with
      | error e => exact .pure _
      | ok ps => exact .pure _

theorem chCheck_quiet (u : ChUser) (k : AccKind) (a : W64) (n : Nat) : Quiet s₀ (chCheck u k a n) := by
  unfold chCheck
  refine .get_bind fun s _ => ?_
  dsimp only
  split
  · exact .pure _
  · exact chCheck_go_quiet ..

theorem cwCheckPages_quiet (u : ChUser) (a : W64) (n : Nat) (l : List W64) : Quiet s₀ (cwCheckPages u a n l) := by
  induction l with
  | nil => exact .pure _
  | cons v vs ih =>
    unfold cwCheckPages
    refine (chCheck_quiet ..).bind fun r => ?_
    cases r with
    | error e => exact .pure _
    | ok _ => exact ih

theorem cwLose_quiet (c : BitVec 4) : Quiet s₀ (cwLose c) := .bind (.modify fun _ => setCw_background ..) fun _ => .pure _

theorem cwSpad_quiet (c : BitVec 4) (i : Nat) : Quiet s₀ (cwSpad c i) := by
  unfold cwSpad
  exact .get_bind fun s _ => (spadRead_quiet ..).bind fun w => .ite (cwLose_quiet c) (.pure _)

theorem cwWord_quiet (c : BitVec 4) (k : CwCh) (o : Nat) : Quiet s₀ (cwWord c k o) := by
  unfold cwWord
  refine .ite ?_ (cwSpad_quiet ..)
  split
  · exact cwLose_quiet c
  refine (translate_quiet ..).bind fun r => ?_
  cases r with
  | error f => exact cwLose_quiet c
  | ok p =>
    have line : Quiet s₀ (do
        match ← readLine (.cw c) .peek p.str p.va (lineNo p.pa) with
        | some d => return (vget d (fldN p.pa 3 3) TWord.zero).val
        | none => cwLose c) := by
      refine (readLine_quiet ..).bind fun d => ?_
      cases d with
      | none => exact cwLose_quiet c
      | some d => exact .pure _
    exact .ite (cwSpad_quiet ..) (.get_bind fun s _ => .ite (.bind (.modify fun _ => setCw_background ..) fun _ => line) line)

theorem cwBeatData_quiet (c : BitVec 4) (k : CwCh) (j i : Nat) : Quiet s₀ (cwBeatData c k j i) := by
  induction i with
  | zero => exact .pure _
  | succ i ih =>
    unfold cwBeatData
    exact ih.bind fun acc => .ite (.pure _) ((cwWord_quiet ..).bind fun w => .pure _)

end

/-! ## Causeway checks and beats (R26, R28, R445) -/

theorem Quiet.of_ok {α : Type} {m : M α} {s t : State} {a : α} (h : Quiet s m) (hm : m s = .ok a t) : Background False s t := by
  have := h.carries s (.refl s)
  rw [hm] at this
  exact this

theorem Quiet.of_error {α : Type} {m : M α} {s t : State} {e : Stop} (h : Quiet s m) (hm : m s = .error e t) : Background False s t := by
  have := h.carries s (.refl s)
  rw [hm] at this
  exact this

theorem cwCheck_background (c : BitVec 4) (s : State) : Background False s (cwCheck c s) := by
  unfold cwCheck
  dsimp only
  split
  · exact .refl s
  split
  · exact setCw_background ..
  split
  · rename_i t h
    exact ((cwCheckPages_quiet ..).of_ok h).trans ((dropChFills_background ..).trans (setCw_background ..))
  · rename_i e t h
    exact ((cwCheckPages_quiet ..).of_ok h).trans ((dropChFills_background ..).trans ((noteForged_background ..).trans
      (cwLeave_background ..)))
  · rename_i t h
    exact ((cwCheckPages_quiet ..).of_error h).rollback

theorem cwChecks_background (s : State) : Background False s (cwChecks s) := by
  refine .foldl _ (fun t i => ?_) _ s
  split
  · exact cwCheck_background ..
  · exact .refl t

theorem cwPush_background (c : BitVec 4) (d : BitVec 256) (s : State) : Background False s (cwPush c d s) := .of_rest rfl

theorem cwBeat_background (c : BitVec 4) (s : State) : Background False s (cwBeat c s).2 := by
  unfold cwBeat
  dsimp only
  split
  · exact cwPush_background ..
  split
  · rename_i d t h
    exact ((cwBeatData_quiet ..).of_ok h).trans ((dropChFills_background ..).trans (cwPush_background ..))
  · rename_i t h
    exact ((cwBeatData_quiet ..).of_error h).rollback.trans (setCw_background ..)

theorem cwServe_background (l : List (BitVec 4)) (s : State) : Background False s (cwServe l s) := by
  induction l generalizing s with
  | nil => exact .refl s
  | cons c cs ih =>
    have hb := cwBeat_background c s
    unfold cwServe
    split
    · rename_i t h
      rw [h] at hb
      exact hb
    · rename_i t h
      rw [h] at hb
      exact hb.trans (ih t)

theorem cwFill_background (s : State) : Background False s (cwFill s) := by
  unfold cwFill
  split
  · exact .refl s
  · exact cwServe_background ..

theorem offerBeat_background {pad : Prop} (s : State) : Background pad s (offerBeat s) := by
  unfold offerBeat
  split
  · exact .refl s
  split
  · exact .refl s
  split
  · exact .of_rest rfl
  · exact .of_rest rfl

theorem cwOffer_background (s : State) : Background False s (cwOffer s) := by
  unfold cwOffer
  refine Background.trans ?_ ((cwFill_background _).trans (offerBeat_background _))
  split
  · exact cwChecks_background s
  · exact .refl s

theorem offerNext_background {pad : Prop} (s : State) : Background pad s (offerNext s) := by
  unfold offerNext
  split
  · exact .refl s
  split
  · exact .of_rest rfl
  · unfold offerFlit
    split
    · exact .refl s
    · exact .of_rest rfl

end Sys2Proof.Machine

namespace Sys2Proof.Machine
open Sys2Proof

/-! ## A tick (log 2) -/

theorem tickStall_background (s : State) : Background False s (tickStall s) := by
  unfold tickStall
  exact (offerNext_background s).trans ((cwOffer_background _).trans (.of_rest rfl))

theorem waysideBeat_background {pad : Prop} (b : Bool) (s : State) : Background pad s (waysideBeat b s) := by
  unfold waysideBeat
  generalize hr : (if s.rel.wsBeat = 0 then { s.rel with wsNow := s.rel.wsNow.filter fun x => s.rel.wsbuf.head? != some x }
    else s.rel) = r
  have win : r.fcWin = s.rel.fcWin := by
    rw [← hr]
    split <;> rfl
  have rel (r' : Rel) (h : r'.fcWin = s.rel.fcWin) : Background pad s { s with rel := r' } := .of_rest (by rw [← h])
  dsimp only
  split
  · exact .refl s
  split
  · exact rel _ win
  · exact rel _ win

theorem tickWayside_background {pad : Prop} (s : State) : Background pad s (tickWayside s) := by
  unfold tickWayside
  split
  · exact .refl s
  · exact Background.trans (t := { s with free := s.free + 1 }) (.of_rest rfl) (waysideBeat_background ..)

theorem cpOffer_background {pad : Prop} (s : State) : Background pad s (cpOffer s) := by
  unfold cpOffer
  split
  · exact .refl s
  · exact .of_rest rfl

theorem tickCopro_background {pad : Prop} (s : State) : Background pad s (tickCopro s) := by
  unfold tickCopro
  split
  · exact .refl s
  refine Background.trans (t := { s with
    free := s.free + 1, pins := { s.pins with cpIready := decide (Config.freeNat s.free % 2 = 1) } }) (.of_rest rfl) ?_
  unfold cpTransfer
  split
  · exact Background.trans (.of_rest rfl) (cpOffer_background _)
  · exact .refl _

theorem accountSteps_background {pad : Prop} (s : State) : Background pad s (accountSteps s) := by
  have pace (n : Nat) (t : State) : Background pad t (countPace n t) := by
    unfold countPace
    split
    · exact .of_rest rfl
    · exact .refl t
  have monitor (n : Nat) (t : State) : Background pad t (monitorSteps n t) := .of_rest rfl
  have sample (n : Nat) (t : State) : Background pad t (sampleSteps n t) :=
    Background.trans (.of_rest rfl) (sampleSteps_alarmed n t).background
  unfold accountSteps
  split
  · exact .refl s
  split
  · exact Background.trans (t := { s with free := s.free + 1 }) (.of_rest rfl) (monitor ..)
  dsimp only
  have clear (t : State) : Background pad t { t with free := t.free + 1, perf := { t.perf with stepDebt := 0 } } :=
    ⟨fun _ => CtxKept.refl _, rfl, rfl, rfl, rfl, rfl, rfl, rfl, rfl, ⟨rfl, rfl⟩, fun _ => rfl⟩
  have steps (n : Nat) : Background pad s
      (countPace n (monitorSteps n { account s s with free := (account s s).free + 1, perf := { (account s s).perf with stepDebt := 0 } })) :=
    (account_background s s).trans ((clear _).trans ((monitor ..).trans (pace ..)))
  split
  · exact steps _
  · exact (steps _).trans (sample ..)

/-- The counters run or stand still throughout what goes on behind the instructions. -/
theorem Background.counting {pad : Prop} {s t : State} (h : Background pad s t) : counting t = counting s := by
  have pins := h.pins
  simp only [Prod.mk.injEq] at pins
  unfold Machine.counting
  rw [h.perf.1, pins.2]

/-- While the counters run, a tick adds one to FC1 (R452); of the contexts that wait it counts an event. -/
theorem tickCount_background (s : State) :
    Background True (if counting s then addFc 1 1 s else s) (tickCount s) := by
  unfold tickCount
  cases counting s with
  | false => exact .refl s
  | true =>
    refine .foldl _ (fun t c => ?_) _ _
    split
    · exact countEvent_background ..
    · exact .refl t

/-- What a tick of the reference clock counts (R449, R452, R485, R500). -/
def ticked (s : State) : State :=
  let t := tickToll { s with time := { s.time with tick := s.time.tick + 1 }, rel := { s.rel with fcWin := s.rel.fcWin + 1 } }
  if counting t then addFc 1 1 t else t

/-- A count of FC1 and what goes on behind the instructions do not disturb each other. -/
theorem Background.addFc {pad : Prop} {s t : State} (h : Background pad s t) : Background pad (addFc 1 1 s) (addFc 1 1 t) := by
  refine ⟨h.ctx, h.boot, h.time, h.tile, h.pending, h.fcWin, h.toll, h.pins, h.caddr, ⟨h.perf.1, ?_⟩, h.spad⟩
  show vget (vset _ 1 _) 1 0 = vget (vset _ 1 _) 1 0
  rw [vget_vset_same _ (by decide), vget_vset_same _ (by decide), h.perf.2]

theorem refTick_background (s : State) : Background False (ticked s) (refTick s) := by
  unfold refTick ticked
  dsimp only
  generalize tickToll _ = t
  have stall := (tickStall_background t).trans (sampleAlarm_alarmed (tickStall t)).background
  generalize sampleAlarm (tickStall t) = u at stall
  have count := (tickCount_background u).weaken (pad' := False) False.elim
  rw [stall.counting] at count
  refine Background.trans ?_ count
  split
  · exact stall.addFc
  · exact stall

theorem idleTick_background {s : State} (h : inColdReset s = false) :
    Background False (if (account s s).pins.refclk then ticked (account s s) else account s s) (idleTick s) := by
  unfold idleTick
  rw [h]
  refine Background.trans ?_ ((tickWayside_background _).trans ((tickCopro_background _).trans (accountSteps_background _)))
  generalize account s s = a
  cases a.pins.refclk with
  | false => exact .refl a
  | true => exact refTick_background a

theorem ticked_form (s : State) : ∃ fc, vget fc 1 0 = vget s.perf.fc 1 0 + BitVec.ofNat 64 (if counting s then 1 else 0) ∧
    ticked s = { s with
      time := { s.time with tick := s.time.tick + 1 }
      rel := { s.rel with fcWin := s.rel.fcWin + 1 }
      toll := { s.toll with
        tokM := min (fldN s.toll.rate 0 16 * 1024) (s.toll.tokM + fldN s.toll.rate 0 16)
        tokC := min (fldN s.toll.rate 16 16 * 1024) (s.toll.tokC + fldN s.toll.rate 16 16) }
      perf := { s.perf with fc := fc } } := by
  unfold ticked
  dsimp only
  have hc : counting (tickToll { s with
      time := { s.time with tick := s.time.tick + 1 }, rel := { s.rel with fcWin := s.rel.fcWin + 1 } }) = counting s := rfl
  rw [hc]
  cases counting s with
  | false => exact ⟨s.perf.fc, by simp, rfl⟩
  | true => exact ⟨_, vget_vset_same _ (by decide) _ _, rfl⟩

/-- Settles O1. -/
theorem stepRunsFrontCommand : Obligations.StepRunsFrontCommand := by
  refine ⟨fun c rest s => rfl, fun s hp => ⟨idleTick s, by rw [step, hp], ?_⟩⟩
  have cold (h : inColdReset s = true) : idleTick s = s := if_pos h
  cases hc : inColdReset s with
  | true =>
    rw [cold hc]
    exact ⟨hp, fun _ => rfl, fun h => absurd h (by decide)⟩
  | false =>
    have ha := (account_background (pad := True) s s).weaken (pad' := False) False.elim
    have ht := idleTick_background hc
    generalize account s s = a at ha ht
    generalize idleTick s = t at ht
    have regs {k k' : Ctx} (h : CtxKept k k') : k'.pc = k.pc ∧ k'.st = k.st ∧ k'.getA = k.getA ∧ k'.getX = k.getX ∧
        k'.getY = k.getY ∧ k'.stk = k.stk := ⟨h.pc, h.st, h.getA, h.getX, h.getY, h.stk⟩
    have hclk : a.pins.refclk = s.pins.refclk := congrArg Prod.fst ha.pins
    cases hr : s.pins.refclk with
    | false =>
      rw [hclk, hr, if_neg Bool.false_ne_true] at ht
      have h := ha.trans ht
      have toll := h.toll
      simp only [Prod.mk.injEq] at toll
      obtain ⟨-, -, htokM, htokC⟩ := toll
      refine ⟨h.pending.trans hp, fun hc => absurd hc (by decide), fun _ => ⟨?_, ?_, ?_, ⟨?_, ?_⟩, h.tile, fun c => regs (h.ctx c)⟩⟩
      · simp [h.time]
      · rw [h.perf.2]
        exact (BitVec.add_zero _).symm
      · simp [h.fcWin]
      · simpa using htokM
      · simpa using htokC
    | true =>
      obtain ⟨fc, hfc, hform⟩ := ticked_form a
      rw [hclk, hr, if_pos rfl, hform] at ht
      have hat := ha.toll
      have htt := ht.toll
      simp only [Prod.mk.injEq] at hat htt
      obtain ⟨hrate, -, hatM, hatC⟩ := hat
      obtain ⟨-, -, htokM, htokC⟩ := htt
      refine ⟨ht.pending.trans (ha.pending.trans hp), fun hc => absurd hc (by decide), fun _ => ⟨?_, ?_, ?_, ⟨?_, ?_⟩,
        ht.tile.trans ha.tile, fun c => regs ((ha.ctx c).trans (ht.ctx c))⟩⟩
      · simp [ht.time, ha.time]
      · rw [ht.perf.2, hfc, ha.perf.2, ha.counting]
        rfl
      · simp [ht.fcWin, ha.fcWin]
      · rw [htokM, hrate, hatM]
        rfl
      · rw [htokC, hrate, hatC]
        rfl

end Sys2Proof.Machine

namespace Sys2Proof.Machine
open Sys2Proof

/-! ## Leaving Held without keys

The clause of O49 about the first entropy read says `t.ctx = s.ctx`. That read is a packet too (see the key read above that wakes a
context). -/

/-- countingKeys before GO: the core is Held. -/
def countingHeld : State := { countingKeys KeyGen.reset with boot := { Boot.reset with phase := .held } }

/-- Without keys and without an alarm, a Held core with GO asks for its first entropy word. -/
theorem goStart_countingHeld : goStart countingHeld = keyRead (countingKeys KeyGen.reset) := if_neg (by decide)

/-- Refutes O49: a Held core without keys sends its first entropy read, and the steps before its packet overflow a counter, which wakes
context 1, so that the contexts are not as they were. -/
theorem not_startState : ¬ Obligations.StartState := by
  intro h
  obtain ⟨-, hkeys, -⟩ := h countingHeld
  obtain ⟨-, -, hctx⟩ := hkeys rfl rfl (.inl (by decide)) (by decide)
  have hrun := keyRead_countingKeys KeyGen.reset
  rw [← goStart_countingHeld, State.getCtx, hctx] at hrun
  cases hrun

end Sys2Proof.Machine

namespace Sys2Proof.Machine
open Sys2Proof

/-! ## Calm steps

O60 says of every step what it keeps. Nearly all that a step does is calm: no context comes to run, the caches stay in order, and the
places that only privileged code, a start or a reset may write stay as they are. -/

/-- From k to l, a context has not come to run, its current window is still one of the seven, its privilege is as it was, and so are its
system registers but MARKR. -/
structure CtxCalm (k l : Ctx) : Prop where
  run : l.run = .running → k.run = .running
  win : k.win.cur.toNat < 7 → l.win.cur.toNat < 7
  sys : ∃ m, l.sys = { k.sys with markr := m }
  sup : bit l.st 11 = bit k.st 11

/-- What start-up locks (R84, R87). -/
def lockedConfig (s : State) : BitVec 2 × BitVec 9 × W32 × W32 × W32 × Bool :=
  (s.chain.privMode, s.chain.enable0, s.chain.rveclo, s.chain.rvechi, s.chain.entsrc, s.chain.sealedOnly)

/-- What of the shared state only privileged code writes (R147, R401, R488). -/
def privState (s : State) : Vector W64 16 × Vector W64 16 × BitVec 20 × BitVec 8 := (s.pamb, s.paml, s.rel.wlock, s.drover.dpri)

/-- The state outside the contexts that a calm step leaves. -/
def steady (s : State) :
    (Bool × Bool) × (BitVec 2 × BitVec 9 × W32 × W32 × W32 × Bool) × Vector W64 16 × Vector W64 16 × BitVec 20 × BitVec 8 :=
  ((s.boot.locked, s.boot.lame), lockedConfig s, privState s)

/-- The step from s to t is calm, as far as the caches are left aside. -/
structure Aside (s t : State) : Prop where
  ctx : ∀ c, CtxCalm (s.getCtx c) (t.getCtx c)
  steady : steady t = steady s

/-- The step from s to t is calm. -/
structure Calm (s t : State) : Prop extends Aside s t where
  caches : CachesInv s → CachesInv t

/-- m' holds no line that m does not hold at the same place. -/
structure Within (m' m : SMap CLine) : Prop where
  wf : SMap.wf m = true → SMap.wf m' = true
  mem : ∀ e ∈ m', ∃ f ∈ m, f.1 = e.1 ∧ f.2.line = e.2.line

/-- The step from s to t is calm, and no line has come into a cache or an eviction buffer. -/
structure Trim (s t : State) : Prop extends Aside s t where
  lines : ∀ id, Within (t.caches.lines id) (s.caches.lines id)
  ebuf : (t.caches.ebuf.map (·.line)).Sublist (s.caches.ebuf.map (·.line))

section
variable {k l m : Ctx} {s t u : State}

theorem CtxCalm.refl (k : Ctx) : CtxCalm k k := ⟨id, id, ⟨_, rfl⟩, rfl⟩

theorem CtxCalm.trans (h : CtxCalm k l) (g : CtxCalm l m) : CtxCalm k m := by
  obtain ⟨a, ha⟩ := h.sys
  obtain ⟨b, hb⟩ := g.sys
  exact ⟨h.run ∘ g.run, g.win ∘ h.win, ⟨b, by rw [hb, ha]⟩, g.sup.trans h.sup⟩

/-- Of a context, other registers may change. -/
theorem CtxCalm.of_eq (run : l.run = k.run) (win : l.win.cur = k.win.cur) (sys : l.sys = k.sys) (sup : bit l.st 11 = bit k.st 11) :
    CtxCalm k l := ⟨fun h => run ▸ h, fun h => win ▸ h, ⟨_, sys⟩, sup⟩

/-- A context that is READY, WAITING or STOPPED has not come to run. -/
theorem CtxCalm.of_idle (run : l.run ≠ .running) (win : l.win.cur = k.win.cur) (sys : l.sys = k.sys) (sup : bit l.st 11 = bit k.st 11) :
    CtxCalm k l := ⟨fun h => absurd h run, fun h => win ▸ h, ⟨_, sys⟩, sup⟩

theorem SameOrWoken.calm (h : SameOrWoken k l) : CtxCalm k l := by
  obtain rfl | ⟨hw, now, rfl⟩ := h
  · exact .refl _
  · refine .of_idle (by rw [wokenByIrq_run hw]; decide) ?_ ?_ ?_ <;> · unfold Ctx.wokenByIrq; split <;> rfl

theorem Aside.refl (s : State) : Aside s s := ⟨fun _ => .refl _, rfl⟩

theorem Aside.trans (h : Aside s t) (g : Aside t u) : Aside s u := ⟨fun c => (h.ctx c).trans (g.ctx c), g.steady.trans h.steady⟩

theorem Aside.of_rest (hx : t.ctx = s.ctx) (hs : Machine.steady t = Machine.steady s) : Aside s t :=
  ⟨fun c => by rw [State.getCtx, State.getCtx, hx]; exact .refl _, hs⟩

theorem Aside.wlock (h : Aside s t) : t.rel.wlock = s.rel.wlock := congrArg (fun x => x.2.2.2.2.1) h.steady

theorem Aside.wayLocked (h : Aside s t) (id : CacheId) (w : Nat) : wayLocked t id w = wayLocked s id w := by
  rw [Machine.wayLocked, Machine.wayLocked, h.wlock]

theorem Within.refl (m : SMap CLine) : Within m m := ⟨id, fun e he => ⟨e, he, rfl, rfl⟩⟩

theorem Within.trans {m n k : SMap CLine} (h : Within n m) (g : Within k n) : Within k m := by
  refine ⟨g.wf ∘ h.wf, fun e he => ?_⟩
  obtain ⟨f, hf, hk, hl⟩ := g.mem e he
  obtain ⟨x, hx, hk', hl'⟩ := h.mem f hf
  exact ⟨x, hx, hk'.trans hk, hl'.trans hl⟩

theorem Trim.refl (s : State) : Trim s s := ⟨.refl s, fun _ => .refl _, .refl _⟩

theorem Trim.trans (h : Trim s t) (g : Trim t u) : Trim s u :=
  ⟨h.toAside.trans g.toAside, fun id => (h.lines id).trans (g.lines id), g.ebuf.trans h.ebuf⟩

theorem Trim.after (g : Trim t u) (h : Trim s t) : Trim s u := h.trans g

/-- A line in an eviction buffer stood there before. -/
theorem Trim.mem_ebuf (h : Trim s t) {b : EvEntry} (hb : b ∈ t.caches.ebuf) : ∃ a ∈ s.caches.ebuf, a.line = b.line :=
  List.mem_map.mp (h.ebuf.subset (List.mem_map_of_mem hb))

/-- Caches that only lose lines stay in order. -/
theorem Trim.cachesInv (h : Trim s t) (hs : CachesInv s) : CachesInv t := by
  obtain ⟨hc, hb⟩ := hs
  refine ⟨fun id => ?_, hb.sublist h.ebuf⟩
  obtain ⟨hwf, ⟨w, hw, hfree⟩, hplace, honce⟩ := hc id
  refine ⟨(h.lines id).wf hwf, ⟨w, hw, by rwa [h.wayLocked]⟩, fun e he => ?_, fun e he f hf hef => ?_⟩
  · obtain ⟨x, hx, hk, hl⟩ := (h.lines id).mem e he
    obtain ⟨hset, hway, hout⟩ := hplace x hx
    rw [hk, hl] at hset
    rw [hk] at hway
    refine ⟨hset, by rwa [h.wayLocked], fun hid b hb => ?_⟩
    obtain ⟨a, ha, hab⟩ := h.mem_ebuf hb
    rw [← hab, ← hl]
    exact hout hid a ha
  · obtain ⟨x, hx, hk, hl⟩ := (h.lines id).mem e he
    obtain ⟨y, hy, hk', hl'⟩ := (h.lines id).mem f hf
    rw [← hk, ← hk']
    exact honce x hx y hy (by rw [hl, hl', hef])

theorem Trim.calm (h : Trim s t) : Calm s t := ⟨h.toAside, h.cachesInv⟩

/-- Contexts and other places changed calmly, and no cache. -/
theorem Trim.of_ctx (hx : ∀ c, CtxCalm (s.getCtx c) (t.getCtx c)) (hs : Machine.steady t = Machine.steady s) (hc : t.caches = s.caches) :
    Trim s t := ⟨⟨hx, hs⟩, fun _ => by rw [hc]; exact .refl _, by rw [hc]⟩

/-- Places changed that the relation does not name. -/
theorem Trim.of_rest (hx : t.ctx = s.ctx) (hs : Machine.steady t = Machine.steady s) (hc : t.caches = s.caches) : Trim s t :=
  .of_ctx (Aside.of_rest hx hs).ctx hs hc

theorem OnlyPerf.trim (h : OnlyPerf s t) : Trim s t := .of_ctx (fun c => (h.2 c).calm) (by rw [h.1]; rfl) (by rw [h.1])

theorem Alarmed.trim (h : Alarmed s t) : Trim s t := .of_rest (by rw [h]) (by rw [h]; rfl) (by rw [h])

theorem Trim.ite {b : Prop} [Decidable b] (ht : Trim s t) (hu : Trim s u) : Trim s (if b then t else u) := by
  split
  · exact ht
  · exact hu

theorem Trim.foldl {α : Type} (f : State → α → State) (hf : ∀ s a, Trim s (f s a)) (l : List α) (s : State) : Trim s (l.foldl f s) := by
  induction l generalizing s with
  | nil => exact .refl s
  | cons a l ih => exact (hf s a).trans (ih _)

theorem Calm.refl (s : State) : Calm s s := (Trim.refl s).calm

theorem Calm.trans (h : Calm s t) (g : Calm t u) : Calm s u := ⟨h.toAside.trans g.toAside, g.caches ∘ h.caches⟩

theorem Calm.after (g : Calm t u) (h : Calm s t) : Calm s u := h.trans g

theorem Calm.of_rest (hx : t.ctx = s.ctx) (hs : Machine.steady t = Machine.steady s) (hc : t.caches = s.caches) : Calm s t :=
  (Trim.of_rest hx hs hc).calm

theorem OnlyPerf.calm (h : OnlyPerf s t) : Calm s t := h.trim.calm

theorem Alarmed.calm (h : Alarmed s t) : Calm s t := h.trim.calm

theorem Calm.ite {b : Prop} [Decidable b] (ht : Calm s t) (hu : Calm s u) : Calm s (if b then t else u) := by
  split
  · exact ht
  · exact hu

theorem Calm.foldl {α : Type} (f : State → α → State) (hf : ∀ s a, Calm s (f s a)) (l : List α) (s : State) : Calm s (l.foldl f s) := by
  induction l generalizing s with
  | nil => exact .refl s
  | cons a l ih => exact (hf s a).trans (ih _)

/-- One context changed, calmly. -/
theorem modCtx_trim {c : CtxId} {f : Ctx → Ctx} (h : CtxCalm (s.getCtx c) (f (s.getCtx c))) : Trim s (s.modCtx c f) := by
  refine .of_ctx (fun d => ?_) rfl rfl
  by_cases hd : d = c
  · subst hd
    rwa [getCtx_modCtx]
  · rw [getCtx_modCtx_ne s f hd]
    exact .refl _

theorem modCtx_calm {c : CtxId} {f : Ctx → Ctx} (h : CtxCalm (s.getCtx c) (f (s.getCtx c))) : Calm s (s.modCtx c f) :=
  (modCtx_trim h).calm

end

/-! ## Programs whose steps are calm -/

/-- Whether it ends or stops, m leads calmly on from what lay calmly after s₀. -/
structure CalmRun {α : Type} (s₀ : State) (m : M α) : Prop where
  carries : Carries (Calm s₀) m

section
variable {α β : Type} {s₀ : State}

theorem CalmRun.pure (a : α) : CalmRun s₀ (pure a : M α) := ⟨Carries.pure a⟩

theorem CalmRun.throw (e : Stop) : CalmRun s₀ (throw e : M α) := ⟨Carries.throw e⟩

theorem CalmRun.bind {m : M α} {f : α → M β} (hm : CalmRun s₀ m) (hf : ∀ a, CalmRun s₀ (f a)) : CalmRun s₀ (m >>= f) :=
  ⟨hm.carries.bind fun a => (hf a).carries⟩

theorem CalmRun.ite {b : Prop} [Decidable b] {m n : M α} (hm : CalmRun s₀ m) (hn : CalmRun s₀ n) : CalmRun s₀ (if b then m else n) :=
  ⟨hm.carries.ite hn.carries⟩

theorem CalmRun.modify {f : State → State} (h : ∀ s, Calm s (f s)) : CalmRun s₀ (modify f : M PUnit) :=
  ⟨Carries.modify fun s hs => hs.trans (h s)⟩

/-- A part that sets the state sets one that comes from the state it read. -/
theorem CalmRun.get_bind {f : State → M β} (h : ∀ s, Calm s₀ s → CalmRun s₀ (f s)) : CalmRun s₀ (get >>= f) :=
  ⟨fun s hs => (h s hs).carries s hs⟩

theorem CalmRun.set {t : State} (h : Calm s₀ t) : CalmRun s₀ (set t : M PUnit) := ⟨Carries.set h⟩

theorem CalmRun.get : CalmRun s₀ (get : M State) := ⟨Carries.get⟩

theorem CalmRun.getC (c : CtxId) : CalmRun s₀ (getC c) := ⟨Carries.getC c⟩

theorem CalmRun.modC {c : CtxId} {f : Ctx → Ctx} (h : ∀ k, CtxCalm k (f k)) : CalmRun s₀ (modC c f) :=
  .modify fun _ => modCtx_calm (h _)

theorem CalmRun.wait : CalmRun s₀ (wait : M α) := .throw _
theorem CalmRun.raise (v : BitVec 6) (n : BitVec 8) : CalmRun s₀ (raise v n : M α) := .throw _
theorem CalmRun.undef : CalmRun s₀ (undef : M α) := .throw _
theorem CalmRun.tagFault (t : Tag) : CalmRun s₀ (tagFault t : M α) := .throw _
theorem CalmRun.misaligned : CalmRun s₀ (misaligned : M α) := .throw _
theorem CalmRun.capFault (n : BitVec 8) (f : Bool) : CalmRun s₀ (capFault n f : M α) := .throw _
theorem CalmRun.needDef (b : Bool) : CalmRun s₀ (needDef b) := .ite (.pure _) .undef
theorem CalmRun.needPriv (b : Bool) : CalmRun s₀ (needPriv b) := .ite (.pure _) (.throw _)

theorem CalmRun.of_ok {m : M α} {s t : State} {a : α} (h : CalmRun s m) (hm : m s = .ok a t) : Calm s t := by
  have := h.carries s (.refl s)
  rwa [hm] at this

theorem CalmRun.of_error {m : M α} {s t : State} {e : Stop} (h : CalmRun s m) (hm : m s = .error e t) : Calm s t := by
  have := h.carries s (.refl s)
  rwa [hm] at this

/-- Begun in s, m leads calmly on from s₀, whether it ends or stops. -/
structure CalmFrom (s₀ s : State) (m : M α) : Prop where
  out : match m s with | .ok _ t => Calm s₀ t | .error _ t => Calm s₀ t

theorem CalmRun.of_from {m : M α} (h : ∀ s, Calm s₀ s → CalmFrom s₀ s m) : CalmRun s₀ m := ⟨fun s hs => (h s hs).out⟩

theorem CalmRun.read {f : State → M β} (h : ∀ s, Calm s₀ s → CalmFrom s₀ s (f s)) : CalmRun s₀ (Bind.bind MonadState.get f) :=
  .of_from fun s hs => ⟨(h s hs).out⟩

theorem CalmFrom.run {m : M α} {s : State} (hs : Calm s₀ s) (h : CalmRun s₀ m) : CalmFrom s₀ s m := ⟨h.carries s hs⟩

theorem CalmFrom.bind {m : M α} {f : α → M β} {s : State} (hm : CalmFrom s₀ s m) (hf : ∀ a, CalmRun s₀ (f a)) :
    CalmFrom s₀ s (m >>= f) := by
  refine ⟨?_⟩
  have h := hm.out
  simp only [Bind.bind, EStateM.bind]
  cases e : m s with
  | ok a t => rw [e] at h; exact (hf a).carries t h
  | error x t => rw [e] at h; exact h

theorem CalmFrom.ite {b : Prop} [Decidable b] {m n : M α} {s : State} (hm : CalmFrom s₀ s m) (hn : CalmFrom s₀ s n) :
    CalmFrom s₀ s (if b then m else n) := by
  split
  · exact hm
  · exact hn

theorem CalmFrom.get_bind {f : State → M β} {s : State} (h : CalmFrom s₀ s (f s)) : CalmFrom s₀ s (get >>= f) := ⟨h.out⟩

theorem CalmFrom.modify {f : State → State} {s : State} (h : Calm s₀ (f s)) : CalmFrom s₀ s (modify f : M PUnit) := ⟨h⟩

theorem CalmFrom.modify_bind {f : State → State} {g : PUnit → M β} {s : State} (h : CalmFrom s₀ (f s) (g ())) :
    CalmFrom s₀ s (Bind.bind (MonadStateOf.modifyGet fun s => (PUnit.unit, f s) : M PUnit) g) := ⟨h.out⟩

end

end Sys2Proof.Machine

namespace Sys2Proof.Machine
open Sys2Proof

/-! ## Counts, records, packets and events are calm -/

section
variable (s : State)

theorem countEvent_trim (cls evt n : Nat) (cause : Option (Bool × Bool)) (m : Master) (a : Option W64) :
    Trim s (countEvent cls evt n cause m a s) := (countEvent_eq ..).trim

theorem setPend_trim (v : Nat) : Trim s (setPend v s) := (setPend_eq v s).trim

theorem wayside_trim (cause : BitVec 8) (c : Option CtxId) (d : W32) : Trim s (wayside cause c d s) := (wayside_alarmed ..).trim

theorem traceRec_trim (typ : BitVec 6) (c : Option (CtxId × W32)) (p q : W64) : Trim s (traceRec typ c p q s) := by
  rw [traceRec_eq]
  exact .of_rest rfl rfl rfl

/-- An event changes what a context waits for, and may wake it. -/
theorem setEvent_trim (c : CtxId) (n : Nat) : Trim s (setEvent c n s) := by
  refine modCtx_trim ?_
  dsimp only
  split
  · exact .of_idle nofun rfl rfl rfl
  · exact .of_eq rfl rfl rfl rfl

theorem setEvents_trim (n : Nat) (p : CtxId → Bool) : Trim s (setEvents n p s) :=
  .foldl _ (fun t c => .ite (setEvent_trim t c n) (.refl t)) _ s

theorem hitWatch_trim (w : Option CtxId) (n : Nat) : Trim s (hitWatch w n s) := setEvents_trim ..

theorem settle_trim : Trim s (settle s) := .foldl _ (fun t _ => setEvents_trim t ..) _ s

theorem noteFences_trim : Trim s (noteFences s) := by
  refine .of_ctx (fun c => ?_) (by rw [(noteFences_noted s).eq]; rfl) (by rw [(noteFences_noted s).eq])
  obtain ⟨w, hw⟩ := (noteFences_noted s).1 c
  rw [hw]
  exact .of_eq rfl rfl rfl rfl

theorem sendPacket_trim (p : List Flit) : Trim s (sendPacket p s) := by
  obtain ⟨t, ht, he⟩ := sendPacket_eq p s
  rw [he]
  exact ht.trim.trans (.of_rest rfl rfl rfl)

theorem sendReq_trim (r : Req) (size : BitVec 4) (m : W64) (d : List Line) : Trim s (sendReq r size m d s) := by
  unfold sendReq
  exact (sendPacket_trim _ _).after (.of_rest rfl rfl rfl)

theorem tollRefuse_trim (mem : Bool) (cls : BitVec 4) (c : Option CtxId) : Trim s (tollRefuse mem cls c s) := by
  have note : Trim s (if mem then { s with toll := { s.toll with mref := satInc s.toll.mref } }
      else { s with toll := { s.toll with iref := satInc s.toll.iref } }) := .ite (.of_rest rfl rfl rfl) (.of_rest rfl rfl rfl)
  exact .ite (note.trans (wayside_trim ..)) note

theorem sendWrite_trim (op : ReqOp) (a : PAddr) (who : Requester) (size : BitVec 4) (m : W64) (d : Line) (x : Bool) :
    Trim s (sendWrite op a who size m d x s) := .ite (sendReq_trim ..) (tollRefuse_trim ..)

theorem letGo_trim (n : Nat) : Trim s (letGo n s) := .ite (.refl s) (sendPacket_trim ..)

theorem lineGone_trim (n : Nat) : Trim s (lineGone n s) := .ite (.refl s) (setEvents_trim ..)

theorem clearLatent_trim (n : BitVec 3) (p : EccEvent → Bool) : Trim s (clearLatent n p s) := .ite (.refl s) (.of_rest rfl rfl rfl)

theorem declareLasting_trim (n : BitVec 3) (unc : Bool) : Trim s (declareLasting n unc s) := by
  unfold declareLasting
  exact ((setPend_trim _ 37).trans (wayside_trim ..)).after (.of_rest rfl rfl rfl)

theorem countError_trim (n : BitVec 3) (way : BitVec 4) (unc : Bool) : Trim s (countError n way unc s) := by
  unfold countError
  dsimp only
  generalize (if unc = true then _ else _ : W64) = f
  have hc : Trim s (countEvent 2 (if unc = true then 5 else 4) 1 none .none none
      { s with rel := { s.rel with fcstat := vset s.rel.fcstat n.toNat f } }) :=
    (countEvent_trim ..).after (.of_rest rfl rfl rfl)
  generalize countEvent _ _ _ _ _ _ _ = t at hc
  exact .ite hc (.ite (.ite hc (hc.trans (declareLasting_trim ..))) (.ite (hc.trans (declareLasting_trim ..)) hc))

theorem machineCheck_trim (src : BitVec 4) (a : BitVec 2) (d : W64) : Trim s (machineCheck src a d s) := by
  unfold machineCheck
  exact (setPend_trim _ 0).after (.of_rest rfl rfl rfl)

end

/-! ## Entries of a cache (R315) -/

section
variable {m : SMap CLine} {k : Nat} {l : CLine} {s t u : State} {id : CacheId} {n : Nat}

theorem SMap.mem_of_find? {α : Type} {m : SMap α} {k : Nat} {v : α} (h : SMap.find? m k = some v) : (k, v) ∈ m := by
  induction m with
  | nil => cases h
  | cons e m ih =>
    obtain ⟨j, w⟩ := e
    unfold SMap.find? at h
    split at h
    · next hj => cases h; subst hj; exact List.mem_cons_self
    · split at h
      · cases h
      · exact List.mem_cons_of_mem _ (ih h)

theorem SMap.le_of_mem {α : Type} {m : SMap α} {b : Nat} (h : SMap.risingFrom b m = true) {e : Nat × α} (he : e ∈ m) : b ≤ e.1 := by
  induction m generalizing b with
  | nil => cases he
  | cons a m ih =>
    simp only [SMap.risingFrom, Bool.and_eq_true, decide_eq_true_eq] at h
    rcases List.mem_cons.mp he with rfl | he
    · exact h.1
    · exact Nat.le_trans (Nat.le_succ_of_le h.1) (ih h.2 he)

theorem SMap.find?_of_mem {α : Type} {m : SMap α} {b : Nat} (h : SMap.risingFrom b m = true) {e : Nat × α} (he : e ∈ m) :
    SMap.find? m e.1 = some e.2 := by
  induction m generalizing b with
  | nil => cases he
  | cons a m ih =>
    simp only [SMap.risingFrom, Bool.and_eq_true, decide_eq_true_eq] at h
    rcases List.mem_cons.mp he with rfl | he
    · exact if_pos rfl
    · have hlt := SMap.le_of_mem h.2 he
      unfold SMap.find?
      rw [if_neg (by omega), if_neg (by omega)]
      exact ih h.2 he

/-- Of an entry that is put, the place holds that entry alone. -/
theorem SMap.mem_put_iff_of_wf {m : SMap CLine} (h : SMap.wf m = true) {e : Nat × CLine} (he : e ∈ SMap.put m k l) :
    e = (k, l) ∨ e ∈ m ∧ e.1 ≠ k := by
  by_cases hk : e.1 = k
  · have hf := SMap.find?_of_mem (SMap.wf_put m k l h) he
    rw [hk, SMap.find?_put_same] at hf
    exact .inl (Prod.ext hk (Option.some.inj hf).symm)
  · rcases SMap.mem_put he with rfl | hm
    · exact absurd rfl hk
    · exact .inr ⟨hm, hk⟩

theorem SMap.mem_of_mem_del {α : Type} {m : SMap α} {k : Nat} {e : Nat × α} (he : e ∈ SMap.del m k) : e ∈ m := by
  induction m with
  | nil => cases he
  | cons a m ih =>
    obtain ⟨j, w⟩ := a
    unfold SMap.del at he
    split at he
    · exact he
    · split at he
      · exact List.mem_cons_of_mem _ he
      · rcases List.mem_cons.mp he with rfl | he
        · exact List.mem_cons_self
        · exact List.mem_cons_of_mem _ (ih he)

theorem SMap.ne_of_mem_del {α : Type} {m : SMap α} {k : Nat} (h : SMap.wf m = true) {e : Nat × α} (he : e ∈ SMap.del m k) : e.1 ≠ k := by
  rintro rfl
  have hf := SMap.find?_of_mem (SMap.wf_del m e.1 h) he
  rw [SMap.find?_del_same m e.1 h] at hf
  cases hf

theorem within_del (m : SMap CLine) (k : Nat) : Within (SMap.del m k) m :=
  ⟨SMap.wf_del m k, fun e he => ⟨e, SMap.mem_of_mem_del he, rfl, rfl⟩⟩

/-- An entry is replaced by one for the same line. -/
theorem within_put {l' : CLine} (h : (k, l) ∈ m) (hl : l'.line = l.line) : Within (SMap.put m k l') m := by
  refine ⟨SMap.wf_put m k l', fun e he => ?_⟩
  rcases SMap.mem_put he with rfl | hm
  · exact ⟨(k, l), h, rfl, hl.symm⟩
  · exact ⟨e, hm, rfl, rfl⟩

/-- Every entry is changed, and none of its line or place. -/
theorem within_map {f : Nat × CLine → Nat × CLine} (hf : ∀ e, (f e).1 = e.1 ∧ (f e).2.line = e.2.line) : Within (m.map f) m := by
  have rising : ∀ (m : SMap CLine) b, SMap.risingFrom b m = true → SMap.risingFrom b (m.map f) = true := by
    intro m
    induction m with
    | nil => exact fun _ _ => rfl
    | cons a m ih =>
      intro b h
      simp only [List.map_cons, SMap.risingFrom, Bool.and_eq_true, (hf a).1] at h ⊢
      exact ⟨h.1, ih _ h.2⟩
  refine ⟨rising m 0, fun e he => ?_⟩
  obtain ⟨x, hx, rfl⟩ := List.mem_map.mp he
  exact ⟨x, hx, (hf x).1.symm, (hf x).2.symm⟩

theorem lines_setLines (c : Caches) (id id' : CacheId) (m : SMap CLine) :
    (c.setLines id m).lines id' = if id' = id then m else c.lines id' := by
  cases id <;> cases id' <;> rfl

theorem ebuf_setLines (c : Caches) (id : CacheId) (m : SMap CLine) : (c.setLines id m).ebuf = c.ebuf := by
  cases id <;> rfl

theorem setCache_trim (h : Within m (s.caches.lines id)) : Trim s (setCache s id m) := by
  refine ⟨.of_rest rfl rfl, fun id' => ?_, ?_⟩
  · rw [setCache, lines_setLines]
    split
    · next hid => subst hid; exact h
    · exact .refl _
  · rw [setCache, ebuf_setLines]

theorem cacheDel_trim (s : State) (id : CacheId) (k : Nat) : Trim s (cacheDel s id k) := by
  unfold cacheDel
  split
  · exact .refl s
  · exact (setCache_trim (within_del _ _)).trans (clearLatent_trim ..)

/-- A line that stands at a place is replaced by a new version of it. -/
theorem cachePut_trim {l' : CLine} (h : (k, l) ∈ s.caches.lines id) (hl : l'.line = l.line) : Trim s (cachePut s id k l') :=
  setCache_trim (within_put h hl)

theorem mem_of_cacheFind (h : cacheFind s id n = some (k, l)) : (k, l) ∈ s.caches.lines id ∧ l.line = n := by
  unfold cacheFind at h
  obtain ⟨w, -, hw⟩ := List.exists_of_findSome?_eq_some h
  dsimp only at hw
  split at hw
  · cases hw
  split at hw
  · next x hx =>
    split at hw
    · next hn =>
      cases hw
      exact ⟨SMap.mem_of_find? hx, by simpa using hn⟩
    · cases hw
  · cases hw

/-- A line that is found in a cache is replaced by a new version of it. -/
theorem cachePut_found {l' : CLine} (h : cacheFind s id n = some (k, l)) (hl : l'.line = n) : Trim s (cachePut s id k l') :=
  cachePut_trim (mem_of_cacheFind h).1 (hl.trans (mem_of_cacheFind h).2.symm)

/-- Caches in order hold a line where a lookup finds it. -/
theorem CachesInv.not_mem (h : CachesInv s) (hf : cacheFind s id n = none) : ∀ e ∈ s.caches.lines id, e.2.line ≠ n := by
  rintro e he rfl
  obtain ⟨hwf, -, hplace, -⟩ := h.1 id
  obtain ⟨hset, hway, -⟩ := hplace e he
  have hpos : 0 < id.ways := by cases id <;> decide
  have hnone := List.findSome?_eq_none_iff.mp hf (e.1 % id.ways) (List.mem_range.mpr (Nat.mod_lt _ hpos))
  have hkey : e.2.line % id.sets * id.ways + e.1 % id.ways = e.1 := by
    rw [← hset, Nat.mul_comm]
    exact Nat.div_add_mod e.1 id.ways
  simp only [hkey, hway, SMap.find?_of_mem hwf he, beq_self_eq_true] at hnone
  simp at hnone

end

end Sys2Proof.Machine

namespace Sys2Proof.Machine
open Sys2Proof

/-! ## Lines that are read out or lost (R322, R324) -/

section
variable {s t u : State} {id : CacheId} {n k : Nat} {l : CLine}

theorem declareLasting_caches (n : BitVec 3) (unc : Bool) (s : State) : (declareLasting n unc s).caches = s.caches := by
  unfold declareLasting
  dsimp only
  rw [wayside_eq]
  dsimp only
  rw [setPend_caches]

theorem countError_caches (n : BitVec 3) (way : BitVec 4) (unc : Bool) (s : State) : (countError n way unc s).caches = s.caches := by
  have hc (f : W64) : (countEvent 2 (if unc then 5 else 4) 1 none .none none
      { s with rel := { s.rel with fcstat := vset s.rel.fcstat n.toNat f } }).caches = s.caches := by rw [(countEvent_eq ..).1]
  unfold countError
  simp only [apply_ite State.caches, declareLasting_caches, hc, ite_self]

theorem eccCache_trim (id : CacheId) (e : EccEvent) (s : State) : Trim s (eccCache id e s) := by
  unfold eccCache
  dsimp only
  split
  · exact .refl s
  · next k l hf =>
    have hfind : cacheFind s id (e.loc / 8) = some (k, l) := by
      split at hf
      · cases hf
      · exact hf
    have hc := countError_trim s e.str e.way (e.uncorrectable || e.addrTag)
    have hcaches : (countError e.str e.way (e.uncorrectable || e.addrTag) s).caches = s.caches := countError_caches ..
    generalize countError _ _ _ s = t at hc hcaches
    have hd := hc.trans (cacheDel_trim t id k)
    refine .ite hc (.ite (.ite hd (hd.trans ((lineGone_trim _ _).after (.ite (letGo_trim ..) (.refl _))))) (.ite ?_ ?_))
    · exact hd.trans ((machineCheck_trim ..).trans (lineGone_trim ..))
    · refine hc.trans ((machineCheck_trim ..).after (cachePut_trim (l := l) ?_ rfl))
      rw [hcaches]
      exact (mem_of_cacheFind hfind).1

theorem meetErrors_trim (id : CacheId) (n : Nat) (p : EccEvent → Bool) (s : State) : Trim s (meetErrors id n p s) := by
  unfold meetErrors
  exact (clearLatent_trim ..).trans (.foldl _ (fun t e => eccCache_trim id e t) _ _)

theorem meetTag_trim (id : CacheId) (n : Nat) (s : State) : Trim s (meetTag id n s) := meetErrors_trim ..

theorem meetLine_trim (id : CacheId) (n : Nat) (s : State) : Trim s (meetLine id n s) := meetErrors_trim ..

theorem readOut_trim (id : CacheId) (k : Nat) (s : State) : Trim s (readOut id k s).1 := by
  unfold readOut
  split
  · exact .refl s
  · exact meetLine_trim ..

/-- The line that is read out still stands at its place, and none if none is. -/
theorem readOut_find? (h : readOut id k s = (t, v)) : SMap.find? (t.caches.lines id) k = v := by
  unfold readOut at h
  split at h
  · next hn => cases h; exact hn
  · cases h; rfl

theorem dropLine_trim (id : CacheId) (k : Nat) (l : CLine) (s : State) : Trim s (dropLine id k l s) := by
  unfold dropLine
  exact .ite (cacheDel_trim ..) ((cacheDel_trim s id k).trans ((lineGone_trim _ _).after (.ite (letGo_trim ..) (.refl _))))

theorem ageSet_trim (id : CacheId) (n : Nat) (b : BitVec 2) (s : State) : Trim s (ageSet id n b s) := by
  unfold ageSet
  refine .ite (.refl s) (setCache_trim (within_map fun e => ?_))
  split
  · exact ⟨rfl, rfl⟩
  · exact ⟨rfl, rfl⟩

/-! ## Lines that come in (R315 to R318) -/

/-- No eviction buffer holds line n. -/
def NotEvicting (s : State) (n : Nat) : Prop := ∀ b ∈ s.caches.ebuf, b.line ≠ n

theorem Trim.notEvicting (h : Trim s t) (hn : NotEvicting s n) : NotEvicting t n := by
  intro b hb
  obtain ⟨a, ha, hab⟩ := h.mem_ebuf hb
  rw [← hab]
  exact hn a ha

theorem Trim.not_mem (h : Trim s t) (hn : ∀ e ∈ s.caches.lines id, e.2.line ≠ n) : ∀ e ∈ t.caches.lines id, e.2.line ≠ n := by
  intro e he
  obtain ⟨x, hx, -, hl⟩ := (h.lines id).mem e he
  rw [← hl]
  exact hn x hx

/-- A line in a data cache is in no eviction buffer. -/
theorem CachesInv.notEvicting (h : CachesInv s) (hid : id ≠ .l1i) {e : Nat × CLine} (he : e ∈ s.caches.lines id) :
    NotEvicting s e.2.line := ((h.1 id).2.2.1 e he).2.2 hid

/-- A line in an eviction buffer is in no data cache. -/
theorem CachesInv.not_cached (h : CachesInv s) (hid : id ≠ .l1i) {b : EvEntry} (hb : b ∈ s.caches.ebuf) :
    ∀ e ∈ s.caches.lines id, e.2.line ≠ b.line := fun _ he heq => h.notEvicting hid he b hb heq.symm

theorem cachePut_caches (s : State) (id : CacheId) (k : Nat) (l : CLine) :
    (cachePut s id k l).caches = s.caches.setLines id (SMap.put (s.caches.lines id) k l) := rfl

theorem cachePut_aside (s : State) (id : CacheId) (k : Nat) (l : CLine) : Aside s (cachePut s id k l) := .of_rest rfl rfl

theorem cachePut_lines_ne {id' : CacheId} (h : id' ≠ id) (s : State) (k : Nat) (l : CLine) :
    (cachePut s id k l).caches.lines id' = s.caches.lines id' := by
  rw [cachePut_caches, lines_setLines, if_neg h]

theorem cachePut_ebuf (s : State) (id : CacheId) (k : Nat) (l : CLine) : (cachePut s id k l).caches.ebuf = s.caches.ebuf := by
  rw [cachePut_caches, ebuf_setLines]

/-- Caches in order take a line that they do not hold elsewhere, at a place of its set in a way that is not locked out. -/
theorem cachePut_inv (h : CachesInv s) (hset : k / id.ways = l.line % id.sets) (hway : wayLocked s id (k % id.ways) = false)
    (hbuf : id ≠ .l1i → NotEvicting s l.line) (honce : ∀ e ∈ s.caches.lines id, e.2.line = l.line → e.1 = k) :
    CachesInv (cachePut s id k l) := by
  refine ⟨fun id' => ?_, by rw [cachePut_ebuf]; exact h.2⟩
  by_cases hid : id' = id
  · subst hid
    obtain ⟨hwf, hfree, hplace, huniq⟩ := h.1 id'
    rw [cachePut_caches, lines_setLines, if_pos rfl, ebuf_setLines]
    refine ⟨SMap.wf_put _ _ _ hwf, hfree, fun e he => ?_, fun e he f hf hef => ?_⟩
    · rcases SMap.mem_put_iff_of_wf hwf he with rfl | ⟨he, -⟩
      · exact ⟨hset, hway, hbuf⟩
      · exact hplace e he
    · rcases SMap.mem_put_iff_of_wf hwf he with rfl | ⟨he, hek⟩ <;> rcases SMap.mem_put_iff_of_wf hwf hf with rfl | ⟨hf, hfk⟩
      · rfl
      · exact (honce f hf hef.symm).symm
      · exact honce e he hef
      · exact huniq e he f hf hef
  · rw [cachePut_lines_ne hid, cachePut_ebuf]
    exact h.1 id'

theorem ebufPush_eq {l2 : Bool} {d : Line} (h : ebufPush l2 n d s = some t) :
    t = { s with caches := { s.caches with ebuf := s.caches.ebuf ++ [⟨n, d, l2, false⟩] } } := by
  unfold ebufPush at h
  generalize (if l2 = true then 16 else 8) = room at h
  split at h
  · exact (Option.some.inj h).symm
  · contradiction

/-- A step in which the buffers may take line n, and of the caches those that `ids` picks may take lines: the others only lose them. -/
structure Moves (ids : CacheId → Prop) (n : Nat) (s t : State) : Prop extends Aside s t where
  inv : CachesInv t
  lines : ∀ id, ¬ ids id → Within (t.caches.lines id) (s.caches.lines id)
  ebuf : ∀ b ∈ t.caches.ebuf, (∃ a ∈ s.caches.ebuf, a.line = b.line) ∨ b.line = n

theorem Trim.moves {ids : CacheId → Prop} (h : Trim s t) (hs : CachesInv s) : Moves ids n s t :=
  ⟨h.toAside, h.cachesInv hs, fun id _ => h.lines id, fun _ hb => .inl (h.mem_ebuf hb)⟩

theorem Moves.trim {ids : CacheId → Prop} (h : Moves ids n s t) (g : Trim t u) : Moves ids n s u := by
  refine ⟨h.toAside.trans g.toAside, g.cachesInv h.inv, fun id hid => (h.lines id hid).trans (g.lines id), fun b hb => ?_⟩
  obtain ⟨a, ha, hab⟩ := g.mem_ebuf hb
  rw [← hab]
  exact h.ebuf a ha

theorem Moves.after {ids : CacheId → Prop} (g : Moves ids n t u) (h : Trim s t) : Moves ids n s u := by
  refine ⟨h.toAside.trans g.toAside, g.inv, fun id hid => (h.lines id).trans (g.lines id hid), fun b hb => ?_⟩
  rcases g.ebuf b hb with ⟨a, ha, hab⟩ | hn
  · obtain ⟨x, hx, hxa⟩ := h.mem_ebuf ha
    exact .inl ⟨x, hx, hxa.trans hab⟩
  · exact .inr hn

theorem Moves.notEvicting {ids : CacheId → Prop} (h : Moves ids n s t) {m : Nat} (hm : NotEvicting s m) (hne : n ≠ m) :
    NotEvicting t m := by
  intro b hb
  rcases h.ebuf b hb with ⟨a, ha, hab⟩ | hn
  · rw [← hab]
    exact hm a ha
  · rw [hn]
    exact hne

/-- Caches that lose lines stay in order when an eviction buffer takes a line that no data cache holds any more (R318). -/
theorem CachesInv.push (hs : CachesInv s) (ha : Aside s t) (hl : ∀ id, Within (t.caches.lines id) (s.caches.lines id)) {b : EvEntry}
    (hb : t.caches.ebuf = s.caches.ebuf ++ [b]) (hn : NotEvicting s b.line)
    (hout : ∀ id, id ≠ .l1i → ∀ e ∈ t.caches.lines id, e.2.line ≠ b.line) : CachesInv t := by
  obtain ⟨hc, hnodup⟩ := hs
  refine ⟨fun id => ?_, ?_⟩
  · obtain ⟨hwf, ⟨w, hw, hfree⟩, hplace, honce⟩ := hc id
    refine ⟨(hl id).wf hwf, ⟨w, hw, by rwa [ha.wayLocked]⟩, fun e he => ?_, fun e he f hf hef => ?_⟩
    · obtain ⟨x, hx, hk, hxl⟩ := (hl id).mem e he
      obtain ⟨hset, hway, hx'⟩ := hplace x hx
      rw [hk, hxl] at hset
      rw [hk] at hway
      refine ⟨hset, by rwa [ha.wayLocked], fun hid a hab => ?_⟩
      rw [hb] at hab
      rcases List.mem_append.mp hab with hab | hab
      · rw [← hxl]
        exact hx' hid a hab
      · obtain rfl := List.mem_singleton.mp hab
        exact (hout id hid e he).symm
    · obtain ⟨x, hx, hk, hxl⟩ := (hl id).mem e he
      obtain ⟨y, hy, hk', hyl⟩ := (hl id).mem f hf
      rw [← hk, ← hk']
      exact honce x hx y hy (by rw [hxl, hyl, hef])
  · rw [hb, List.map_append, List.nodup_append]
    refine ⟨hnodup, List.nodup_singleton _, ?_⟩
    rintro a ha b hb rfl
    obtain ⟨x, hx, rfl⟩ := List.mem_map.mp ha
    exact hn x hx (by simpa using hb)

theorem lines_ebuf (c : Caches) (b : List EvEntry) (id : CacheId) : ({ c with ebuf := b } : Caches).lines id = c.lines id := by
  cases id <;> rfl

/-- A dirty line that no data cache holds any more goes into a buffer (R318). -/
theorem ebufPush_moves {l2 : Bool} {d : Line} (h : ebufPush l2 n d s = some t) (hs : CachesInv s) (hn : NotEvicting s n)
    (hd : ∀ e ∈ s.caches.lines .l1d, e.2.line ≠ n) (h2 : ∀ e ∈ s.caches.lines .l2, e.2.line ≠ n) : Moves (fun _ => False) n s t := by
  obtain rfl := ebufPush_eq h
  refine ⟨.of_rest rfl rfl, ?_, fun id _ => by rw [lines_ebuf]; exact .refl _, fun b hb => ?_⟩
  · refine hs.push (b := ⟨n, d, l2, false⟩) (.of_rest rfl rfl) (fun id => by rw [lines_ebuf]; exact .refl _) rfl hn fun id hid => ?_
    cases id with
    | l1i => exact absurd rfl hid
    | l1d => exact hd
    | l2 => exact h2
  · rcases List.mem_append.mp hb with hb | hb
    · exact .inl ⟨b, hb, rfl⟩
    · obtain rfl := List.mem_singleton.mp hb
      exact .inr rfl

end

end Sys2Proof.Machine

namespace Sys2Proof.Machine
open Sys2Proof

/-! ## Room for a line (R317) -/

section
variable {s t u : State} {id : CacheId} {n k : Nat} {l v : CLine}

/-- The greatest age of a list of ways is the age of one of them, unless the list is empty. -/
theorem exists_age_eq_foldl_max (age : Nat → Nat) : ∀ (ws : List Nat) (m : Nat),
    ws.foldl (fun m w => max m (age w)) m = m ∨ ∃ w ∈ ws, age w = ws.foldl (fun m w => max m (age w)) m
  | [], _ => .inl rfl
  | w :: ws, m => by
    rcases exists_age_eq_foldl_max age ws (max m (age w)) with h | ⟨x, hx, h⟩
    · rw [List.foldl_cons, h]
      rcases Nat.le_total (age w) m with hle | hle
      · exact .inl (max_eq_left hle)
      · exact .inr ⟨w, List.mem_cons_self, (max_eq_right hle).symm⟩
    · exact .inr ⟨x, List.mem_cons_of_mem _ hx, h⟩

theorem le_foldl_max (age : Nat → Nat) {w : Nat} : ∀ (ws : List Nat) (m : Nat), w ∈ ws ∨ age w ≤ m →
    age w ≤ ws.foldl (fun m w => max m (age w)) m
  | [], m, h => by simpa using h
  | x :: ws, m, h => by
    refine le_foldl_max age ws _ ?_
    rcases h with h | h
    · rcases List.mem_cons.mp h with rfl | h
      · exact .inr (le_max_right _ _)
      · exact .inl h
    · exact .inr (le_trans h (le_max_left _ _))

/-- The first of the oldest ways of a list is one of them. -/
theorem oldest_mem (age : Nat → Nat) {ws : List Nat} {w : Nat} (hw : w ∈ ws) :
    (ws.find? fun w => age w == ws.foldl (fun m w => max m (age w)) 0).getD 0 ∈ ws := by
  obtain ⟨x, hx, hage⟩ : ∃ x ∈ ws, age x = ws.foldl (fun m w => max m (age w)) 0 := by
    rcases exists_age_eq_foldl_max age ws 0 with h0 | hex
    · have := le_foldl_max age ws 0 (.inl hw)
      exact ⟨w, hw, by omega⟩
    · exact hex
  cases hf : ws.find? fun w => age w == ws.foldl (fun m w => max m (age w)) 0 with
  | none => exact absurd (by simpa using hage) (List.find?_eq_none.mp hf x hx)
  | some y => exact List.mem_of_find?_eq_some hf

/-- The victim is a way that is not locked out. -/
theorem chooseVictim_unlocked (h : ∃ w < id.ways, wayLocked s id w = false) (n : Nat) :
    (chooseVictim s id n).1 < id.ways ∧ wayLocked s id (chooseVictim s id n).1 = false := by
  have free {w : Nat} (hw : w ∈ (List.range id.ways).filter fun w => !wayLocked s id w) : w < id.ways ∧ wayLocked s id w = false := by
    simpa using hw
  unfold chooseVictim
  dsimp only
  split
  · next w hw => exact free (List.mem_of_find?_eq_some hw)
  · obtain ⟨w, hw, hl⟩ := h
    exact free (oldest_mem _ (w := w) (by simpa using ⟨hw, hl⟩))

/-- Where a line comes into a cache: at a place of its set, in a way that is not locked out. -/
theorem victim_place (h : CachesInv s) (id : CacheId) (n : Nat) :
    (n % id.sets * id.ways + (chooseVictim s id n).1) / id.ways = n % id.sets ∧
      wayLocked s id ((n % id.sets * id.ways + (chooseVictim s id n).1) % id.ways) = false := by
  obtain ⟨hlt, hfree⟩ := chooseVictim_unlocked (h.1 id).2.1 n
  have hpos : 0 < id.ways := by omega
  refine ⟨?_, ?_⟩
  · rw [Nat.mul_comm, Nat.mul_add_div hpos, Nat.div_eq_of_lt hlt, Nat.add_zero]
  · rwa [Nat.mul_comm, Nat.mul_add_mod, Nat.mod_eq_of_lt hlt]

theorem cacheDel_lines (s : State) (id id' : CacheId) (k : Nat) : (cacheDel s id k).caches.lines id' =
    if id' = id then (match SMap.find? (s.caches.lines id) k with
      | none => s.caches.lines id | some _ => SMap.del (s.caches.lines id) k) else s.caches.lines id' := by
  cases h : SMap.find? (s.caches.lines id) k with
  | none =>
    simp only [cacheDel, h]
    split
    · next hid => rw [hid]
    · rfl
  | some l => simp only [cacheDel, h, clearLatent_caches, setCache, lines_setLines]

theorem cacheDel_ebuf (s : State) (id : CacheId) (k : Nat) : (cacheDel s id k).caches.ebuf = s.caches.ebuf := by
  unfold cacheDel
  split
  · rfl
  · rw [clearLatent_caches, setCache, ebuf_setLines]

/-- A line that is removed stands nowhere else. -/
theorem cacheDel_not_mem (h : CachesInv s) (hv : (k, v) ∈ s.caches.lines id) :
    ∀ e ∈ (cacheDel s id k).caches.lines id, e.2.line ≠ v.line := by
  obtain ⟨hwf, -, -, honce⟩ := h.1 id
  intro e he heq
  rw [cacheDel_lines, SMap.find?_of_mem hwf hv, if_pos rfl] at he
  exact SMap.ne_of_mem_del hwf he (honce e (SMap.mem_of_mem_del he) _ hv heq)

/-- A line comes into a cache that does not hold it. -/
theorem cachePut_new (h : CachesInv s) (hset : k / id.ways = l.line % id.sets) (hway : wayLocked s id (k % id.ways) = false)
    (hbuf : NotEvicting s l.line) (hnew : ∀ e ∈ s.caches.lines id, e.2.line ≠ l.line) : CachesInv (cachePut s id k l) :=
  cachePut_inv h hset hway (fun _ => hbuf) fun e he heq => absurd heq (hnew e he)

/-! ## Lines that leave a cache and lines that come in (R315 to R318) -/

theorem evictL2_moves (h : evictL2 l s = some t) (hs : CachesInv s) (hn : NotEvicting s l.line)
    (h2 : ∀ e ∈ s.caches.lines .l2, e.2.line ≠ l.line) : Moves (fun _ => False) l.line s t := by
  unfold evictL2 at h
  split at h
  · next k d hd =>
    cases h
    split
    · exact (cachePut_found (l' := { d with st := .modified }) hd (mem_of_cacheFind hd).2).moves hs
    · exact (Trim.refl s).moves hs
  · next hd =>
    split at h
    · obtain ⟨u, hu, rfl⟩ := Option.map_eq_some_iff.mp h
      exact (ebufPush_moves hu hs hn (hs.not_mem hd) h2).trim (lineGone_trim ..)
    · cases h
      exact ((letGo_trim ..).trans (lineGone_trim ..)).moves hs
    · cases h
      exact (lineGone_trim ..).moves hs

/-- Another line than n. -/
theorem succ_ne_line (n : Nat) : n + 1 ≠ n := by omega

theorem insertL2_moves {st : LineState} {d : Line} {age : BitVec 2} (h : insertL2 n st d age s = some t) (hs : CachesInv s)
    (hn : NotEvicting s n) : ∃ m, m ≠ n ∧ Moves (· = .l2) m s t := by
  unfold insertL2 at h
  split at h
  · next k _ hf =>
    cases h
    exact ⟨n + 1, succ_ne_line n, ((cachePut_found hf rfl).trans (clearLatent_trim ..)).moves hs⟩
  · next hf =>
    dsimp only at h
    obtain ⟨hset, hway⟩ := victim_place hs .l2 n
    change (n % 512 * 8 + (chooseVictim s .l2 n).1) / _ = _ at hset
    change wayLocked s .l2 ((n % 512 * 8 + (chooseVictim s .l2 n).1) % _) = _ at hway
    generalize n % 512 * 8 + (chooseVictim s .l2 n).1 = key at h hset hway
    have hr := (ageSet_trim .l2 n (chooseVictim s .l2 n).2 s).trans (readOut_trim .l2 key _)
    have hput {m : Nat} {u : State} (hu : Moves (fun _ => False) m s u) (hm : m ≠ n) : ∃ m, m ≠ n ∧
        Moves (· = .l2) m s (cachePut u .l2 key ⟨n, st, age, d⟩) := by
      have hnew : ∀ e ∈ u.caches.lines .l2, e.2.line ≠ n := by
        intro e he
        obtain ⟨x, hx, -, hl⟩ := (hu.lines .l2 id).mem e he
        exact hl ▸ hs.not_mem hf x hx
      refine ⟨m, hm, hu.toAside.trans (cachePut_aside ..), ?_, fun id hid => ?_, fun b hb => ?_⟩
      · exact cachePut_new hu.inv hset (by rwa [hu.wayLocked]) (hu.notEvicting hn hm) hnew
      · rw [cachePut_lines_ne hid]
        exact hu.lines id not_false
      · rw [cachePut_ebuf] at hb
        exact hu.ebuf b hb
    split at h
    · next u hu =>
      cases h
      rw [hu] at hr
      exact hput (hr.moves hs) (succ_ne_line n)
    · next u v hu =>
      obtain ⟨w, hw, rfl⟩ := Option.map_eq_some_iff.mp h
      rw [hu] at hr
      have hv : (key, v) ∈ u.caches.lines .l2 := SMap.mem_of_find? (readOut_find? hu)
      have hui := hr.cachesInv hs
      have hd := hr.trans (cacheDel_trim u .l2 key)
      refine hput ((evictL2_moves hw (hd.cachesInv hs) ?_ (cacheDel_not_mem hui hv)).after hd) (hr.not_mem (hs.not_mem hf) _ hv)
      exact (cacheDel_trim ..).notEvicting (hui.notEvicting (by decide) hv)

theorem evictL1D_moves (h : evictL1D l s = some t) (hs : CachesInv s) (hn : NotEvicting s l.line)
    (h1 : ∀ e ∈ s.caches.lines .l1d, e.2.line ≠ l.line) : ∃ m, Moves (· = .l2) m s t := by
  have weaken {m : Nat} {u : State} (hu : Moves (fun _ => False) m s u) : Moves (· = .l2) m s u :=
    ⟨hu.toAside, hu.inv, fun id _ => hu.lines id not_false, hu.ebuf⟩
  unfold evictL1D at h
  split at h
  · split at h
    · obtain ⟨m, -, hm⟩ := insertL2_moves h hs hn
      exact ⟨m, hm⟩
    · obtain ⟨u, hu, rfl⟩ := Option.map_eq_some_iff.mp h
      refine ⟨l.line, weaken (Moves.trim ?_ (lineGone_trim ..))⟩
      split at hu
      · next k x hf =>
        have hd := cacheDel_trim s .l2 k
        obtain ⟨hx, hxl⟩ := mem_of_cacheFind hf
        refine (ebufPush_moves hu (hd.cachesInv hs) (hd.notEvicting hn) (hd.not_mem h1) ?_).after hd
        rw [← hxl]
        exact cacheDel_not_mem hs hx
      · next hf => exact ebufPush_moves hu hs hn h1 (hs.not_mem hf)
  · cases h
    exact ⟨0, (Trim.ite (.refl s) ((letGo_trim ..).trans (lineGone_trim ..))).moves hs⟩
  · cases h
    exact ⟨0, (lineGone_trim ..).moves hs⟩

theorem insertL1D_inv {st : LineState} {d : Line} {age : BitVec 2} (h : insertL1D n st d age s = some t) (hs : CachesInv s)
    (hn : NotEvicting s n) : Aside s t ∧ CachesInv t := by
  unfold insertL1D at h
  split at h
  · next k _ hf =>
    cases h
    have := (cachePut_found (l' := ⟨n, st, age, d⟩) hf rfl).trans (clearLatent_trim _ 1 fun e => e.loc / 8 == n)
    exact ⟨this.toAside, this.cachesInv hs⟩
  · next hf =>
    dsimp only at h
    obtain ⟨hset, hway⟩ := victim_place hs .l1d n
    change (n % 64 * 8 + (chooseVictim s .l1d n).1) / _ = _ at hset
    change wayLocked s .l1d ((n % 64 * 8 + (chooseVictim s .l1d n).1) % _) = _ at hway
    generalize n % 64 * 8 + (chooseVictim s .l1d n).1 = key at h hset hway
    have hr := (ageSet_trim .l1d n (chooseVictim s .l1d n).2 s).trans (readOut_trim .l1d key _)
    have hput {u : State} (hu : Trim s u) : CachesInv (cachePut u .l1d key ⟨n, st, age, d⟩) :=
      cachePut_new (hu.cachesInv hs) hset (by rwa [hu.wayLocked]) (hu.notEvicting hn) (hu.not_mem (hs.not_mem hf))
    split at h
    · next u hu =>
      cases h
      rw [hu] at hr
      exact ⟨hr.toAside.trans (cachePut_aside ..), hput hr⟩
    · next u v hu =>
      rw [hu] at hr
      have hv : (key, v) ∈ u.caches.lines .l1d := SMap.mem_of_find? (readOut_find? hu)
      have hui := hr.cachesInv hs
      have hd := hr.trans (cacheDel_trim u .l1d key)
      have hvn : v.line ≠ n := hr.not_mem (hs.not_mem hf) _ hv
      have hout : NotEvicting (cacheDel u .l1d key) v.line := (cacheDel_trim ..).notEvicting (hui.notEvicting (by decide) hv)
      obtain ⟨m, hm⟩ := evictL1D_moves h (hput hd) (by intro b hb; rw [cachePut_ebuf] at hb; exact hout b hb) (by
        intro e he
        rw [cachePut_caches, lines_setLines, if_pos rfl] at he
        rcases SMap.mem_put he with rfl | he
        · exact hvn.symm
        · exact cacheDel_not_mem hui hv e he)
      exact ⟨hd.toAside.trans ((cachePut_aside ..).trans hm.toAside), hm.inv⟩

end

end Sys2Proof.Machine

namespace Sys2Proof.Machine
open Sys2Proof

/-! ## Moves between caches leave the rest as it is, whatever the caches hold -/

section
variable {s t u : State} {id : CacheId} {n k : Nat} {l v : CLine}

theorem ebufPush_aside {l2 : Bool} {d : Line} (h : ebufPush l2 n d s = some t) : Aside s t := by
  rw [ebufPush_eq h]
  exact .of_rest rfl rfl

theorem ebufPush_lines {l2 : Bool} {d : Line} (h : ebufPush l2 n d s = some t) (id : CacheId) : t.caches.lines id = s.caches.lines id := by
  rw [ebufPush_eq h, lines_ebuf]

theorem evictL2_aside (h : evictL2 l s = some t) : Aside s t := by
  unfold evictL2 at h
  split at h
  · cases h
    split
    · exact cachePut_aside ..
    · exact .refl s
  · split at h
    · obtain ⟨u, hu, rfl⟩ := Option.map_eq_some_iff.mp h
      exact (ebufPush_aside hu).trans (lineGone_trim ..).toAside
    · cases h
      exact ((letGo_trim ..).trans (lineGone_trim ..)).toAside
    · cases h
      exact (lineGone_trim ..).toAside

theorem insertL2_aside {st : LineState} {d : Line} {age : BitVec 2} (h : insertL2 n st d age s = some t) : Aside s t := by
  unfold insertL2 at h
  split at h
  · cases h
    exact (cachePut_aside ..).trans (clearLatent_trim ..).toAside
  · dsimp only at h
    have hr := (ageSet_trim .l2 n (chooseVictim s .l2 n).2 s).trans (readOut_trim .l2 ((n % 512) * 8 + (chooseVictim s .l2 n).1) _)
    split at h
    · next u hu =>
      cases h
      rw [hu] at hr
      exact hr.toAside.trans (cachePut_aside ..)
    · next u v hu =>
      obtain ⟨w, hw, rfl⟩ := Option.map_eq_some_iff.mp h
      rw [hu] at hr
      exact (hr.trans (cacheDel_trim ..)).toAside.trans ((evictL2_aside hw).trans (cachePut_aside ..))

theorem evictL1D_aside (h : evictL1D l s = some t) : Aside s t := by
  unfold evictL1D at h
  split at h
  · split at h
    · exact insertL2_aside h
    · obtain ⟨u, hu, rfl⟩ := Option.map_eq_some_iff.mp h
      refine Aside.trans (Trim.toAside ?_) ((ebufPush_aside hu).trans (lineGone_trim ..).toAside)
      split
      · exact cacheDel_trim ..
      · exact .refl s
  · cases h
    exact (Trim.ite (.refl s) ((letGo_trim ..).trans (lineGone_trim ..))).toAside
  · cases h
    exact (lineGone_trim ..).toAside

theorem insertL1D_aside {st : LineState} {d : Line} {age : BitVec 2} (h : insertL1D n st d age s = some t) : Aside s t := by
  unfold insertL1D at h
  split at h
  · cases h
    exact (cachePut_aside ..).trans (clearLatent_trim ..).toAside
  · dsimp only at h
    have hr := (ageSet_trim .l1d n (chooseVictim s .l1d n).2 s).trans (readOut_trim .l1d ((n % 64) * 8 + (chooseVictim s .l1d n).1) _)
    split at h
    · next u hu =>
      cases h
      rw [hu] at hr
      exact hr.toAside.trans (cachePut_aside ..)
    · next u v hu =>
      rw [hu] at hr
      exact (hr.trans (cacheDel_trim ..)).toAside.trans ((cachePut_aside ..).trans (evictL1D_aside h))

/-! ## Calm moves between caches -/

theorem Calm.notEvicting_of_find {id : CacheId} (hid : id ≠ .l1i) (hf : cacheFind s id n = some (k, l)) (hs : CachesInv s) :
    NotEvicting s n := by
  obtain ⟨hm, hl⟩ := mem_of_cacheFind hf
  rw [← hl]
  exact hs.notEvicting hid hm

theorem insertL2_calm {st : LineState} {d : Line} {age : BitVec 2} (h : insertL2 n st d age s = some t)
    (hn : CachesInv s → NotEvicting s n) : Calm s t := by
  refine ⟨insertL2_aside h, fun hs => ?_⟩
  obtain ⟨m, -, hm⟩ := insertL2_moves h hs (hn hs)
  exact hm.inv

theorem insertL1D_calm {st : LineState} {d : Line} {age : BitVec 2} (h : insertL1D n st d age s = some t)
    (hn : CachesInv s → NotEvicting s n) : Calm s t := ⟨insertL1D_aside h, fun hs => (insertL1D_inv h hs (hn hs)).2⟩

theorem insertL1I_calm (n : Nat) (d : Line) (s : State) : Calm s (insertL1I n d s) := by
  unfold insertL1I
  split
  · next k _ hf => exact (cachePut_found hf rfl).calm
  · next hf =>
    dsimp only
    have ha := ageSet_trim .l1i n (chooseVictim s .l1i n).2 s
    refine ⟨ha.toAside.trans ((cacheDel_trim ..).toAside.trans (cachePut_aside ..)), fun hs => ?_⟩
    obtain ⟨hset, hway⟩ := victim_place hs .l1i n
    have hd := ha.trans (cacheDel_trim _ .l1i (n % 128 * 4 + (chooseVictim s .l1i n).1))
    refine cachePut_inv (hd.cachesInv hs) hset ?_ (absurd rfl) fun e he heq => absurd heq (hd.not_mem (hs.not_mem hf) e he)
    rw [hd.wayLocked]
    exact hway

theorem insertL1I_ebuf (n : Nat) (d : Line) (s : State) (h : NotEvicting s n) : NotEvicting (insertL1I n d s) n := by
  unfold insertL1I
  split
  · next k _ hf => exact (cachePut_found hf rfl).notEvicting h
  · dsimp only
    intro b hb
    rw [cachePut_ebuf] at hb
    exact ((ageSet_trim ..).trans (cacheDel_trim ..)).notEvicting h b hb

theorem noteFill_calm (f : Fill) (s : State) : Calm s (noteFill f s) := .ite (.refl s) (.of_rest rfl rfl rfl)

theorem allocFill_calm {r : Req} {excl : Bool} {d : Line} (h : allocFill r excl d s = some t) : Calm s t := by
  unfold allocFill at h
  dsimp only at h
  generalize (r.l1d && cacheOn s .l1d) = d1 at h
  generalize (r.l2 && cacheOn s .l2) = d2 at h
  have hi : Calm s (if (r.l1i && cacheOn s .l1i) = true then insertL1I (lineNo r.addr) d s else s) :=
    .ite (insertL1I_calm ..) (.refl s)
  have hb (hn : NotEvicting s (lineNo r.addr)) :
      NotEvicting (if (r.l1i && cacheOn s .l1i) = true then insertL1I (lineNo r.addr) d s else s) (lineNo r.addr) := by
    split
    · exact insertL1I_ebuf _ _ s hn
    · exact hn
  generalize (if (r.l1i && cacheOn s .l1i) = true then insertL1I (lineNo r.addr) d s else s) = s0 at h hi hb
  split at h
  · cases h
  next hfree =>
  have hn (hto : (d1 || d2) = true) : NotEvicting s0 (lineNo r.addr) := hb (by simpa [hto, NotEvicting] using hfree)
  split at h
  · cases h
  next s1 h1 =>
  have h1 : Aside s0 s1 ∧ (CachesInv s0 → CachesInv s1 ∧ (d1 = true → NotEvicting s1 (lineNo r.addr))) := by
    split at h1
    · next hd2 =>
      refine ⟨insertL2_aside h1, fun hs => ?_⟩
      obtain ⟨m, hm, hmoves⟩ := insertL2_moves h1 hs (hn (by simp [hd2]))
      exact ⟨hmoves.inv, fun _ => hmoves.notEvicting (hn (by simp [hd2])) hm⟩
    · cases h1
      exact ⟨.refl _, fun hs => ⟨hs, fun hd1 => hn (by simp [hd1])⟩⟩
  split at h
  · cases h
  next s2 h2 =>
  have h2 : Aside s1 s2 ∧ (CachesInv s1 → (d1 = true → NotEvicting s1 (lineNo r.addr)) → CachesInv s2) := by
    split at h2
    · next hd1 => exact ⟨insertL1D_aside h2, fun hs hb => (insertL1D_inv h2 hs (hb hd1)).2⟩
    · cases h2
      exact ⟨.refl _, fun hs _ => hs⟩
  cases h
  have filled : Calm s0 s2 := ⟨h1.1.trans h2.1, fun hs => h2.2 (h1.2 hs).1 (h1.2 hs).2⟩
  exact hi.trans (filled.trans (.ite (letGo_trim ..).calm (.refl _)))

theorem placeFill_calm (r : Req) (excl : Bool) (d : Line) (s : State) : Calm s (placeFill r excl d s) := by
  unfold placeFill
  refine .ite ((noteFill_calm ..).after (.ite (letGo_trim ..).calm (.refl s))) ?_
  split
  · next t ht => exact (allocFill_calm ht).trans (noteFill_calm ..)
  · exact .of_rest rfl rfl rfl

theorem retryHeld_calm (s : State) : Calm s (retryHeld s) := by
  refine .foldl _ (fun t f => ?_) _ s
  have erased : Calm t { t with mesh := { t.mesh with fills := t.mesh.fills.erase f } } := .of_rest rfl rfl rfl
  exact erased.trans (placeFill_calm ..)

/-! ## Drains (R57, R318, R381) -/

/-- A dirty line of L1D goes into a buffer, and its older copy in L2 is dropped (R57). -/
theorem drainPush_calm {l2 : Bool} {d : Line} (h : ebufPush l2 l.line d (cacheDel s .l1d k) = some t) (hl : (k, l) ∈ s.caches.lines .l1d) :
    Calm s (match cacheFind t .l2 l.line with | some (k, _) => cacheDel t .l2 k | none => t) := by
  have hd := cacheDel_trim s .l1d k
  have hlast : Trim t (match cacheFind t .l2 l.line with | some (k, _) => cacheDel t .l2 k | none => t) := by
    split
    · exact cacheDel_trim ..
    · exact .refl t
  refine ⟨hd.toAside.trans ((ebufPush_aside h).trans hlast.toAside), fun hs => ?_⟩
  have hn := hd.notEvicting (hs.notEvicting (by decide) hl)
  have h1 := cacheDel_not_mem hs hl
  have hw := hd.cachesInv hs
  have hfind : cacheFind t .l2 l.line = cacheFind (cacheDel s .l1d k) .l2 l.line := by rw [ebufPush_eq h]; rfl
  rw [hfind]
  split
  · next k2 x hx =>
    obtain ⟨hmem, hxl⟩ := mem_of_cacheFind hx
    have hlines (id : CacheId) : (cacheDel t .l2 k2).caches.lines id = (cacheDel (cacheDel s .l1d k) .l2 k2).caches.lines id := by
      simp only [cacheDel_lines, ebufPush_lines h]
    have hgone := cacheDel_trim (cacheDel s .l1d k) .l2 k2
    refine hw.push (b := ⟨l.line, d, l2, false⟩) ((ebufPush_aside h).trans (cacheDel_trim ..).toAside)
      (fun id => by rw [hlines]; exact hgone.lines id) (by rw [cacheDel_ebuf, ebufPush_eq h]) hn fun id hid => ?_
    rw [hlines]
    cases id with
    | l1i => exact absurd rfl hid
    | l1d => exact hgone.not_mem h1
    | l2 => rw [← hxl]; exact cacheDel_not_mem hw hmem
  · next hx => exact (ebufPush_moves h hw hn h1 (hw.not_mem hx)).inv

theorem drainL1D_calm (k : Nat) (s : State) : Calm s (drainL1D k s) := by
  have hr := readOut_trim .l1d k s
  have hv := readOut_find? (t := (readOut .l1d k s).1) (v := (readOut .l1d k s).2) rfl
  unfold drainL1D
  generalize readOut .l1d k s = r at hr hv
  obtain ⟨t, l⟩ := r
  cases l with
  | none => exact hr.calm
  | some l =>
    dsimp only at hr hv ⊢
    split
    · split
      · exact hr.calm
      · next u hu =>
        refine hr.calm.trans (Calm.trans ?_ (lineGone_trim _ _).calm)
        exact drainPush_calm hu (SMap.mem_of_find? hv)
    · exact (hr.trans (dropLine_trim ..)).calm

theorem drainL2_calm (k : Nat) (s : State) : Calm s (drainL2 k s) := by
  have hr := readOut_trim .l2 k s
  have hv := readOut_find? (t := (readOut .l2 k s).1) (v := (readOut .l2 k s).2) rfl
  unfold drainL2
  generalize readOut .l2 k s = r at hr hv
  obtain ⟨t, l⟩ := r
  cases l with
  | none => exact hr.calm
  | some l =>
    dsimp only at hr hv ⊢
    have hd := cacheDel_trim t .l2 k
    split
    · exact hr.calm
    · next hf =>
      split
      · split
        · exact hr.calm
        · next u hu =>
          refine hr.calm.trans ⟨hd.toAside.trans ((ebufPush_aside hu).trans (lineGone_trim ..).toAside), fun ht => ?_⟩
          have hm : (k, l) ∈ t.caches.lines .l2 := SMap.mem_of_find? hv
          have hnone : cacheFind t .l1d l.line = none := by simpa using hf
          have hpush := ebufPush_moves hu (hd.cachesInv ht) (hd.notEvicting (ht.notEvicting (by decide) hm))
            (hd.not_mem (ht.not_mem hnone)) (cacheDel_not_mem ht hm)
          exact (hpush.trim (lineGone_trim ..)).inv
      · exact (hr.trans (dropLine_trim ..)).calm

theorem startEntry_calm (e : EvEntry) (s : State) : Calm s (startEntry e s) := by
  unfold startEntry
  refine .ite (.refl s) (Trim.calm ((sendWrite_trim ..).trans (countEvent_trim ..)|>.after ⟨.of_rest rfl rfl, fun id => ?_, ?_⟩))
  · rw [lines_ebuf]
    exact .refl _
  · rw [List.map_map]
    refine (List.map_congr_left fun b _ => ?_ : _ = _) ▸ List.Sublist.refl _
    dsimp only [Function.comp]
    split <;> rfl

theorem startWriteBacks_calm (s : State) : Calm s (startWriteBacks s) := .foldl _ (fun t e => startEntry_calm e t) _ s

theorem drainStep_calm (s : State) : Calm s (drainStep s) := by
  have lines {drain : Nat → State → State} (hd : ∀ k t, Calm t (drain k t)) (l : SMap CLine) (t : State) :
      Calm t (l.foldl (fun t e => drain e.1 t) t) := .foldl _ (fun t e => hd e.1 t) l t
  exact .ite (.refl s) ((lines drainL1D_calm _ _).trans ((lines drainL2_calm _ _).trans (startWriteBacks_calm _)))

end

end Sys2Proof.Machine

namespace Sys2Proof.Machine
open Sys2Proof

/-! ## Reads and writes of lines are calm (R314 to R320) -/

section
variable {α β : Type} {s₀ : State}

/-- A part that is done only in some case, before the rest. -/
theorem CalmRun.when {b : Prop} [Decidable b] {x : M PUnit} {f : PUnit → M β} (hx : CalmRun s₀ x) (hf : ∀ u, CalmRun s₀ (f u)) :
    CalmRun s₀ (if b then x >>= f else f ()) := .ite (hx.bind hf) (hf _)

/-- A check that waits or faults, before the rest. -/
theorem CalmRun.check {b : Prop} [Decidable b] {x : M β} {m : M β} (hx : CalmRun s₀ x) (hm : CalmRun s₀ m) :
    CalmRun s₀ (if b then x else m) := .ite hx hm

theorem freshFree_calm : CalmRun s₀ freshFree :=
  .get_bind fun _ hs => .bind (.set (hs.trans (.of_rest rfl rfl rfl))) fun _ => .pure _

theorem freeW_calm : CalmRun s₀ freeW := freshFree_calm.bind fun _ => .pure _

theorem freeB_calm : CalmRun s₀ freeB := freshFree_calm.bind fun _ => .pure _

theorem freeBounded_calm : CalmRun s₀ freeBounded := freshFree_calm.bind fun _ => .pure _

theorem pickFree_calm (l : List α) : CalmRun s₀ (pickFree l) := by
  induction l with
  | nil => exact .pure none
  | cons a l ih => exact freeB_calm.bind fun _ => .ite (.pure _) ih

theorem spadPut_calm (s : State) (i : Nat) (w : TWord) : Calm s (spadPut s i w) :=
  (clearLatent_trim ..).calm.after (.of_rest rfl rfl rfl)

theorem spadRead_calm (bulk : Bool) (i : Nat) : CalmRun s₀ (spadRead bulk i) := by
  have put {s : State} (hs : Calm s₀ s) (b : Bool) (w : TWord) : Calm s₀ (spadPut (countError 3 0 b s) i w) :=
    hs.trans ((countError_trim ..).calm.trans (spadPut_calm ..))
  unfold spadRead
  refine .get_bind fun s hs => ?_
  split
  · exact .pure _
  · exact .bind (.set (put hs ..)) fun _ => .pure _
  · exact .ite (.bind (.set ((put hs ..).trans (machineCheck_trim ..).calm)) fun _ => .pure _)
      (.bind (.set (put hs ..)) fun _ => .pure _)

theorem meetTag_calm (id : CacheId) (n : Nat) (s : State) : Calm s (meetTag id n s) := (meetTag_trim ..).calm

theorem meetLine_calm (id : CacheId) (n : Nat) (s : State) : Calm s (meetLine id n s) := (meetLine_trim ..).calm

theorem meetRead_calm (mode : ReadMode) (n : Nat) (s : State) : Calm s (meetRead mode n s) := by
  have first : Calm s (if cacheOn s mode.first then meetLine mode.first n s else s) := .ite (meetLine_calm ..) (.refl s)
  exact .ite first (first.trans ((meetLine_calm ..).trans (meetLine_calm ..)))

theorem countSpec_calm (who : Requester) (evt : Nat) (a : W64) (s : State) : Calm s (countSpec who evt a s) := (countEvent_trim ..).calm

theorem countCtx_calm (cls evt n : Nat) (c : CtxId) (a : Option W64) (s : State) : Calm s (countCtx cls evt n c a s) :=
  (countEvent_trim ..).calm

theorem countLooks_calm (who : Requester) (c : CacheId) (a : W64) (n : Nat) (v s : State) : Calm s (countLooks who c a n v s) := by
  have count (b : Bool) (evt : Nat) (t : State) : Calm t (if b then countSpec who evt a t else t) := .ite (countSpec_calm ..) (.refl t)
  exact (count _ _ s).trans ((count _ _ _).trans ((count _ _ _).trans (count _ _ _)))

theorem ebufRecall_calm (n : Nat) : CalmRun s₀ (ebufRecall n) := by
  unfold ebufRecall
  refine .get_bind fun s hs => ?_
  split
  · exact .pure _
  next e he =>
  refine .ite .wait ?_
  dsimp only
  generalize ht : ({ s with caches := { s.caches with ebuf := s.caches.ebuf.filter fun x => x.line != n } } : State) = t
  have out : Trim s t := by
    subst ht
    exact ⟨.of_rest rfl rfl, fun id => by rw [lines_ebuf]; exact .refl _, List.filter_sublist.map _⟩
  have gone : NotEvicting t n := by
    subst ht
    intro b hb
    simpa using (List.mem_filter.mp hb).2
  split
  · next u hu =>
    have put : Calm t u := by
      split at hu
      · exact insertL2_calm hu fun _ => gone
      · exact insertL1D_calm hu fun _ => gone
    exact .bind (.set (hs.trans (out.calm.trans (put.trans (retryHeld_calm u))))) fun _ => .pure _
  · exact .wait

theorem freeLine_calm : CalmRun s₀ freeLine := by
  unfold freeLine
  iterate 8 refine freeBounded_calm.bind fun _ => ?_
  exact .pure _

theorem uninitHit_calm (cs : List CacheId) : CalmRun s₀ (uninitHit cs) := .get_bind fun _ _ => .ite freeB_calm (.pure _)

theorem found_of_ite {s : State} {id : CacheId} {b : Prop} [Decidable b] {n k : Nat} {l : CLine}
    (h : (if b then cacheFind s id n else none) = some (k, l)) : cacheFind s id n = some (k, l) := by
  split at h
  · exact h
  · cases h

/-- A read that hits touches the line (R317). -/
theorem touched_trim {s : State} {id : CacheId} {n k : Nat} {l : CLine} (hf : cacheFind s id n = some (k, l)) :
    Trim s (cachePut s id k { l with age := 0 }) := cachePut_found hf (mem_of_cacheFind hf).2

theorem cachedLine_calm (mode : ReadMode) (stream : Bool) (n : Nat) : CalmRun s₀ (cachedLine mode stream n) := by
  unfold cachedLine
  refine .read fun s hs => ?_
  split
  · next k l hf => exact .modify_bind (.run (hs.trans (touched_trim (found_of_ite hf)).calm) (.pure _))
  split
  · exact .run hs (.pure _)
  next k l hf =>
  have ht := touched_trim (found_of_ite hf)
  have hn : CachesInv (cachePut s .l2 k { l with age := 0 }) → NotEvicting (cachePut s .l2 k { l with age := 0 }) n := by
    intro hi
    have hm : (k, { l with age := 0 }) ∈ (cachePut s .l2 k { l with age := 0 }).caches.lines .l2 := by
      rw [cachePut_caches, lines_setLines, if_pos rfl]
      exact SMap.mem_of_find? (SMap.find?_put_same ..)
    have := hi.notEvicting (by decide) hm
    rwa [← (mem_of_cacheFind (found_of_ite hf)).2]
  refine .modify_bind (.get_bind ?_)
  generalize cachePut s .l2 k { l with age := 0 } = t at ht hn
  have ht := hs.trans ht.calm
  refine .ite (.run ht (.bind (.set (ht.trans (.ite (insertL1I_calm ..) (.refl t)))) fun _ => .pure _)) (.ite ?_ (.run ht (.pure _)))
  split
  · next u hu => exact .run ht (.bind (.set (ht.trans (insertL1D_calm hu hn))) fun _ => .pure _)
  · exact .run ht (.bind .wait fun _ => .pure _)

theorem needLane_calm (l : BitVec 2) : CalmRun s₀ (needLane l) := .get_bind fun _ _ => .ite .wait (.pure _)

theorem requestRead_calm (op : ReqOp) (addr : PAddr) (who : Requester) (size : BitVec 4) (l1i l1d l2 stream : Bool) :
    CalmRun s₀ (requestRead op addr who size l1i l1d l2 stream) := by
  unfold requestRead
  refine .get_bind fun s hs => ?_
  split
  · exact .wait
  · exact .ite ((needLane_calm 2).bind fun _ => .set (hs.trans (sendReq_trim ..).calm))
      (.set (hs.trans ((tollRefuse_trim s true 4 who.ctx?).calm.trans (.of_rest rfl rfl rfl))))

theorem requestLine_calm (who : Requester) (mode : ReadMode) (stream : Bool) (n : Nat) : CalmRun s₀ (requestLine who mode stream n) :=
  .get_bind fun _ _ => .ite (requestRead_calm ..) (requestRead_calm ..)

theorem readLine_calm (who : Requester) (mode : ReadMode) (stream : Bool) (a : W64) (n : Nat) :
    CalmRun s₀ (readLine who mode stream a n) := by
  have looked (v : State) : CalmRun s₀ (modify (countLooks who mode.first a n v) : M PUnit) := .modify fun _ => countLooks_calm ..
  unfold readLine
  refine (uninitHit_calm _).bind fun b => .ite (freeLine_calm.bind fun _ => .pure _) (.get_bind fun s _ => ?_)
  split
  · exact .pure _
  refine (CalmRun.modify fun _ => meetRead_calm ..).bind fun _ => .get_bind fun v _ => (cachedLine_calm ..).bind fun d => ?_
  split
  · exact (looked v).bind fun _ => .pure _
  refine (ebufRecall_calm n).bind fun r => .ite ((cachedLine_calm ..).bind fun d => ?_) (.get_bind fun t _ => .ite .wait ?_)
  · split
    · exact (looked v).bind fun _ => .pure _
    · exact .wait
  · exact (looked v).bind fun _ => (requestLine_calm ..).bind fun _ => .get_bind fun _ _ => .ite (.pure _) .wait

theorem readDevice_calm (who : Requester) (pa : PAddr) (size : BitVec 4) : CalmRun s₀ (readDevice who pa size) := by
  unfold readDevice
  refine .get_bind fun s _ => ?_
  split
  · exact .pure _
  · exact .ite .wait ((requestRead_calm ..).bind fun _ => .get_bind fun _ _ => .ite (.pure _) .wait)

/-! ## Stores (R316, R317, R324) -/

theorem promoteLine_calm (who : Requester) (n : Nat) (st : LineState) (ok : WPath) : CalmRun s₀ (promoteLine who n st ok) :=
  .ite (.pure _) (.get_bind fun _ _ => .ite (.pure _) (.ite .wait ((requestRead_calm ..).bind fun _ =>
    .get_bind fun _ _ => .ite (.pure _) .wait)))

theorem storeHit_calm (who : Requester) (id : CacheId) (n : Nat) : CalmRun s₀ (storeHit who id n) := by
  unfold storeHit
  refine .read fun s hs => ?_
  split
  · next k l hf => exact .ite (.modify (hs.trans (touched_trim hf).calm)) (.run hs (.pure _))
  · exact .run hs (.pure _)

theorem storeFromL2_calm (who : Requester) (stream : Bool) (n : Nat) : CalmRun s₀ (storeFromL2 who stream n) := by
  unfold storeFromL2
  refine (CalmRun.modify fun _ => meetLine_calm ..).bind fun _ => .get_bind fun s _ => ?_
  split
  · exact .wait
  refine (storeHit_calm ..).bind fun _ => (promoteLine_calm ..).bind fun p => ?_
  split
  · refine .get_bind fun t ht => ?_
    dsimp only
    have hm := ht.trans (meetLine_calm .l2 n t)
    split
    · exact .bind (.set hm) fun _ => .wait
    · next k e hf =>
      split
      · next u hu =>
        exact .bind (.set (hm.trans (insertL1D_calm hu (Calm.notEvicting_of_find (by decide) hf)))) fun _ => .pure _
      · exact .wait
  · exact .pure _

theorem lookedFor_calm (who src : Requester) (a : W64) (n : Nat) (v : State) {m : M WPath} (h : CalmRun s₀ m) :
    CalmRun s₀ (lookedFor who src a n v m) :=
  h.bind fun _ => .when (.modify fun _ => countLooks_calm ..) fun _ => .pure _

theorem meetTags_calm (id : CacheId) (n : Nat) :
    CalmRun s₀ (modify fun t => if cacheOn t id then meetTag id n t else t : M PUnit) :=
  .modify fun t => .ite (meetTag_calm ..) (.refl t)

theorem prepScalarLine_calm (who : Requester) (stream : Bool) (a : W64) (n : Nat) : CalmRun s₀ (prepScalarLine who stream a n) := by
  unfold prepScalarLine
  refine .get_bind fun _ _ => .when .wait fun _ => (uninitHit_calm _).bind fun _ => ?_
  extract_lets look
  have hlook (u : PUnit) : CalmRun s₀ (look u) := by
    refine (meetTags_calm .l1d n).bind fun _ => (meetTags_calm .l2 n).bind fun _ => .get_bind fun s _ => ?_
    dsimp only
    split
    · exact (storeHit_calm ..).bind fun _ => lookedFor_calm _ _ _ _ _ (promoteLine_calm ..)
    · exact .ite (lookedFor_calm _ _ _ _ _ (storeFromL2_calm ..))
        ((storeHit_calm ..).bind fun _ => lookedFor_calm _ _ _ _ _ (promoteLine_calm ..))
    · exact (ebufRecall_calm n).bind fun _ => .ite .wait (.get_bind fun _ _ => .ite (.ite .wait (.pure _)) (.ite (.pure _) (.ite .wait
        ((CalmRun.modify fun _ => countLooks_calm ..).bind fun _ => (requestRead_calm ..).bind fun _ =>
          .get_bind fun _ _ => .ite (.pure _) .wait))))
  exact .ite (freeB_calm.bind fun _ => .ite (.pure _) (hlook ())) (hlook ())

theorem prepBulkLine_calm (who src : Requester) (a : W64) (n : Nat) : CalmRun s₀ (prepBulkLine who src a n) := by
  unfold prepBulkLine
  refine .get_bind fun _ _ => .when .wait fun _ => (uninitHit_calm _).bind fun _ => ?_
  extract_lets look
  have hlook (u : PUnit) : CalmRun s₀ (look u) := by
    refine (meetTags_calm .l1d n).bind fun _ => (meetTags_calm .l2 n).bind fun _ => .get_bind fun s _ => ?_
    dsimp only
    split
    · exact (storeHit_calm ..).bind fun _ => lookedFor_calm _ _ _ _ _ (promoteLine_calm ..)
    · exact (storeHit_calm ..).bind fun _ => lookedFor_calm _ _ _ _ _ (promoteLine_calm ..)
    · exact (ebufRecall_calm n).bind fun _ => .ite .wait (.get_bind fun _ _ => .get_bind fun _ _ => .get_bind fun _ _ =>
        .ite .wait (lookedFor_calm _ _ _ _ _ (.pure _)))
  exact .ite (freeB_calm.bind fun _ => .ite (.pure _) (hlook ())) (hlook ())

/-- A write goes to a line that a cache holds, or elsewhere than into the caches. -/
theorem commitLine_calm (who : Requester) (own : Option CtxId) (path : WPath) (pa : PAddr) (mask : W64) (d : Line) (s : State) :
    Calm s (commitLine who own path pa mask d s) := by
  unfold commitLine
  extract_lets n gone t
  have hgone : Trim s gone ∧ gone.caches.lines .l2 = s.caches.lines .l2 := by
    subst gone
    split
    · exact ⟨cacheDel_trim .., by rw [cacheDel_lines, if_neg (by decide)]⟩
    · exact ⟨.refl s, rfl⟩
  suffices h : Calm s t from .ite h (h.trans (hitWatch_trim ..).calm)
  subst t
  clear_value gone
  cases path with
  | drop => exact .refl s
  | spad => exact .foldl _ (fun t i => .ite (.refl t) (spadPut_calm ..)) _ s
  | l1d =>
    dsimp only
    split
    · next k l hf => exact ((cachePut_found hf rfl).trans (clearLatent_trim ..)).calm
    · exact .refl s
  | l2 =>
    dsimp only
    split
    · next k l hf =>
      obtain ⟨hm, hl⟩ := mem_of_cacheFind hf
      exact (hgone.1.trans ((cachePut_trim (l := l) (by rw [hgone.2]; exact hm) hl.symm).trans (clearLatent_trim ..))).calm
    · exact .refl s
  | poke => exact (sendWrite_trim ..).calm
  | dev size => exact (sendWrite_trim ..).calm

end

end Sys2Proof.Machine

namespace Sys2Proof.Machine
open Sys2Proof

/-! ## Translation is calm (R340 to R361) -/

/-- A computation that may end in a translation fault is calm, however it ends. -/
structure CalmX {α : Type} (s₀ : State) (x : X α) : Prop where
  run : CalmRun s₀ x.run

section
variable {α β : Type} {s₀ : State}

theorem CalmX.pure (a : α) : CalmX s₀ (pure a : X α) := ⟨CalmRun.pure _⟩

theorem CalmX.throw (e : XFault) : CalmX s₀ (throw e : X α) := ⟨CalmRun.pure _⟩

theorem CalmX.bind {x : X α} {f : α → X β} (hx : CalmX s₀ x) (hf : ∀ a, CalmX s₀ (f a)) : CalmX s₀ (x >>= f) := by
  refine ⟨?_⟩
  rw [ExceptT.run_bind]
  refine hx.run.bind fun r => ?_
  cases r with
  | ok a => exact (hf a).run
  | error e => exact .pure _

theorem CalmX.ite {b : Prop} [Decidable b] {x y : X α} (hx : CalmX s₀ x) (hy : CalmX s₀ y) : CalmX s₀ (if b then x else y) := by
  split
  · exact hx
  · exact hy

theorem CalmX.lift {m : M α} (h : CalmRun s₀ m) : CalmX s₀ (liftM m : X α) := ⟨h.bind fun _ => .pure _⟩

theorem CalmX.modify {f : State → State} (h : ∀ s, Calm s (f s)) : CalmX s₀ (modify f : X PUnit) := .lift (.modify h)

theorem CalmX.get_bind {f : State → X β} (h : ∀ s, CalmX s₀ (f s)) : CalmX s₀ (get >>= f) := CalmX.bind (.lift .get) h

theorem CalmX.tryCatch {x : X α} {f : XFault → X α} (hx : CalmX s₀ x) (hf : ∀ e, CalmX s₀ (f e)) :
    CalmX s₀ (tryCatchThe XFault x f) := by
  refine ⟨hx.run.bind fun r => ?_⟩
  cases r with
  | ok a => exact .pure _
  | error e => exact (hf e).run

/-- A check that fails ends the translation; else it goes on. -/
theorem CalmX.check {b : Prop} [Decidable b] {e : XFault} {f : PUnit → X β} (h : CalmX s₀ (f ())) :
    CalmX s₀ (if b then (MonadExcept.throw e : X PUnit) >>= f else f ()) := .ite (.bind (.throw e) fun _ => h) h

theorem walkWord_calm (who : Requester) (pa : PAddr) : CalmRun s₀ (walkWord who pa) := by
  unfold walkWord
  refine .ite (.bind ((spadRead_calm ..).bind fun _ => .pure _) fun w => ?_) ((readLine_calm ..).bind fun _ => .pure _)
  exact .bind (.modify fun _ => countSpec_calm ..) fun _ => .pure _

theorem walkRead_calm (who : Requester) (g : Regime) (stage2 s1w : Bool) (lvl ipa : Nat) (pa : PAddr) :
    CalmX s₀ (walkRead who g stage2 s1w lvl ipa pa) := by
  unfold walkRead
  refine .get_bind fun s => .check (.check (.bind (.lift (walkWord_calm ..)) fun w => ?_))
  cases w with
  | none => exact .throw _
  | some v => exact .ite (.throw _) (.pure _)

theorem walkCached_calm (g : Regime) (stage2 : Bool) (lvl a : Nat) : CalmRun s₀ (walkCached g stage2 lvl a) :=
  .ite (.pure _) (.get_bind fun _ _ => (pickFree_calm _).bind fun _ => .pure _)

theorem keepWalk_calm (g : Regime) (stage2 : Bool) (lvl a : Nat) (e : W64) : CalmRun s₀ (keepWalk g stage2 lvl a e) := by
  refine .modify fun s => ?_
  dsimp only
  split
  · exact .refl s
  · exact .of_rest rfl rfl rfl

theorem walkFrom_calm (g : Regime) (stage2 s1w : Bool) (ipa : Nat) {rd : Nat → Nat → X W64} (hrd : ∀ lvl p, CalmX s₀ (rd lvl p))
    (a fuel lvl table : Nat) : CalmX s₀ (walkFrom g stage2 s1w ipa rd a fuel lvl table) := by
  induction fuel generalizing lvl table with
  | zero => exact .throw _
  | succ fuel ih =>
    unfold walkFrom
    refine .bind (.lift (walkCached_calm ..)) fun c => ?_
    have go (e : W64) : CalmX s₀ (do
        if !bit e 0 then throw (XFault.mk 1 stage2 lvl 0 0 s1w ipa)
        if (bit e 1 && lvl == 4) || (!bit e 1 && decide (lvl < 2)) then throw (XFault.mk 2 stage2 lvl 0 0 s1w ipa)
        if bit e 1 then
          keepWalk g stage2 lvl a e
          walkFrom g stage2 s1w ipa rd a fuel (lvl + 1) (entryAddr e)
        else if lvl == 4 && bit e 56 then
          let j := lvlIndex stage2 lvl a / 16 * 16 + Config.freeNat (← (freshFree : M Nat)) % 16
          let e' ← rd lvl (table + 8 * j)
          return (if bit e' 0 && !bit e' 1 && bit e' 56 then e' else e, lvl)
        else return (e, lvl)) := by
      refine .check (.check (.ite (.bind (.lift (keepWalk_calm ..)) fun _ => ih _ _) (.ite ?_ (.pure _))))
      exact .bind (.lift freshFree_calm) fun _ => .bind (hrd _ _) fun _ => .pure _
    cases c with
    | some e => exact .bind (.pure e) go
    | none => exact .bind (hrd _ _) go

theorem keepEntry_calm (fresh : Bool) (covers : TlbEntry → Bool) (t : TlbEntry) (s : State) :
    Calm s (keepEntry fresh covers t s) := .of_rest rfl rfl rfl

theorem stage2Leaf_calm (who : Requester) (g : Regime) (s1w fresh : Bool) (ipa : Nat) :
    CalmX s₀ (stage2Leaf who g s1w fresh ipa) := by
  unfold stage2Leaf
  refine .get_bind fun s => .bind (.lift (pickFree_calm _)) fun r => ?_
  cases r with
  | some r => exact .pure _
  | none =>
    refine .bind (walkFrom_calm _ _ _ _ (fun _ _ => walkRead_calm ..) ..) fun r => ?_
    exact .ite (.bind (.modify fun _ => keepEntry_calm ..) fun _ => .pure _) (.pure _)

theorem stage1Read_calm (who : Requester) (g : Regime) (fresh : Bool) (lvl p : Nat) : CalmX s₀ (stage1Read who g fresh lvl p) := by
  unfold stage1Read
  exact .ite (.bind (stage2Leaf_calm ..) fun _ => .check (.check (walkRead_calm ..))) (walkRead_calm ..)

theorem walkLeaves_calm (who : Requester) (g : Regime) (fresh : Bool) (a : Nat) : CalmX s₀ (walkLeaves who g fresh a) := by
  unfold walkLeaves
  have stage2 (l1 : Option (W64 × Nat)) (ipa : Nat) : CalmX s₀ (do
      let l2 ← if g.en2 then (do return some (← stage2Leaf who g false fresh ipa) : X (Option (W64 × Nat))) else pure none
      return (l1, l2)) :=
    .ite (.bind (.bind (stage2Leaf_calm ..) fun _ => .pure _) fun _ => .pure _) (.bind (.pure _) fun _ => .pure _)
  refine .ite (.bind (.bind ?_ fun _ => .pure _) fun l1 => stage2 ..) (.bind (.pure _) fun l1 => stage2 ..)
  exact walkFrom_calm _ _ _ _ (fun _ _ => stage1Read_calm ..) ..

theorem countXlate_calm (who : Requester) (x : XReq) (s : State) : Calm s (countXlate who x s) :=
  (countSpec_calm ..).trans (countSpec_calm ..)

theorem leavesOf_calm (who : Requester) (g : Regime) (x : XReq) (fresh : Bool) (a : Nat) : CalmX s₀ (leavesOf who g x fresh a) := by
  unfold leavesOf
  refine .get_bind fun s => .bind (.lift (pickFree_calm _)) fun r => ?_
  cases r with
  | some t => exact .pure _
  | none =>
    have missed : CalmX s₀ (if ((g.en1 || g.en2) && !fresh) = true then modify (countXlate who x) else pure () : X Unit) :=
      .ite (.modify fun _ => countXlate_calm ..) (.pure _)
    exact .bind (.tryCatch (walkLeaves_calm ..) fun _ => .bind missed fun _ => .throw _) fun _ => .bind missed fun _ => .pure _

theorem keepLeaf_calm (g : Regime) (a ipa : Nat) (l1 l2 : Option (W64 × Nat)) (fresh : Bool) : CalmRun s₀ (keepLeaf g a ipa l1 l2 fresh) :=
  .ite (.modify fun _ => keepEntry_calm ..) (.pure _)

theorem checkLeaves_calm (g : Regime) (x : XReq) (l1 l2 : Option (W64 × Nat)) (ipa : Nat) (pa : PAddr) :
    CalmX s₀ (checkLeaves g x l1 l2 ipa pa) := by
  unfold checkLeaves
  refine .get_bind fun s => ?_
  extract_lets right e1 dev mark found marks keys inside device sealed stage2
  have hmark (b : Nat) (t : BitVec 4) : CalmX s₀ (mark b t) := by
    cases l1 with
    | none =>
      cases l2 with
      | none => exact .pure _
      | some _ => exact .ite (.throw _) (.pure _)
    | some _ =>
      cases l2 with
      | none => exact .check (.pure _)
      | some _ => exact .check (.ite (.throw _) (.pure _))
  have hfound (u : Unit) : CalmX s₀ (found u) := .pure _
  have hmarks (u : Unit) : CalmX s₀ (marks u) := .bind (hmark 6 4) fun _ => .ite (.bind (hmark 7 5) hfound) (hfound ())
  have hkeys (u : Unit) : CalmX s₀ (keys u) := by
    show CalmX s₀ (match x.keys, l1 with | some _, some (_, _) => _ | _, _ => _)
    split
    · exact .check (hmarks ())
    · exact hmarks ()
  have hinside (u : Unit) : CalmX s₀ (inside u) := .check (hkeys ())
  have hdevice (u : Unit) : CalmX s₀ (device u) := .check (hinside ())
  have hsealed (u : Unit) : CalmX s₀ (sealed u) := .check (hdevice ())
  have hstage2 (u : Unit) : CalmX s₀ (stage2 u) := by
    cases l2 with
    | none => exact hsealed ()
    | some _ => exact .check (hsealed ())
  clear_value stage2
  cases l1 with
  | none =>
    dsimp only
    split
    · exact .bind (.throw _) hstage2
    · exact hstage2 ()
  | some _ =>
    refine .check (.check ?_)
    dsimp only
    split
    · exact .check (.check (hstage2 ()))
    · exact .check (hstage2 ())

theorem translateOnce_calm (who : Requester) (g : Regime) (x : XReq) (fresh : Bool) : CalmX s₀ (translateOnce who g x fresh) := by
  unfold translateOnce
  refine .bind (leavesOf_calm ..) fun l => ?_
  exact .ite (.bind (.lift (keepLeaf_calm ..)) fun _ => checkLeaves_calm ..) (checkLeaves_calm ..)

theorem translate_calm (who : Requester) (g : Regime) (x : XReq) : CalmRun s₀ (translate who g x) := by
  unfold translate
  refine .ite (.pure _) ((translateOnce_calm ..).run.bind fun r => ?_)
  cases r with
  | ok p => exact .pure _
  | error f => exact .ite (translateOnce_calm ..).run (.pure _)

end

end Sys2Proof.Machine

namespace Sys2Proof.Machine
open Sys2Proof

/-! ## Writes to the registers of a context -/

section
variable {k l : Ctx}

theorem CtxCalm.after {m : Ctx} (g : CtxCalm l m) (h : CtxCalm k l) : CtxCalm k m := h.trans g

theorem CtxCalm.ite {b : Prop} [Decidable b] {m : Ctx} (hl : CtxCalm k l) (hm : CtxCalm k m) : CtxCalm k (if b then l else m) := by
  split
  · exact hl
  · exact hm

theorem CtxCalm.foldl {α : Type} (f : Ctx → α → Ctx) (hf : ∀ k a, CtxCalm k (f k a)) (l : List α) (k : Ctx) :
    CtxCalm k (l.foldl f k) := by
  induction l generalizing k with
  | nil => exact .refl k
  | cons a l ih => exact (hf k a).trans (ih _)

/-- Bits other than 11 of ST changed: those of x that m keeps, and those of y, keep bit 11 as it is. -/
theorem bit11_and_or (x m y : W32) (hm : bit m 11 = true) (hy : bit y 11 = false) : bit ((x &&& m) ||| y) 11 = bit x 11 := by
  simp only [bit, BitVec.getLsbD_or, BitVec.getLsbD_and] at hm hy ⊢
  rw [hm, hy, Bool.and_true, Bool.or_false]

/-- ST changed, and its bit 11 did not. -/
theorem CtxCalm.of_st {k : Ctx} {st : W32} (h : bit st 11 = bit k.st 11) : CtxCalm k { k with st := st } := .of_eq rfl rfl rfl h

theorem clearSlotErrs_calm (k : Ctx) (p : Nat → Bool) : CtxCalm k (k.clearSlotErrs p) := by
  unfold Ctx.clearSlotErrs
  exact .ite (.refl _) (.of_eq rfl rfl rfl rfl)

theorem setA_calm (k : Ctx) (w : TWord) : CtxCalm k (k.setA w) := by
  unfold Ctx.setA
  exact .ite (.after (clearSlotErrs_calm ..) (.of_eq rfl rfl rfl rfl))
    (.ite (.after (clearSlotErrs_calm ..) (.of_eq rfl rfl rfl rfl)) (.of_eq rfl rfl rfl rfl))

theorem setX_calm (k : Ctx) (w : TWord) : CtxCalm k (k.setX w) := by
  unfold Ctx.setX
  exact .ite (.after (clearSlotErrs_calm ..) (.of_eq rfl rfl rfl rfl))
    (.ite (.after (clearSlotErrs_calm ..) (.of_eq rfl rfl rfl rfl)) (.of_eq rfl rfl rfl rfl))

theorem setY_calm (k : Ctx) (w : TWord) : CtxCalm k (k.setY w) := by
  unfold Ctx.setY
  exact .ite (.after (clearSlotErrs_calm ..) (.of_eq rfl rfl rfl rfl))
    (.ite (.after (clearSlotErrs_calm ..) (.of_eq rfl rfl rfl rfl)) (.of_eq rfl rfl rfl rfl))

theorem setStk_calm (k : Ctx) (b : StackBank) : CtxCalm k (k.setStk b) := by
  unfold Ctx.setStk
  exact .ite (.of_eq rfl rfl rfl rfl) (.ite (.of_eq rfl rfl rfl rfl) (.of_eq rfl rfl rfl rfl))

theorem setSp_calm (k : Ctx) (v : W64) : CtxCalm k (k.setSp v) := setStk_calm ..

theorem setWinSlot_calm (k : Ctx) (w i : Nat) (v : TWord) : CtxCalm k (k.setWinSlot w i v) := by
  unfold Ctx.setWinSlot
  exact .after (clearSlotErrs_calm ..) (.of_eq rfl rfl rfl rfl)

theorem allocWindow_calm (k : Ctx) (w : Nat) : CtxCalm k (k.allocWindow w) := by
  unfold Ctx.allocWindow
  exact .after (clearSlotErrs_calm ..) (.of_eq rfl rfl rfl rfl)

theorem setSlot_calm (k : Ctx) (i : BitVec 5) (v : TWord) : CtxCalm k (k.setSlot i v) := by
  unfold Ctx.setSlot
  exact .ite (.after (clearSlotErrs_calm ..) (.of_eq rfl rfl rfl rfl))
    (.ite (.after (clearSlotErrs_calm ..) (.of_eq rfl rfl rfl rfl)) (setWinSlot_calm ..))

theorem setDest_calm (k : Ctx) (d : Dest) (w : TWord) : CtxCalm k (k.setDest d w) := by
  cases d with
  | none => exact .refl k
  | a => exact setA_calm ..
  | x => exact setX_calm ..
  | y => exact setY_calm ..
  | slot i => exact setSlot_calm ..

theorem setAxy_calm (k : Ctx) (r : Axy) (w : TWord) : CtxCalm k (k.setAxy r w) := by
  cases r with
  | a => exact setA_calm ..
  | x => exact setX_calm ..
  | y => exact setY_calm ..

theorem loseSlot_calm (i : Nat) (k : Ctx) : CtxCalm k (k.loseSlot i) := by
  unfold Ctx.loseSlot
  refine .ite (setWinSlot_calm ..) (.ite (.of_eq rfl rfl rfl rfl) (.ite (.of_eq rfl rfl rfl rfl) ?_))
  split <;> exact .of_eq rfl rfl rfl rfl

theorem keepFound_calm (k t : Ctx) : CtxCalm k (k.keepFound t) := by
  unfold Ctx.keepFound
  exact .foldl _ (fun _ _ => .ite (.refl _) (.after (clearSlotErrs_calm ..) (.ite (loseSlot_calm ..) (.refl _)))) _ _

/-- Setting another bit of ST keeps bit 11. -/
theorem bit11_setBit (x : W32) {i : Nat} (h : 11 ≠ i) (b : Bool) : bit (setBit x i b) 11 = bit x 11 := bit_setBit_ne x h b

theorem bit11_stZN (st : W32) (r : W64) : bit (stZN st r) 11 = bit st 11 := by
  unfold stZN bAt
  rw [BitVec.or_assoc]
  refine bit11_and_or st _ _ (by decide) ?_
  split <;> split <;> decide

theorem bit11_stFlags (st : W32) (c z n v : Bool) : bit (stFlags st c z n v) 11 = bit st 11 := by
  unfold stFlags
  rw [BitVec.or_assoc, BitVec.or_assoc, BitVec.or_assoc]
  refine bit11_and_or st _ _ (by decide) ?_
  revert c z n v
  decide

theorem setSumFlags_calm (k : Ctx) (r : SumRes) : CtxCalm k (k.setSumFlags r) := .of_st (bit11_stFlags ..)

theorem setZN_calm (k : Ctx) (r : W64) : CtxCalm k (k.setZN r) := .of_st (bit11_stZN ..)

end

end Sys2Proof.Machine

namespace Sys2Proof.Machine
open Sys2Proof

/-! ## Accesses, what the observation plane does by itself, and operands -/

section
variable {s₀ : State}

theorem traceCtx_calm (typ : BitVec 6) (c : CtxId) (p0 : W64) (p1 : W64) (s : State) : Calm s (traceCtx typ c p0 p1 s) := by
  unfold traceCtx
  exact (traceRec_trim ..).calm

theorem dropFills_calm (c : CtxId) (s : State) : Calm s (dropFills c s) := by
  unfold dropFills
  exact .of_rest rfl rfl rfl

theorem offerFlit_calm (l : BitVec 2) (s : State) : Calm s (offerFlit l s) := by
  unfold offerFlit
  split
  · exact .refl _
  · exact .of_rest rfl rfl rfl

theorem offerNext_calm (s : State) : Calm s (offerNext s) := by
  unfold offerNext
  split
  · exact .refl _
  · exact .ite (.of_rest rfl rfl rfl) (offerFlit_calm ..)

theorem offerBeat_calm (s : State) : Calm s (offerBeat s) := by
  unfold offerBeat
  split
  · exact .refl _
  · exact .ite (.refl _) (.ite (.of_rest rfl rfl rfl) (.of_rest rfl rfl rfl))

theorem addFc_calm (i : Nat) (n : Nat) (s : State) : Calm s (addFc i n s) := by
  unfold addFc
  exact .of_rest rfl rfl rfl

theorem clearDebts_calm (s : State) : Calm s (clearDebts s) := by
  unfold clearDebts
  exact .of_rest rfl rfl rfl

theorem countPace_calm (n : Nat) (s : State) : Calm s (countPace n s) := by
  unfold countPace
  exact .ite (.of_rest rfl rfl rfl) (.refl _)

theorem monitorSteps_calm (n : Nat) (s : State) : Calm s (monitorSteps n s) := by
  unfold monitorSteps
  exact .of_rest rfl rfl rfl

theorem accountSteps_calm (s : State) : Calm s (accountSteps s) := by
  unfold accountSteps
  refine .ite (.refl _) (.ite (.after (monitorSteps_calm ..) (.of_rest rfl rfl rfl)) ?_)
  extract_lets t n _ u
  have hu : Calm s u := .after (countPace_calm ..) (.after (monitorSteps_calm ..) (.trans (account_eq ..).calm (.of_rest rfl rfl rfl)))
  exact .ite hu ((sampleSteps_alarmed n u).calm.after (hu.trans (.of_rest rfl rfl rfl)))

theorem clearWords_calm (c : CacheId) (n : Nat) (mask : W64) (s : State) : Calm s (clearWords c n mask s) := by
  unfold clearWords
  exact (clearLatent_trim ..).calm

theorem advance_calm (c : CtxId) : CalmRun s₀ (advance c) := .modC fun _ => .of_eq rfl rfl rfl rfl

theorem raiseX_calm {α : Type} (f : XFault) (k : AccKind) (va : W64) : CalmRun s₀ (raiseX f k va : M α) := by
  unfold raiseX
  exact .throw _

theorem translateCtx_calm (c : CtxId) (x : XReq) : CalmRun s₀ (translateCtx c x) := by
  unfold translateCtx
  refine .get_bind fun _ _ => ?_
  refine .bind (translate_calm ..) fun _ => ?_
  split
  · exact .pure _
  · exact raiseX_calm ..

theorem needCanonical_calm (c : CtxId) (va : W64) (k : AccKind) : CalmRun s₀ (needCanonical c va k) := by
  unfold needCanonical
  exact .get_bind fun _ _ => .ite (.pure _) (raiseX_calm ..)

theorem needCap_calm (e : Option CapErr) : CalmRun s₀ (needCap e) := by
  unfold needCap
  split
  · exact .pure _
  · exact .capFault _ _

theorem needAligned_calm (va : W64) (n : Nat) : CalmRun s₀ (needAligned va n) := by
  unfold needAligned
  exact .ite (.pure _) .misaligned

theorem needStack_calm (c : CtxId) (a : W64) (n : Nat) : CalmRun s₀ (needStack c a n) := by
  unfold needStack
  exact .bind (.getC _) fun _ => .ite (.pure _) (.raise _ _)

theorem needDdc_calm (c : CtxId) (k : AccKind) (a : W64) (n : Nat) (give : Bool) : CalmRun s₀ (needDdc c k a n give) := by
  unfold needDdc
  exact .get_bind fun _ _ => .ite (.bind (needCap_calm ..) fun _ => .ite (.capFault _ _) (.pure _)) (.pure _)

theorem needRows_calm (c : CtxId) (k : AccKind) (a : W64) (n : Nat) (sp give : Bool) : CalmRun s₀ (needRows c k a n sp give) := by
  unfold needRows
  refine .bind (needCanonical_calm ..) fun _ => ?_
  exact .bind (needAligned_calm ..) fun _ => .when (needStack_calm ..) fun _ => needDdc_calm ..

theorem readPhys_calm (c : CtxId) (p : Phys) (n : Nat) : CalmRun s₀ (readPhys c p n) := by
  unfold readPhys
  refine .get_bind fun _ _ => ?_
  refine .when .wait fun _ => ?_
  refine .ite (.bind (.modify fun _ => countCtx_calm ..) fun _ => .bind (spadRead_calm ..) fun _ => .pure _) ?_
  refine .ite ?_ ?_
  · refine .bind (readDevice_calm ..) fun _ => ?_
    split <;> exact .pure _
  · refine .get_bind fun _ _ => ?_
    refine .bind (readLine_calm ..) fun _ => ?_
    split
    · exact .when (.modify fun _ => countCtx_calm ..) fun _ => .pure _
    · exact .pure _

theorem loadAt_calm (c : CtxId) (a : W64) (n : Nat) : CalmRun s₀ (loadAt c a n) := by
  unfold loadAt
  exact .bind (translateCtx_calm ..) fun _ => .bind (readPhys_calm ..) fun _ => .get_bind fun _ _ => .pure _

theorem loadWord_calm (c : CtxId) (a : W64) (sp : Bool) : CalmRun s₀ (loadWord c a sp) := by
  unfold loadWord
  exact .bind (needRows_calm ..) fun _ => loadAt_calm ..

theorem prepPhys_calm (c : CtxId) (p : Phys) (n : Nat) : CalmRun s₀ (prepPhys c p n) := by
  unfold prepPhys
  refine .get_bind fun _ _ => ?_
  refine .when .wait fun _ => ?_
  refine .ite (.pure _) ?_
  refine .ite (.get_bind fun _ _ => .ite .wait (.pure _)) ?_
  exact .get_bind fun _ _ => .bind (prepScalarLine_calm ..) fun _ => .when (.modify fun _ => countCtx_calm ..) fun _ => .pure _

/-- In the caches, more than lines and eviction buffers changed. -/
theorem Calm.of_lines {s t : State} (hx : t.ctx = s.ctx) (hs : steady t = steady s) (hl : ∀ id, t.caches.lines id = s.caches.lines id)
    (hb : t.caches.ebuf = s.caches.ebuf) : Calm s t :=
  Trim.calm ⟨.of_rest hx hs, fun id => by rw [hl]; exact .refl _, by rw [hb]⟩

theorem countStore_calm (path : WPath) (c : CtxId) (va : W64) (s : State) (t : State) : Calm t (countStore path c va s t) := by
  unfold countStore
  split
  · exact .refl _
  · exact .of_rest rfl rfl rfl
  · exact .of_rest rfl rfl rfl
  · exact countCtx_calm ..

theorem commitAs_calm (own : Option CtxId) (c : CtxId) (path : WPath) (p : Phys) (n : Nat) (w : TWord) :
    CalmRun s₀ (commitAs own c path p n w) := by
  unfold commitAs
  exact .modify fun _ => .after (countStore_calm ..) (commitLine_calm ..)

theorem commitPhys_calm (c : CtxId) (path : WPath) (p : Phys) (n : Nat) (w : TWord) : CalmRun s₀ (commitPhys c path p n w) := by
  unfold commitPhys
  exact commitAs_calm ..

theorem storeWord_calm (c : CtxId) (a : W64) (sp : Bool) (w : TWord) : CalmRun s₀ (storeWord c a sp w) := by
  unfold storeWord
  refine .bind (needRows_calm ..) fun _ => ?_
  exact .bind (translateCtx_calm ..) fun _ => .bind (prepPhys_calm ..) fun _ => commitPhys_calm ..

theorem dropXlate_calm (i : Nat) (s : State) : Calm s (dropXlate i s) := by
  unfold dropXlate
  exact .after (countError_trim ..).calm (.of_rest rfl rfl rfl)

theorem strike_calm (c : CtxId) (ecc : Option EccEvent) (s : State) : Calm s (strike c ecc s) := by
  unfold strike
  split
  · exact .refl _
  · refine .ite (.refl _) ?_
    refine .ite (dropXlate_calm ..) ?_
    exact .ite (.of_rest rfl rfl rfl) (.ite (modCtx_calm (.of_eq rfl rfl rfl rfl)) (.of_rest rfl rfl rfl))

theorem meetSlot_calm (c : CtxId) (i : Nat) (s : State) : Calm s (meetSlot c i s) := by
  unfold meetSlot
  refine .ite (.refl _) ?_
  exact .after (countError_trim ..).calm (modCtx_calm (.after (clearSlotErrs_calm ..) (.ite (loseSlot_calm ..) (.refl _))))

theorem meetBank_calm (c : CtxId) (s : State) : Calm s (meetBank c s) := by
  unfold meetBank
  exact .foldl _ (fun _ _ => meetSlot_calm ..) _ _

theorem readSlot_calm (c : CtxId) (i : BitVec 5) : CalmRun s₀ (readSlot c i) := by
  unfold readSlot
  exact .bind (.modify fun _ => meetSlot_calm ..) fun _ => .bind (.getC _) fun _ => .pure _

theorem oldWord_calm (c : CtxId) (path : WPath) (p : Phys) : CalmRun s₀ (oldWord c path p) := by
  unfold oldWord
  extract_lets
  split
  · refine .get_bind fun _ _ => ?_
    split
    · exact .bind (.modify fun _ => .after (spadPut_calm ..) (countError_trim ..).calm) fun _ => .pure _
    · exact .bind (.modify fun _ => .after (spadPut_calm ..) (countError_trim ..).calm) fun _ => .pure _
    · exact .pure _
  · refine .bind (.modify fun _ => .after (meetLine_calm ..) (meetLine_calm ..)) fun _ => ?_
    refine .get_bind fun _ _ => ?_
    split
    · exact .pure _
    · exact .wait
  · refine .bind (.modify fun _ => .after (meetLine_calm ..) (meetLine_calm ..)) fun _ => ?_
    refine .get_bind fun _ _ => ?_
    split
    · exact .pure _
    · exact .wait
  · refine .bind (readLine_calm ..) fun _ => ?_
    split <;> exact .pure _
  · exact .pure _

theorem storeSub_calm (c : CtxId) (a : W64) (n : Nat) (sp : Bool) (w : TWord) : CalmRun s₀ (storeSub c a n sp w) := by
  unfold storeSub
  refine .bind (needRows_calm ..) fun _ => ?_
  refine .bind (translateCtx_calm ..) fun _ => ?_
  refine .get_bind fun _ _ => ?_
  refine .bind (prepPhys_calm ..) fun _ => ?_
  refine .ite (commitPhys_calm ..) ?_
  refine .bind (oldWord_calm ..) fun _ => ?_
  split
  · exact commitPhys_calm ..
  · exact .when (.raise _ _) fun _ => commitPhys_calm ..

theorem freezeTrigger_calm (b : Nat) (s : State) : Calm s (freezeTrigger b s) := by
  unfold freezeTrigger
  exact .ite (.of_rest rfl rfl rfl) (.refl _)

theorem snapTrigger_calm (cause : BitVec 4) (s : State) : Calm s (snapTrigger cause s) := by
  unfold snapTrigger
  exact .ite (.refl _) (.ite (.of_rest rfl rfl rfl) (.of_rest rfl rfl rfl))

theorem sendLines_calm (who : Requester) (addr : Nat) (ls : List Line) (s : State) : Calm s (sendLines who addr ls s) := by
  unfold sendLines
  exact .foldl _ (fun _ _ => .after (hitWatch_trim ..).calm (sendWrite_trim ..).calm) _ _

theorem dumpDone_calm (s : State) : Calm s (dumpDone s) := by
  unfold dumpDone
  split
  · exact .refl _
  · exact .ite (.refl _) (.after (traceRec_trim ..).calm (.of_rest rfl rfl rfl))

theorem dumpDue_calm (reason : BitVec 4) (s : State) : Calm s (dumpDue reason s) := by
  unfold dumpDue
  refine .ite (.trans (dumpDone_calm ..) (.of_rest rfl rfl rfl)) ?_
  exact .after (sendLines_calm ..) (.trans (dumpDone_calm ..) (.of_rest rfl rfl rfl))

theorem traceFull_calm (s : State) : Calm s (traceFull s) := by
  unfold traceFull
  exact .after (freezeTrigger_calm ..) (.ite (setPend_trim ..).calm (.refl _))

theorem stopCounters_calm (s : State) : Calm s (stopCounters s) := by
  unfold stopCounters
  extract_lets _ _ t u v
  have ht : Calm s t := .of_rest rfl rfl rfl
  have hu : Calm s u := .ite (.after (dumpDue_calm ..) ht) ht
  have hv : Calm s v := .ite (.after (snapTrigger_calm ..) hu) hu
  exact .after (traceRec_trim ..).calm hv

theorem noteFence_calm (c : CtxId) (s : State) : Calm s (noteFence c s) := by
  unfold noteFence
  split
  · exact .ite (modCtx_calm (.of_eq rfl rfl rfl rfl)) (.refl _)
  · exact .refl _

theorem moverLeave_calm (ch : BitVec 3) (m : MoverCh) (s : State) : Calm s (moverLeave ch m s) := by
  unfold moverLeave
  extract_lets t cause u _ v
  have ht : Calm s t := .after (traceRec_trim ..).calm (.of_rest rfl rfl rfl)
  have hu : Calm s u := .ite (.after (countEvent_trim ..).calm ht) ht
  have hv : Calm s v := .ite (.after (setPend_trim ..).calm (hu.trans (.of_rest rfl rfl rfl))) hu
  exact .after (noteFences_trim ..).calm (.after (settle_trim ..).calm (.after (accountChange_eq ..).calm hv))

theorem stopTileChannels_calm (s : State) : Calm s (stopTileChannels s) := by
  unfold stopTileChannels
  exact .foldl _ (fun _ _ => .ite (moverLeave_calm ..) (.refl _)) _ _

theorem cwLeave_calm (c : BitVec 4) (k : CwCh) (s : State) : Calm s (cwLeave c k s) := by
  unfold cwLeave
  exact .after (noteFences_trim ..).calm (.after (traceRec_trim ..).calm (.after (accountChange_eq ..).calm (.of_rest rfl rfl rfl)))

theorem milestone_calm (c : CtxId) (kind : BitVec 4) (idx : BitVec 4) (peer : Option CoreId) (pctx : CtxId) (dur : W64) (detail : W64)
    (s : State) :
    Calm s (milestone c kind idx peer pctx dur detail s) := by
  unfold milestone
  exact .ite (.refl _) (.ite (.after (countCtx_calm ..) (traceCtx_calm ..)) (traceCtx_calm ..))

theorem paceApply_calm (s : State) : Calm s (paceApply s) := by
  unfold paceApply
  exact .of_rest rfl rfl rfl

theorem prepWords_calm (c : CtxId) (ps : List Phys) : CalmRun s₀ (prepWords c ps) := by
  induction ps with
  | nil => exact .pure _
  | cons p ps ih => exact .bind (prepPhys_calm ..) fun _ => .bind ih fun _ => .pure _

theorem needPaths_calm (ps : List (Phys × WPath)) : CalmRun s₀ (needPaths ps) := by
  unfold needPaths
  exact .get_bind fun _ _ => .ite (.pure _) .wait

theorem commitWords_calm (own : Option CtxId) (c : CtxId) (ps : List (Phys × WPath)) (ws : List TWord) :
    CalmRun s₀ (commitWords own c ps ws) := by
  induction ps generalizing ws with
  | nil => exact .pure _
  | cons p ps ih =>
    cases ws with
    | nil => exact .pure _
    | cons w ws => exact .bind (commitAs_calm ..) fun _ => ih ws

theorem translateWords_calm (who : Requester) (g : Regime) (k : AccKind) (a : W64) (n : Nat) :
    CalmRun s₀ (translateWords who g k a n) := by
  induction n generalizing a with
  | zero => exact .pure _
  | succ n ih =>
    refine .bind (translate_calm ..) fun _ => ?_
    split
    · exact .pure _
    · refine .bind (ih _) fun _ => ?_
      split <;> exact .pure _

theorem entryRecords_calm (c : CtxId) (k : Ctx) (esc : Bool) (ecause : W64) (retPc : W64) (s : State) :
    Calm s (entryRecords c k esc ecause retPc s) := by
  unfold entryRecords
  refine .ite ?_ (.after (countEvent_trim ..).calm (traceCtx_calm ..))
  exact .after (countEvent_trim ..).calm (.after (countEvent_trim ..).calm (traceCtx_calm ..))

theorem pushCheck_calm (c : CtxId) (r : EntryReq) : CalmRun s₀ (pushCheck c r) := by
  unfold pushCheck
  refine .get_bind fun _ _ => .ite (.pure _) (.ite (.pure _) ?_)
  extract_lets _ _ next
  have hnext (u) : CalmRun s₀ (next u) := by
    refine .bind (translateWords_calm ..) fun _ => ?_
    split <;> exact .pure _
  refine .ite ?_ (hnext ())
  split
  · exact .pure _
  · exact .pure _
  · exact hnext ()

theorem transferTile_calm (c : CtxId) (trap : Bool) (s : State) : Calm s (transferTile c trap s) := by
  unfold transferTile
  exact .after (stopTileChannels_calm ..) (.of_rest rfl rfl rfl)

theorem fetchCheck_calm (c : CtxId) : CalmRun s₀ (fetchCheck c) := by
  unfold fetchCheck
  refine .get_bind fun _ _ => ?_
  refine .bind (needCanonical_calm ..) fun _ => ?_
  exact .when (needCap_calm ..) fun _ => .bind (translateCtx_calm ..) fun _ => .modify fun _ => meetBank_calm ..

theorem needMode_calm (c : CtxId) (k : OpClass) (m : BitVec 3) (d : BitVec 22) : CalmRun s₀ (needMode c k m d) := by
  unfold needMode
  refine .bind (.needDef _) fun _ => ?_
  extract_lets next
  have hnext (u) : CalmRun s₀ (next u) := .ite (.needDef _) (.pure _)
  exact .ite (.bind (.needDef _) fun _ => .bind (.getC _) fun _ => .bind (.needDef _) fun _ => hnext ()) (hnext ())

theorem needBase_calm (c : CtxId) (k : OpClass) (m : BitVec 3) : CalmRun s₀ (needBase c k m) := by
  unfold needBase
  exact .bind (.getC _) fun _ => .ite (.ite (.tagFault _) (.pure _)) (.pure _)

theorem addrOf_calm (c : CtxId) (m : BitVec 3) (d : BitVec 22) : CalmRun s₀ (addrOf c m d) := by
  unfold addrOf
  exact .get_bind fun _ _ => .pure _

theorem postIncrement_calm (c : CtxId) (m : BitVec 3) (d : BitVec 22) : CalmRun s₀ (postIncrement c m d) := by
  unfold postIncrement
  exact .ite (.modC fun _ => setY_calm ..) (.pure _)

theorem readOperand_calm (c : CtxId) (m : BitVec 3) (d : BitVec 22) : CalmRun s₀ (readOperand c m d) := by
  unfold readOperand
  split
  · exact .pure _
  · exact readSlot_calm ..
  · exact .bind (addrOf_calm ..) fun _ => loadWord_calm ..

theorem readPair_calm (c : CtxId) (m : BitVec 3) (d : BitVec 22) (accA : Tag → Bool) (accOp : Tag → Tag → Bool) {extra : M Unit}
    (hx : CalmRun s₀ extra) : CalmRun s₀ (readPair c m d accA accOp extra) := by
  unfold readPair
  refine .bind (needMode_calm ..) fun _ => .bind (.getC _) fun _ => .when (.tagFault _) fun _ => ?_
  refine .ite ?_ (.bind hx fun _ => .bind (needBase_calm ..) fun _ => ?_)
  · exact .bind (readOperand_calm ..) fun _ => .when (.tagFault _) fun _ => .bind hx fun _ => .pure _
  · exact .bind (readOperand_calm ..) fun _ => .when (.tagFault _) fun _ => .pure _

theorem needX_calm (c : CtxId) (ok : Tag → Bool) : CalmRun s₀ (needX c ok) := by
  unfold needX
  exact .bind (.getC _) fun _ => .ite (.pure _) (.tagFault _)

end

end Sys2Proof.Machine

namespace Sys2Proof.Machine
open Sys2Proof

/-! ## Fences, maintenance of the caches, what leaves on the mesh, loads and stores -/

section
variable {s₀ : State}

theorem CalmRun.forIn {α β : Type} {l : List α} {b : β} {f : α → β → M (ForInStep β)} (h : ∀ a b, CalmRun s₀ (f a b)) :
    CalmRun s₀ (forIn l b f) := by
  induction l generalizing b with
  | nil => exact .pure _
  | cons a l ih =>
    rw [List.forIn_cons]
    refine .bind (h a b) fun r => ?_
    cases r with
    | done b => exact .pure _
    | yield b => exact ih

theorem fenceInstr_calm (f : BitVec 25) (c : CtxId) : CalmRun s₀ (fenceInstr f c) := by
  unfold fenceInstr
  refine .bind (.needDef _) fun _ => ?_
  refine .get_bind fun _ _ => ?_
  refine .ite ?_ (.bind (.modC fun _ => .of_eq rfl rfl rfl rfl) fun _ => .pure _)
  refine .bind (.modify fun _ => milestone_calm ..) fun _ => ?_
  exact .bind (.modC fun _ => .of_eq rfl rfl rfl rfl) fun _ => .bind (advance_calm ..) fun _ => .pure _

theorem dropChannelFills_calm (s : State) : Calm s (dropChannelFills s) := by
  unfold dropChannelFills
  exact .of_rest rfl rfl rfl

theorem tlbQuiet_calm : CalmRun s₀ (tlbQuiet) := by
  unfold tlbQuiet
  exact .get_bind fun _ hs => .when .wait fun _ => .set (hs.trans (dropChannelFills_calm ..))

theorem tlbRemove_calm (scope : TlbScope) (q : TlbArgs) (s : State) : Calm s (tlbRemove scope q s) := by
  unfold tlbRemove
  exact .of_rest rfl rfl rfl

theorem tlbinvInstr_calm (scope : TlbScope) (r : BitVec 23) (c : CtxId) : CalmRun s₀ (tlbinvInstr scope r c) := by
  unfold tlbinvInstr
  refine .get_bind fun _ _ => ?_
  refine .bind (.needDef _) fun _ => ?_
  refine .bind (.needPriv _) fun _ => ?_
  exact .when (.tagFault _) fun _ => .when (.tagFault _) fun _ => .bind (tlbQuiet_calm ..) fun _ => .modify fun _ => tlbRemove_calm ..

theorem invalidateCache_calm (id : CacheId) (s : State) : Calm s (invalidateCache id s) := by
  unfold invalidateCache
  exact .trans (.foldl _ (fun _ _ => (dropLine_trim ..).calm) _ _) (.of_lines rfl rfl (fun id => by cases id <;> rfl) rfl)

theorem cinvAllInstr_calm (r : BitVec 22) (c : CtxId) : CalmRun s₀ (cinvAllInstr r c) := by
  unfold cinvAllInstr
  refine .bind (.needDef _) fun _ => ?_
  refine .bind (.getC _) fun _ => ?_
  exact .bind (.needPriv _) fun _ => .modify fun _ => .foldl _ (fun _ _ => invalidateCache_calm ..) _ _

theorem cleanToMemory_calm {id : CacheId} {k : Nat} {l : CLine} {s : State} (h : (k, l) ∈ s.caches.lines id) :
    Calm s (cleanToMemory id k l s) := by
  unfold cleanToMemory
  extract_lets clean t u
  have ht : Trim s t := cachePut_trim h rfl
  have hu : Trim s u := by
    unfold u
    split
    · next j x hf => exact ht.trans (cachePut_found (found_of_ite hf) (mem_of_cacheFind (found_of_ite hf)).2)
    · exact ht
  exact .after (countEvent_trim ..).calm (.after (sendWrite_trim ..).calm hu.calm)

theorem cleanToL2_calm {k : Nat} {l : CLine} {s t : State} (hl : (k, l) ∈ s.caches.lines .l1d) (h : cleanToL2 k l s = some t) :
    Calm s t := by
  unfold cleanToL2 at h
  split at h
  · obtain ⟨u, hu, rfl⟩ := Option.map_eq_some_iff.mp h
    have hu : Calm s u := insertL2_calm hu fun hs => hs.notEvicting (by decide) hl
    split
    · next j x hf => exact hu.trans (cachePut_found (l' := { x with st := .exclusive }) hf (mem_of_cacheFind hf).2).calm
    · exact hu
  · cases h
    exact cleanToMemory_calm hl

theorem cleanLine_calm {toL2 : Bool} {id : CacheId} {k : Nat} {s t : State} (h : cleanLine toL2 id k s = some t) : Calm s t := by
  have hr := readOut_trim id k s
  have hv := readOut_find? (t := (readOut id k s).1) (v := (readOut id k s).2) rfl
  unfold cleanLine at h
  generalize readOut id k s = r at hr hv h
  obtain ⟨u, l⟩ := r
  cases l with
  | none =>
    cases h
    exact hr.calm
  | some l =>
    have hm : (k, l) ∈ u.caches.lines id := SMap.mem_of_find? hv
    dsimp only at h
    split at h
    · cases h
      exact hr.calm
    · split at h
      · next hid =>
        simp only [Bool.and_eq_true, beq_iff_eq] at hid
        obtain ⟨rfl, -⟩ := hid
        exact hr.calm.trans (cleanToL2_calm hm h)
      · split at h
        · cases h
          exact hr.calm.trans (cleanToMemory_calm hm)
        · exact absurd h (by simp)

theorem cleanLines_calm (toL2 : Bool) (id : CacheId) (ks : List Nat) (s : State) : Calm s (cleanLines toL2 id ks s).2 := by
  induction ks generalizing s with
  | nil => exact .refl s
  | cons k ks ih =>
    unfold cleanLines
    split
    · next t ht => exact (cleanLine_calm ht).trans (ih t)
    · exact .refl s

/-- CWB.ALL cleans one cache after the other, as far as there is room. -/
theorem cleanCaches_calm (toL2 : Bool) (ids : List CacheId) (p : Bool × State) :
    Calm p.2 (ids.foldl (fun p id => if p.1 then cleanLines toL2 id ((p.2.caches.lines id).map (·.1)) p.2 else p) p).2 := by
  induction ids generalizing p with
  | nil => exact .refl _
  | cons id ids ih =>
    refine .trans ?_ (ih _)
    dsimp only
    split
    · exact cleanLines_calm ..
    · exact .refl _

theorem cwbAllInstr_calm (r : BitVec 22) (c : CtxId) : CalmRun s₀ (cwbAllInstr r c) := by
  unfold cwbAllInstr
  refine .bind (.needDef _) fun _ => .bind (.getC _) fun _ => .bind (.needPriv _) fun _ => .get_bind fun s hs => ?_
  have ht := hs.trans (cleanCaches_calm (fld r 0 2 == 1) (dataCaches (fld r 0 2)) (true, s))
  exact .bind (.set ht) fun _ => .when (advance_calm ..) fun _ => .pure _

theorem lineOperand_calm (r : BitVec 22) (write : Bool) (c : CtxId) : CalmRun s₀ (lineOperand r write c) := by
  unfold lineOperand
  refine .get_bind fun _ _ => ?_
  refine .when (.tagFault _) fun _ => ?_
  refine .bind (needCanonical_calm ..) fun _ => ?_
  extract_lets next
  have hnext (u) : CalmRun s₀ (next u) := .bind (translateCtx_calm ..) fun _ => .pure _
  exact .ite (.ite (.bind (needCap_calm ..) fun _ => hnext ()) (hnext ())) (.bind (needDdc_calm ..) fun _ => hnext ())

theorem dropFrom_calm (ids : List CacheId) (n : Nat) (s : State) : Calm s (dropFrom ids n s) := by
  unfold dropFrom
  refine .foldl _ (fun _ _ => ?_) _ _
  split
  · exact (dropLine_trim ..).calm
  · exact .refl _

theorem cinvLineInstr_calm (r : BitVec 22) (c : CtxId) : CalmRun s₀ (cinvLineInstr r c) := by
  unfold cinvLineInstr
  refine .bind (.needDef _) fun _ => ?_
  refine .bind (.getC _) fun _ => ?_
  exact .bind (.needPriv _) fun _ => .bind (lineOperand_calm ..) fun _ => .modify fun _ => dropFrom_calm ..

theorem cleanLineAt_calm (r : BitVec 22) (n : Nat) : CalmRun s₀ (cleanLineAt r n) := by
  unfold cleanLineAt
  refine .bind (.forIn fun id _ => ?_) fun _ => .pure _
  refine .get_bind fun s hs => ?_
  split
  · exact .pure _
  · split
    · next hl => exact .bind (.set (hs.trans (cleanLine_calm hl))) fun _ => .pure _
    · exact .bind .wait fun _ => .pure _

theorem cwbLineInstr_calm (r : BitVec 22) (inv : Bool) (c : CtxId) : CalmRun s₀ (cwbLineInstr r inv c) := by
  unfold cwbLineInstr
  refine .bind (.needDef _) fun _ => ?_
  refine .bind (lineOperand_calm ..) fun _ => ?_
  exact .bind (cleanLineAt_calm ..) fun _ => .ite (.modify fun _ => dropFrom_calm ..) (.pure _)

theorem ackFence_calm (s : State) : Calm s (ackFence s) := by
  unfold ackFence
  exact .of_rest rfl rfl rfl

theorem postGone_calm (s : State) : Calm s (postGone s) := by
  unfold postGone
  split
  · exact .refl _
  · exact .after (countEvent_trim ..).calm (.after (countEvent_trim ..).calm (.of_rest rfl rfl rfl))

theorem takeFlit_calm (l : BitVec 2) (s : State) : Calm s (takeFlit l s) := by
  unfold takeFlit
  split
  · exact .refl _
  · exact .ite (.after (postGone_calm ..) (.of_rest rfl rfl rfl)) (.of_rest rfl rfl rfl)

theorem driveFlit_calm (ready : BitVec 4) (s : State) : Calm s (driveFlit ready s) := by
  unfold driveFlit
  extract_lets
  split
  · exact offerNext_calm ..
  · refine .ite ?_ (offerNext_calm ..)
    exact .after (noteFences_trim ..).calm (.after (takeFlit_calm ..) (.after (account_eq ..).calm (offerNext_calm ..)))

theorem loadReg_calm (r : Axy) (m : BitVec 3) (d : BitVec 22) (c : CtxId) : CalmRun s₀ (loadReg r m d c) := by
  unfold loadReg
  refine .bind (needMode_calm ..) fun _ => ?_
  refine .bind (needBase_calm ..) fun _ => ?_
  exact .bind (readOperand_calm ..) fun _ => .bind (postIncrement_calm ..) fun _ => .modC fun _ => setAxy_calm ..

theorem loadSub_calm (n : Nat) (signed : Bool) (m : BitVec 3) (d : BitVec 22) (c : CtxId) : CalmRun s₀ (loadSub n signed m d c) := by
  unfold loadSub
  refine .bind (needMode_calm ..) fun _ => ?_
  refine .bind (needBase_calm ..) fun _ => ?_
  refine .bind ?_ fun _ => .bind (postIncrement_calm ..) fun _ => .modC fun _ => setA_calm ..
  refine .ite (.bind (readOperand_calm ..) fun _ => .pure _) ?_
  exact .bind (addrOf_calm ..) fun _ => .bind (needRows_calm ..) fun _ => .bind (loadAt_calm ..) fun _ => .pure _

theorem storeReg_calm (r : Axy) (m : BitVec 3) (d : BitVec 22) (c : CtxId) : CalmRun s₀ (storeReg r m d c) := by
  unfold storeReg
  refine .bind (needMode_calm ..) fun _ => ?_
  refine .bind (needBase_calm ..) fun _ => ?_
  refine .bind (.getC _) fun _ => ?_
  refine .ite (.modC fun _ => setSlot_calm ..) ?_
  exact .bind (addrOf_calm ..) fun _ => .bind (storeWord_calm ..) fun _ => postIncrement_calm ..

theorem storeSubReg_calm (n : Nat) (m : BitVec 3) (d : BitVec 22) (c : CtxId) : CalmRun s₀ (storeSubReg n m d c) := by
  unfold storeSubReg
  refine .bind (needMode_calm ..) fun _ => ?_
  refine .bind (needBase_calm ..) fun _ => ?_
  refine .bind (.getC _) fun _ => ?_
  refine .ite (.bind (readSlot_calm ..) fun _ => .modC fun _ => setSlot_calm ..) ?_
  exact .bind (addrOf_calm ..) fun _ => .bind (storeSub_calm ..) fun _ => postIncrement_calm ..

theorem leaReg_calm (r : Axy) (m : BitVec 3) (d : BitVec 22) (c : CtxId) : CalmRun s₀ (leaReg r m d c) := by
  unfold leaReg
  refine .bind (needMode_calm ..) fun _ => ?_
  refine .bind (needBase_calm ..) fun _ => ?_
  refine .bind (.getC _) fun _ => ?_
  exact .bind (addrOf_calm ..) fun _ => .bind (postIncrement_calm ..) fun _ => .modC fun _ => setAxy_calm ..

theorem readCode_calm (c : CtxId) (a : W64) (p : Phys) : CalmRun s₀ (readCode c a p) := by
  unfold readCode
  refine .bind ?_ fun _ => .pure _
  refine .ite (spadRead_calm ..) ?_
  refine .ite ?_ ?_
  · refine .bind (readDevice_calm ..) fun _ => ?_
    split
    · exact .pure _
    · exact raiseX_calm ..
  · refine .bind (readLine_calm ..) fun _ => ?_
    split
    · exact .pure _
    · exact raiseX_calm ..

theorem loadCode_calm (m : BitVec 3) (d : BitVec 22) (c : CtxId) : CalmRun s₀ (loadCode m d c) := by
  unfold loadCode
  refine .bind (needMode_calm ..) fun _ => ?_
  refine .bind (needBase_calm ..) fun _ => ?_
  refine .bind (addrOf_calm ..) fun _ => ?_
  refine .bind (needCanonical_calm ..) fun _ => ?_
  refine .bind (needAligned_calm ..) fun _ => ?_
  refine .get_bind fun _ _ => ?_
  refine .when (needCap_calm ..) fun _ => ?_
  refine .bind (translateCtx_calm ..) fun _ => ?_
  exact .bind (readCode_calm ..) fun _ => .bind (postIncrement_calm ..) fun _ => .modC fun _ => setA_calm ..

end

end Sys2Proof.Machine

namespace Sys2Proof.Machine
open Sys2Proof

/-! ## Steps of instructions

A step that an instruction makes need not be calm: privileged code writes system registers, and an exception enters the supervisor or stops
the core. What is left of O60 then is stated by the relations below. -/

/-- From k to l, a context has not come to run, and its window is one of the seven still. -/
structure CtxLoose (k l : Ctx) : Prop where
  run : l.run = .running → k.run = .running
  win : k.win.cur.toNat < 7 → l.win.cur.toNat < 7

/-- Calm, but for the registers of context c and for the lame state. -/
structure Mild (c : CtxId) (s t : State) : Prop where
  ctx : ∀ d, CtxLoose (s.getCtx d) (t.getCtx d)
  sys : ∀ d, d ≠ c → ∃ m, (t.getCtx d).sys = { (s.getCtx d).sys with markr := m }
  config : (t.boot.locked, lockedConfig t) = (s.boot.locked, lockedConfig s)
  priv : privState t = privState s
  caches : CachesInv s → CachesInv t

/-- No context has come to run, and windows, caches and locked configuration are in order still. -/
structure Loose (s t : State) : Prop where
  run : ∀ c, (t.getCtx c).run = .running → (s.getCtx c).run = .running
  win : ∀ c, (s.getCtx c).win.cur.toNat < 7 → (t.getCtx c).win.cur.toNat < 7
  caches : CachesInv s → CachesInv t
  config : (t.boot.locked, lockedConfig t) = (s.boot.locked, lockedConfig s)

/-- What a step that comes to t may have changed if it is to be undone. -/
structure Undoable (s t : State) : Prop where
  run : ∀ c, (t.getCtx c).run = .running → (s.getCtx c).run = .running
  caches : CachesInv s → CachesInv t
  wlock : t.rel.wlock = s.rel.wlock

/-- The step ends in the supervisor of context c, or in the lame state. -/
structure Entered (c : CtxId) (s t : State) : Prop extends Mild c s t where
  sup : bit (t.getCtx c).st 11 = true ∨ t.boot.lame = true

/-- The step is calm, or context c has taken an exception. -/
def Fair (c : CtxId) (s t : State) : Prop := Calm s t ∨ Entered c s t

/-- What O60 says of a step of context c. -/
structure Tame (c : CtxId) (s t : State) : Prop where
  run : OneRunning s → OneRunning t
  win : (∀ d, (s.getCtx d).win.cur.toNat < 7) → ∀ d, (t.getCtx d).win.cur.toNat < 7
  caches : CachesInv s → CachesInv t
  config : s.boot.locked = true → ConfigKept s t
  user : bit (s.getCtx c).st 11 = false → bit (t.getCtx c).st 11 = false → t.boot.lame = false → UserKept c s t

section
variable {c : CtxId} {k l m : Ctx} {s t u : State}

theorem CtxLoose.refl (k : Ctx) : CtxLoose k k := ⟨id, id⟩

theorem CtxLoose.trans (h : CtxLoose k l) (g : CtxLoose l m) : CtxLoose k m := ⟨h.run ∘ g.run, g.win ∘ h.win⟩

theorem CtxCalm.loose (h : CtxCalm k l) : CtxLoose k l := ⟨h.run, h.win⟩

theorem Calm.priv (h : Calm s t) : privState t = privState s := congrArg (fun x => x.2.2) h.steady

theorem Calm.config (h : Calm s t) : (t.boot.locked, lockedConfig t) = (s.boot.locked, lockedConfig s) :=
  congrArg (fun x => (x.1.1, x.2.1)) h.steady

theorem Calm.mild (h : Calm s t) (c : CtxId) : Mild c s t :=
  ⟨fun d => (h.ctx d).loose, fun d _ => (h.ctx d).sys, h.config, h.priv, h.caches⟩

theorem Mild.refl (c : CtxId) (s : State) : Mild c s s := (Calm.refl s).mild c

theorem sys_trans {p q r : SysRegs} (h : ∃ m, q = { p with markr := m }) (g : ∃ m, r = { q with markr := m }) :
    ∃ m, r = { p with markr := m } := by
  obtain ⟨a, ha⟩ := h
  obtain ⟨b, hb⟩ := g
  exact ⟨b, by rw [hb, ha]⟩

theorem Mild.trans (h : Mild c s t) (g : Mild c t u) : Mild c s u :=
  ⟨fun d => (h.ctx d).trans (g.ctx d), fun d hd => sys_trans (h.sys d hd) (g.sys d hd), g.config.trans h.config, g.priv.trans h.priv,
    g.caches ∘ h.caches⟩

/-- Context c changed, and its system registers and privilege with it. -/
theorem modCtx_mild {f : Ctx → Ctx} (h : CtxLoose (s.getCtx c) (f (s.getCtx c))) : Mild c s (s.modCtx c f) := by
  refine ⟨fun d => ?_, fun d hd => ?_, rfl, rfl, (modCtx_calm (s := s) (c := c) (f := id) (.refl _)).caches⟩
  · by_cases hd : d = c
    · subst hd
      rwa [getCtx_modCtx]
    · rw [getCtx_modCtx_ne s f hd]
      exact .refl _
  · rw [getCtx_modCtx_ne s f hd]
    exact ⟨_, rfl⟩

theorem Mild.loose (h : Mild c s t) : Loose s t := ⟨fun d => (h.ctx d).run, fun d => (h.ctx d).win, h.caches, h.config⟩

theorem Mild.undoable (h : Mild c s t) : Undoable s t := ⟨fun d => (h.ctx d).run, h.caches, congrArg (fun x => x.2.2.1) h.priv⟩

/-- Another context than c keeps what user code may not write. -/
theorem Mild.userKept (h : Mild c s t) {d : CtxId} (hd : d ≠ c) : UserKept d s t := by
  have hp := h.priv
  simp only [privState, Prod.mk.injEq] at hp
  obtain ⟨hb, hl, hw, hp⟩ := hp
  exact ⟨h.sys d hd, hb, hl, hw, hp⟩

theorem Calm.loose (h : Calm s t) : Loose s t := (h.mild 0).loose

theorem Calm.undoable (h : Calm s t) : Undoable s t := (h.mild 0).undoable

theorem Calm.lame (h : Calm s t) : t.boot.lame = s.boot.lame := congrArg (fun x => x.1.2) h.steady

theorem Calm.locked (h : Calm s t) : t.boot.locked = s.boot.locked := congrArg (fun x => x.1.1) h.steady

theorem Loose.refl (s : State) : Loose s s := (Calm.refl s).loose

theorem Loose.trans (h : Loose s t) (g : Loose t u) : Loose s u :=
  ⟨fun c => h.run c ∘ g.run c, fun c => g.win c ∘ h.win c, g.caches ∘ h.caches, g.config.trans h.config⟩

theorem Undoable.trans (h : Undoable s t) (g : Undoable t u) : Undoable s u :=
  ⟨fun c => h.run c ∘ g.run c, g.caches ∘ h.caches, g.wlock.trans h.wlock⟩

theorem Loose.oneRunning (h : Loose s t) (hs : OneRunning s) : OneRunning t := fun c d hc hd => hs c d (h.run c hc) (h.run d hd)

/-- The locked configuration is unchanged. -/
theorem configKept_of_eq (h : (t.boot.locked, lockedConfig t) = (s.boot.locked, lockedConfig s)) (hl : s.boot.locked = true) :
    ConfigKept s t := by
  simp only [lockedConfig, Prod.mk.injEq] at h
  obtain ⟨hlock, hpriv, hen, hlo, hhi, hent, hseal⟩ := h
  exact ⟨hlock.trans hl, hpriv, hen, by rw [hlo, hhi], hent, hseal⟩

theorem Loose.configKept (h : Loose s t) (hl : s.boot.locked = true) : ConfigKept s t := configKept_of_eq h.config hl

theorem Entered.calm (h : Entered c s t) (g : Calm t u) : Entered c s u :=
  ⟨h.toMild.trans (g.mild c), by rw [(g.ctx c).sup, g.lame]; exact h.sup⟩

theorem Mild.entered (h : Mild c s t) (g : Entered c t u) : Entered c s u := ⟨h.trans g.toMild, g.sup⟩

theorem Calm.userKept (h : Calm s t) (c : CtxId) : UserKept c s t := by
  have hp := h.priv
  simp only [privState, Prod.mk.injEq] at hp
  obtain ⟨hb, hl, hw, hd⟩ := hp
  exact ⟨(h.ctx c).sys, hb, hl, hw, hd⟩

theorem UserKept.trans (h : UserKept c s t) (g : UserKept c t u) : UserKept c s u := by
  obtain ⟨hs, hb, hl, hw, hd⟩ := h
  obtain ⟨gs, gb, gl, gw, gd⟩ := g
  exact ⟨sys_trans hs gs, gb.trans hb, gl.trans hl, gw.trans hw, gd.trans hd⟩

theorem ConfigKept.trans (h : ConfigKept s t) (g : ConfigKept t u) : ConfigKept s u := by
  obtain ⟨-, h1, h2, h3, h4, h5⟩ := h
  obtain ⟨g0, g1, g2, g3, g4, g5⟩ := g
  exact ⟨g0, g1.trans h1, g2.trans h2, g3.trans h3, g4.trans h4, g5.trans h5⟩

/-- A step that keeps no context from user code must keep what user code may not write. -/
theorem Loose.tame (h : Loose s t)
    (hu : bit (s.getCtx c).st 11 = false → bit (t.getCtx c).st 11 = false → t.boot.lame = false → UserKept c s t) : Tame c s t :=
  ⟨h.oneRunning, fun hs d => h.win d (hs d), h.caches, h.configKept, hu⟩

theorem Calm.tame (h : Calm s t) (c : CtxId) : Tame c s t := h.loose.tame fun _ _ _ => h.userKept c

theorem Entered.tame (h : Entered c s t) : Tame c s t := by
  refine h.toMild.loose.tame fun _ ht hl => ?_
  have hsup := h.sup
  rw [ht, hl] at hsup
  exact absurd hsup (by decide)

theorem Fair.mild (h : Fair c s t) : Mild c s t := h.elim (fun h => h.mild c) (·.toMild)

theorem Fair.tame (h : Fair c s t) : Tame c s t := h.elim (fun h => h.tame c) (·.tame)

theorem Fair.trans_calm (h : Fair c s t) (g : Calm t u) : Fair c s u := h.imp (fun h => h.trans g) (fun h => h.calm g)

theorem Calm.trans_fair (h : Calm s t) (g : Fair c t u) : Fair c s u := g.imp h.trans (h.mild c).entered

/-- The step of a supervisor. -/
theorem Loose.tame_of_sup (h : Loose s t) (hs : bit (s.getCtx c).st 11 = true) : Tame c s t :=
  h.tame fun hu => absurd (hs.symm.trans hu) (by decide)

theorem Tame.trans_calm (h : Tame c s t) (g : Calm t u) : Tame c s u := by
  refine ⟨fun hs => g.loose.oneRunning (h.run hs), fun hs d => g.loose.win d (h.win hs d), fun hs => g.caches (h.caches hs), fun hl => ?_,
    fun hs hu hlame => ?_⟩
  · have ht := h.config hl
    exact ht.trans (g.loose.configKept ht.1)
  · rw [(g.ctx c).sup] at hu
    rw [g.lame] at hlame
    exact (h.user hs hu hlame).trans (g.userKept c)

theorem Calm.trans_tame (h : Calm s t) (g : Tame c t u) : Tame c s u := by
  refine ⟨fun hs => g.run (h.loose.oneRunning hs), fun hs => g.win fun d => h.loose.win d (hs d), fun hs => g.caches (h.caches hs),
    fun hl => ?_, fun hs hu hlame => ?_⟩
  · exact (h.loose.configKept hl).trans (g.config (h.locked.trans hl))
  · exact (h.userKept c).trans (g.user ((h.ctx c).sup.trans hs) hu hlame)

theorem keepEvents_calm (h : l.run = .running → k.run = .running) : CtxCalm k (k.keepEvents l) := by
  unfold Ctx.keepEvents
  split
  · next hw =>
    refine .of_idle (fun hl => ?_) rfl rfl rfl
    rw [h hl] at hw
    exact absurd hw (by decide)
  · exact .of_eq rfl rfl rfl rfl

/-- What is left of a step that was undone is calm. -/
theorem rollback_calm (h : Undoable s t) : Calm s (rollback s t) := by
  refine ⟨⟨fun c => ?_, ?_⟩, h.caches⟩
  · have hc : (rollback s t).getCtx c = ((s.getCtx c).keepEvents (t.getCtx c)).keepFound (t.getCtx c) := by
      rcases ctxId_cases c with rfl | rfl | rfl | rfl <;> rfl
    rw [hc]
    exact (keepEvents_calm (h.run c)).trans (keepFound_calm ..)
  · simp only [steady, lockedConfig, privState, rollback, h.wlock]

end

/-! ## Programs of steps that are not calm -/

/-- Whether it ends or stops, m leads mildly on from what lay mildly after s₀. -/
structure MildRun {α : Type} (c : CtxId) (s₀ : State) (m : M α) : Prop where
  carries : Carries (Mild c s₀) m

/-- What m, begun mildly after s₀, ends in is an entry of context c, and what it stops in may be undone. -/
structure EntryRun {α : Type} (c : CtxId) (s₀ : State) (m : M α) : Prop where
  out : ∀ s, Mild c s₀ s → match m s with | .ok _ t => Entered c s₀ t | .error _ t => Undoable s₀ t

/-- What m, begun calmly after s₀, ends in is related to s₀ by R, and what it stops in may be undone. -/
structure EndsIn {α : Type} (R : State → State → Prop) (s₀ : State) (m : M α) : Prop where
  out : ∀ s, Calm s₀ s → match m s with | .ok _ t => R s₀ t | .error _ t => Undoable s₀ t

/-- m is as O60 says of an instruction of context c. -/
abbrev TameRun {α : Type} (c : CtxId) (s₀ : State) (m : M α) : Prop := EndsIn (Tame c) s₀ m

/-- m is calm, or context c takes an exception in it. -/
abbrev FairRun {α : Type} (c : CtxId) (s₀ : State) (m : M α) : Prop := EndsIn (Fair c) s₀ m

/-- Begun anywhere, m leads calmly on, and does not stop. -/
structure CalmEnd {α : Type} (m : M α) : Prop where
  out : ∀ s, ∃ a t, m s = .ok a t ∧ Calm s t

section
variable {α β : Type} {c : CtxId} {s₀ : State} {R : State → State → Prop}

theorem CalmEnd.pure (a : α) : CalmEnd (pure a : M α) := ⟨fun s => ⟨a, s, rfl, .refl s⟩⟩

theorem CalmEnd.modify {f : State → State} (h : ∀ s, Calm s (f s)) : CalmEnd (modify f : M PUnit) := ⟨fun s => ⟨_, _, rfl, h s⟩⟩

theorem CalmEnd.modC {f : Ctx → Ctx} (h : ∀ k, CtxCalm k (f k)) : CalmEnd (modC c f) := .modify fun _ => modCtx_calm (h _)

theorem CalmEnd.bind {m : M α} {f : α → M β} (hm : CalmEnd m) (hf : ∀ a, CalmEnd (f a)) : CalmEnd (m >>= f) := by
  refine ⟨fun s => ?_⟩
  obtain ⟨a, t, ha, ht⟩ := hm.out s
  obtain ⟨b, u, hb, hu⟩ := (hf a).out t
  exact ⟨b, u, (run_bind_ok ha).trans hb, ht.trans hu⟩

theorem CalmEnd.get_bind {f : State → M β} (h : ∀ s, CalmEnd (f s)) : CalmEnd (get >>= f) := ⟨fun s => (h s).out s⟩

theorem CalmEnd.ite {b : Prop} [Decidable b] {m n : M α} (hm : CalmEnd m) (hn : CalmEnd n) : CalmEnd (if b then m else n) := by
  split
  · exact hm
  · exact hn

theorem MildRun.of_calm {m : M α} (h : ∀ s, CalmRun s m) : MildRun c s₀ m := by
  refine ⟨fun s hs => ?_⟩
  cases e : m s with
  | ok a t => exact hs.trans (((h s).of_ok e).mild c)
  | error x t => exact hs.trans (((h s).of_error e).mild c)

theorem MildRun.bind {m : M α} {f : α → M β} (hm : MildRun c s₀ m) (hf : ∀ a, MildRun c s₀ (f a)) : MildRun c s₀ (m >>= f) :=
  ⟨hm.carries.bind fun a => (hf a).carries⟩

theorem MildRun.modify {f : State → State} (h : ∀ s, Mild c s (f s)) : MildRun c s₀ (modify f : M PUnit) :=
  ⟨Carries.modify fun s hs => hs.trans (h s)⟩

theorem EntryRun.bind {m : M α} {f : α → M β} (hm : MildRun c s₀ m) (hf : ∀ a, EntryRun c s₀ (f a)) : EntryRun c s₀ (m >>= f) := by
  refine ⟨fun s hs => ?_⟩
  have h := hm.carries s hs
  simp only [Bind.bind, EStateM.bind]
  cases e : m s with
  | ok a t => rw [e] at h; exact (hf a).out t h
  | error x t => rw [e] at h; exact h.undoable

/-- A calm part before an entry. -/
theorem EntryRun.after {m : M α} {f : α → M β} (hm : ∀ s, CalmRun s m) (hf : ∀ a, EntryRun c s₀ (f a)) : EntryRun c s₀ (m >>= f) :=
  .bind (.of_calm hm) hf

theorem EntryRun.get_bind {f : State → M β} (h : ∀ s, Mild c s₀ s → EntryRun c s₀ (f s)) : EntryRun c s₀ (get >>= f) :=
  ⟨fun s hs => (h s hs).out s hs⟩

theorem EntryRun.ite {b : Prop} [Decidable b] {m n : M α} (hm : EntryRun c s₀ m) (hn : EntryRun c s₀ n) :
    EntryRun c s₀ (if b then m else n) := by
  split
  · exact hm
  · exact hn

theorem EntryRun.when {b : Prop} [Decidable b] {x : M PUnit} {f : PUnit → M β} (hx : ∀ s, CalmRun s x)
    (hf : ∀ u, EntryRun c s₀ (f u)) : EntryRun c s₀ (if b then x >>= f else f ()) := .ite (.after hx hf) (hf ())

theorem EntryRun.throw (e : Stop) : EntryRun c s₀ (throw e : M α) := ⟨fun _ hs => hs.undoable⟩

theorem EntryRun.set {t : State} (h : Entered c s₀ t) : EntryRun c s₀ (set t : M PUnit) := ⟨fun _ _ => h⟩

theorem EntryRun.modify {f : State → State} (h : ∀ s, Mild c s₀ s → Entered c s₀ (f s)) : EntryRun c s₀ (modify f : M PUnit) := ⟨h⟩

/-- Calm parts that cannot stop, after an entry. -/
theorem EntryRun.then {m : M α} {f : α → M β} (hm : EntryRun c s₀ m) (hf : ∀ a, CalmEnd (f a)) :
    EntryRun c s₀ (m >>= f) := by
  refine ⟨fun s hs => ?_⟩
  have h := hm.out s hs
  simp only [Bind.bind, EStateM.bind]
  cases e : m s with
  | ok a t =>
    rw [e] at h
    obtain ⟨b, u, hu, hc⟩ := (hf a).out t
    dsimp only
    rw [hu]
    exact h.calm hc
  | error x t => rw [e] at h; exact h

theorem EndsIn.of_calm {m : M α} (hR : ∀ t, Calm s₀ t → R s₀ t) (h : CalmRun s₀ m) : EndsIn R s₀ m := by
  refine ⟨fun s hs => ?_⟩
  have h := h.carries s hs
  cases e : m s with
  | ok a t => rw [e] at h; exact hR t h
  | error x t => rw [e] at h; exact h.undoable

theorem TameRun.of_calm {m : M α} (h : CalmRun s₀ m) : TameRun c s₀ m := EndsIn.of_calm (fun _ ht => ht.tame c) h

theorem FairRun.of_calm {m : M α} (h : CalmRun s₀ m) : FairRun c s₀ m := EndsIn.of_calm (fun _ => .inl) h

theorem FairRun.of_entry {m : M α} (h : EntryRun c s₀ m) : FairRun c s₀ m := by
  refine ⟨fun s hs => ?_⟩
  have h := h.out s (hs.mild c)
  cases e : m s with
  | ok a t => rw [e] at h; exact .inr h
  | error x t => rw [e] at h; exact h

theorem FairRun.tame {m : M α} (h : FairRun c s₀ m) : TameRun c s₀ m := by
  refine ⟨fun s hs => ?_⟩
  have h := h.out s hs
  cases e : m s with
  | ok a t => rw [e] at h; exact h.tame
  | error x t => rw [e] at h; exact h

/-- An entry after what may be an entry. -/
theorem FairRun.bind_entry {m : M α} {f : α → M β} (hm : FairRun c s₀ m) (hf : ∀ a, EntryRun c s₀ (f a)) : FairRun c s₀ (m >>= f) := by
  refine ⟨fun s hs => ?_⟩
  have h := hm.out s hs
  simp only [Bind.bind, EStateM.bind]
  cases e : m s with
  | error x t => rw [e] at h; exact h
  | ok a t =>
    rw [e] at h
    have g := (hf a).out t h.mild
    dsimp only
    cases e' : f a t with
    | ok b u => rw [e'] at g; exact .inr g
    | error x u => rw [e'] at g; exact g

theorem EndsIn.bind {m : M α} {f : α → M β} (hm : CalmRun s₀ m) (hf : ∀ a, EndsIn R s₀ (f a)) : EndsIn R s₀ (m >>= f) := by
  refine ⟨fun s hs => ?_⟩
  have h := hm.carries s hs
  simp only [Bind.bind, EStateM.bind]
  cases e : m s with
  | ok a t => rw [e] at h; exact (hf a).out t h
  | error x t => rw [e] at h; exact h.undoable

theorem EndsIn.get_bind {f : State → M β} (h : ∀ s, Calm s₀ s → EndsIn R s₀ (f s)) : EndsIn R s₀ (get >>= f) :=
  ⟨fun s hs => (h s hs).out s hs⟩

theorem EndsIn.ite {b : Prop} [Decidable b] {m n : M α} (hm : EndsIn R s₀ m) (hn : EndsIn R s₀ n) :
    EndsIn R s₀ (if b then m else n) := by
  split
  · exact hm
  · exact hn

theorem EndsIn.dite {b : Prop} [Decidable b] {m n : M α} (hm : b → EndsIn R s₀ m) (hn : ¬ b → EndsIn R s₀ n) :
    EndsIn R s₀ (if b then m else n) := by
  split
  · next h => exact hm h
  · next h => exact hn h

theorem EndsIn.when {b : Prop} [Decidable b] {x : M PUnit} {f : PUnit → M β} (hx : CalmRun s₀ x) (hf : ∀ u, EndsIn R s₀ (f u)) :
    EndsIn R s₀ (if b then x >>= f else f ()) := .ite (.bind hx hf) (hf ())

/-- A state that was worked out is set, and something is returned. -/
theorem EndsIn.set_pure {t : State} {a : α} (h : R s₀ t) : EndsIn R s₀ (do set t; pure a : M α) := ⟨fun _ _ => h⟩

/-- A state that may be undone is set, and the step stops. -/
theorem EndsIn.set_throw {t : State} {e : Stop} (h : Undoable s₀ t) : EndsIn R s₀ (do set t; throw e : M α) := ⟨fun _ _ => h⟩

theorem EndsIn.throw (e : Stop) : EndsIn R s₀ (throw e : M α) := ⟨fun _ hs => hs.undoable⟩

/-- What comes after the check of a privilege is done with it. -/
theorem EndsIn.needPriv_bind {b : Bool} {f : Unit → M β} (hf : b = true → ∀ u, EndsIn R s₀ (f u)) : EndsIn R s₀ (needPriv b >>= f) := by
  cases b with
  | false => exact .throw _
  | true => exact .bind (.needPriv _) (hf rfl)

theorem EndsIn.set {t : State} (h : R s₀ t) : EndsIn R s₀ (set t : M PUnit) := ⟨fun _ _ => h⟩

theorem EndsIn.modify {f : State → State} (h : ∀ s, Calm s₀ s → R s₀ (f s)) : EndsIn R s₀ (modify f : M PUnit) := ⟨h⟩

/-- Calm parts that cannot stop, at the end of a step. -/
theorem EndsIn.then {m : M α} {f : α → M β} (hR : ∀ t u, R s₀ t → Calm t u → R s₀ u) (hm : EndsIn R s₀ m) (hf : ∀ a, CalmEnd (f a)) :
    EndsIn R s₀ (m >>= f) := by
  refine ⟨fun s hs => ?_⟩
  have h := hm.out s hs
  simp only [Bind.bind, EStateM.bind]
  cases e : m s with
  | ok a t =>
    rw [e] at h
    obtain ⟨b, u, hu, hc⟩ := (hf a).out t
    dsimp only
    rw [hu]
    exact hR t u h hc
  | error x t => rw [e] at h; exact h

theorem TameRun.then {m : M α} {f : α → M β} (hm : TameRun c s₀ m) (hf : ∀ a, CalmEnd (f a)) : TameRun c s₀ (m >>= f) :=
  EndsIn.then (fun _ _ h => h.trans_calm) hm hf

theorem EndsIn.of_ok {m : M α} {t : State} {a : α} (h : EndsIn R s₀ m) (hm : m s₀ = .ok a t) : R s₀ t := by
  have := h.out s₀ (.refl s₀)
  rwa [hm] at this

theorem EndsIn.of_error {m : M α} {t : State} {e : Stop} (h : EndsIn R s₀ m) (hm : m s₀ = .error e t) : Undoable s₀ t := by
  have := h.out s₀ (.refl s₀)
  rwa [hm] at this

end

end Sys2Proof.Machine

namespace Sys2Proof.Machine
open Sys2Proof

/-! ## Exceptions and the form of an instruction -/

section
variable {c : CtxId} {s s₀ : State}

/-- One context changed, and has not come to run. -/
theorem modCtx_loose {f : Ctx → Ctx} (h : CtxLoose (s.getCtx c) (f (s.getCtx c))) : Loose s (s.modCtx c f) := by
  obtain ⟨hrun, hwin⟩ := h
  refine ⟨fun d => ?_, fun d => ?_, (modCtx_calm (s := s) (c := c) (f := id) (.refl _)).caches, rfl⟩ <;>
  · by_cases hd : d = c
    · subst hd
      rwa [getCtx_modCtx]
    · rw [getCtx_modCtx_ne s f hd]
      exact id

theorem modCtx_entered {f : Ctx → Ctx} (h : CtxLoose (s.getCtx c) (f (s.getCtx c))) (sup : bit (f (s.getCtx c)).st 11 = true) :
    Entered c s (s.modCtx c f) := ⟨modCtx_mild h, .inl (by rw [getCtx_modCtx]; exact sup)⟩

theorem goLame_entered (cause : BitVec 3) (c : CtxId) (s : State) : Entered c s (goLame cause c s) := by
  unfold goLame
  extract_lets _ r u
  have hr : Entered c s r := by
    have hget (d) : r.getCtx d = { s.getCtx d with run := .stopped } := by rcases ctxId_cases d with rfl | rfl | rfl | rfl <;> rfl
    refine ⟨⟨fun d => ?_, fun d _ => ?_, rfl, rfl, id⟩, .inr rfl⟩ <;> rw [hget d]
    · exact ⟨fun h => absurd (show RunState.stopped = .running from h) (by decide), id⟩
    · exact ⟨_, rfl⟩
  have hu : Entered c s u := (hr.calm (accountChange_eq ..).calm).calm (.after (freezeTrigger_calm ..) (wayside_trim ..).calm)
  split
  · exact hu.calm (snapTrigger_calm ..)
  · exact hu

theorem bit11_escSt (s : State) (st : W32) : bit (escSt s st) 11 = true := by
  unfold escSt
  simp only [bit, BitVec.getLsbD_or]
  rw [show (0x04000F00#32).getLsbD 11 = true by decide, Bool.or_true, Bool.true_or]

theorem bit11_handlerSt (st : W32) (world : Bool) (level : Option (BitVec 3)) : bit (handlerSt st world level) 11 = true := by
  unfold handlerSt
  rw [bit11_setBit _ (by decide), bit11_setBit _ (by decide), bit11_setBit _ (by decide), bit11_setBit _ (by decide)]
  exact bit_setBit_same _ (by decide)

theorem enterEsc_entered (t : State) (f ecause : W64) : Entered c s (s.modCtx c (enterEsc t f ecause)) :=
  modCtx_entered ⟨id, id⟩ (bit11_escSt ..)

/-- From k, step 5 of R376 on. -/
theorem enterHandler_calm (s : State) (r : EntryReq) (f ecause : W64) (k : Ctx) :
    ∃ l, CtxCalm l (enterHandler s r f ecause k) ∧ l.run = k.run ∧ l.win.cur = k.win.cur ∧ l.st = handlerSt k.st r.world r.level := by
  unfold enterHandler
  extract_lets b _ _ _ k1
  exact ⟨k1, .after (allocWindow_calm ..) (.after (setY_calm ..) (.after (setX_calm ..) (setA_calm ..))), rfl, rfl, rfl⟩

theorem enterHandler_entered (t : State) (r : EntryReq) (f ecause : W64) : Entered c s (s.modCtx c (enterHandler t r f ecause)) := by
  obtain ⟨l, hl, hrun, hwin, hst⟩ := enterHandler_calm t r f ecause (s.getCtx c)
  refine modCtx_entered ⟨fun h => hrun ▸ hl.run h, fun h => hl.win (hwin ▸ h)⟩ ?_
  rw [hl.sup, hst]
  exact bit11_handlerSt ..

theorem escalate_entry (c : CtxId) (r : EntryReq) (esr : BitVec 4) (svec : BitVec 6) : EntryRun c s₀ (escalate c r esr svec) := by
  unfold escalate
  refine .get_bind fun s hs => ?_
  have hlame (n) : EntryRun c s₀ (set (goLame n c s)) := .set (hs.entered (goLame_entered ..))
  refine .ite (hlame 3) (.ite (hlame 1) (.ite (hlame 2) ?_))
  refine .after (fun _ => prepWords_calm ..) fun _ => .after (fun _ => needPaths_calm ..) fun _ => ?_
  refine .after (fun _ => commitWords_calm ..) fun _ => .modify fun t ht => ?_
  exact (ht.entered (enterEsc_entered ..)).calm (entryRecords_calm ..)

/-- The registers that report a failed translation. -/
theorem modC_fsr_mild (c : CtxId) (a b d : W64) :
    MildRun c s₀ (modC c fun k => { k with sys := { k.sys with fsr := a, far := b, fipa := d } }) :=
  .modify fun _ => modCtx_mild ⟨id, id⟩

theorem enter_entry (c : CtxId) (r : EntryReq) : EntryRun c s₀ (enter c r) := by
  unfold enter
  refine .get_bind fun s hs => .ite (escalate_entry ..) (.after (fun _ => pushCheck_calm ..) fun p => ?_)
  cases p with
  | error e =>
    dsimp only
    have hesc (v) : EntryRun c s₀ (if e.forged then modify (countViolation 0) >>= fun _ => escalate c r 2 v else escalate c r 2 v) :=
      .when (fun _ => .modify fun _ => (countViolation_alarmed ..).calm) fun _ => escalate_entry ..
    split
    · exact .bind (modC_fsr_mild ..) fun _ => hesc _
    · exact hesc _
  | ok ps =>
    dsimp only
    refine .after (fun _ => prepWords_calm ..) fun _ => .after (fun _ => needPaths_calm ..) fun _ => ?_
    refine .after (fun _ => commitWords_calm ..) fun _ => .then (.modify fun t ht => ?_) fun _ => ?_
    · exact (ht.entered (enterHandler_entered ..)).calm (entryRecords_calm ..)
    · exact .ite (.modify fun _ => .of_rest rfl rfl rfl) (.pure _)

theorem takeSync_entry (c : CtxId) (e : ExcInfo) : EntryRun c s₀ (takeSync c e) := by
  unfold takeSync
  refine .get_bind fun before _ => .when (fun _ => .modify fun _ => (countViolation_alarmed ..).calm) fun _ => ?_
  extract_lets far fire entry
  have hentry (u) : EntryRun c s₀ (entry u) := by
    refine .get_bind fun s hs => ?_
    extract_lets k world r record
    have hrecord (a) : CalmEnd (record a) :=
      .ite (.bind (.modify fun _ => (countEvent_trim ..).calm) fun _ => .modify fun _ => (fireAlarm_alarmed ..).calm)
        (.modify fun _ => (fireAlarm_alarmed ..).calm)
    refine .ite (.then (.set (hs.entered (goLame_entered ..))) hrecord) (.ite (.then (escalate_entry ..) hrecord) ?_)
    refine .then (enter_entry ..) fun _ => .get_bind fun _ => ?_
    exact .ite (.bind (.modify fun _ => transferTile_calm ..) hrecord) (hrecord ())
  split
  · exact .bind (modC_fsr_mild ..) fun _ => hentry ()
  · exact hentry ()

theorem takeIllegal_entry (c : CtxId) (check : BitVec 8) (forged : Bool) : EntryRun c s₀ (takeIllegal c check forged) := by
  unfold takeIllegal
  refine .get_bind fun before _ => .after (fun _ => .modify fun _ => (countViolation_alarmed ..).calm) fun _ => ?_
  refine .when (fun _ => .modify fun _ => (countViolation_alarmed ..).calm) fun _ => .get_bind fun s hs => ?_
  have hfire : CalmEnd (modify (fireAlarm before)) := .modify fun _ => (fireAlarm_alarmed ..).calm
  exact .ite (.then (.set (hs.entered (goLame_entered ..))) fun _ => hfire) (.then (escalate_entry ..) fun _ => hfire)

theorem EntryRun.of_ok {α : Type} {m : M α} {t : State} {a : α} (h : EntryRun c s m) (hm : m s = .ok a t) : Entered c s t := by
  have := h.out s (.refl c s)
  rwa [hm] at this

theorem EntryRun.of_error {α : Type} {m : M α} {t : State} {e : Stop} (h : EntryRun c s m) (hm : m s = .error e t) : Undoable s t := by
  have := h.out s (.refl c s)
  rwa [hm] at this

/-- What comes of a part that stopped: what it did is undone, and its exception is entered or waits. -/
theorem afterStop_fair {t : State} (h : Undoable s t) (c : CtxId) (stop : Stop) : Fair c s (afterStop c s t stop) := by
  have hbase : Calm s (rollback s t) := rollback_calm h
  have htake (m : M Unit) (hm : ∀ s₀, EntryRun c s₀ m) : Fair c s (match m (rollback s t) with
      | .ok _ u => dropFills c (accountChange s u)
      | .error _ u => rollback (rollback s t) u) := by
    split
    · next u hu =>
      have hu := (hm _).of_ok hu
      exact .inr ((hbase.mild c).entered (hu.calm (.after (dropFills_calm ..) (accountChange_eq ..).calm)))
    · next u hu => exact .inl (hbase.trans (rollback_calm ((hm _).of_error hu)))
  unfold afterStop
  cases stop with
  | wait => exact .inl hbase
  | exc e =>
    dsimp only
    split
    · exact .inl hbase
    · exact htake _ fun _ => takeSync_entry ..
  | illegal n f =>
    dsimp only
    split
    · exact .inl hbase
    · exact htake _ fun _ => takeIllegal_entry ..

theorem retire_calm (c : CtxId) (s t : State) : Calm t (retire c s t) := by
  unfold retire
  exact .after (dropFills_calm ..) (countRetired_eq ..).calm

/-- An instruction whose body is tame is tame. -/
theorem runBody_tame (native : Bool) {body : CtxId → M Bool} (h : ∀ s₀, TameRun c s₀ (body c)) (s : State) :
    Tame c s (runBody native body c s) := by
  unfold runBody
  extract_lets rest go
  have hrest (u) : TameRun c s (rest u) := by
    refine .bind (.getC c) fun k => .bind (.modC fun _ => .of_eq rfl rfl rfl rfl) fun _ => TameRun.then (h s) fun r => ?_
    exact .ite (.bind (.modC fun _ => .of_eq rfl rfl rfl rfl) fun _ => .pure r) (.pure r)
  have hgo : TameRun c s go := .when (fetchCheck_calm c) hrest
  split
  · exact (Calm.refl s).tame c
  · split
    · next t ht => exact (hgo.of_ok ht).trans_calm (retire_calm ..)
    · next t ht => exact (hgo.of_ok ht).trans_calm (accountChange_eq ..).calm
    · next e t ht => exact (afterStop_fair (hgo.of_error ht) c e).tame

end

end Sys2Proof.Machine

namespace Sys2Proof.Machine
open Sys2Proof

/-! ## Which context issues

A storage error that strikes first does not change which context the instruction is of. -/

/-- The same context issues in t as in s. -/
structure SameIssue (s t : State) : Prop where
  boot : t.boot = s.boot
  run : ∀ c, ((t.getCtx c).run == .running) = ((s.getCtx c).run == .running)
  free : ∀ c, ((t.getCtx c).io, (t.getCtx c).cp) = ((s.getCtx c).io, (s.getCtx c).cp)

section
variable {c : CtxId} {s t u : State}

theorem SameIssue.refl (s : State) : SameIssue s s := ⟨rfl, fun _ => rfl, fun _ => rfl⟩

theorem SameIssue.trans (h : SameIssue s t) (g : SameIssue t u) : SameIssue s u :=
  ⟨g.boot.trans h.boot, fun c => (g.run c).trans (h.run c), fun c => (g.free c).trans (h.free c)⟩

theorem SameIssue.after (g : SameIssue t u) (h : SameIssue s t) : SameIssue s u := h.trans g

theorem SameIssue.of_rest (hx : t.ctx = s.ctx) (hb : t.boot = s.boot) : SameIssue s t :=
  ⟨hb, fun c => by rw [State.getCtx, State.getCtx, hx], fun c => by rw [State.getCtx, State.getCtx, hx]⟩

theorem SameIssue.issuing (h : SameIssue s t) : issuing t = issuing s := by
  have hrun : runningCtx t = runningCtx s := by
    have h0 : (t.ctx.q0.run == .running) = (s.ctx.q0.run == .running) := h.run 0
    have h1 : (t.ctx.q1.run == .running) = (s.ctx.q1.run == .running) := h.run 1
    have h2 : (t.ctx.q2.run == .running) = (s.ctx.q2.run == .running) := h.run 2
    have h3 : (t.ctx.q3.run == .running) = (s.ctx.q3.run == .running) := h.run 3
    unfold runningCtx
    rw [h0, h1, h2, h3]
  have hfree (c) := h.free c
  simp only [Prod.mk.injEq] at hfree
  unfold Machine.issuing
  rw [hrun, h.boot]
  simp only [hfree]

theorem OnlyPerf.sameIssue (h : OnlyPerf s t) : SameIssue s t := by
  obtain ⟨ht, hc⟩ := h
  refine ⟨by rw [ht], fun c => ?_, fun c => ?_⟩ <;> rcases hc c with he | ⟨hw, n, he⟩ <;> rw [he]
  · rw [wokenByIrq_run hw, hw]
    rfl
  · unfold Ctx.wokenByIrq
    split <;> rfl

theorem Alarmed.sameIssue (h : Alarmed s t) : SameIssue s t := .of_rest (by rw [h]) (by rw [h])

theorem declareLasting_sameIssue (n : BitVec 3) (unc : Bool) (s : State) : SameIssue s (declareLasting n unc s) := by
  unfold declareLasting
  exact .after (wayside_alarmed ..).sameIssue (.after (setPend_eq 37 _).sameIssue (.of_rest rfl rfl))

theorem countError_sameIssue (n : BitVec 3) (way : BitVec 4) (unc : Bool) (s : State) : SameIssue s (countError n way unc s) := by
  unfold countError
  extract_lets i f f1 f2 _ t en thr
  have ht : SameIssue s t := .after (countEvent_eq ..).sameIssue (.of_rest rfl rfl)
  split
  · exact ht
  · split
    · split
      · exact ht
      · exact ht.trans (declareLasting_sameIssue ..)
    · split
      · exact ht.trans (declareLasting_sameIssue ..)
      · exact ht

theorem modCtx_sameIssue {f : Ctx → Ctx} (hrun : (f (s.getCtx c)).run = (s.getCtx c).run)
    (hfree : ((f (s.getCtx c)).io, (f (s.getCtx c)).cp) = ((s.getCtx c).io, (s.getCtx c).cp)) : SameIssue s (s.modCtx c f) := by
  refine ⟨rfl, fun d => ?_, fun d => ?_⟩ <;>
  · by_cases hd : d = c
    · subst hd
      rw [getCtx_modCtx]
      first | rw [hrun] | exact hfree
    · rw [getCtx_modCtx_ne s f hd]

theorem strike_sameIssue (c : CtxId) (e : Option EccEvent) (s : State) : SameIssue s (strike c e s) := by
  unfold strike
  split
  · exact .refl s
  · split
    · exact .refl s
    · split
      · exact (countError_sameIssue ..).after (.of_rest rfl rfl)
      · split
        · exact .of_rest rfl rfl
        · split
          · exact modCtx_sameIssue rfl rfl
          · exact .of_rest rfl rfl

end

/-! ## What O60 says of a step -/

/-- What O60 says of a step from s to t, but for a cold reset. -/
structure Lawful (s t : State) : Prop where
  inv : MachineInv s → MachineInv t
  config : s.boot.locked = true → ConfigKept s t
  user : ∀ c, issuing s = some c → bit (s.getCtx c).st 11 = false → bit (t.getCtx c).st 11 = false → t.boot.lame = false → UserKept c s t

/-- What O60 says of the step that a command's meaning is. -/
def LawfulOut (s : State) (o : Host.Outcome State Fault Refusal) : Prop := ∀ t, o = .next t → Lawful s t

section
variable {c : CtxId} {s t u : State}

theorem Tame.lawful (h : Tame c s t) (hc : issuing s = some c) : Lawful s t := by
  refine ⟨fun ⟨hrun, hwin, hcache⟩ => ⟨h.run hrun, h.win hwin, h.caches hcache⟩, h.config, fun d hd => ?_⟩
  cases hc.symm.trans hd
  exact h.user

theorem Entered.lawful (h : Entered c s t) : Lawful s t := by
  refine ⟨fun ⟨hrun, hwin, hcache⟩ => ⟨h.tame.run hrun, h.tame.win hwin, h.caches hcache⟩, h.tame.config, fun d _ hs ht hl => ?_⟩
  by_cases hd : d = c
  · subst hd
    exact h.tame.user hs ht hl
  · exact h.userKept hd

theorem Calm.lawful (h : Calm s t) : Lawful s t :=
  ⟨fun ⟨hrun, hwin, hcache⟩ => ⟨h.loose.oneRunning hrun, fun c => h.loose.win c (hwin c), h.caches hcache⟩, h.loose.configKept,
    fun c _ _ _ _ => h.userKept c⟩

theorem Fair.lawful (h : Fair c s t) : Lawful s t := h.elim (·.lawful) (·.lawful)

theorem LawfulOut.next (h : Lawful s t) : LawfulOut s (.next t) := by
  rintro u ⟨⟩
  exact h

theorem LawfulOut.calm (h : Calm s t) : LawfulOut s (.next t) := .next h.lawful

theorem LawfulOut.refused (r : Refusal) : LawfulOut s (.refused r) := by
  rintro u ⟨⟩

theorem runHold_lawful {body : CtxId → M Bool} (h : ∀ c s₀, TameRun c s₀ (body c)) (s : State) : LawfulOut s (runHold body s) := by
  unfold runHold
  split
  · exact .calm (.refl s)
  · next c hc => exact .next ((runBody_tame true (h c) s).lawful hc)

theorem runInstr_lawful {body : CtxId → M Unit} (h : ∀ c s₀, TameRun c s₀ (body c)) (s : State) : LawfulOut s (runInstr body s) := by
  unfold runInstr
  split
  · exact .calm (.refl s)
  · next c hc => exact .next ((runBody_tame true (fun s₀ => TameRun.then (h c s₀) fun _ => .pure true) s).lawful hc)

theorem advance_end (c : CtxId) : CalmEnd (advance c) := .modC fun _ => .of_eq rfl rfl rfl rfl

theorem runSeq_lawful {body : CtxId → M Unit} (h : ∀ c s₀, TameRun c s₀ (body c)) (s : State) : LawfulOut s (runSeq body s) :=
  runInstr_lawful (fun c s₀ => TameRun.then (h c s₀) fun _ => advance_end c) s

theorem runEcc_lawful {body : CtxId → M Unit} (h : ∀ c s₀, TameRun c s₀ (body c)) (e : Option EccEvent) (s : State) :
    LawfulOut s (runEcc e body s) := by
  unfold runEcc
  split
  · exact .calm (.refl s)
  · next c hc =>
    have hi : issuing (strike c e s) = some c := (strike_sameIssue c e s).issuing.trans hc
    unfold runSeq runInstr
    rw [hi]
    refine .next (Tame.lawful ((strike_calm c e s).trans_tame ?_) hc)
    exact runBody_tame true
      (fun s₀ => TameRun.then (TameRun.then (h c s₀) fun _ => advance_end c) fun _ => .pure true) _

end

end Sys2Proof.Machine

namespace Sys2Proof.Machine
open Sys2Proof

/-! ## Locking ways out (R488, R489)

An MTS to WLOCK first empties the ways it locks out. Emptying L1I moves nothing into another cache, emptying L1D may move lines into L2,
and emptying L2, which comes last, moves none into a cache. -/

/-- The lines with keys `ks` were flushed out of cache id: only L2 may have taken lines, and only if another cache was flushed. -/
structure Flushed (id : CacheId) (ks : List Nat) (s t : State) : Prop extends Calm s t where
  lines : CachesInv s → ∀ i, i ≠ .l2 ∨ id = .l2 → Within (t.caches.lines i) (s.caches.lines i)
  gone : CachesInv s → ∀ e ∈ t.caches.lines id, e.1 ∉ ks

section
variable {id : CacheId} {s t u : State}

theorem CacheId.own (id : CacheId) : id ≠ .l2 ∨ id = .l2 := by cases id <;> decide

theorem Flushed.nil (s : State) : Flushed id [] s s := ⟨.refl s, fun _ _ _ => .refl _, fun _ _ _ => List.not_mem_nil⟩

theorem Flushed.trans {ks js : List Nat} (h : Flushed id ks s t) (g : Flushed id js t u) : Flushed id (ks ++ js) s u := by
  refine ⟨h.toCalm.trans g.toCalm, fun hs i hi => (h.lines hs i hi).trans (g.lines (h.caches hs) i hi), fun hs e he hk => ?_⟩
  rcases List.mem_append.mp hk with hk | hk
  · obtain ⟨f, hf, hfe, -⟩ := (g.lines (h.caches hs) id id.own).mem e he
    rw [← hfe] at hk
    exact h.gone hs f hf hk
  · exact g.gone (h.caches hs) e he hk

theorem cacheDel_key (hs : CachesInv s) (k : Nat) : ∀ e ∈ (cacheDel s id k).caches.lines id, e.1 ≠ k := by
  obtain ⟨hwf, -⟩ := hs.1 id
  intro e he
  rw [cacheDel_lines, if_pos rfl] at he
  split at he
  · next hn =>
    rintro rfl
    rw [SMap.find?_of_mem hwf he] at hn
    exact absurd hn (by simp)
  · exact SMap.ne_of_mem_del hwf he

/-- Flushing one way: its line passes through the write-back of its cache. -/
theorem flushWay_flushed {k : Nat} (h : flushWay id k s = some t) : Flushed id [k] s t := by
  have hr := readOut_trim id k s
  have hv := readOut_find? (t := (readOut id k s).1) (v := (readOut id k s).2) rfl
  unfold flushWay at h
  generalize readOut id k s = r at hr hv h
  obtain ⟨u, l⟩ := r
  have pull {i : CacheId} {m : SMap CLine} (hw : Within m ((cacheDel u id k).caches.lines i)) : Within m (s.caches.lines i) :=
    (hr.trans (cacheDel_trim u id k)).lines i |>.trans hw
  cases l with
  | none =>
    cases h
    refine ⟨hr.calm, fun _ i _ => hr.lines i, fun hs e he hk => ?_⟩
    obtain rfl := List.mem_singleton.mp hk
    rw [SMap.find?_of_mem ((hr.cachesInv hs).1 id).1 he] at hv
    exact absurd hv (by simp)
  | some l =>
    have hm : (k, l) ∈ u.caches.lines id := SMap.mem_of_find? hv
    have hd := cacheDel_trim u id k
    have gone {t : State} (hu : CachesInv u) (hw : Within (t.caches.lines id) ((cacheDel u id k).caches.lines id)) :
        ∀ e ∈ t.caches.lines id, e.1 ∉ [k] := by
      intro e he hk
      obtain rfl := List.mem_singleton.mp hk
      obtain ⟨f, hf, hfe, -⟩ := hw.mem e he
      exact cacheDel_key hu _ f hf hfe
    cases id with
    | l1i =>
      cases h
      exact ⟨(hr.trans hd).calm, fun _ i _ => (hr.trans hd).lines i, fun hs => gone (hr.cachesInv hs) (.refl _)⟩
    | l1d =>
      have hmoves (hs : CachesInv s) : ∃ m, Moves (· = .l2) m (cacheDel u .l1d k) t := by
        have hu := hr.cachesInv hs
        exact evictL1D_moves h (hd.cachesInv hu) (hd.notEvicting (hu.notEvicting (by decide) hm)) (cacheDel_not_mem hu hm)
      refine ⟨⟨(hr.trans hd).toAside.trans (evictL1D_aside h), fun hs => ?_⟩, fun hs i hi => ?_, fun hs => ?_⟩ <;>
        obtain ⟨m, hmv⟩ := hmoves hs
      · exact hmv.inv
      · exact pull (hmv.lines i (hi.resolve_right (by decide)))
      · exact gone (hr.cachesInv hs) (hmv.lines .l1d (by decide))
    | l2 =>
      have hmoves (hs : CachesInv s) : Moves (fun _ => False) l.line (cacheDel u .l2 k) t := by
        have hu := hr.cachesInv hs
        exact evictL2_moves h (hd.cachesInv hu) (hd.notEvicting (hu.notEvicting (by decide) hm)) (cacheDel_not_mem hu hm)
      refine ⟨⟨(hr.trans hd).toAside.trans (evictL2_aside h), fun hs => (hmoves hs).inv⟩, fun hs i _ => ?_, fun hs => ?_⟩
      · exact pull ((hmoves hs).lines i not_false)
      · exact gone (hr.cachesInv hs) ((hmoves hs).lines .l2 not_false)

/-- The keys of the ways that `bits` picks. -/
def flagged (id : CacheId) (bits : BitVec 20) (k : Nat) : Bool := bit bits (id.lockBit + k % id.ways)

theorem flushWays_cons (id : CacheId) (bits : BitVec 20) (k : Nat) (ks : List Nat) (s : State) :
    flushWays id bits (k :: ks) s =
      if flagged id bits k then (match flushWay id k s with | some t => flushWays id bits ks t | none => .error .wait s)
      else flushWays id bits ks s := by
  rw [flushWays, flagged]
  split
  · simp only [bind, EStateM.bind, run_get]
    cases flushWay id k s <;> rfl
  · rfl

/-- Flushing the ways that `bits` picks of a list of keys. -/
theorem flushWays_out (id : CacheId) (bits : BitVec 20) (ks : List Nat) (s : State) :
    match flushWays id bits ks s with
    | .ok _ t => Flushed id (ks.filter (flagged id bits)) s t
    | .error _ t => Calm s t := by
  induction ks generalizing s with
  | nil => exact .nil s
  | cons k ks ih =>
    rw [flushWays_cons, List.filter_cons]
    by_cases hk : flagged id bits k = true
    · rw [if_pos hk, if_pos hk]
      cases hf : flushWay id k s with
      | none => exact .refl s
      | some t =>
        have htu := ih t
        dsimp only
        cases hr : flushWays id bits ks t with
        | ok a u =>
          rw [hr] at htu
          exact (flushWay_flushed hf).trans htu
        | error e u =>
          rw [hr] at htu
          exact (flushWay_flushed hf).toCalm.trans htu
    · rw [if_neg hk, if_neg hk]
      exact ih s

theorem flushWays_ok {bits : BitVec 20} {ks : List Nat} {a : Unit} (h : flushWays id bits ks s = .ok a t) :
    Flushed id (ks.filter (flagged id bits)) s t := by
  have := flushWays_out id bits ks s
  rwa [h] at this

theorem flushWays_calm {s₀ : State} (id : CacheId) (bits : BitVec 20) (ks : List Nat) : CalmRun s₀ (flushWays id bits ks) := by
  refine ⟨fun s hs => ?_⟩
  have := flushWays_out id bits ks s
  cases h : flushWays id bits ks s with
  | ok a t => rw [h] at this; exact hs.trans this.toCalm
  | error e t => rw [h] at this; exact hs.trans this

/-- No key that `bits` picks is left, if it was one of the keys listed. -/
theorem Flushed.not_flagged {bits : BitVec 20} {ks : List Nat} (h : Flushed id (ks.filter (flagged id bits)) s t) (hs : CachesInv s)
    (hks : ∀ e ∈ s.caches.lines id, e.1 ∈ ks) : ∀ e ∈ t.caches.lines id, flagged id bits e.1 = false := by
  intro e he
  obtain ⟨f, hf, hfe, -⟩ := (h.lines hs id id.own).mem e he
  have hk : e.1 ∈ ks := hfe ▸ hks f hf
  by_contra hb
  exact h.gone hs e he (List.mem_filter.mpr ⟨hk, by simpa using hb⟩)

/-- The ways of a cache in WLOCK. -/
def lockMask (id : CacheId) : BitVec 20 := match id with | .l1i => 0x0000F | .l1d => 0x00FF0 | .l2 => 0xFF000

theorem lockMask_bit (id : CacheId) {i : Nat} (hi : i < 20) :
    (lockMask id).getLsbD i = decide (id.lockBit ≤ i ∧ i < id.lockBit + id.ways) := by
  revert i
  cases id <;> decide

theorem lock_lt {id : CacheId} {w : Nat} (hw : w < id.ways) : id.lockBit + w < 20 := by
  cases id <;> simp only [CacheId.ways, CacheId.lockBit] at * <;> omega

theorem lockMask_own (c id : CacheId) : ∀ w < id.ways, (lockMask c).getLsbD (id.lockBit + w) = decide (c = id) := by
  cases c <;> cases id <;> decide

/-- What WLOCK accepts for the ways of one cache. -/
def lockPart (old v : BitVec 20) (id : CacheId) : BitVec 20 :=
  if (old ||| v) &&& lockMask id == lockMask id then 0 else v &&& ~~~old &&& lockMask id

theorem wlockNew_eq (old v : BitVec 20) : wlockNew old v = lockPart old v .l1i ||| lockPart old v .l1d ||| lockPart old v .l2 := rfl

theorem lockPart_bit (old v : BitVec 20) (id : CacheId) {i : Nat} (hi : i < 20) :
    (lockPart old v id).getLsbD i =
      (!((old ||| v) &&& lockMask id == lockMask id) && v.getLsbD i && !old.getLsbD i && (lockMask id).getLsbD i) := by
  unfold lockPart
  split
  · next h => rw [h]; simp
  · next h =>
    rw [Bool.not_eq_true] at h
    simp only [h, BitVec.getLsbD_and, BitVec.getLsbD_not, hi, decide_true, Bool.not_false, Bool.true_and]

/-- The accepted bits of one cache. -/
theorem wlockNew_bit (id : CacheId) {w : Nat} (hw : w < id.ways) (old v : BitVec 20) :
    (wlockNew old v).getLsbD (id.lockBit + w) = (!((old ||| v) &&& lockMask id == lockMask id) &&
      v.getLsbD (id.lockBit + w) && !old.getLsbD (id.lockBit + w)) := by
  have hi := lock_lt hw
  simp only [wlockNew_eq, BitVec.getLsbD_or, lockPart_bit old v _ hi, lockMask_own _ id w hw]
  cases id <;> simp

/-- WLOCK never locks out a cache's last way (R489). -/
theorem wlockNew_free (id : CacheId) {old : BitVec 20} (v : BitVec 20) (h : ∃ w < id.ways, bit old (id.lockBit + w) = false) :
    ∃ w < id.ways, bit (old ||| wlockNew old v) (id.lockBit + w) = false := by
  simp only [bit, BitVec.getLsbD_or] at *
  by_cases hfull : ((old ||| v) &&& lockMask id == lockMask id) = true
  · obtain ⟨w, hw, ho⟩ := h
    exact ⟨w, hw, by rw [wlockNew_bit id hw, hfull, ho]; rfl⟩
  · by_contra hall
    push Not at hall
    refine hfull (beq_iff_eq.mpr (BitVec.eq_of_getLsbD_eq fun i hi => ?_))
    rw [BitVec.getLsbD_and, BitVec.getLsbD_or, lockMask_bit id hi]
    by_cases hin : id.lockBit ≤ i ∧ i < id.lockBit + id.ways
    · obtain ⟨w, rfl⟩ := Nat.exists_eq_add_of_le hin.1
      have hw : w < id.ways := by omega
      have := hall w hw
      rw [wlockNew_bit id hw] at this
      cases ho : old.getLsbD (id.lockBit + w) <;> cases hv : v.getLsbD (id.lockBit + w) <;> simp_all
    · simp [hin]

/-- Ways are locked out of caches whose lines stand in others. -/
theorem CachesInv.lock (h : CachesInv s) (v : BitVec 20)
    (hout : ∀ id, ∀ e ∈ s.caches.lines id, flagged id (wlockNew s.rel.wlock v) e.1 = false) :
    CachesInv { s with rel := { s.rel with wlock := s.rel.wlock ||| wlockNew s.rel.wlock v } } := by
  obtain ⟨hc, hb⟩ := h
  refine ⟨fun id => ?_, hb⟩
  obtain ⟨hwf, hfree, hplace, honce⟩ := hc id
  refine ⟨hwf, wlockNew_free id v hfree, fun e he => ?_, honce⟩
  obtain ⟨hset, hway, hbuf⟩ := hplace e he
  refine ⟨hset, ?_, hbuf⟩
  have hf := hout id e he
  simp only [wayLocked, flagged, bit, BitVec.getLsbD_or] at *
  rw [hway, hf]
  rfl

/-- Every way that WLOCK is to lock out is empty once the three caches are flushed in turn. -/
theorem flushed_all {bits : BitVec 20} {v : State} (hs : CachesInv s)
    (h : Flushed .l1i (((s.caches.lines .l1i).map (·.1)).filter (flagged .l1i bits)) s t)
    (g : Flushed .l1d (((s.caches.lines .l1d).map (·.1)).filter (flagged .l1d bits)) t u)
    (k : Flushed .l2 (((u.caches.lines .l2).map (·.1)).filter (flagged .l2 bits)) u v) :
    ∀ id, ∀ e ∈ v.caches.lines id, flagged id bits e.1 = false := by
  have ht := h.caches hs
  have hu := g.caches ht
  intro id e he
  cases id with
  | l1i =>
    obtain ⟨f, hf, hfe, -⟩ := ((g.lines ht .l1i (by decide)).trans (k.lines hu .l1i (by decide))).mem e he
    exact hfe ▸ h.not_flagged hs (fun _ => List.mem_map_of_mem) f hf
  | l1d =>
    obtain ⟨f, hf, hfe, -⟩ := (k.lines hu .l1d (by decide)).mem e he
    refine hfe ▸ g.not_flagged ht (fun x hx => ?_) f hf
    obtain ⟨y, hy, hyx, -⟩ := (h.lines hs .l1d (by decide)).mem x hx
    exact hyx ▸ List.mem_map_of_mem hy
  | l2 => exact k.not_flagged hu (fun _ => List.mem_map_of_mem) e he

/-- Locking ways out changes no more than WLOCK. -/
theorem lock_loose {t : State} (w : BitVec 20) (hc : CachesInv s → CachesInv { t with rel := { t.rel with wlock := w } }) (h : Calm s t) :
    Loose s { t with rel := { t.rel with wlock := w } } := ⟨h.loose.run, h.loose.win, hc, h.loose.config⟩

/-- MTS to WLOCK by the supervisor (R489). -/
theorem mtsWlockReg_tame {c : CtxId} {s₀ : State} (v : W64) (hsup : bit (s₀.getCtx c).st 11 = true) : TameRun c s₀ (mtsWlockReg v) := by
  refine ⟨fun s hs => ?_⟩
  have hcalm (id ks t) := (flushWays_calm (s₀ := s₀) id (wlockNew s.rel.wlock (fld v 0 20)) ks).carries t
  unfold mtsWlockReg
  simp only [bind, EStateM.bind, run_get, run_modify]
  cases ht : flushWays .l1i (wlockNew s.rel.wlock (fld v 0 20)) ((s.caches.lines .l1i).map (·.1)) s with
  | error e t => have := hcalm .l1i ((s.caches.lines .l1i).map (·.1)) s hs; rw [ht] at this; exact this.undoable
  | ok a t =>
    have hst := flushWays_ok ht
    have hct := hs.trans hst.toCalm
    dsimp only
    cases hu : flushWays .l1d (wlockNew s.rel.wlock (fld v 0 20)) ((s.caches.lines .l1d).map (·.1)) t with
    | error e u => have := hcalm .l1d ((s.caches.lines .l1d).map (·.1)) t hct; rw [hu] at this; exact this.undoable
    | ok a u =>
      have htu := flushWays_ok hu
      have hcu := hct.trans htu.toCalm
      dsimp only
      cases hx : flushWays .l2 (wlockNew s.rel.wlock (fld v 0 20)) ((u.caches.lines .l2).map (·.1)) u with
      | error e x => have := hcalm .l2 ((u.caches.lines .l2).map (·.1)) u hcu; rw [hx] at this; exact this.undoable
      | ok a x =>
        have hux := flushWays_ok hx
        have hcx := hcu.trans hux.toCalm
        refine (lock_loose _ (fun h => ?_) hcx).tame_of_sup hsup
        have hw : s.rel.wlock = x.rel.wlock := ((hst.toCalm.trans htu.toCalm).trans hux.toCalm).wlock.symm
        rw [hw] at hst htu hux ⊢
        exact (hcx.caches h).lock _ (flushed_all (hs.caches h) hst htu hux)

end

end Sys2Proof.Machine

namespace Sys2Proof.Machine
open Sys2Proof

/-! ## System registers, control and integer arithmetic -/

section
variable {s₀ : State}

theorem tileTrap_calm {α : Type} (code : BitVec 8) : CalmRun s₀ (tileTrap code : M α) := by
  unfold tileTrap
  exact .raise _ _

theorem needTileOwner_calm (c : CtxId) (write : Bool) : CalmRun s₀ (needTileOwner c write) := by
  unfold needTileOwner
  exact .get_bind fun _ _ => .when (tileTrap_calm ..) fun _ => .when .wait fun _ => .ite (tileTrap_calm ..) (.pure _)

theorem accountFor_calm (r : SysReg) : CalmRun s₀ (accountFor r) := by
  unfold accountFor
  exact .modify fun _ => .ite (accountSteps_calm ..) (.refl _)

theorem needReg_calm (c : CtxId) (idx : BitVec 12) : CalmRun s₀ (needReg c idx) := by
  unfold needReg
  refine .get_bind fun _ _ => ?_
  split
  · exact .undef
  · exact .ite (.pure _) .undef

theorem mfsReg_calm (idx : BitVec 12) (c : CtxId) : CalmRun s₀ (mfsReg idx c) := by
  unfold mfsReg
  refine .bind (needReg_calm ..) fun _ => ?_
  refine .get_bind fun _ _ => ?_
  refine .bind (.needPriv _) fun _ => ?_
  exact .when (needTileOwner_calm ..) fun _ => .bind (accountFor_calm ..) fun _ => .get_bind fun _ _ => .modC fun _ => setA_calm ..

theorem setTcfg_calm (s : State) (v : BitVec 4) : Calm s (setTcfg s v) := by
  unfold setTcfg
  exact .of_rest rfl rfl rfl

theorem tileOff_calm (s : State) : Calm s (tileOff s) := by
  unfold tileOff
  exact .after (stopTileChannels_calm ..) (.of_rest rfl rfl rfl)

theorem mtsTpwrReg_calm (v : W64) : CalmRun s₀ (mtsTpwrReg v) := by
  unfold mtsTpwrReg
  refine .get_bind fun _ hs => ?_
  refine .when .wait fun _ => ?_
  refine .ite ?_ (.ite (.set (hs.trans (.after (settle_trim ..).calm (tileOff_calm ..)))) (.pure _))
  exact .when .wait fun _ => .set (hs.trans (.after (settle_trim ..).calm (.of_rest rfl rfl rfl)))

theorem mtsPamReg_tame {c : CtxId} {f : State → State} (hf : ∀ s, Loose s (f s)) (hsup : bit (s₀.getCtx c).st 11 = true) :
    TameRun c s₀ (mtsPamReg c f) := by
  unfold mtsPamReg
  refine .get_bind fun s hs => .when .wait fun _ => .set (Loose.tame_of_sup ?_ hsup)
  exact (hs.trans (.foldl _ (fun _ _ => .ite (.refl _) (dropFills_calm ..)) _ _)).loose.trans (hf _)

theorem armLine_calm (c : CtxId) (v : W64) : CalmRun s₀ (armLine c v) := by
  unfold armLine
  refine .bind (needCanonical_calm ..) fun _ => ?_
  refine .bind (needDdc_calm ..) fun _ => ?_
  refine .bind (translateCtx_calm ..) fun _ => ?_
  refine .ite (.pure _) ?_
  refine .get_bind fun _ _ => ?_
  refine .ite (.pure _) ?_
  refine .bind (readLine_calm ..) fun _ => ?_
  extract_lets next
  have hnext (u) : CalmRun s₀ (next u) := .pure _
  split
  · exact hnext ()
  · exact .get_bind fun _ _ => .ite (.bind (.modify fun _ => dropFills_calm ..) fun _ => .bind .wait fun _ => hnext ()) (hnext ())

theorem mtsWaddrReg_calm (c : CtxId) (v : W64) : CalmRun s₀ (mtsWaddrReg c v) := by
  unfold mtsWaddrReg
  extract_lets put
  have hput (u0) (u1) : CalmRun s₀ (put u0 u1) := .modC fun _ => .of_eq rfl rfl rfl rfl
  refine .ite ?_ (hput _ _)
  refine .bind (armLine_calm ..) fun _ => ?_
  split
  exact hput _ _

theorem armLevel_calm (c : CtxId) (kind : Nat) (f : Events → Events) : CalmRun s₀ (armLevel c kind f) := by
  unfold armLevel
  exact .bind (.modC fun _ => .of_eq rfl rfl rfl rfl) fun _ => .modify fun _ => (settle_trim ..).calm

theorem setPace_calm (s : State) (v : W64) : Calm s (setPace s v) := by
  unfold setPace
  exact .after (paceApply_calm ..) (.of_rest rfl rfl rfl)

/-- The registers that only privileged code writes, and that O60 speaks of. -/
def SysReg.guarded (r : SysReg) : Bool :=
  match r with
  | .vbar | .svbar | .esp | .esplo | .tgrant | .tcr | .ttb1 | .ttb2 | .kdin | .dpri | .pamb _ | .paml _ | .wlock => true
  | _ => false

theorem guarded_of_userWrite {r : SysReg} (h : r.userWrite = true) : r.guarded = false := by
  cases r <;> simp_all [SysReg.userWrite, SysReg.guarded]

theorem mtsPlain_calm {r : SysReg} (h : r.guarded = false) (k : Ctx) (w : TWord) (s : State) (c : CtxId) : Calm s (mtsPlain r k w s c) := by
  unfold mtsPlain
  extract_lets v sys
  split
  · exact absurd h (by decide)
  · exact absurd h (by decide)
  · exact .of_rest rfl rfl rfl
  · exact absurd h (by decide)
  · exact absurd h (by decide)
  · exact .ite (.refl _) (.of_rest rfl rfl rfl)
  · exact .ite (.of_rest rfl rfl rfl) (.refl _)
  · exact .of_rest rfl rfl rfl
  · exact modCtx_calm (.of_eq rfl rfl rfl rfl)
  · exact modCtx_calm (.of_eq rfl rfl rfl rfl)
  · exact absurd h (by decide)
  · exact .after (wakeIrqs_eq ..).calm (.of_rest rfl rfl rfl)
  · exact .of_rest rfl rfl rfl
  · exact modCtx_calm (.of_eq rfl rfl rfl rfl)
  · exact .of_rest rfl rfl rfl
  · exact .of_rest rfl rfl rfl
  · exact absurd h (by decide)
  · exact absurd h (by decide)
  · exact absurd h (by decide)
  · exact absurd h (by decide)
  · exact .of_rest rfl rfl rfl
  · exact .trans (.ite (.refl _) (transferTile_calm ..)) (.of_rest rfl rfl rfl)
  · exact .of_rest rfl rfl rfl
  · exact .of_rest rfl rfl rfl
  · exact modCtx_calm (.of_eq rfl rfl rfl rfl)
  · exact modCtx_calm (.of_eq rfl rfl rfl rfl)
  · exact .after (settle_trim ..).calm (modCtx_calm (.of_eq rfl rfl rfl rfl))
  · exact .of_rest rfl rfl rfl
  · exact .of_rest rfl rfl rfl
  · exact .of_rest rfl rfl rfl
  · exact .of_rest rfl rfl rfl
  · exact .of_rest rfl rfl rfl
  · exact .of_rest rfl rfl rfl
  · exact .of_rest rfl rfl rfl
  · exact .of_rest rfl rfl rfl
  · exact .of_rest rfl rfl rfl
  · exact .of_rest rfl rfl rfl
  · exact .of_rest rfl rfl rfl
  · exact .of_rest rfl rfl rfl
  · exact modCtx_calm ⟨id, id, ⟨_, rfl⟩, rfl⟩
  · exact setPace_calm ..
  · exact .of_rest rfl rfl rfl
  · exact absurd h (by decide)
  · exact (wayside_trim ..).calm
  · exact .of_rest rfl rfl rfl
  · exact .of_rest rfl rfl rfl
  · exact .ite (.of_rest rfl rfl rfl) (.refl _)
  · exact .of_rest rfl rfl rfl
  · exact .refl _

theorem mtsPlain_loose (r : SysReg) (k : Ctx) (w : TWord) (s : State) (c : CtxId) : Loose s (mtsPlain r k w s c) := by
  cases h : r.guarded with
  | false => exact (mtsPlain_calm h k w s c).loose
  | true =>
    cases r <;> simp only [SysReg.guarded, Bool.false_eq_true] at h
    case dpri => exact ⟨fun _ => id, fun _ => id, id, rfl⟩
    case pamb | paml | wlock => exact .refl s
    all_goals
      unfold mtsPlain
      exact modCtx_loose ⟨id, id⟩

theorem mtsApply_calm {r : SysReg} (h : r.guarded = false) (w : TWord) (c : CtxId) : CalmRun s₀ (mtsApply r w c) := by
  unfold mtsApply
  extract_lets v
  split
  · cases h
  · cases h
  · exact mtsWaddrReg_calm ..
  · exact armLevel_calm ..
  · exact armLevel_calm ..
  · exact armLevel_calm ..
  · exact absurd h (by decide)
  · exact mtsTpwrReg_calm ..
  · exact .get_bind fun _ _ => .ite (.modify fun _ => setTcfg_calm ..) .wait
  · exact .get_bind fun _ _ => .ite (.modify fun _ => .of_rest rfl rfl rfl) .wait
  · exact .modify fun _ => mtsPlain_calm h ..

theorem mtsApply_tame (r : SysReg) (w : TWord) {c : CtxId} (hsup : bit (s₀.getCtx c).st 11 = true) : TameRun c s₀ (mtsApply r w c) := by
  cases h : r.guarded with
  | false => exact TameRun.of_calm (mtsApply_calm h w c)
  | true =>
    have hplain : TameRun c s₀ (modify fun s => mtsPlain r (s.getCtx c) w s c) :=
      .modify fun s hs => (hs.loose.trans (mtsPlain_loose ..)).tame_of_sup hsup
    cases r <;> simp only [SysReg.guarded, Bool.false_eq_true] at h
    case pamb n =>
      exact mtsPamReg_tame (f := fun t => { t with pamb := vset t.pamb n.toNat (w.val &&& 0x000FFFFFFFFFF007#64) })
        (fun _ => ⟨fun _ => id, fun _ => id, id, rfl⟩) hsup
    case paml n =>
      exact mtsPamReg_tame (f := fun t => { t with paml := vset t.paml n.toNat (w.val &&& 0x000FFFFFFFFFF000#64) })
        (fun _ => ⟨fun _ => id, fun _ => id, id, rfl⟩) hsup
    case wlock => exact mtsWlockReg_tame _ hsup
    all_goals exact hplain

theorem mtsReg_tame (idx : BitVec 12) (c : CtxId) : TameRun c s₀ (mtsReg idx c) := by
  unfold mtsReg
  refine .bind (needReg_calm ..) fun r => .get_bind fun s hs => ?_
  have hsup : (s.getCtx c).sup = bit (s₀.getCtx c).st 11 := (hs.ctx c).sup
  have hread (b w : Bool) : TameRun c s₀ (do needPriv b; if w then needTileOwner c true) :=
    TameRun.of_calm (.bind (.needPriv _) fun _ => .ite (needTileOwner_calm ..) (.pure _))
  refine .dite (fun _ => hread ..) fun huser => .ite (hread ..) (.when (.needPriv _) fun _ => .when (needTileOwner_calm ..) fun _ => ?_)
  refine .when (.tagFault _) fun _ => .bind (accountFor_calm ..) fun _ => ?_
  cases hk : (s.getCtx c).sup with
  | true => exact mtsApply_tame _ _ (hsup.symm.trans hk)
  | false =>
    rw [hk] at huser
    exact TameRun.of_calm (mtsApply_calm (guarded_of_userWrite (by simpa using huser)) ..)

theorem mtsInstr_tame (idx : BitVec 12) (r : BitVec 13) (c : CtxId) : TameRun c s₀ (mtsInstr idx r c) := by
  unfold mtsInstr
  exact .bind (.needDef _) fun _ => mtsReg_tame ..

theorem movDest_calm (k : Ctx) (code : BitVec 6) (w : TWord) : CtxCalm k (movDest k code w) := by
  unfold movDest
  refine .ite (setSlot_calm ..) ?_
  split
  · exact setA_calm ..
  · exact setX_calm ..
  · exact setY_calm ..
  · exact setSp_calm ..
  · exact setStk_calm ..
  · exact setStk_calm ..
  · refine .of_st (bit11_and_or _ _ _ ?_ ?_) <;> unfold stWritable
    · split
      · decide
      · split <;> decide
    · simp only [bit, BitVec.getLsbD_and]
      refine Bool.and_eq_false_imp.mpr fun _ => ?_
      split
      · decide
      · split <;> decide
  · exact .of_eq rfl rfl rfl rfl
  · exact .of_eq rfl rfl rfl rfl
  · exact .of_eq rfl rfl rfl rfl
  · exact .of_eq rfl rfl rfl rfl

theorem movInstr_calm (f : BitVec 25) (c : CtxId) : CalmRun s₀ (movInstr f c) := by
  unfold movInstr
  refine .bind (.getC _) fun _ => .bind (.needDef _) fun _ => .bind (.getC _) fun _ => ?_
  extract_lets _ move
  have hmove (u) : CalmRun s₀ (move u) := by
    refine .bind (.getC _) fun _ => ?_
    split
    · exact .undef
    · exact .when (.tagFault _) fun _ => .modC fun _ => movDest_calm ..
  exact .ite (.bind (readSlot_calm ..) fun _ => hmove ()) (hmove ())

theorem skipInstr_calm (f : BitVec 25) (c : CtxId) : CalmRun s₀ (skipInstr f c) := by
  unfold skipInstr
  refine .bind (.getC _) fun _ => ?_
  refine .bind (.needDef _) fun _ => ?_
  exact .bind (.needDef _) fun _ => .when (.tagFault _) fun _ => .modC fun _ => .of_eq rfl rfl rfl rfl

theorem targetOf_calm (c : CtxId) (m : BitVec 3) (d : BitVec 22) : CalmRun s₀ (targetOf c m d) := by
  unfold targetOf
  refine .bind (needBase_calm ..) fun _ => ?_
  exact .bind (addrOf_calm ..) fun _ => .bind (needCanonical_calm ..) fun _ => .bind (needAligned_calm ..) fun _ => .pure _

theorem targetCheck_calm (c : CtxId) (ea : W64) (rh : Option Bool) : CalmRun s₀ (targetCheck c ea rh) := by
  unfold targetCheck
  exact .get_bind fun _ _ => .when (needCap_calm ..) fun _ => translateCtx_calm ..

theorem jmpInstr_calm (m : BitVec 3) (d : BitVec 22) (c : CtxId) : CalmRun s₀ (jmpInstr m d c) := by
  unfold jmpInstr
  refine .bind (needMode_calm ..) fun _ => ?_
  refine .bind (targetOf_calm ..) fun _ => ?_
  refine .bind (.getC _) fun _ => ?_
  exact .bind (targetCheck_calm ..) fun _ => .bind (postIncrement_calm ..) fun _ => .modC fun _ => .of_eq rfl rfl rfl rfl

theorem enterRhaha_calm (k : Ctx) : CtxCalm k (enterRhaha k) := by
  have hslots : CtxCalm k (rhahaZeroSlots k) := .foldl _ (fun _ _ => .ite (setSlot_calm ..) (.refl _)) _ _
  unfold enterRhaha
  have hregs := (hslots.trans (setA_calm _ (rhahaZero (rhahaZeroSlots k).getA))).trans (setX_calm _ (rhahaZero (rhahaZeroSlots k).getX))
  exact hregs.trans (.of_eq rfl rfl rfl ((bit11_setBit _ (i := 15) (by decide) _).trans hregs.sup.symm))

theorem jmpxInstr_calm (m : BitVec 3) (d : BitVec 22) (c : CtxId) : CalmRun s₀ (jmpxInstr m d c) := by
  unfold jmpxInstr
  refine .bind (needMode_calm ..) fun _ => ?_
  refine .bind (targetOf_calm ..) fun _ => ?_
  refine .bind (targetCheck_calm ..) fun _ => ?_
  refine .get_bind fun _ _ => ?_
  refine .when .undef fun _ => ?_
  refine .bind (postIncrement_calm ..) fun _ => ?_
  exact .modC fun _ => .trans (.ite (enterRhaha_calm ..) (.refl _)) (.of_eq rfl rfl rfl rfl)

theorem needFreeWindow_calm (c : CtxId) : CalmRun s₀ (needFreeWindow c) := by
  unfold needFreeWindow
  exact .bind (.getC _) fun _ => .ite (.raise _ _) (.pure _)

theorem needCallerWindow_calm (c : CtxId) : CalmRun s₀ (needCallerWindow c) := by
  unfold needCallerWindow
  exact .bind (.getC _) fun _ => .ite (.raise _ _) (.pure _)

theorem pushPhys_calm (c : CtxId) : CalmRun s₀ (pushPhys c) := by
  unfold pushPhys
  exact .bind (.getC _) fun _ => .bind (needRows_calm ..) fun _ => translateCtx_calm ..

theorem callWindow_calm (k : Ctx) : CtxCalm k (callWindow k) := by
  unfold callWindow
  refine .ite (.refl k) (.after (allocWindow_calm ..) ⟨id, fun _ => ?_, ⟨_, rfl⟩, rfl⟩)
  simp only [nextWin, BitVec.toNat_ofNat]
  omega

theorem retWindow_calm (k : Ctx) : CtxCalm k (retWindow k) := by
  unfold retWindow
  refine .ite (.refl k) ⟨id, fun _ => ?_, ⟨_, rfl⟩, rfl⟩
  simp only [prevWin, BitVec.toNat_ofNat]
  omega

theorem callFinish_calm (c : CtxId) (p : Phys) (ea : W64) (ret : W64) : CalmRun s₀ (callFinish c p ea ret) := by
  unfold callFinish
  refine .bind (needFreeWindow_calm ..) fun _ => ?_
  refine .bind (prepPhys_calm ..) fun _ => ?_
  refine .bind (commitPhys_calm ..) fun _ => ?_
  exact .modC fun _ => .trans (.after (callWindow_calm ..) (setSp_calm ..)) (.of_eq rfl rfl rfl rfl)

theorem callInstr_calm (m : BitVec 3) (d : BitVec 22) (c : CtxId) : CalmRun s₀ (callInstr m d c) := by
  unfold callInstr
  refine .bind (needMode_calm ..) fun _ => ?_
  refine .bind (.getC _) fun _ => ?_
  refine .bind (.needDef _) fun _ => ?_
  refine .bind (targetOf_calm ..) fun _ => ?_
  refine .bind (pushPhys_calm ..) fun _ => ?_
  exact .bind (targetCheck_calm ..) fun _ => .bind (callFinish_calm ..) fun _ => postIncrement_calm ..

theorem popReturn_calm (c : CtxId) (unit : Nat) : CalmRun s₀ (popReturn c unit) := by
  unfold popReturn
  refine .bind (.getC _) fun _ => ?_
  exact .bind (loadWord_calm ..) fun _ => .when (.tagFault _) fun _ => .bind (needAligned_calm ..) fun _ => .pure _

theorem retInstr_calm (f : BitVec 25) (c : CtxId) : CalmRun s₀ (retInstr f c) := by
  unfold retInstr
  refine .bind (.getC _) fun _ => ?_
  refine .bind (.needDef _) fun _ => ?_
  refine .bind (popReturn_calm ..) fun _ => ?_
  refine .bind (needCallerWindow_calm ..) fun _ => ?_
  exact .modC fun _ => .trans (.after (retWindow_calm ..) (setSp_calm ..)) (.of_eq rfl rfl rfl rfl)

theorem trapInstr_calm (f : BitVec 25) (x : CtxId) : CalmRun s₀ (trapInstr f x) := by
  unfold trapInstr
  exact .bind (.needDef _) fun _ => .throw _

theorem stileInstr_calm (f : BitVec 25) (c : CtxId) : CalmRun s₀ (stileInstr f c) := by
  unfold stileInstr
  exact .get_bind fun _ _ => .bind (.needDef _) fun _ => .bind (.needPriv _) fun _ => .throw _

theorem needReturn_calm (s : State) (k : Ctx) (r : ReturnImage) : CalmRun s₀ (needReturn s k r) := by
  unfold needReturn
  split
  · exact .throw _
  · exact .pure _

theorem rfiInstr_tame (r : BitVec 24) (c : CtxId) : TameRun c s₀ (rfiInstr r c) := by
  unfold rfiInstr
  refine .get_bind fun s hs => .bind (.needDef _) fun _ => .needPriv_bind fun hk _ => .bind (needReturn_calm ..) fun _ => ?_
  exact .modify fun t ht => (ht.loose.trans (modCtx_loose ⟨id, id⟩)).tame_of_sup ((hs.ctx c).sup.symm.trans hk)

theorem frameRead_calm (c : CtxId) (a : W64) (n : Nat) : CalmRun s₀ (frameRead c a n) := by
  induction n generalizing a with
  | zero => exact .pure _
  | succ n ih => exact .bind (loadAt_calm ..) fun _ => .bind (ih _) fun _ => .pure _

theorem releaseWindow_cur (w : Windows) : w.cur.toNat < 7 → (releaseWindow w).cur.toNat < 7 := by
  intro h
  unfold releaseWindow
  split
  · exact h
  · simp only [prevWin, BitVec.toNat_ofNat]
    omega

/-- RFE writes ST and the registers of a context, and may change its window. -/
theorem rfeRestore_loose (s : State) (w : Nat → TWord) (k : Ctx) : CtxLoose k (rfeRestore s w k) := by
  unfold rfeRestore
  extract_lets esc k1 k2 k3 k4
  have h2 : CtxLoose k k2 := (setSp_calm k (k.stk.sp + 64)).loose.trans ⟨id, id⟩
  have h4 : CtxLoose k k4 := by
    refine (h2.trans (setSp_calm k2 (w 2).val).loose).trans (CtxCalm.loose (.ite (.of_eq rfl rfl rfl rfl) ?_))
    exact .after (setY_calm ..) (.after (setX_calm ..) (setA_calm ..))
  refine h4.trans ⟨id, fun h => ?_⟩
  dsimp only
  split
  · exact h
  · exact releaseWindow_cur _ h

theorem rfeInstr_tame (r : BitVec 24) (c : CtxId) : TameRun c s₀ (rfeInstr r c) := by
  unfold rfeInstr
  refine .get_bind fun s hs => .bind (.needDef _) fun _ => .needPriv_bind fun hk _ => ?_
  refine .bind (needCanonical_calm ..) fun _ => .bind (needAligned_calm ..) fun _ => .bind (needStack_calm ..) fun _ => ?_
  refine .bind (needDdc_calm ..) fun _ => .bind (frameRead_calm ..) fun _ => .when (.throw _) fun _ => .get_bind fun u hu => ?_
  refine .bind (needReturn_calm ..) fun _ => .modify fun t ht => ?_
  exact (ht.loose.trans (modCtx_loose (rfeRestore_loose ..))).tame_of_sup ((hs.ctx c).sup.symm.trans hk)

theorem sumInstr_calm (o : SumOp) (m : BitVec 3) (d : BitVec 22) (c : CtxId) : CalmRun s₀ (sumInstr o m d c) := by
  unfold sumInstr
  refine .bind (readPair_calm (hx := .pure _) ..) fun _ => ?_
  split
  refine .bind (.getC _) fun _ => ?_
  refine .bind (postIncrement_calm ..) fun _ => ?_
  exact .modC fun _ => .ite (setSumFlags_calm ..) (.after (setA_calm ..) (setSumFlags_calm ..))

theorem logicInstr_calm (f : W64 → W64 → W64) (m : BitVec 3) (d : BitVec 22) (c : CtxId) : CalmRun s₀ (logicInstr f m d c) := by
  unfold logicInstr
  refine .bind (readPair_calm (hx := .pure _) ..) fun _ => ?_
  split
  exact .bind (postIncrement_calm ..) fun _ => .modC fun _ => .after (setA_calm ..) (setZN_calm ..)

theorem bfxInstr_calm (m : BitVec 3) (d : BitVec 22) (c : CtxId) : CalmRun s₀ (bfxInstr m d c) := by
  unfold bfxInstr
  refine .bind (readPair_calm (hx := .pure _) ..) fun _ => ?_
  split
  exact .bind (postIncrement_calm ..) fun _ => .modC fun _ => .after (setA_calm ..) (setZN_calm ..)

theorem bfiInstr_calm (m : BitVec 3) (d : BitVec 22) (c : CtxId) : CalmRun s₀ (bfiInstr m d c) := by
  unfold bfiInstr
  refine .bind (readPair_calm (hx := needX_calm ..) ..) fun _ => ?_
  split
  exact .bind (.getC _) fun _ => .bind (postIncrement_calm ..) fun _ => .modC fun _ => .after (setA_calm ..) (setZN_calm ..)

theorem mulInstr_calm (signed : Bool) (m : BitVec 3) (d : BitVec 22) (c : CtxId) : CalmRun s₀ (mulInstr signed m d c) := by
  unfold mulInstr
  refine .bind (readPair_calm (hx := .pure _) ..) fun _ => ?_
  split
  exact .bind (postIncrement_calm ..) fun _ => .modC fun _ => .of_eq rfl rfl rfl rfl

theorem divInstr_calm (signed : Bool) (m : BitVec 3) (d : BitVec 22) (c : CtxId) : CalmRun s₀ (divInstr signed m d c) := by
  unfold divInstr
  refine .bind (readPair_calm (hx := .pure _) ..) fun _ => .when (.raise _ _) fun _ => .bind (postIncrement_calm ..) fun _ => ?_
  exact .ite (.modC fun _ => .of_eq rfl rfl rfl (bit11_setBit _ (i := 3) (by decide) _)) (.modC fun _ => .of_eq rfl rfl rfl rfl)

theorem negInstr_calm (r : BitVec 21) (c : CtxId) : CalmRun s₀ (negInstr r c) := by
  unfold negInstr
  refine .bind (.needDef _) fun _ => ?_
  exact .bind (.getC _) fun _ => .when (.tagFault _) fun _ => .modC fun _ => .after (setA_calm ..) (setSumFlags_calm ..)

theorem notInstr_calm (r : BitVec 21) (c : CtxId) : CalmRun s₀ (notInstr r c) := by
  unfold notInstr
  refine .bind (.needDef _) fun _ => ?_
  exact .bind (.getC _) fun _ => .when (.tagFault _) fun _ => .modC fun _ => .after (setA_calm ..) (setZN_calm ..)

theorem clzInstr_calm (r : BitVec 21) (c : CtxId) : CalmRun s₀ (clzInstr r c) := by
  unfold clzInstr
  refine .bind (.needDef _) fun _ => ?_
  exact .bind (.getC _) fun _ => .when (.tagFault _) fun _ => .modC fun _ => .after (setA_calm ..) (setZN_calm ..)

theorem taggetInstr_calm (r : BitVec 21) (c : CtxId) : CalmRun s₀ (taggetInstr r c) := by
  unfold taggetInstr
  refine .bind (.needDef _) fun _ => ?_
  split
  · exact .undef
  · exact .modC fun _ => setA_calm ..

theorem tagsetInstr_calm (f : BitVec 25) (c : CtxId) : CalmRun s₀ (tagsetInstr f c) := by
  unfold tagsetInstr
  refine .bind (.needDef _) fun _ => ?_
  split
  · exact .undef
  · exact .bind (.getC _) fun _ => .when (.tagFault _) fun _ => .modC fun _ => setAxy_calm ..

end

end Sys2Proof.Machine

namespace Sys2Proof.Machine
open Sys2Proof

/-! ## Work counters, channels and I/O instructions -/

section
variable {s₀ : State}

theorem chainReadEffect_calm (i : Nat) (s : State) : Calm s (chainReadEffect i s) := by
  unfold chainReadEffect
  exact .ite (.of_rest rfl rfl rfl) (.refl _)

theorem sendIoReq_calm (addr : W32) (opc : IoOpc) (who : Issuer) (txid : BitVec 8) (data : TWord) (s : State) :
    Calm s (sendIoReq addr opc who txid data s) := by
  unfold sendIoReq
  exact (sendPacket_trim ..).calm

theorem sendIoResp_calm (sts : BitVec 2) (opc : IoOpc) (q : IoReq) (data : TWord) (s : State) : Calm s (sendIoResp sts opc q data s) := by
  unfold sendIoResp
  exact (sendPacket_trim ..).calm

theorem bumpTxid_calm (t : BitVec 8) (s : State) : Calm s (bumpTxid t s) := by
  unfold bumpTxid
  exact .of_rest rfl rfl rfl

theorem ipiArrive_calm (src : CoreId) (s : State) : Calm s (ipiArrive src s) := by
  unfold ipiArrive
  exact .after (setEvent_trim ..).calm (.after (setPend_trim ..).calm (modCtx_calm (.of_eq rfl rfl rfl rfl)))

theorem setWork_calm (w : BitVec 3) (k : WorkCtr) (s : State) : Calm s (setWork w k s) := by
  unfold setWork
  exact .of_rest rfl rfl rfl

theorem completeOp_calm (w : BitVec 3) (c : W64) (s : State) : Calm s (completeOp w c s) := by
  unfold completeOp
  exact .ite (setWork_calm ..) (setWork_calm ..)

theorem noticeArrive_calm (src : CoreId) (w : BitVec 3) (c : CtxId) (s : State) : Calm s (noticeArrive src w c s) := by
  unfold noticeArrive
  exact .after (setEvent_trim ..).calm (modCtx_calm (.of_eq rfl rfl rfl rfl))

theorem sendNotice_calm (w : BitVec 3) (from? : Option CtxId) (p : CoreId × CtxId) (s : State) : Calm s (sendNotice w from? p s) := by
  unfold sendNotice
  exact .ite (noticeArrive_calm ..) (.ite (.after (countEvent_trim ..).calm (sendIoReq_calm ..)) (tollRefuse_trim ..).calm)

theorem claimOp_calm (w : BitVec 3) (s : State) : Calm s (claimOp w s).2 := by
  unfold claimOp
  extract_lets k
  split
  · exact .refl s
  · exact setWork_calm ..

theorem wsubOp_calm (w : BitVec 3) (src : CoreId) (c : CtxId) (s : State) : Calm s (wsubOp w src c s).2 := by
  unfold wsubOp
  extract_lets k
  split
  · exact .refl s
  · split
    · exact .refl s
    · split
      · exact setWork_calm ..
      · exact .refl s

theorem workRead_calm {w : BitVec 3} {i : Nat} {src : CoreId} {c : CtxId} {s t : State} {v : TWord}
    (h : workRead w i src c s = some (v, t)) : Calm s t := by
  unfold workRead at h
  dsimp only at h
  split at h
  · cases h
    exact .refl s
  · cases h
    exact .refl s
  · cases h
    exact .refl s
  · have ht : (wsubOp w src c s).2 = t := congrArg Prod.snd (Option.some.inj h)
    exact ht ▸ wsubOp_calm ..
  · contradiction

theorem wcfgOp_calm (w : BitVec 3) (from? : Option CtxId) (v : W64) (s : State) : Calm s (wcfgOp w from? v s) := by
  unfold wcfgOp
  exact .after (.foldl _ (fun _ _ => sendNotice_calm ..) _ _) (setWork_calm ..)

theorem workWrite_calm {w : BitVec 3} {i : Nat} {c : Option CtxId} {v : W64} {s t : State} (h : workWrite w i c v s = some t) :
    Calm s t := by
  unfold workWrite at h
  split at h
  · cases h
    exact wcfgOp_calm ..
  · cases h
    exact .refl s
  · cases h
    exact .refl s
  · contradiction

theorem setMover_calm (ch : BitVec 3) (m : MoverCh) (s : State) : Calm s (setMover ch m s) := by
  unfold setMover
  exact .of_rest rfl rfl rfl

theorem setCw_calm (ch : BitVec 4) (k : CwCh) (s : State) : Calm s (setCw ch k s) := by
  unfold setCw
  exact .of_rest rfl rfl rfl

theorem moverStart_calm (ch : BitVec 3) (c : CtxId) (s : State) : Calm s (moverStart ch c s) := by
  unfold moverStart
  extract_lets
  split
  · exact moverLeave_calm ..
  · exact setMover_calm ..

theorem moverResume_calm (ch : BitVec 3) (s : State) : Calm s (moverResume ch s) := by
  unfold moverResume
  extract_lets
  split
  · exact moverLeave_calm ..
  · exact setMover_calm ..

theorem mctlWrite_calm (ch : BitVec 3) (c : CtxId) (v : W64) (s : State) : Calm s (mctlWrite ch c v s) := by
  unfold mctlWrite
  refine .ite (setMover_calm ..) ?_
  refine .ite (.after (moverStart_calm ..) (setMover_calm ..)) ?_
  exact .ite (.after (moverResume_calm ..) (setMover_calm ..)) (setMover_calm ..)

theorem moverWrite_calm (ch : BitVec 3) (i : Nat) (c : CtxId) (w : TWord) (s : State) : Calm s (moverWrite ch i c w s) := by
  unfold moverWrite
  extract_lets
  split
  · exact setMover_calm ..
  · exact setMover_calm ..
  · exact setMover_calm ..
  · exact setMover_calm ..
  · exact mctlWrite_calm ..
  · exact setMover_calm ..
  · exact setMover_calm ..
  · exact .refl _

theorem cwStart_calm (ch : BitVec 4) (c : CtxId) (s : State) : Calm s (cwStart ch c s) := by
  unfold cwStart
  exact .ite (setCw_calm ..) (cwLeave_calm ..)

theorem cwWrite_calm (ch : BitVec 4) (i : Nat) (c : CtxId) (w : TWord) (s : State) : Calm s (cwWrite ch i c w s) := by
  unfold cwWrite
  extract_lets
  split
  · exact setCw_calm ..
  · exact setCw_calm ..
  · exact setCw_calm ..
  · exact .ite (.after (cwStart_calm ..) (setCw_calm ..)) (setCw_calm ..)
  · exact setCw_calm ..
  · exact setCw_calm ..
  · exact .refl _

theorem ioProtection_calm {α : Type} : CalmRun s₀ (ioProtection : M α) := .throw _

theorem needIo_calm (c : CtxId) (a : W64) (mesh : Bool) (cls : BitVec 4) : CalmRun s₀ (needIo c a mesh cls) := by
  unfold needIo
  refine .get_bind fun _ _ => ?_
  refine .when (ioProtection_calm ..) fun _ => ?_
  exact .when (ioProtection_calm ..) fun _ =>
    .ite (.bind (.modify fun _ => (tollRefuse_trim ..).calm) fun _ => ioProtection_calm ..) (.pure _)

theorem needChainPort_calm (s : State) (k : Ctx) : CalmRun s₀ (needChainPort s k) := by
  unfold needChainPort
  exact .ite (.pure _) (ioProtection_calm ..)

theorem needSupPort_calm (k : Ctx) : CalmRun s₀ (needSupPort k) := by
  unfold needSupPort
  exact .ite (.pure _) (ioProtection_calm ..)

theorem localRead_calm (c : CtxId) (port : Nat) : CalmRun s₀ (localRead c port) := by
  unfold localRead
  refine .get_bind fun _ hs => ?_
  extract_lets _ _ orFault
  have horFault (u) : CalmRun s₀ (orFault u) := by
    unfold orFault
    split
    · exact .pure _
    · exact ioProtection_calm
  refine .ite (.bind (needChainPort_calm ..) fun _ => .bind (.modify fun _ => chainReadEffect_calm ..) fun _ => horFault _) ?_
  refine .ite (.pure _) ?_
  refine .ite (.pure _) ?_
  refine .ite (.bind (needSupPort_calm ..) fun _ => .pure _) ?_
  refine .ite (.pure _) ?_
  refine .ite (.bind (needSupPort_calm ..) fun _ => .pure _) ?_
  refine .ite (.when (needSupPort_calm ..) fun _ => horFault _) ?_
  refine .ite (.when (needSupPort_calm ..) fun _ => horFault _) ?_
  split
  · exact ioProtection_calm
  · split
    · exact ioProtection_calm
    · next h => exact .bind (.set (hs.trans (workRead_calm h))) fun _ => .pure _

theorem mboutWrite_calm (k : Nat) (v : W32) (s : State) : Calm s (mboutWrite k v s) := by
  unfold mboutWrite
  exact .ite (.of_rest rfl rfl rfl) (.of_rest rfl rfl rfl)

theorem chainPortWrite_calm (i : Nat) (v : W32) (s : State) : Calm s (chainPortWrite i v s) := by
  unfold chainPortWrite
  exact .ite (mboutWrite_calm ..) (.ite (.of_rest rfl rfl rfl) (.ite (.of_rest rfl rfl rfl) (.refl _)))

theorem cctlOp_calm (v : W64) : CalmRun s₀ (cctlOp v) := by
  unfold cctlOp
  exact .get_bind fun _ hs => .when .wait fun _ => .set (hs.trans (.of_lines rfl rfl (fun id => by cases id <;> rfl) rfl))

theorem localWrite_calm (c : CtxId) (port : Nat) (w : TWord) : CalmRun s₀ (localWrite c port w) := by
  unfold localWrite
  refine .get_bind fun _ hs => ?_
  refine .ite (.bind (needChainPort_calm ..) fun _ => .when ioProtection_calm fun _ => .set (hs.trans (chainPortWrite_calm ..))) ?_
  refine .ite (.set (hs.trans (ipiArrive_calm ..))) ?_
  refine .ite (.set (.after (settle_trim ..).calm (hs.trans (.of_rest rfl rfl rfl)))) ?_
  refine .ite (.bind (needSupPort_calm ..) fun _ => .set (hs.trans (.of_rest rfl rfl rfl))) ?_
  refine .ite (.set (hs.trans (.of_rest rfl rfl rfl))) ?_
  refine .ite (.bind (needSupPort_calm ..) fun _ => cctlOp_calm ..) ?_
  refine .ite (.when (needSupPort_calm ..) fun _ => .when ioProtection_calm fun _ => .set (hs.trans (moverWrite_calm ..))) ?_
  refine .ite (.when (needSupPort_calm ..) fun _ => .when ioProtection_calm fun _ => .set (hs.trans (cwWrite_calm ..))) ?_
  split
  · exact ioProtection_calm
  · split
    · exact ioProtection_calm
    · next h => exact .set (hs.trans (workWrite_calm h))

theorem ioAccess_calm (opc : IoOpc) (m : BitVec 3) (d : BitVec 22) (accA : Tag → Bool) {here : CtxId → Nat → M Unit} (c : CtxId)
    (hhere : ∀ c p, CalmRun s₀ (here c p)) : CalmRun s₀ (ioAccess opc m d accA here c) := by
  unfold ioAccess
  refine .bind (needMode_calm ..) fun _ => .bind (.getC _) fun _ => .when (.tagFault _) fun _ => ?_
  refine .bind (needBase_calm ..) fun _ => .bind (addrOf_calm ..) fun _ => .get_bind fun _ _ => .bind (needIo_calm ..) fun _ => ?_
  refine .ite (.bind (hhere _ _) fun _ => .bind (postIncrement_calm ..) fun _ => .bind (advance_calm ..) fun _ => .pure _) ?_
  refine .bind (needLane_calm ..) fun _ => .get_bind fun _ _ => ?_
  refine .bind (.modify fun _ => .after (countCtx_calm ..) (.after (bumpTxid_calm ..) (sendIoReq_calm ..))) fun _ => ?_
  exact .bind (.modC fun _ => .of_eq rfl rfl rfl rfl) fun _ => .pure _

theorem localClaim_calm (c : CtxId) (port : Nat) : CalmRun s₀ (localClaim c port) := by
  unfold localClaim
  split
  · refine .get_bind fun s hs => ?_
    exact .bind (.set (.after (countCtx_calm ..) (hs.trans (claimOp_calm ..)))) fun _ => .modC fun _ => setA_calm ..
  · exact ioProtection_calm

theorem localComplete_calm (c : CtxId) (port : Nat) : CalmRun s₀ (localComplete c port) := by
  unfold localComplete
  split
  · exact .modify fun _ => completeOp_calm ..
  · exact ioProtection_calm ..

theorem outInstr_calm (m : BitVec 3) (d : BitVec 22) (c : CtxId) : CalmRun s₀ (outInstr m d c) := by
  unfold outInstr
  exact ioAccess_calm _ _ _ _ _ fun _ _ => .bind (.getC _) fun _ => localWrite_calm ..

theorem inInstr_calm (m : BitVec 3) (d : BitVec 22) (c : CtxId) : CalmRun s₀ (ioAccess .read m d (fun _ => true) (fun c port => do
    let w ← localRead c port
    modC c fun k => k.setA w) c) := ioAccess_calm _ _ _ _ _ fun _ _ => .bind (localRead_calm ..) fun _ => .modC fun _ => setA_calm ..

end

end Sys2Proof.Machine

namespace Sys2Proof.Machine
open Sys2Proof

/-! ## Rhaha words and responses to I/O requests -/

section
variable {s₀ : State}

theorem rhAddr_calm (t : Tag) (v : TWord) : CalmRun s₀ (rhAddr t v) := by
  unfold rhAddr
  exact .ite (.pure _) (.tagFault _)

theorem rhPlain_calm (v : TWord) : CalmRun s₀ (rhPlain v) := by
  unfold rhPlain
  exact .ite (.pure _) (.tagFault _)

theorem rhRead_calm (c : CtxId) (p : BitVec 8) : CalmRun s₀ (rhRead c p) := by
  unfold rhRead
  refine .bind (.getC _) fun _ => ?_
  extract_lets source
  have hsource (u) : CalmRun s₀ (source u) := .bind (.getC _) fun _ => .pure _
  exact .ite (.bind (readSlot_calm ..) fun _ => hsource ()) (hsource ())

theorem rhLoad_calm (c : CtxId) (a : W64) (n : Nat) : CalmRun s₀ (rhLoad c a n) := by
  unfold rhLoad
  exact .bind (needRows_calm ..) fun _ => .bind (translateCtx_calm ..) fun _ => .pure _

theorem rhStore_calm (c : CtxId) (acts : List RhAct) (a : W64) (n : Nat) (w : TWord) : CalmRun s₀ (rhStore c acts a n w) := by
  unfold rhStore
  refine .bind (needRows_calm ..) fun _ => ?_
  refine .bind (translateCtx_calm ..) fun _ => ?_
  refine .ite (.pure _) ?_
  refine .ite (.pure _) ?_
  refine .get_bind fun _ _ => ?_
  refine .bind (prepPhys_calm ..) fun _ => ?_
  refine .bind (oldWord_calm ..) fun _ => ?_
  split
  · exact .pure _
  · exact .when (.raise _ _) fun _ => .pure _

theorem rhSum_calm (c : CtxId) (o : SumOp) (v : TWord) : CalmRun s₀ (rhSum c o v) := by
  unfold rhSum
  refine .bind (.getC _) fun _ => ?_
  refine .when (.tagFault _) fun _ => ?_
  exact .when (.tagFault _) fun _ => .modC fun _ => .ite (setSumFlags_calm ..) (.after (setA_calm ..) (setSumFlags_calm ..))

theorem rhLogic_calm (c : CtxId) (f : W64 → W64 → W64) (v : TWord) : CalmRun s₀ (rhLogic c f v) := by
  unfold rhLogic
  refine .bind (.getC _) fun _ => ?_
  exact .when (.tagFault _) fun _ => .when (.tagFault _) fun _ => .modC fun _ => .after (setA_calm ..) (setZN_calm ..)

theorem rhMul_calm (c : CtxId) (signed : Bool) (v : TWord) : CalmRun s₀ (rhMul c signed v) := by
  unfold rhMul
  refine .bind (.getC _) fun _ => ?_
  exact .bind (rhPlain_calm ..) fun _ => .bind (rhPlain_calm ..) fun _ => .modC fun _ => .of_eq rfl rfl rfl rfl

theorem rhDiv_calm (c : CtxId) (signed : Bool) (v : TWord) : CalmRun s₀ (rhDiv c signed v) := by
  unfold rhDiv
  refine .bind (.getC _) fun _ => .bind (rhPlain_calm ..) fun _ => .bind (rhPlain_calm ..) fun _ => .when (.raise _ _) fun _ => ?_
  exact .ite (.modC fun _ => .of_eq rfl rfl rfl (bit11_setBit _ (i := 3) (by decide) _)) (.modC fun _ => .of_eq rfl rfl rfl rfl)

theorem rhIo_calm (c : CtxId) (write slot : Bool) (v data : TWord) : CalmRun s₀ (rhIo c write slot v data) := by
  unfold rhIo
  refine .bind (rhAddr_calm ..) fun _ => .when (.tagFault _) fun _ => .get_bind fun _ _ => .bind (needIo_calm ..) fun _ => ?_
  extract_lets move
  have hmove (u) : CalmRun s₀ (move u) := .pure _
  refine .ite (.get_bind fun s hs => ?_) (hmove ())
  extract_lets back
  have hback (u) : CalmRun s₀ (back u) := .bind (.set hs) fun _ => hmove ()
  exact .ite (.bind (localWrite_calm ..) fun _ => hback ()) (.bind (localRead_calm ..) fun _ => hback ())

theorem rhMove_calm (c : CtxId) (slot : Bool) (p : BitVec 8) (v : TWord) (k : RhWork) : CalmRun s₀ (rhMove c slot p v k) := by
  unfold rhMove
  refine .bind (.getC _) fun _ => ?_
  refine .ite (.bind (.modC fun _ => setSlot_calm ..) fun _ => .pure _) ?_
  split
  · exact .bind (.modC fun _ => setX_calm ..) fun _ => .pure _
  · exact .bind (rhSum_calm ..) fun _ => .pure _
  · exact .bind (rhSum_calm ..) fun _ => .pure _
  · exact .bind (rhLogic_calm ..) fun _ => .pure _
  · exact .bind (rhLogic_calm ..) fun _ => .pure _
  · exact .bind (rhLogic_calm ..) fun _ => .pure _
  · exact .bind (rhLogic_calm ..) fun _ => .pure _
  · exact .bind (rhLogic_calm ..) fun _ => .pure _
  · exact .bind (rhLogic_calm ..) fun _ => .pure _
  · exact .bind (rhSum_calm ..) fun _ => .pure _
  · exact .bind (rhPlain_calm ..) fun _ => .bind (rhPlain_calm ..) fun _ => .bind (.modC fun _ => setA_calm ..) fun _ => .pure _
  · exact .bind (rhMul_calm ..) fun _ => .pure _
  · exact .bind (rhMul_calm ..) fun _ => .pure _
  · exact .bind (rhDiv_calm ..) fun _ => .pure _
  · exact .bind (rhDiv_calm ..) fun _ => .pure _
  · exact .bind (rhAddr_calm ..) fun _ => .bind (rhLoad_calm ..) fun _ => .pure _
  · exact .bind (rhAddr_calm ..) fun _ => .bind (rhLoad_calm ..) fun _ => .pure _
  · exact .bind (rhAddr_calm ..) fun _ => .bind (readSlot_calm ..) fun _ => .bind (rhStore_calm ..) fun _ => .pure _
  · exact .bind (rhAddr_calm ..) fun _ => .bind (readSlot_calm ..) fun _ => .bind (rhStore_calm ..) fun _ => .pure _
  · exact .bind (rhAddr_calm ..) fun _ => .pure _
  · exact .bind (rhAddr_calm ..) fun _ => .pure _
  · exact .bind (rhAddr_calm ..) fun _ => .pure _
  · exact .bind (rhPlain_calm ..) fun _ => .pure _
  · exact .bind (rhPlain_calm ..) fun _ => .pure _
  · exact .bind (rhPlain_calm ..) fun _ => .pure _
  · exact .bind (rhPlain_calm ..) fun _ => .bind (.needDef _) fun _ => .pure _
  · exact .bind (rhIo_calm ..) fun _ => .pure _
  · exact .bind (readSlot_calm ..) fun _ => .bind (rhIo_calm ..) fun _ => .pure _
  · exact .undef

theorem inSlot_calm {α : Type} (slot : Bool) {m : M α} (hm : CalmRun s₀ m) : CalmRun s₀ (inSlot slot m) := by
  refine ⟨fun s hs => ?_⟩
  have h := hm.carries s hs
  unfold inSlot
  simp only [tryCatch, tryCatchThe, MonadExceptOf.tryCatch, EStateM.tryCatch]
  cases e : m s with
  | ok a t => rw [e] at h; exact h
  | error x t =>
    rw [e] at h
    cases x with
    | exc i => exact h
    | wait => exact h
    | illegal n f => exact h

theorem rhTarget_calm (c : CtxId) (v : W64) (rh : Option Bool) : CalmRun s₀ (rhTarget c v rh) := by
  unfold rhTarget
  exact .bind (needCanonical_calm ..) fun _ => .bind (needAligned_calm ..) fun _ => targetCheck_calm ..

theorem rhPrepare_calm (c : CtxId) (k : RhWork) : CalmRun s₀ (rhPrepare c k) := by
  unfold rhPrepare
  refine .bind (.getC _) fun _ => ?_
  split
  · exact .bind (rhTarget_calm ..) fun _ => .pure _
  · exact .bind (rhTarget_calm ..) fun _ => .get_bind fun _ _ => .when .undef fun _ => .pure _
  · refine .bind (.needDef _) fun _ => ?_
    refine .bind (needCanonical_calm ..) fun _ => ?_
    refine .bind (needAligned_calm ..) fun _ => ?_
    exact .bind (pushPhys_calm ..) fun _ => .bind (targetCheck_calm ..) fun _ => .bind (needFreeWindow_calm ..) fun _ => .pure _
  · refine .bind (.needDef _) fun _ => ?_
    refine .bind (needRows_calm ..) fun _ => ?_
    refine .bind (translateCtx_calm ..) fun _ => ?_
    refine .get_bind fun _ _ => ?_
    refine .bind (readPhys_calm ..) fun _ => ?_
    exact .when (.tagFault _) fun _ => .bind (needAligned_calm ..) fun _ => .bind (needCallerWindow_calm ..) fun _ => .pure _
  · exact .pure _

theorem rhahaZeroSlots_calm (k : Ctx) : CtxCalm k (rhahaZeroSlots k) :=
  .foldl _ (fun _ _ => .ite (setSlot_calm ..) (.refl _)) _ _

/-- A control trigger is calm, or it is a TRAP, which takes its exception. -/
theorem rhEffect_fair (c : CtxId) (ctl : RhCtl) (v : W64) : FairRun c s₀ (rhEffect c ctl v) := by
  unfold rhEffect
  split
  case h_7 => exact FairRun.of_entry (.then (takeSync_entry ..) fun _ => .pure _)
  all_goals refine FairRun.of_calm ?_
  · exact .bind (advance_calm ..) fun _ => .pure _
  · exact .bind (.modC fun _ => .of_eq rfl rfl rfl rfl) fun _ => .pure _
  · exact .bind (.modC fun _ => .of_eq rfl rfl rfl (bit11_setBit _ (i := 15) (by decide) _)) fun _ => .pure _
  · refine .bind (.modC fun k => ?_) fun _ => .pure _
    have hk := (setSp_calm k (k.stk.sp - 8)).trans (callWindow_calm _)
    exact (hk.trans (rhahaZeroSlots_calm _)).trans (.of_eq rfl rfl rfl rfl)
  · exact .bind (.modC fun k => .trans (.after (retWindow_calm ..) (setSp_calm ..)) (.of_eq rfl rfl rfl rfl)) fun _ => .pure _
  · exact .bind (.modC fun _ => .of_eq rfl rfl rfl rfl) fun _ => .pure _
  · refine .get_bind fun _ _ => .ite (.bind (.modify fun _ => milestone_calm ..) fun _ => ?_) .wait
    exact .bind (.modC fun _ => .of_eq rfl rfl rfl rfl) fun _ => .bind (advance_calm ..) fun _ => .pure _

theorem rhMiles_calm (c : CtxId) (ms : List InMile) (s : State) : Calm s (rhMiles c ms s) := by
  unfold rhMiles
  exact .foldl _ (fun _ _ => milestone_calm ..) _ _

/-- The end of a word is calm, or takes the exception of its trigger or of a late response. -/
theorem rhFinish_fair (c : CtxId) (r : RhRest) : FairRun c s₀ (rhFinish c r) := by
  unfold rhFinish
  refine .get_bind fun s hs => ?_
  extract_lets effect go
  have heffect (u) : FairRun c s (effect u) := by
    unfold effect
    cases r.late with
    | true => exact FairRun.bind_entry (rhEffect_fair ..) fun _ => .then (takeSync_entry ..) fun _ => .pure _
    | false => exact EndsIn.then (fun _ _ h => h.trans_calm) (rhEffect_fair ..) fun _ => .pure _
  have hgo : FairRun c s go :=
    .bind (.modC fun _ => .of_eq rfl rfl rfl rfl) fun _ => .ite (.bind (.modify fun _ => rhMiles_calm ..) fun _ => heffect ()) (heffect ())
  split
  · next t h => exact .set_pure (hs.trans_fair (hgo.of_ok h))
  · next t h => exact .set_pure (hs.trans_fair ((hgo.of_ok h).trans_calm (dropFills_calm ..)))
  · next t h => exact .set_pure (hs.trans_fair (.inl ((rollback_calm (hgo.of_error h)).trans (modCtx_calm (.of_eq rfl rfl rfl rfl)))))
  · next t _ h => exact .set_throw (hs.undoable.trans (hgo.of_error h))

theorem rhLocal_calm (c : CtxId) (a : RhIo) : CalmRun s₀ (rhLocal c a) := by
  unfold rhLocal
  exact .ite (localWrite_calm ..) (.bind (localRead_calm ..) fun _ => .ite (.modC fun _ => setSlot_calm ..) (.pure _))

theorem rhSend_calm (c : CtxId) (a : RhIo) : CalmRun s₀ (rhSend c a) := by
  unfold rhSend
  refine .bind (needLane_calm ..) fun _ => ?_
  refine .get_bind fun _ _ => ?_
  refine .bind (.modify fun _ => .after (countCtx_calm ..) (.after (bumpTxid_calm ..) (sendIoReq_calm ..))) fun _ => ?_
  exact .modC fun _ => .of_eq rfl rfl rfl rfl

theorem rhAct_calm (c : CtxId) (a : RhAct) : CalmRun s₀ (rhAct c a) := by
  unfold rhAct
  split
  · exact .get_bind fun _ _ => .ite (.bind (rhLocal_calm ..) fun _ => .pure _) (.bind (rhSend_calm ..) fun _ => .pure _)
  · exact .get_bind fun _ _ => .bind (readPhys_calm ..) fun _ => .when (.modC fun _ => setSlot_calm ..) fun _ => .pure _
  · exact .bind (prepPhys_calm ..) fun _ => .bind (commitPhys_calm ..) fun _ => .pure _

theorem rhRun_calm (c : CtxId) (r : RhRest) (acts : List RhAct) : CalmRun s₀ (rhRun c r acts) := by
  induction acts with
  | nil => exact .pure _
  | cons a acts ih =>
    unfold rhRun
    refine .get_bind fun s hs => ?_
    split
    · next t h => exact .bind (.set (hs.trans ((rhAct_calm ..).of_ok h))) fun _ => ih
    · next t h =>
      exact .bind (.set ((hs.trans ((rhAct_calm ..).of_ok h)).trans (modCtx_calm (.of_eq rfl rfl rfl rfl)))) fun _ => .pure _
    · next t h =>
      have ht := rollback_calm ((rhAct_calm ..).of_error h).undoable
      exact .bind (.set ((hs.trans ht).trans (modCtx_calm (.of_eq rfl rfl rfl rfl)))) fun _ => .pure _
    · next t _ h => exact .bind (.set (hs.trans ((rhAct_calm ..).of_error h))) fun _ => .throw _

theorem rhRest_fair (c : CtxId) (r : RhRest) : FairRun c s₀ (rhRest c r) := by
  unfold rhRest
  exact .bind (rhRun_calm ..) fun _ => .ite (rhFinish_fair ..) (FairRun.of_calm (.pure _))

theorem rhWord_fair (w : W32) (c : CtxId) : FairRun c s₀ (rhWord w c) := by
  unfold rhWord
  refine .bind (.getC _) fun _ => ?_
  split
  · exact rhRest_fair ..
  · refine .bind (.needDef _) fun _ => .bind (rhRead_calm ..) fun _ => .bind (rhRead_calm ..) fun _ => ?_
    split
    · exact .throw _
    · exact FairRun.of_calm (inSlot_calm _ .undef)
    · refine .bind (.needDef _) fun _ => .bind (inSlot_calm _ (.needDef _)) fun _ => .bind (.getC _) fun _ => ?_
      refine .bind (rhMove_calm ..) fun _ => .bind (inSlot_calm _ (rhMove_calm ..)) fun _ => ?_
      exact .bind (inSlot_calm _ (rhPrepare_calm ..)) fun _ => .get_bind fun _ _ => rhRest_fair ..

theorem restore_loose (u : RhUndo) (k : Ctx) : CtxLoose k (u.restore k) := by
  unfold RhUndo.restore
  extract_lets k1
  have h1 : CtxCalm k k1 := .after (setX_calm ..) (setA_calm ..)
  refine h1.loose.trans (CtxLoose.trans ?_ (CtxCalm.loose (.foldl _ (fun _ _ => .ite (setSlot_calm ..) (.refl _)) _ _)))
  exact ⟨id, id⟩

theorem ioFail_fair (c : CtxId) (vec : BitVec 6) (off : W64) (s : State) : Fair c s (ioFail c vec off s) := by
  unfold ioFail
  extract_lets back
  have hback : Mild c s (s.modCtx c fun k => { back k with io := none, rest := none }) := by
    refine modCtx_mild (CtxLoose.trans (l := back (s.getCtx c)) ?_ ⟨id, id⟩)
    unfold back
    split
    · exact restore_loose ..
    · exact .refl _
  have h := (takeSync_entry (s₀ := s) c ⟨vec, 0, none, off, false, false⟩).out _ hback
  split
  · next t ht =>
    rw [ht] at h
    exact .inr (h.calm (.after (dropFills_calm ..) (accountChange_eq ..).calm))
  · next t ht =>
    rw [ht] at h
    exact .inl (rollback_calm h)

theorem ioFinish_fair {s t : State} (h : Calm s t) (c : CtxId) (w : IoWait) (late : Bool) : Fair c s (ioFinish c w late s t) := by
  unfold ioFinish
  split
  · exact .inl (.after (retire_calm ..) (h.trans (modCtx_calm (.of_eq rfl rfl rfl rfl))))
  · next r _ =>
    have hr := rhRest_fair (s₀ := t) c { r with late := r.late || late }
    split
    · next u hu => exact h.trans_fair ((hr.of_ok hu).trans_calm (retire_calm ..))
    · next u hu => exact h.trans_fair ((hr.of_ok hu).trans_calm (accountChange_eq ..).calm)
    · next u hu => exact .inl (rollback_calm (h.undoable.trans (hr.of_error hu)))

theorem ioMile_calm (c : CtxId) (m : InMile) (s : State) : Calm s (ioMile c m s) := by
  unfold ioMile
  split
  · exact rhMiles_calm ..
  · exact modCtx_calm (.of_eq rfl rfl rfl rfl)

theorem ioDone_fair (c : CtxId) (w : IoWait) (r : IoResp) (s : State) : Fair c s (ioDone c w r s) := by
  unfold ioDone
  split
  · exact ioFail_fair ..
  · extract_lets v t t1 t2
    have ht : Calm s t := modCtx_calm (.after (setDest_calm ..) (.after (setY_calm ..) (.of_eq rfl rfl rfl rfl)))
    have ht1 : Calm s t1 := .ite (.after (countCtx_calm ..) ht) ht
    have ht2 : Calm s t2 := .ite (.after (ioMile_calm ..) ht1) ht1
    exact ioFinish_fair ht2 ..

theorem ioLate_fair (c : CtxId) (w : IoWait) (s : State) : Fair c s (ioLate c w s) := by
  have h : Calm s (s.modCtx c fun k => { k with io := none }) := modCtx_calm (.of_eq rfl rfl rfl rfl)
  unfold ioLate
  split
  · exact ioFinish_fair h ..
  · exact ioFail_fair ..

end

end Sys2Proof.Machine

namespace Sys2Proof.Machine
open Sys2Proof

/-! ## Resets, the start and key generation

A reset or a start leaves every context in the supervisor: it is not calm, but as O60 says of a step of any context. -/

section
variable {s₀ : State}

theorem Lawful.of_tame {s t : State} (h : ∀ c, Tame c s t) : Lawful s t := by
  have h0 := h 0
  exact ⟨fun ⟨hrun, hwin, hcache⟩ => ⟨h0.run hrun, h0.win hwin, h0.caches hcache⟩, h0.config, fun c _ => (h c).user⟩

/-- Every context ends in the supervisor. -/
theorem Tame.of_sup {c : CtxId} {s t : State} (run : OneRunning s → OneRunning t)
    (win : (∀ d, (s.getCtx d).win.cur.toNat < 7) → ∀ d, (t.getCtx d).win.cur.toNat < 7) (caches : CachesInv s → CachesInv t)
    (config : s.boot.locked = true → ConfigKept s t) (sup : ∀ d, bit (t.getCtx d).st 11 = true) : Tame c s t :=
  ⟨run, win, caches, config, fun _ hu => absurd ((sup c).symm.trans hu) (by decide)⟩

/-- Every context starts in the supervisor. -/
theorem resetSt_sup (c : CtxId) (two : Bool) : bit (resetSt c two) 11 = true := by
  revert c two
  decide

/-- Every context changed, and how far each may run and its window did not. -/
theorem setCtxs_run {s t : State} {f : CtxId → Ctx → Ctx} (ht : ∀ c, t.getCtx c = f c (s.getCtx c))
    (h : ∀ c k, (f c k).run = k.run) : OneRunning s → OneRunning t := by
  intro hs c d hc hd
  rw [ht, h] at hc hd
  exact hs c d hc hd

theorem enterInit_calm (s : State) : Calm s (enterInit s) := by
  unfold enterInit
  exact .after (ackFence_calm ..) (.after (paceApply_calm ..) (.of_rest rfl rfl rfl))

theorem endKeys_calm (s : State) : Calm s (endKeys s) := by
  unfold endKeys
  exact .ite (.of_rest rfl rfl rfl) (.after (alarmFire_alarmed ..).calm (.of_rest rfl rfl rfl))

theorem warmMesh_calm (s : State) : Calm s (warmMesh s) := by
  unfold warmMesh
  exact .after (.foldl _ (fun _ _ => (letGo_trim ..).calm) _ _) (.of_rest rfl rfl rfl)

/-- Only C0 runs after a reset. -/
theorem resetCtxs_running {two : Bool} {vec : W64} {s : State} (hs : s.ctx = resetCtxs two vec) : OneRunning s := by
  have hc (c : CtxId) (h : (s.getCtx c).run = .running) : c = 0 := by
    rw [State.getCtx, hs] at h
    rcases ctxId_cases c with rfl | rfl | rfl | rfl
    · rfl
    all_goals cases h
  exact fun c d hrc hrd => (hc c hrc).trans (hc d hrd).symm

theorem resetCtxs_eq {two : Bool} {vec : W64} {s : State} (hs : s.ctx = resetCtxs two vec) (c : CtxId) :
    ∃ r, s.getCtx c = Ctx.reset c two vec r := by
  rw [State.getCtx, hs]
  rcases ctxId_cases c with rfl | rfl | rfl | rfl <;> exact ⟨_, rfl⟩

/-- What a warm reset clears at once, with the boot state b that it sets. -/
theorem warmState_tame (c : CtxId) (b : Boot) (s : State) (hb : b.locked = s.boot.locked) : Tame c s (warmState { s with boot := b }) := by
  have hctx : (warmState { s with boot := b }).ctx = resetCtxs (twoWorlds s) (resetVector s) := rfl
  have hcaches : Trim s { s with caches := { s.caches with cctl := 0, l1i := [] } } := by
    refine ⟨.of_rest rfl rfl, fun id => ?_, .refl _⟩
    cases id
    · exact ⟨fun _ => rfl, fun _ h => absurd h List.not_mem_nil⟩
    · exact .refl _
    · exact .refl _
  refine .of_sup (fun _ => resetCtxs_running hctx) (fun _ d => ?_) (fun h => hcaches.cachesInv h) (fun hl => ?_) (fun d => ?_)
  · obtain ⟨r, hr⟩ := resetCtxs_eq hctx d
    rw [hr]
    exact Nat.succ_pos 6
  · exact ⟨hb.trans hl, rfl, rfl, rfl, rfl, rfl⟩
  · obtain ⟨r, hr⟩ := resetCtxs_eq hctx d
    rw [hr]
    exact resetSt_sup ..

theorem beginReset_tame (c : CtxId) (k : ResetKind) (s : State) : Tame c s (beginReset k s) := by
  unfold beginReset
  refine Tame.trans_calm (Tame.trans_calm ((endKeys_calm s).trans_tame (warmState_tame c _ _ ?_)) (warmMesh_calm _)) (drainStep_calm _)
  exact (endKeys_calm s).locked.symm

theorem held_calm (s : State) : Calm s (held s) := by
  unfold held
  exact .of_rest rfl rfl rfl

theorem idlePorts_calm (s : State) : Calm s (idlePorts s) := by
  unfold idlePorts
  exact .of_rest rfl rfl rfl

/-- The start, with the configuration locked in t. -/
theorem startCore_tame (c : CtxId) (s : State) : Tame c s (startCore s) := by
  unfold startCore
  extract_lets t
  have ht : t.ctx = s.ctx ∧ t.caches = s.caches ∧ t.rel = s.rel ∧ t.boot.locked = true ∧
      (s.boot.locked = true → t.chain = s.chain) := by
    unfold t lockConfig
    split
    · next h => exact ⟨rfl, rfl, rfl, h, fun _ => rfl⟩
    · next h => exact ⟨rfl, rfl, rfl, rfl, fun hl => absurd hl h⟩
  obtain ⟨hctx, hcaches, hrel, hlock, hchain⟩ := ht
  refine Tame.trans_calm ?_ (settle_trim ..).calm
  have hstart (d : CtxId) : State.getCtx { t with
      boot := { t.boot with phase := .start }
      drover := { t.drover with ranSince := t.time.tick }
      ctx := ⟨coreCtx t 0 t.ctx.q0, coreCtx t 1 t.ctx.q1, coreCtx t 2 t.ctx.q2, coreCtx t 3 t.ctx.q3⟩ } d =
        coreCtx t d (s.getCtx d) := by
    rw [State.getCtx, State.getCtx, ← hctx]
    rcases ctxId_cases d with rfl | rfl | rfl | rfl <;> rfl
  refine .of_sup (setCtxs_run hstart fun _ _ => rfl) (fun hs d => ?_) (fun h => ?_) (fun hl => ?_) (fun d => ?_)
  · rw [hstart]
    exact hs d
  · unfold CachesInv wayLocked at h ⊢
    simp only [hcaches, hrel]
    exact h
  · rw [ConfigKept]
    simp only [hchain hl, and_true]
    exact hlock
  · rw [hstart]
    exact resetSt_sup ..

theorem keyFail_calm (s : State) : Calm s (keyFail s) := by
  unfold keyFail
  exact .after (endKeys_calm ..) (.after (wayside_trim ..).calm (.of_rest rfl rfl rfl))

theorem keyRead_calm (s : State) : Calm s (keyRead s) := by
  unfold keyRead
  refine .ite (keyFail_calm ..) ?_
  refine .ite (.after (tollRefuse_trim ..).calm (keyFail_calm ..)) ?_
  exact .after (bumpTxid_calm ..) (.after (sendIoReq_calm ..) (.of_rest rfl rfl rfl))

theorem keyDone_tame (c : CtxId) (ws : List W64) (s : State) : Tame c s (keyDone ws s) := by
  have h : Calm s (if s.keys.deferred = 0 then { s with keys := makeKeys ws s.keys } else s) := .ite (.of_rest rfl rfl rfl) (.refl s)
  exact (h.trans (endKeys_calm _)).trans_tame (startCore_tame c _)

theorem keyWord_tame (c : CtxId) (w : W64) (s : State) : Tame c s (keyWord w s) := by
  unfold keyWord
  extract_lets g bad g' keys t
  have ht : Calm s t := .of_rest rfl rfl rfl
  split
  · exact (ht.trans (keyFail_calm _)).tame c
  · split
    · exact ht.trans_tame (keyDone_tame ..)
    · exact (ht.trans (keyRead_calm _)).tame c

theorem goStart_tame (c : CtxId) (s : State) : Tame c s (goStart s) := by
  unfold goStart
  split
  · exact startCore_tame c s
  · have h : Calm s { s with boot := { s.boot with phase := .keys }, keys := { s.keys with gen := KeyGen.reset } } := .of_rest rfl rfl rfl
    exact (h.trans (keyRead_calm _)).tame c

end

end Sys2Proof.Machine

namespace Sys2Proof.Machine
open Sys2Proof

/-! ## Capabilities and the Causeway -/

section
variable {s₀ : State}

theorem setCapXY_calm (k : Ctx) (p : CapPair) : CtxCalm k (k.setCapXY p) := .after (setY_calm ..) (setX_calm ..)

theorem needCapForm_calm (always : Bool) (useS : Bool) (useSel : Bool) (r : BitVec 20) : CalmRun s₀ (needCapForm always useS useSel r) := by
  unfold needCapForm
  exact .get_bind fun _ _ => .needDef _

theorem needXY_calm (c : CtxId) : CalmRun s₀ (needXY c) := by
  unfold needXY
  exact .get_bind fun _ _ => .bind (needCap_calm ..) fun _ => .pure _

theorem needUnsealed_calm (c : CtxId) : CalmRun s₀ (needUnsealed c) := by
  unfold needUnsealed
  exact .bind (needXY_calm ..) fun _ => .when (.capFault _ _) fun _ => .pure _

theorem capFaultFree_calm {α : Type} : CalmRun s₀ (capFaultFree : M α) := by
  unfold capFaultFree
  exact .bind (freeW_calm ..) fun _ => .capFault _ _

theorem needTagA_calm (c : CtxId) (ok : Tag → Bool) : CalmRun s₀ (needTagA c ok) := by
  unfold needTagA
  exact .bind (.getC _) fun _ => .ite (.pure _) capFaultFree_calm

theorem needPlainA_calm (c : CtxId) : CalmRun s₀ (needPlainA c) := by
  unfold needPlainA
  exact needTagA_calm ..

theorem putXY_calm (c : CtxId) (p : CapPair) : CalmRun s₀ (putXY c p) := by
  unfold putXY
  exact .modify fun _ => modCtx_calm (setCapXY_calm ..)

theorem putInt_calm (c : CtxId) (v : W64) : CalmRun s₀ (putInt c v) := by
  unfold putInt
  exact .modC fun _ => setA_calm ..

theorem capInspect_calm (f : CapPair → W64) (r : BitVec 20) (c : CtxId) : CalmRun s₀ (capInspect f r c) := by
  unfold capInspect
  exact .bind (needCapForm_calm ..) fun _ => .bind (needXY_calm ..) fun _ => putInt_calm ..

theorem anarbInstr_calm (r : BitVec 20) (c : CtxId) : CalmRun s₀ (anarbInstr r c) := by
  unfold anarbInstr
  refine .bind (needCapForm_calm ..) fun _ => ?_
  refine .bind (needPlainA_calm ..) fun _ => ?_
  refine .bind (needUnsealed_calm ..) fun _ => ?_
  exact .when (.capFault _ _) fun _ => .when (.capFault _ _) fun _ => .when (.capFault _ _) fun _ => putXY_calm ..

theorem anartInstr_calm (r : BitVec 20) (c : CtxId) : CalmRun s₀ (anartInstr r c) := by
  unfold anartInstr
  refine .bind (needCapForm_calm ..) fun _ => ?_
  refine .bind (needPlainA_calm ..) fun _ => ?_
  refine .bind (needUnsealed_calm ..) fun _ => ?_
  exact .when (.capFault _ _) fun _ => .when (.capFault _ _) fun _ => .when (.capFault _ _) fun _ => putXY_calm ..

theorem amaskInstr_calm (r : BitVec 20) (c : CtxId) : CalmRun s₀ (amaskInstr r c) := by
  unfold amaskInstr
  refine .bind (needCapForm_calm ..) fun _ => ?_
  exact .bind (.getC _) fun _ => .when (.tagFault _) fun _ => .bind (needUnsealed_calm ..) fun _ => putXY_calm ..

theorem asealInstr_calm (r : BitVec 20) (c : CtxId) : CalmRun s₀ (asealInstr r c) := by
  unfold asealInstr
  refine .bind (needCapForm_calm ..) fun _ => ?_
  refine .bind (needPlainA_calm ..) fun _ => ?_
  refine .bind (needUnsealed_calm ..) fun _ => ?_
  exact .when (.capFault _ _) fun _ => .bind (.getC _) fun _ => .when (.capFault _ _) fun _ => putXY_calm ..

theorem aopenInstr_calm (r : BitVec 20) (c : CtxId) : CalmRun s₀ (aopenInstr r c) := by
  unfold aopenInstr
  refine .bind (needCapForm_calm ..) fun _ => ?_
  refine .bind (needXY_calm ..) fun _ => ?_
  exact .when (.capFault _ _) fun _ => .bind (.getC _) fun _ => .when (.capFault _ _) fun _ => putXY_calm ..

theorem capAddress_calm (c : CtxId) (kind : AccKind) (extra : Nat) : CalmRun s₀ (capAddress c kind extra) := by
  unfold capAddress
  refine .bind (needTagA_calm ..) fun _ => ?_
  refine .bind (needCanonical_calm ..) fun _ => ?_
  exact .when (.capFault _ _) fun _ => .bind (needDdc_calm ..) fun _ => .get_bind fun _ _ => .when (.capFault _ _) fun _ => .pure _

theorem aldInstr_calm (r : BitVec 20) (c : CtxId) : CalmRun s₀ (aldInstr r c) := by
  unfold aldInstr
  refine .bind (needCapForm_calm ..) fun _ => ?_
  refine .bind (capAddress_calm ..) fun _ => ?_
  refine .bind (translateCtx_calm ..) fun _ => ?_
  refine .bind (translateCtx_calm ..) fun _ => ?_
  exact .bind (readPhys_calm ..) fun _ => .bind (readPhys_calm ..) fun _ => .modC fun _ => setCapXY_calm ..

theorem astInstr_calm (r : BitVec 20) (c : CtxId) : CalmRun s₀ (astInstr r c) := by
  unfold astInstr
  refine .bind (needCapForm_calm ..) fun _ => ?_
  refine .bind (needTagA_calm ..) fun _ => ?_
  refine .bind (needCanonical_calm ..) fun _ => ?_
  refine .bind (needXY_calm ..) fun _ => ?_
  refine .bind (capAddress_calm ..) fun _ => ?_
  refine .bind (translateCtx_calm ..) fun _ => ?_
  refine .bind (translateCtx_calm ..) fun _ => ?_
  refine .bind (prepPhys_calm ..) fun _ => ?_
  refine .bind (prepPhys_calm ..) fun _ => ?_
  exact .bind (needPaths_calm ..) fun _ => .bind (commitPhys_calm ..) fun _ => commitPhys_calm ..

theorem agetInstr_calm (r : BitVec 20) (c : CtxId) : CalmRun s₀ (agetInstr r c) := by
  unfold agetInstr
  exact .bind (needCapForm_calm ..) fun _ => .bind (.needDef _) fun _ => .modC fun _ => setCapXY_calm ..

theorem aputInstr_calm (r : BitVec 20) (c : CtxId) : CalmRun s₀ (aputInstr r c) := by
  unfold aputInstr
  refine .bind (needCapForm_calm ..) fun _ => .bind (.needDef _) fun _ => .bind (.getC _) fun _ => .bind (.needPriv _) fun _ => ?_
  refine .when capFaultFree_calm fun _ => .bind (needUnsealed_calm ..) fun _ => .modC fun _ => ?_
  split <;> exact .of_eq rfl rfl rfl rfl

theorem ajmpInstr_calm (r : BitVec 20) (c : CtxId) : CalmRun s₀ (ajmpInstr r c) := by
  unfold ajmpInstr
  refine .bind (needCapForm_calm ..) fun _ => ?_
  refine .bind (needTagA_calm ..) fun _ => ?_
  refine .bind (needCanonical_calm ..) fun _ => ?_
  refine .when (.capFault _ _) fun _ => ?_
  refine .bind (needUnsealed_calm ..) fun _ => ?_
  exact .when (.capFault _ _) fun _ => .when (.capFault _ _) fun _ => .modC fun _ => .of_eq rfl rfl rfl rfl

theorem agateInstr_calm (r : BitVec 20) (c : CtxId) : CalmRun s₀ (agateInstr r c) := by
  unfold agateInstr
  refine .bind (needCapForm_calm ..) fun _ => ?_
  refine .bind (.getC _) fun _ => ?_
  refine .bind (.getC _) fun _ => ?_
  refine .bind (.needDef _) fun _ => ?_
  refine .bind (needXY_calm ..) fun _ => ?_
  refine .when (.capFault _ _) fun _ => ?_
  refine .when (.capFault _ _) fun _ => ?_
  refine .get_bind fun _ _ => ?_
  refine .bind (needCap_calm ..) fun _ => ?_
  refine .when (.capFault _ _) fun _ => ?_
  refine .when (.capFault _ _) fun _ => ?_
  exact .modC fun _ => .trans (.after (setA_calm ..) (.ite (.refl _) (.after (setSlot_calm ..) (setSlot_calm ..)))) (.of_eq rfl rfl rfl rfl)

theorem needSealKey_calm : CalmRun s₀ (needSealKey) := by
  unfold needSealKey
  exact .get_bind fun _ _ => .ite (.pure _) (.capFault _ _)

theorem sealInstr_calm (r : BitVec 20) (c : CtxId) : CalmRun s₀ (sealInstr r c) := by
  unfold sealInstr
  refine .bind (needCapForm_calm ..) fun _ => ?_
  refine .bind (.getC _) fun _ => ?_
  refine .bind (.needPriv _) fun _ => ?_
  refine .bind (.getC _) fun _ => ?_
  refine .when (.tagFault _) fun _ => ?_
  exact .bind (needSealKey_calm ..) fun _ => .when (.capFault _ _) fun _ => .modify fun _ => modCtx_calm (setA_calm ..)

theorem unsealInstr_calm (r : BitVec 20) (c : CtxId) : CalmRun s₀ (unsealInstr r c) := by
  unfold unsealInstr
  refine .bind (needCapForm_calm ..) fun _ => ?_
  refine .bind (.getC _) fun _ => ?_
  refine .bind (.needPriv _) fun _ => ?_
  exact .when (.tagFault _) fun _ => .bind (needSealKey_calm ..) fun _ => .get_bind fun _ _ => .when (.capFault _ _) fun _ => putInt_calm ..

theorem achkInstr_calm (r : BitVec 20) (c : CtxId) : CalmRun s₀ (achkInstr r c) := by
  unfold achkInstr
  exact .bind (needCapForm_calm ..) fun _ => .get_bind fun _ _ => putInt_calm ..

theorem chCheck.go_calm (u : ChUser) (k : AccKind) (a : List W64) : CalmRun s₀ (chCheck.go u k a) := by
  induction a with
  | nil => exact .pure _
  | cons v vs ih =>
    unfold chCheck.go
    refine .bind (translate_calm ..) fun _ => ?_
    split
    · exact .pure _
    · refine .ite (.pure _) (.bind ih fun _ => ?_)
      split <;> exact .pure _

theorem chCheck_calm (u : ChUser) (k : AccKind) (a : W64) (n : Nat) : CalmRun s₀ (chCheck u k a n) := by
  unfold chCheck
  refine .get_bind fun _ _ => ?_
  split
  · exact .pure _
  · exact chCheck.go_calm ..

theorem noteForged_calm (e : ChStop) (s : State) : Calm s (noteForged e s) := by
  unfold noteForged
  exact .ite (violation_alarmed ..).calm (.refl _)

theorem chRead_calm (u : ChUser) (stream : Bool) (ps : List (W64 × Phys)) (v : W64) : CalmRun s₀ (chRead u stream ps v) := by
  unfold chRead
  refine .ite (.bind (spadRead_calm ..) fun _ => .pure _) ?_
  refine .bind (readLine_calm ..) fun _ => ?_
  split <;> exact .pure _

theorem dropChFills_calm (who : Requester) (s : State) : Calm s (dropChFills who s) := by
  unfold dropChFills
  exact .of_rest rfl rfl rfl

theorem cwCheckPages_calm (u : ChUser) (a : W64) (n : Nat) (vs : List W64) : CalmRun s₀ (cwCheckPages u a n vs) := by
  induction vs with
  | nil => exact .pure _
  | cons v vs ih =>
    unfold cwCheckPages
    refine .bind (chCheck_calm ..) fun _ => ?_
    split
    · exact .pure _
    · exact ih

theorem cwCheck_calm (c : BitVec 4) (s : State) : Calm s (cwCheck c s) := by
  unfold cwCheck
  extract_lets k
  split
  · exact .refl _
  · next g _ =>
    have hrun := cwCheckPages_calm (s₀ := s) (cwUser c k g) k.src k.bytes (pageStarts k.src k.bytes)
    refine .ite (setCw_calm ..) ?_
    split
    · next t h => exact .after (setCw_calm ..) (.after (dropChFills_calm ..) (hrun.of_ok h))
    · next t h => exact .after (cwLeave_calm ..) (.after (noteForged_calm ..) (.after (dropChFills_calm ..) (hrun.of_ok h)))
    · next t h => exact rollback_calm (hrun.of_error h).undoable

theorem cwChecks_calm (s : State) : Calm s (cwChecks s) := by
  unfold cwChecks
  exact .foldl _ (fun _ _ => .ite (cwCheck_calm ..) (.refl _)) _ _

theorem cwLose_calm (c : BitVec 4) : CalmRun s₀ (cwLose c) := by
  unfold cwLose
  exact .bind (.modify fun _ => setCw_calm ..) fun _ => .pure _

theorem cwSpad_calm (c : BitVec 4) (i : Nat) : CalmRun s₀ (cwSpad c i) := by
  unfold cwSpad
  exact .get_bind fun _ _ => .bind (spadRead_calm ..) fun _ => .ite (cwLose_calm ..) (.pure _)

theorem cwWord_calm (c : BitVec 4) (k : CwCh) (o : Nat) : CalmRun s₀ (cwWord c k o) := by
  unfold cwWord
  refine .ite ?_ (cwSpad_calm ..)
  split
  · exact cwLose_calm ..
  · refine .bind (translate_calm ..) fun _ => ?_
    split
    · exact cwLose_calm ..
    · refine .ite (cwSpad_calm ..) ?_
      refine .get_bind fun _ _ => ?_
      refine .when (.modify fun _ => setCw_calm ..) fun _ => ?_
      refine .bind (readLine_calm ..) fun _ => ?_
      split
      · exact .pure _
      · exact cwLose_calm ..

theorem cwBeatData_calm (c : BitVec 4) (k : CwCh) (j i : Nat) : CalmRun s₀ (cwBeatData c k j i) := by
  induction i with
  | zero => exact .pure _
  | succ i ih =>
    unfold cwBeatData
    exact .bind ih fun _ => .ite (.pure _) (.bind (cwWord_calm ..) fun _ => .pure _)

theorem cwPush_calm (c : BitVec 4) (data : BitVec 256) (s : State) : Calm s (cwPush c data s) := by
  unfold cwPush
  extract_lets k t
  have ht : Calm s t := setCw_calm ..
  exact ht.trans (.of_rest rfl rfl rfl)

theorem cwBeat_calm (c : BitVec 4) (s : State) : Calm s (cwBeat c s).2 := by
  unfold cwBeat
  extract_lets k
  have hrun := cwBeatData_calm (s₀ := s) c k (k.sent - 1) 4
  split
  · exact cwPush_calm ..
  · split
    · next t h => exact .after (cwPush_calm ..) (.after (dropChFills_calm ..) (hrun.of_ok h))
    · next t h => exact .after (setCw_calm ..) (rollback_calm (hrun.of_error h).undoable)

theorem cwServe_calm (cs : List (BitVec 4)) (s : State) : Calm s (cwServe cs s) := by
  induction cs generalizing s with
  | nil => exact .refl s
  | cons c cs ih =>
    have h := cwBeat_calm c s
    unfold cwServe
    split
    · next t ht => rw [ht] at h; exact h
    · next t ht => rw [ht] at h; exact h.trans (ih t)

theorem cwFill_calm (s : State) : Calm s (cwFill s) := by
  unfold cwFill
  exact .ite (.refl _) (cwServe_calm ..)

theorem cwTake_calm (s : State) : Calm s (cwTake s) := by
  unfold cwTake
  split
  · exact .refl _
  · next b q _ =>
    extract_lets k k' _ _ _ _ t u
    have ht : Calm s t := .of_rest rfl rfl rfl
    have hu : Calm s u := .after (countEvent_trim ..).calm ht
    exact .ite (.after (cwLeave_calm ..) hu) hu

theorem cwOffer_calm (s : State) : Calm s (cwOffer s) := by
  unfold cwOffer
  exact .after (offerBeat_calm ..) (.after (cwFill_calm ..) (.ite (cwChecks_calm ..) (.refl _)))

end

end Sys2Proof.Machine

namespace Sys2Proof.Machine
open Sys2Proof

/-! ## The management chain

The writes of the boot group change the configuration until it is locked, and a write of BOOT or CORERST starts or resets the core. -/

section
variable {s₀ : State}

theorem driveSlot_calm (w : W64) (s : State) : Calm s (driveSlot w s) := by
  unfold driveSlot
  extract_lets
  split <;> exact .of_rest rfl rfl rfl

theorem queueResp_calm (addr : CoreId) (reg : BitVec 7) (data : W32) (s : State) : Calm s (queueResp addr reg data s) := by
  unfold queueResp
  exact .of_rest rfl rfl rfl

theorem countCrc_calm (s : State) : Calm s (countCrc s) := by
  unfold countCrc
  exact .of_rest rfl rfl rfl

theorem badFrame_calm (cmd : ChainCmd) (f : ChainFrame) (s : State) : Calm s (badFrame cmd f s) := by
  unfold badFrame
  refine .ite ?_ (.after (driveSlot_calm ..) (countCrc_calm ..))
  exact .trans (.after (driveSlot_calm ..) (countCrc_calm ..)) (.of_rest rfl rfl rfl)

theorem respAct_calm (w : W64) (s : State) : Calm s (respAct w s) := by
  unfold respAct
  split
  · exact driveSlot_calm ..
  · exact .ite (driveSlot_calm ..) (.after (driveSlot_calm ..) (.of_rest rfl rfl rfl))

theorem idleFrame_calm (w : W64) (s : State) : Calm s (idleFrame w s) := by
  unfold idleFrame
  exact .ite (.refl _) (.ite (.after (driveSlot_calm ..) (countCrc_calm ..)) (.ite (respAct_calm ..) (driveSlot_calm ..)))

theorem chainFrame_tame (c : CtxId) (cmd : ChainCmd) (f : ChainFrame) {act : State → State} (h : ∀ s, Tame c s (act s)) (s : State) :
    Tame c s (chainFrame cmd f act s) := by
  unfold chainFrame
  extract_lets t
  have ht : Calm s t := .foldl _ (fun _ _ => idleFrame_calm ..) _ _
  split
  · exact (Calm.refl s).tame c
  · split
    · exact ht.trans_tame (h t)
    · exact (ht.trans (badFrame_calm ..)).tame c

theorem enumAct_calm (f : ChainFrame) (s : State) : Calm s (enumAct f s) := by
  unfold enumAct
  extract_lets k k1 t
  have hk : Calm s { s with chain := k1 } := by
    unfold k1
    split <;> exact .of_rest rfl rfl rfl
  have ht : Calm s t := hk.trans (driveSlot_calm ..)
  exact ht.trans (.of_rest rfl rfl rfl)

theorem identAct_calm (f : ChainFrame) (s : State) : Calm s (identAct f s) := by
  unfold identAct
  exact .ite (driveSlot_calm ..) (.ite (.after (driveSlot_calm ..) (queueResp_calm ..)) (driveSlot_calm ..))

theorem chainReadBefore_calm (i : Nat) (s : State) : Calm s (chainReadBefore i s) := by
  unfold chainReadBefore
  exact .ite (.of_rest rfl rfl rfl) (.refl _)

theorem readAct_calm (f : ChainFrame) (s : State) : Calm s (readAct f s) := by
  unfold readAct
  refine .ite (driveSlot_calm ..) ?_
  refine .ite (driveSlot_calm ..) ?_
  exact .after (driveSlot_calm ..) (.after (chainReadEffect_calm ..) (.after (queueResp_calm ..) (chainReadBefore_calm ..)))

theorem Tame.ite {c : CtxId} {s t u : State} {b : Prop} [Decidable b] (ht : Tame c s t) (hu : Tame c s u) :
    Tame c s (if b then t else u) := by
  split
  · exact ht
  · exact hu

/-- The chain's registers written, those of the configuration only while it is not locked. -/
theorem writeChain_tame (c : CtxId) (k : Chain) (s : State)
    (h : s.boot.locked = true → lockedConfig { s with chain := k } = lockedConfig s) : Tame c s { s with chain := k } :=
  ⟨id, id, id, fun hl => configKept_of_eq (by rw [h hl]) hl, fun _ _ _ => ⟨⟨_, rfl⟩, rfl, rfl, rfl, rfl⟩⟩

theorem writeBoot_tame (c : CtxId) (i : Nat) (v : W32) (s : State) : Tame c s (writeBoot i v s) := by
  unfold writeBoot
  extract_lets k open_
  have hopen (k') : Tame c s (open_ k') := by
    unfold open_
    split
    · exact (Calm.refl s).tame c
    · next h => exact writeChain_tame c k' s fun hl => absurd hl h
  split
  · exact writeChain_tame _ _ _ fun _ => rfl
  · iterate 5 refine Tame.ite (hopen _) ?_
    exact (Calm.refl s).tame c

theorem writeGo_tame (c : CtxId) (v : W32) (s : State) : Tame c s (writeGo v s) := by
  unfold writeGo
  extract_lets _ t _ u
  have ht : Calm s t := .ite (.of_rest rfl rfl rfl) (.refl _)
  have hu : Calm s u := ht.trans (.of_rest rfl rfl rfl)
  refine .ite (ht.tame c) ?_
  split
  · exact hu.tame c
  · exact hu.trans_tame (goStart_tame ..)
  · exact ht.tame c

theorem writeMbin_calm (k : Nat) (v : W32) (s : State) : Calm s (writeMbin k v s) := by
  unfold writeMbin
  exact .ite (.of_rest rfl rfl rfl) (.ite (.after (setPend_trim ..).calm (.of_rest rfl rfl rfl)) (.of_rest rfl rfl rfl))

theorem writeBoundary_tame (c : CtxId) (i : Nat) (v : W32) (s : State) : Tame c s (writeBoundary i v s) := by
  unfold writeBoundary
  refine .ite (writeChain_tame _ _ _ fun hl => ?_) (Calm.tame ?_ c)
  · simp only [lockedConfig, hl, if_true]
  · exact .ite (.of_rest rfl rfl rfl) (.ite (.of_rest rfl rfl rfl) (.ite (.of_rest rfl rfl rfl) (.refl _)))

theorem writeTrace_calm (i : Nat) (v : W32) (s : State) : Calm s (writeTrace i v s) := by
  unfold writeTrace
  exact .ite (.refl _) (.ite (.of_rest rfl rfl rfl) (.ite (.of_rest rfl rfl rfl) (.of_rest rfl rfl rfl)))

theorem writeXrstat_calm (v : W32) (s : State) : Calm s (writeXrstat v s) := by
  unfold writeXrstat
  extract_lets _ t
  have ht : Calm s t := .ite (.of_rest rfl rfl rfl) (.refl _)
  exact .ite (.after (snapTrigger_calm ..) ht) ht

theorem writeDump_calm (i : Nat) (v : W32) (s : State) : Calm s (writeDump i v s) := by
  unfold writeDump
  refine .ite (.of_rest rfl rfl rfl) ?_
  refine .ite (.of_rest rfl rfl rfl) ?_
  refine .ite (.of_rest rfl rfl rfl) ?_
  refine .ite (.of_rest rfl rfl rfl) ?_
  refine .ite (.of_rest rfl rfl rfl) ?_
  exact .ite (.of_rest rfl rfl rfl) (.ite (writeXrstat_calm ..) (.ite (.of_rest rfl rfl rfl) (.refl _)))

theorem writeFccfg_calm (v : W32) (s : State) : Calm s (writeFccfg v s) := by
  unfold writeFccfg
  exact .of_rest rfl rfl rfl

theorem writeAlmcfg_calm (v : W32) (s : State) : Calm s (writeAlmcfg v s) := by
  unfold writeAlmcfg
  exact .ite (.refl _) (.of_rest rfl rfl rfl)

theorem setToll_calm (ctl : W32) (rate : W32) (s : State) : Calm s (setToll ctl rate s) := by
  unfold setToll
  exact .of_rest rfl rfl rfl

theorem writeSafety_calm (i : Nat) (v : W32) (s : State) : Calm s (writeSafety i v s) := by
  unfold writeSafety
  refine .ite (writeFccfg_calm ..) ?_
  refine .ite (writeAlmcfg_calm ..) ?_
  refine .ite (.of_rest rfl rfl rfl) ?_
  refine .ite (setToll_calm ..) ?_
  refine .ite (setToll_calm ..) ?_
  refine .ite (.of_rest rfl rfl rfl) ?_
  exact .ite (.of_rest rfl rfl rfl) (.ite (.of_rest rfl rfl rfl) (.ite (.of_rest rfl rfl rfl) (.refl _)))

theorem writeFcstat_calm (i : Nat) (v : W32) (s : State) : Calm s (writeFcstat i v s) := by
  unfold writeFcstat
  exact .ite (.of_rest rfl rfl rfl) (.refl _)

theorem writeReg_tame (c : CtxId) (i : Nat) (v : W32) (s : State) : Tame c s (writeReg i v s) := by
  unfold writeReg
  refine .ite (writeBoot_tame ..) (.ite (writeGo_tame ..) (.ite ((writeMbin_calm ..).tame c) (.ite ((Calm.refl s).tame c) ?_)))
  refine .ite (writeBoundary_tame ..) (Calm.tame ?_ c)
  exact .ite (writeTrace_calm ..) (.ite (writeDump_calm ..) (.ite (writeSafety_calm ..) (.ite (writeFcstat_calm ..) (.refl _))))

theorem writeAct_tame (c : CtxId) (f : ChainFrame) (s : State) : Tame c s (writeAct f s) := by
  unfold writeAct
  exact .ite ((driveSlot_calm ..).tame c) (.ite ((driveSlot_calm ..).trans_tame (writeReg_tame ..)) ((driveSlot_calm ..).tame c))

theorem bwriteAct_tame (c : CtxId) (f : ChainFrame) (s : State) : Tame c s (bwriteAct f s) := by
  unfold bwriteAct
  exact .ite ((driveSlot_calm ..).tame c) (.ite ((driveSlot_calm ..).trans_tame (writeReg_tame ..)) ((driveSlot_calm ..).tame c))

theorem writeFrame_tame (c : CtxId) (f : ChainFrame) (bc : Bool) (s : State) : Tame c s (writeFrame f bc s) := by
  unfold writeFrame
  exact .ite (chainFrame_tame _ _ _ (bwriteAct_tame c f) _) (chainFrame_tame _ _ _ (writeAct_tame c f) _)

theorem corerstAct_tame (c : CtxId) (f : ChainFrame) (s : State) : Tame c s (corerstAct f s) := by
  unfold corerstAct
  exact .ite ((driveSlot_calm ..).tame c) (.ite ((driveSlot_calm ..).trans_tame (beginReset_tame ..)) ((driveSlot_calm ..).tame c))

theorem LawfulOut.tame {s t : State} (h : ∀ c, Tame c s t) : LawfulOut s (.next t) := .next (.of_tame h)

theorem writeTo_lawful (p : BitVec 7 → Bool) (f : ChainFrame) (bc : Bool) (s : State) : LawfulOut s (writeTo p f bc s) :=
  .tame fun c => .ite (writeFrame_tame c f bc s) ((Calm.refl s).tame c)

/-- A chain command that starts and resets nothing. -/
theorem chainFrame_lawful (cmd : ChainCmd) (f : ChainFrame) {act : State → State} (h : ∀ s, Calm s (act s)) (s : State) :
    LawfulOut s (.next (chainFrame cmd f act s)) := .tame fun c => chainFrame_tame c cmd f (fun s => (h s).tame c) s

end

end Sys2Proof.Machine

namespace Sys2Proof.Machine
open Sys2Proof

/-! ## Interrupts, the Drover, contexts and the coprocessor -/

section
variable {s₀ : State}

theorem discard_calm (c : CtxId) (s : State) : Calm s (discard c s) := by
  unfold discard
  extract_lets w t
  have ht : Calm s t := modCtx_calm (.of_eq rfl rfl rfl rfl)
  clear_value w
  split
  · exact ht.trans (.of_rest rfl rfl rfl)
  · exact ht

theorem execInterruptEntry_lawful (s : State) : LawfulOut s (execInterruptEntry s) := by
  unfold execInterruptEntry
  split
  · exact .calm (.refl s)
  · next c _ =>
    split
    · exact .calm (.refl s)
    · next v _ =>
      split
      · exact .calm (.refl s)
      · extract_lets k world r t
        have ht : Calm s t := discard_calm c s
        split
        · next u hu =>
          have hentry : Entered c s u := (ht.mild c).entered ((enter_entry c r).of_ok hu)
          exact .next (hentry.calm (.after (dropFills_calm ..) (.after (accountChange_eq ..).calm (fireAlarm_alarmed ..).calm))).lawful
        · next u hu => exact .calm (ht.trans (rollback_calm ((enter_entry c r).of_error hu)))

theorem running_of_runningCtx {s : State} {c : CtxId} (h : runningCtx s = some c) : (s.getCtx c).run = .running := by
  unfold runningCtx at h
  split at h
  · cases h; exact eq_of_beq ‹_›
  · split at h
    · cases h; exact eq_of_beq ‹_›
    · split at h
      · cases h; exact eq_of_beq ‹_›
      · split at h
        · cases h; exact eq_of_beq ‹_›
        · cases h

theorem not_running_of_runningCtx {s : State} (h : runningCtx s = none) (c : CtxId) : (s.getCtx c).run ≠ .running := by
  unfold runningCtx at h
  simp only [beq_iff_eq] at h
  obtain ⟨h0, h1, h2, h3⟩ : s.ctx.q0.run ≠ .running ∧ s.ctx.q1.run ≠ .running ∧ s.ctx.q2.run ≠ .running ∧ s.ctx.q3.run ≠ .running := by
    grind
  rcases ctxId_cases c with rfl | rfl | rfl | rfl
  · exact h0
  · exact h1
  · exact h2
  · exact h3

/-- The running context leaves the core. -/
def leaveCore (s : State) : State :=
  match runningCtx s with
  | some o => dropFills o ((discard o s).modCtx o fun k => { k with run := .ready })
  | none => s

theorem leaveCore_calm (s : State) : Calm s (leaveCore s) := by
  unfold leaveCore
  split
  · exact .after (dropFills_calm ..) (.after (modCtx_calm (.of_idle (fun h => nomatch h) rfl rfl rfl)) (discard_calm ..))
  · exact .refl s

theorem leaveCore_idle {s : State} (hs : OneRunning s) (d : CtxId) : ((leaveCore s).getCtx d).run ≠ .running := by
  unfold leaveCore
  split
  · next o ho =>
    intro hd
    have hready := (((dropFills_calm o _).ctx d).run hd)
    by_cases hdo : d = o
    · subst hdo
      rw [getCtx_modCtx] at hready
      cases hready
    · rw [getCtx_modCtx_ne _ _ hdo] at hready
      exact hdo (hs d o (((discard_calm o s).ctx d).run hready) (running_of_runningCtx ho))
  · next ho => exact not_running_of_runningCtx ho d

/-- Context c takes the core, which no context has any more. -/
theorem takeCore_tame (d c : CtxId) (s : State) : Tame d s ((leaveCore s).modCtx c fun k => { k with run := .running }) := by
  have hcalm := leaveCore_calm s
  have hget (e : CtxId) : ∃ r, ((leaveCore s).modCtx c fun k => { k with run := .running }).getCtx e =
      { (leaveCore s).getCtx e with run := r } ∧ (e ≠ c → r = ((leaveCore s).getCtx e).run) := by
    by_cases he : e = c
    · subst he
      rw [getCtx_modCtx]
      exact ⟨_, rfl, fun h => absurd rfl h⟩
    · rw [getCtx_modCtx_ne _ _ he]
      exact ⟨_, rfl, fun _ => rfl⟩
  refine ⟨fun hs => ?_, fun hs e => ?_, fun hs => hcalm.caches hs, hcalm.loose.configKept, fun _ _ _ => ?_⟩
  · have honly (e : CtxId) (he : (((leaveCore s).modCtx c fun k => { k with run := .running }).getCtx e).run = .running) : e = c := by
      by_contra hne
      rw [getCtx_modCtx_ne _ _ hne] at he
      exact leaveCore_idle hs e he
    exact fun a b ha hb => (honly a ha).trans (honly b hb).symm
  · obtain ⟨r, hr, -⟩ := hget e
    rw [hr]
    exact hcalm.loose.win e (hs e)
  · obtain ⟨r, hr, -⟩ := hget d
    obtain ⟨hsys, hrest⟩ := hcalm.userKept d
    exact ⟨by rw [hr]; exact hsys, hrest⟩

theorem switchTo_tame (d c : CtxId) (s : State) : Tame d s (switchTo c s) := by
  have h : Calm ((leaveCore s).modCtx c fun k => { k with run := .running })
      { (leaveCore s).modCtx c (fun k => { k with run := .running }) with
        drover := { (leaveCore s).drover with lastRan := c, ranSince := s.time.tick, leaving := none } } := .of_rest rfl rfl rfl
  exact ((takeCore_tame d c s).trans_calm h).trans_calm
    (.after (countCtx_calm ..) (.after (traceCtx_calm ..) (accountChange_eq ..).calm))

theorem bit11_fastSt (st : W32) (world : Bool) : bit (fastSt st world) 11 = true := by
  unfold fastSt
  cases world <;> · unfold bit; simp

theorem execFastInterruptEntry_lawful (s : State) : LawfulOut s (execFastInterruptEntry s) := by
  unfold execFastInterruptEntry
  split
  · exact .calm (.refl s)
  · next c _ =>
    split
    · exact .calm (.refl s)
    · next v _ =>
      split
      · exact .calm (.refl s)
      · extract_lets k world ecause t
        have ht : Entered c s t :=
          ((discard_calm c s).mild c).entered (modCtx_entered ⟨id, id⟩ (bit11_fastSt ..))
        have hclear : Calm t { t with intr := { t.intr with ipend := setBit t.intr.ipend v.toNat false } } := .of_rest rfl rfl rfl
        exact .next (ht.calm (.after (dropFills_calm ..) (.after (accountChange_eq ..).calm (.after (entryRecords_calm ..) hclear)))).lawful

theorem LawfulOut.switchTo (c : CtxId) (s : State) : LawfulOut s (.next (switchTo c s)) := .tame fun d => switchTo_tame d c s

theorem execDroverSwitch_lawful (s : State) : LawfulOut s (execDroverSwitch s) := by
  unfold execDroverSwitch
  split
  · exact .calm (.refl s)
  · split
    · split
      · exact .switchTo _ _
      · exact .calm (.refl s)
    · split
      · split
        · exact .calm (.refl s)
        · exact .switchTo _ _
      · exact .calm (.refl s)

theorem execDroverQuantum_lawful (s : State) : LawfulOut s (execDroverQuantum s) := by
  unfold execDroverQuantum
  split
  · exact .calm (.refl s)
  · split
    · exact .calm (.refl s)
    · split
      · split
        · exact .calm (.refl s)
        · exact .switchTo _ _
      · exact .calm (.refl s)

theorem leftRunning_calm (c : CtxId) (s : State) : Calm s (leftRunning c s) := by
  unfold leftRunning
  exact .of_rest rfl rfl rfl

theorem timerCross_calm (s : State) : Calm s (timerCross s) := by
  unfold timerCross
  exact .ite (.after (setPend_trim ..).calm (.of_rest rfl rfl rfl)) (.refl _)

theorem waitMilestone_calm (c : CtxId) (got : BitVec 8) (s : State) : Calm s (waitMilestone c got s) := by
  unfold waitMilestone
  extract_lets k e kind fin
  split
  · exact .refl _
  · refine .ite (.refl _) ?_
    extract_lets t
    have ht : Calm s t := by
      unfold t
      clear_value kind
      split <;> exact milestone_calm ..
    exact ht.trans (modCtx_calm (.of_eq rfl rfl rfl rfl))

theorem waitInstr_calm (r : BitVec 21) (c : CtxId) : CalmRun s₀ (waitInstr r c) := by
  unfold waitInstr
  refine .bind (.needDef _) fun _ => .bind (.modify fun _ => (settle_trim ..).calm) fun _ => .get_bind fun _ _ => .ite ?_ ?_
  · refine .bind (.modify fun _ => waitMilestone_calm ..) fun _ => ?_
    refine .bind (.modC fun _ => .after (setA_calm ..) (.of_eq rfl rfl rfl rfl)) fun _ => ?_
    exact .bind (.modify fun _ => (settle_trim ..).calm) fun _ => .bind (advance_calm ..) fun _ => .pure _
  · refine .bind (.modC fun _ => .of_idle (fun h => nomatch h) rfl rfl rfl) fun _ => ?_
    exact .bind (.modify fun _ => .after (leftRunning_calm ..) (wakeByIrq_eq ..).calm) fun _ => .pure _

theorem afterYield_tame (d c : CtxId) (s : State) : Tame d s (afterYield c s) := by
  unfold afterYield
  split
  · exact .ite (switchTo_tame ..) ((Calm.refl s).tame d)
  · exact (Calm.refl s).tame d

theorem yieldInstr_tame (r : BitVec 21) (c : CtxId) : TameRun c s₀ (yieldInstr r c) := by
  unfold yieldInstr
  exact .bind (.needDef _) fun _ => .bind (advance_calm ..) fun _ => .modify fun s hs => hs.trans_tame (afterYield_tame c c s)

theorem cwakeInstr_calm (r : BitVec 21) (c : CtxId) : CalmRun s₀ (cwakeInstr r c) := by
  unfold cwakeInstr
  refine .bind (.needDef _) fun _ => ?_
  refine .bind (.getC _) fun _ => ?_
  refine .bind (.needPriv _) fun _ => ?_
  exact .ite (.modify fun _ => .after (setEvent_trim ..).calm (modCtx_calm (.of_eq rfl rfl rfl rfl))) (.pure _)

theorem startCtx_loose (s : State) (i : Ctx) (d : CtxId) (pc : W64) (w : Nat → W64) (k : Ctx) : CtxLoose k (startCtx s i d pc w k) :=
  ⟨(fun h => nomatch h), fun _ => Nat.succ_pos 6⟩

/-- CSTART is for a supervisor alone. -/
theorem cstartInstr_tame (r : BitVec 21) (c : CtxId) : TameRun c s₀ (cstartInstr r c) := by
  unfold cstartInstr
  refine .bind (.needDef _) fun _ => .get_bind fun s hs => .needPriv_bind fun hk _ => ?_
  have hsup : bit (s₀.getCtx c).st 11 = true := (hs.ctx c).sup.symm.trans (Bool.and_eq_true_iff.mp hk).1
  refine .when (.tagFault _) fun _ => .when (.tagFault _) fun _ => .bind (needCanonical_calm ..) fun _ => ?_
  refine .bind (needAligned_calm ..) fun _ => .bind (needAligned_calm ..) fun _ => .bind (needDdc_calm ..) fun _ => ?_
  refine .bind (frameRead_calm ..) fun _ => ?_
  split
  · exact TameRun.of_calm (.tagFault _)
  · refine .get_bind fun _ _ => .ite (TameRun.of_calm (.modC fun _ => setA_calm ..)) ?_
    refine .bind (.modC fun _ => setA_calm ..) fun _ => .modify fun t ht => ?_
    exact (ht.loose.trans (modCtx_loose (startCtx_loose ..))).tame_of_sup hsup

theorem stop_calm (k : Ctx) : CtxCalm k k.stop := .of_idle (fun h => nomatch h) rfl rfl rfl

theorem cstopInstr_calm (r : BitVec 21) (c : CtxId) : CalmRun s₀ (cstopInstr r c) := by
  unfold cstopInstr
  refine .bind (.needDef _) fun _ => .get_bind fun _ _ => .bind (.needPriv _) fun _ => .bind (.needDef _) fun _ => ?_
  exact .bind (.modC fun _ => stop_calm _) fun _ => .ite (.modify fun _ => leftRunning_calm ..) (.pure _)

theorem needWindowStack_calm (c : CtxId) (k : AccKind) (a : W64) (give : Bool) : CalmRun s₀ (needWindowStack c k a give) := by
  unfold needWindowStack
  exact .bind (needCanonical_calm ..) fun _ => needDdc_calm ..

theorem fspillInstr_calm (r : BitVec 21) (c : CtxId) : CalmRun s₀ (fspillInstr r c) := by
  unfold fspillInstr
  refine .bind (.needDef _) fun _ => ?_
  refine .bind (.getC _) fun _ => ?_
  refine .bind (.needPriv _) fun _ => ?_
  refine .bind (.needDef _) fun _ => ?_
  refine .bind (.modify fun _ => .foldl _ (fun _ _ => meetSlot_calm ..) _ _) fun _ => ?_
  refine .bind (.getC _) fun _ => ?_
  refine .bind (needWindowStack_calm ..) fun _ => ?_
  refine .get_bind fun _ _ => ?_
  refine .bind (translateWords_calm ..) fun _ => ?_
  split
  · exact raiseX_calm ..
  · refine .bind (prepWords_calm ..) fun _ => ?_
    exact .bind (needPaths_calm ..) fun _ => .bind (commitWords_calm ..) fun _ => .modC fun _ => .of_eq rfl rfl rfl rfl

theorem ffillInstr_calm (r : BitVec 21) (c : CtxId) : CalmRun s₀ (ffillInstr r c) := by
  unfold ffillInstr
  refine .bind (.needDef _) fun _ => .bind (.getC _) fun _ => .bind (.needPriv _) fun _ => .bind (.needDef _) fun _ => ?_
  refine .bind (needWindowStack_calm ..) fun _ => .get_bind fun _ _ => .bind (translateWords_calm ..) fun _ => ?_
  split
  · exact raiseX_calm ..
  · refine .bind (frameRead_calm ..) fun ws => .modC fun k => ?_
    extract_lets k1
    have hk : CtxCalm k k1 := .foldl _ (fun _ _ => setWinSlot_calm ..) _ k
    clear_value k1
    exact hk.trans (.of_eq rfl rfl rfl rfl)

theorem cpAccepts_calm (w : TWord) : CalmRun s₀ (cpAccepts w) := by
  unfold cpAccepts
  exact .ite (.tagFault _) (.pure _)

theorem cpOffer_calm (s : State) : Calm s (cpOffer s) := by
  unfold cpOffer
  split
  · exact .refl _
  · exact .of_rest rfl rfl rfl

theorem cpTransfer_calm (s : State) : Calm s (cpTransfer s) := by
  unfold cpTransfer
  exact .ite (.after (cpOffer_calm ..) (.of_rest rfl rfl rfl)) (.refl _)

theorem cpIssue_calm (c : CtxId) (ord : Bool) (i : CpIssue) (s : State) : Calm s (cpIssue c ord i s) := by
  unfold cpIssue
  exact .after (cpOffer_calm ..) (.of_rest rfl rfl rfl)

theorem cpInstr_calm (w : BitVec 27) (c : CtxId) : CalmRun s₀ (cpInstr w c) := by
  unfold cpInstr
  refine .get_bind fun _ _ => .bind (.needDef _) fun _ => ?_
  extract_lets a next
  have hnext (u) : CalmRun s₀ (next u) := by
    refine .bind (cpAccepts_calm ..) fun _ => .bind (cpAccepts_calm ..) fun _ => ?_
    split
    · exact .wait
    · exact .bind (.modify fun _ => cpIssue_calm ..) fun _ => .bind (.modC fun _ => .of_eq rfl rfl rfl rfl) fun _ => .pure _
  exact .ite (.bind (readSlot_calm ..) fun _ => hnext _) (.bind (.pure _) fun _ => hnext _)

theorem cpAnswered_calm (tag : BitVec 3) (s : State) : Calm s (cpAnswered tag s) := by
  unfold cpAnswered
  exact .after (cpOffer_calm ..) (.of_rest rfl rfl rfl)

theorem cpTake_fair (c : CtxId) (w : CpWait) (res : TWord) (bad : Bool) (code : BitVec 8) (s : State) :
    Fair c s (cpTake c w res bad code s) := by
  unfold cpTake
  extract_lets t u
  have ht : Calm s t := .after (modCtx_calm (.of_eq rfl rfl rfl rfl)) (cpAnswered_calm ..)
  split
  · exact .inl (.after (dropFills_calm ..) (.after (accountChange_eq ..).calm ht))
  · split
    · have h := fun s₀ => takeSync_entry (s₀ := s₀) c ⟨18, code, none, 0, false, false⟩
      split
      · next v hv => exact .inr ((ht.mild c).entered (((h t).of_ok hv).calm (.after (dropFills_calm ..) (accountChange_eq ..).calm)))
      · next v hv => exact .inl (rollback_calm (ht.undoable.trans ((h t).of_error hv)))
    · have hu : Calm t u := modCtx_calm (.trans (setDest_calm ..) (.of_eq rfl rfl rfl rfl))
      exact .inl (.after (countCtx_calm ..) (.after (retire_calm ..) (ht.trans hu)))

theorem execCpResult_lawful (tag : BitVec 3) (res : TWord) (bad : Bool) (code : BitVec 8) (s : State) :
    LawfulOut s (execCpResult tag res bad code s) := by
  unfold execCpResult
  split
  · exact .calm (.refl s)
  · split
    · exact .calm (machineCheck_trim ..).calm
    · extract_lets k
      split
      · split
        · exact .next (cpTake_fair ..).lawful
        · exact .calm (cpAnswered_calm ..)
      · exact .calm (cpAnswered_calm ..)

end

end Sys2Proof.Machine

namespace Sys2Proof.Machine
open Sys2Proof

/-! ## Floating point, and what arrives from the mesh -/

section
variable {s₀ : State}

theorem setSticky_calm (k : Ctx) (g : FpFlags) : CtxCalm k (k.setSticky g) := by
  refine .of_eq rfl rfl rfl ?_
  obtain ⟨nx, uf, of, dz, nv⟩ := g
  have h : bit (FpFlags.sticky ⟨nx, uf, of, dz, nv⟩) 11 = false := by
    revert nx uf of dz nv
    decide
  change bit (k.st ||| _) 11 = _
  rw [bit, BitVec.getLsbD_or, ← bit, ← bit, h, Bool.or_false]

theorem fpInstr_calm (z : FpSize) (f : FpRound → Nat → Nat → Nat × FpFlags) (m : BitVec 3) (d : BitVec 22) (c : CtxId) :
    CalmRun s₀ (fpInstr z f m d c) := by
  unfold fpInstr
  refine .bind (readPair_calm (hx := .pure _) ..) fun _ => ?_
  split
  refine .bind (.getC _) fun _ => ?_
  split
  refine .bind (postIncrement_calm ..) fun _ => ?_
  exact .bind (.modC fun _ => .after (setA_calm ..) (setSticky_calm ..)) fun _ => .modify fun _ => countCtx_calm ..

theorem fmacInstr_calm (z : FpSize) (m : BitVec 3) (d : BitVec 22) (c : CtxId) : CalmRun s₀ (fmacInstr z m d c) := by
  unfold fmacInstr
  refine .bind (readPair_calm (hx := needX_calm ..) ..) fun _ => ?_
  split
  refine .bind (.getC _) fun _ => ?_
  split
  refine .bind (postIncrement_calm ..) fun _ => ?_
  exact .bind (.modC fun _ => .after (setA_calm ..) (setSticky_calm ..)) fun _ => .modify fun _ => countCtx_calm ..

theorem fcmpInstr_calm (z : FpSize) (ordered : Bool) (m : BitVec 3) (d : BitVec 22) (c : CtxId) :
    CalmRun s₀ (fcmpInstr z ordered m d c) := by
  unfold fcmpInstr
  refine .bind (readPair_calm (hx := .pure _) ..) fun _ => ?_
  split
  refine .bind (postIncrement_calm ..) fun _ => .bind (.modC fun k => ?_) fun _ => .modify fun _ => countCtx_calm ..
  refine .trans (l := { k with st := (fpCompare ..).1 }) (.of_eq rfl rfl rfl ?_) (setSticky_calm ..)
  unfold fpCompare
  split
  · exact bit11_stFlags ..
  · split <;> exact bit11_stFlags ..

theorem fop1Instr_calm (accepts : Tag → Bool) (rz : Bool) (f : FpRound → W64 → W64 × FpFlags) (t : Tag) (r : BitVec 21) (c : CtxId) :
    CalmRun s₀ (fop1Instr accepts rz f t r c) := by
  unfold fop1Instr
  refine .bind (.needDef _) fun _ => ?_
  refine .bind (.getC _) fun _ => ?_
  refine .when (.tagFault _) fun _ => ?_
  split
  exact .bind (.modC fun _ => .after (setA_calm ..) (setSticky_calm ..)) fun _ => .modify fun _ => countCtx_calm ..

theorem fsqrtInstr_calm (z : FpSize) (r : BitVec 21) (c : CtxId) : CalmRun s₀ (fsqrtInstr z r c) := by
  unfold fsqrtInstr
  exact fop1Instr_calm ..

theorem fromIntInstr_calm (z : FpSize) (signed : Bool) (r : BitVec 21) (c : CtxId) : CalmRun s₀ (fromIntInstr z signed r c) := by
  unfold fromIntInstr
  exact fop1Instr_calm ..

theorem toIntInstr_calm (z : FpSize) (signed : Bool) (r : BitVec 21) (c : CtxId) : CalmRun s₀ (toIntInstr z signed r c) := by
  unfold toIntInstr
  exact fop1Instr_calm ..

theorem fcvtInstr_calm (x z : FpSize) (r : BitVec 21) (c : CtxId) : CalmRun s₀ (fcvtInstr x z r c) := by
  unfold fcvtInstr
  exact fop1Instr_calm ..

theorem answerIo_calm (sts : BitVec 2) (opc : IoOpc) (q : IoReq) (w : TWord) (s : State) : Calm s (answerIo sts opc q w s) := by
  unfold answerIo
  exact .after (countEvent_trim ..).calm (sendIoResp_calm ..)

theorem serveRead_calm (q : IoReq) (s : State) : Calm s (serveRead q s) := by
  unfold serveRead
  refine .ite (answerIo_calm ..) ?_
  split
  · exact answerIo_calm ..
  · split
    · exact answerIo_calm ..
    · next h => exact .after (answerIo_calm ..) (workRead_calm h)

theorem serveWrite_calm (q : IoReq) (v : TWord) (s : State) : Calm s (serveWrite q v s) := by
  unfold serveWrite
  refine .ite (.after (answerIo_calm ..) (.after (countEvent_trim ..).calm (ipiArrive_calm ..))) ?_
  split
  · exact answerIo_calm ..
  · split
    · exact answerIo_calm ..
    · next h => exact .after (answerIo_calm ..) (workWrite_calm h)

theorem serveClaim_calm (q : IoReq) (s : State) : Calm s (serveClaim q s) := by
  unfold serveClaim
  split
  · next w _ =>
    exact .after (answerIo_calm ..) (.after (countEvent_trim ..).calm (claimOp_calm w s))
  · exact answerIo_calm ..

theorem serveComplete_calm (q : IoReq) (v : TWord) (s : State) : Calm s (serveComplete q v s) := by
  unfold serveComplete
  split
  · exact .after (answerIo_calm ..) (.ite (completeOp_calm ..) (.after (countEvent_trim ..).calm (completeOp_calm ..)))
  · exact answerIo_calm ..

theorem serve_lawful {f : State → State} (h : ∀ s, Calm s (f s)) (s : State) : LawfulOut s (serve f s) := .calm (.ite (h s) (.refl s))

theorem execIpi_lawful (q : IoReq) (w : TWord) (s : State) : LawfulOut s (execIpi q w s) := by
  unfold execIpi
  split
  · exact serve_lawful (serveWrite_calm q w) s
  · exact .calm (.refl s)

theorem execWcfgWrite_lawful (q : IoReq) (w : TWord) (s : State) : LawfulOut s (execWcfgWrite q w s) := by
  unfold execWcfgWrite
  split
  · exact serve_lawful (serveWrite_calm q w) s
  · exact .calm (.refl s)

theorem execWsub_lawful (q : IoReq) (s : State) : LawfulOut s (execWsub q s) := by
  unfold execWsub
  split
  · exact serve_lawful (serveRead_calm q) s
  · exact .calm (.refl s)

theorem execNotice_lawful (q : IoReq) (s : State) : LawfulOut s (execNotice q s) := by
  refine serve_lawful (fun s => ?_) s
  have h : Calm s { s with free := s.free + 1 } := .of_rest rfl rfl rfl
  exact .after (answerIo_calm ..) (.after (noticeArrive_calm ..) h)

theorem postWords_calm (tags : Bool) (ws : List TWord) (i : Nat) (s : State) : Calm s (postWords tags ws i s) := by
  induction ws generalizing i s with
  | nil => exact .refl s
  | cons w ws ih =>
    unfold postWords
    exact (spadPut_calm ..).trans (ih _ _)

theorem acceptPost_calm (h : PostHdr) (ws : List TWord) (s : State) : Calm s (acceptPost h ws s) := by
  unfold acceptPost
  split
  next a z _ =>
  extract_lets t v _ u met w
  have ht : Calm s t := .after (.foldl _ (fun _ _ => (hitWatch_trim ..).calm) _ _) (postWords_calm ..)
  have hu : Calm s u := ht.trans (.of_rest rfl rfl rfl)
  have hw : Calm u w := by
    refine .foldl _ (fun x c => ?_) _ u
    exact .ite (modCtx_calm (.of_eq rfl rfl rfl rfl)) (.refl x)
  exact .after (countEvent_trim ..).calm (.after (settle_trim ..).calm (hu.trans hw))

theorem dropPost_calm (s : State) : Calm s (dropPost s) := by
  unfold dropPost
  exact .after (countEvent_trim ..).calm (.of_rest rfl rfl rfl)

theorem execPostReceive_lawful (h : PostHdr) (ws : List TWord) (s : State) : LawfulOut s (execPostReceive h ws s) := by
  unfold execPostReceive
  split
  · exact .refused _
  · split
    · exact .calm (.refl s)
    · exact .calm (.ite (acceptPost_calm ..) (dropPost_calm ..))

theorem snoopResp_calm (opc : BitVec 4) (q : Snoop) (s : State) : Calm s (snoopResp opc q s) := by
  unfold snoopResp
  exact (sendPacket_trim ..).calm

theorem snoopDirty_calm (q : Snoop) (d : Line) (s : State) : Calm s (snoopDirty q d s) := by
  unfold snoopDirty
  exact .after (sendPacket_trim ..).calm (snoopResp_calm ..)

theorem snoopCache_calm (q : Snoop) (c : CacheId) (s : State) : Calm s (snoopCache q c s) := by
  unfold snoopCache
  split
  · exact .refl _
  · next h =>
    refine .ite (cacheDel_trim ..).calm (Trim.calm (cachePut_found h ?_))
    exact (mem_of_cacheFind h).2

theorem snoopWatch_calm (q : Snoop) (s : State) : Calm s (snoopWatch q s) := by
  unfold snoopWatch
  exact .ite (.after (hitWatch_trim ..).calm (lineGone_trim ..).calm) (.refl _)

theorem snoopHeld_calm (q : Snoop) (s : State) : Calm s (snoopHeld q s) := by
  unfold snoopHeld
  exact .of_rest rfl rfl rfl

theorem snoopMeets_calm (n : Nat) (s : State) : Calm s (snoopMeets n s) := by
  unfold snoopMeets
  exact .after (meetLine_calm ..) (meetLine_calm ..)

/-- An eviction that has not begun gives way to a snoop of its line. -/
theorem dropEvicting_calm (n : Nat) (s : State) :
    Calm s { s with caches := { s.caches with ebuf := s.caches.ebuf.filter fun x => x.line != n } } :=
  Trim.calm ⟨.of_rest rfl rfl, fun _ => .refl _, List.filter_sublist.map _⟩

theorem answerSnoop_calm (q : Snoop) (s₀ : State) : Calm s₀ (answerSnoop q s₀) := by
  unfold answerSnoop
  extract_lets s _ t
  have hs : Calm s₀ s := snoopMeets_calm ..
  split
  · refine .ite (.after (snoopResp_calm ..) (.after (snoopWatch_calm ..) hs)) ?_
    exact .after (snoopDirty_calm ..) (.after (snoopWatch_calm ..) (.after (retryHeld_calm ..) (hs.trans (dropEvicting_calm ..))))
  · split
    · have ht : Calm s₀ t :=
        .after (snoopWatch_calm ..) (.after (snoopHeld_calm ..) (.after (snoopCache_calm ..) (.after (snoopCache_calm ..) hs)))
      exact .ite (.after (snoopDirty_calm ..) ht) (.ite (.after (snoopResp_calm ..) ht) (.after (snoopResp_calm ..) ht))
    · refine .ite ?_ (.after (snoopResp_calm ..) (.after (snoopWatch_calm ..) hs))
      exact .after (snoopResp_calm ..) (.after (snoopWatch_calm ..) (.after (snoopHeld_calm ..) hs))

theorem takeSnoop_calm (q : Snoop) (s : State) : Calm s (takeSnoop q s) := by
  unfold takeSnoop
  extract_lets t
  have ht : Calm s t := (countEvent_trim ..).calm
  refine .ite (snoopResp_calm ..) (.ite (ht.trans (.of_rest rfl rfl rfl)) ?_)
  exact .after (drainStep_calm ..) (.after (answerSnoop_calm ..) ht)

theorem wakeSnoops_calm (n : Nat) (s : State) : Calm s (wakeSnoops n s) := by
  unfold wakeSnoops
  exact .ite (.refl _) (.after (.foldl _ (fun _ _ => answerSnoop_calm ..) _ _) (.of_rest rfl rfl rfl))

theorem endReq_calm (r : Req) (s : State) : Calm s (endReq r s) := by
  unfold endReq
  exact .of_rest rfl rfl rfl

theorem dataArrives_calm (excl : Bool) (txid : BitVec 8) (d : Line) (s : State) : Calm s (dataArrives excl txid d s) := by
  unfold dataArrives
  split
  · exact .refl _
  · extract_lets
    split
    · exact .after (wakeSnoops_calm ..) (.after (placeFill_calm ..) (endReq_calm ..))
    · exact .after (wakeSnoops_calm ..) (.after (placeFill_calm ..) (endReq_calm ..))
    · exact .after (noteFill_calm ..) (endReq_calm ..)
    · exact .after (noteFill_calm ..) (endReq_calm ..)
    · exact .refl _

theorem promoted_calm (n : Nat) (s : State) : Calm s (promoted n s) := by
  unfold promoted
  extract_lets up
  have hup (c t) : Calm t (up c t) := by
    unfold up
    split
    · next h =>
      refine .ite (Trim.calm (cachePut_found h ?_)) (.refl t)
      exact (mem_of_cacheFind h).2
    · exact .refl t
  exact (hup ..).trans (hup ..)

theorem freeEntry_calm (n : Nat) (s : State) : Calm s (freeEntry n s) := by
  unfold freeEntry
  exact .ite (.refl _) (Trim.calm ⟨.of_rest rfl rfl, fun _ => .refl _, List.filter_sublist.map _⟩)

theorem storeDone_calm (r : Req) (s : State) : Calm s (storeDone r s) := by
  unfold storeDone
  split
  · exact (countEvent_trim ..).calm
  · exact .refl _

theorem acknowledged_calm (r : Req) (s : State) : Calm s (acknowledged r s) := by
  unfold acknowledged
  extract_lets
  split
  · exact .after (promoted_calm ..) (endReq_calm ..)
  · exact .after (drainStep_calm ..) (.after (retryHeld_calm ..) (.after (freeEntry_calm ..) (endReq_calm ..)))
  · exact .after (noteFences_trim ..).calm (.after (storeDone_calm ..) (endReq_calm ..))

theorem execAck_lawful (txid : BitVec 8) (s : State) : LawfulOut s (execAck txid s) := by
  unfold execAck
  split
  · exact .calm (.refl s)
  · split
    case h_5 => exact .calm (.refl s)
    all_goals exact .calm (acknowledged_calm ..)

theorem execErr_lawful (txid : BitVec 8) (s : State) : LawfulOut s (execErr txid s) := by
  unfold execErr
  split
  · exact .calm (.refl s)
  · next r _ =>
    have hend : Calm s (endReq r s) := endReq_calm ..
    split
    case h_5 => exact .calm (acknowledged_calm ..)
    all_goals exact .calm (.after (wakeSnoops_calm ..) (.after (noteFill_calm ..) hend))

theorem execBadPacket_lawful (cls opc : BitVec 4) (s : State) : LawfulOut s (execBadPacket cls opc s) := by
  unfold execBadPacket
  split
  · exact .refused _
  · split
    · exact .calm (.refl s)
    · exact .calm (.of_rest rfl rfl rfl)

end

end Sys2Proof.Machine

namespace Sys2Proof.Machine
open Sys2Proof

/-! ## The Mover, the pins, and posts -/

section
variable {s₀ : State}

theorem meetTile_calm (str : BitVec 3) (p : Nat → Bool) (s : State) : Calm s (meetTile str p s) := by
  have hclear : Calm s { s with tile := s.tile.clearErrs str p } := .of_rest rfl rfl rfl
  unfold meetTile
  refine hclear.trans (.foldl _ (fun t e => ?_) _ _)
  extract_lets u
  have hu : Calm t u := (countError_trim ..).calm
  exact .ite (hu.trans (.of_rest rfl rfl rfl)) hu

theorem meetReg_calm (n : Nat) (pair : Bool) (a : Nat) (b : Nat) (s : State) : Calm s (meetReg n pair a b s) := by
  unfold meetReg
  exact meetTile_calm ..

theorem meetLrow_calm (v : Stream) (mx6 : Bool) (n : Nat) (r : Nat) (s : State) : Calm s (meetLrow v mx6 n r s) := by
  unfold meetLrow
  exact meetReg_calm ..

theorem meetFold_calm (v : Stream) (i : Nat) (m : Nat) (s : State) : Calm s (meetFold v i m s) := by
  unfold meetFold
  exact meetTile_calm ..

theorem meetLatch_calm (l : Latch) (s : State) : Calm s (meetLatch l s) := by
  unfold meetLatch
  exact meetTile_calm ..

theorem unveil_calm (s : State) (t : Tile) : Calm s (unveil s t) := by
  unfold unveil
  exact .ite (.of_rest rfl rfl rfl) (.of_rest rfl rfl rfl)

theorem modTile_calm (f : Tile → Tile) : CalmRun s₀ (modTile f) := by
  unfold modTile
  exact .modify fun _ => unveil_calm ..

theorem readTile_calm : CalmRun s₀ readTile := by
  unfold readTile
  exact .get_bind fun _ hs => .bind (.set (hs.trans (unveil_calm ..))) fun _ => .pure _

theorem mvReadDs_calm (u : ChUser) (stream : Bool) (ps : List (W64 × Phys)) (a : W64) (n : Nat) :
    CalmRun s₀ (mvReadDs u stream ps a n) := by
  induction n generalizing a with
  | zero => exact .pure _
  | succ n ih =>
    unfold mvReadDs
    refine .bind (chRead_calm ..) fun _ => ?_
    split
    refine .ite (.pure _) (.bind (ih _) fun _ => ?_)
    split
    · exact .pure _
    · exact .get_bind fun _ _ => .pure _

theorem mvReadSp_calm (u : ChUser) (i n : Nat) : CalmRun s₀ (mvReadSp u i n) := by
  induction n generalizing i with
  | zero => exact .pure _
  | succ n ih =>
    unfold mvReadSp
    exact .bind (spadRead_calm ..) fun _ => .bind (ih _) fun _ => .pure _

theorem mvWriteSp_calm (ws : List TWord) (i : Nat) (s : State) : Calm s (mvWriteSp ws i s) := by
  induction ws generalizing i s with
  | nil => exact .refl s
  | cons w ws ih =>
    unfold mvWriteSp
    exact .trans (.after (hitWatch_trim ..).calm (spadPut_calm ..)) (ih _ _)

theorem mvPrepDs_calm (u : ChUser) (l : List (W64 × PAddr × List TWord)) : CalmRun s₀ (mvPrepDs u l) := by
  induction l with
  | nil => exact .pure _
  | cons e rest ih =>
    unfold mvPrepDs
    extract_lets prepared
    have hprepared (path) : CalmRun s₀ (prepared path) := .bind ih fun _ => .pure _
    exact .ite (.bind (.pure _) fun _ => hprepared _) (.bind (prepBulkLine_calm ..) fun _ => hprepared _)

theorem mvPathsOk_calm (parts : List (PAddr × List TWord × WPath)) : CalmRun s₀ (mvPathsOk parts) := by
  unfold mvPathsOk
  exact .get_bind fun _ _ => .pure _

theorem mvCommitDs_calm (u : ChUser) (parts : List (PAddr × List TWord × WPath)) (s : State) : Calm s (mvCommitDs u parts s) := by
  refine .foldl _ (fun _ _ => ?_) _ s
  dsimp only
  exact commitLine_calm ..

theorem mvSource_calm (u : ChUser) (m : MoverCh) (b : MvBlock) (ps : List (W64 × Phys)) : CalmRun s₀ (mvSource u m b ps) := by
  unfold mvSource
  refine .ite (mvReadDs_calm ..) ?_
  refine .ite (.bind (mvReadSp_calm ..) fun _ => .pure _) ?_
  exact .bind (.modify fun _ => meetReg_calm ..) fun _ => .get_bind fun _ _ => .pure _

theorem mvCheck_calm (u : ChUser) (k : AccKind) (e : EndPoint) (b : MvBlock) : CalmRun s₀ (mvCheck u k e b) := by
  unfold mvCheck
  exact .ite (chCheck_calm ..) (.pure _)

theorem mvDest_calm (u : ChUser) (m : MoverCh) (b : MvBlock) (ps : List (W64 × Phys)) (ws : List TWord) :
    CalmRun s₀ (mvDest u m b ps ws) := by
  unfold mvDest
  refine .ite ?_ (.ite (.modify fun _ => mvWriteSp_calm ..) (.modify fun _ => .of_rest rfl rfl rfl))
  refine .bind (mvPrepDs_calm ..) fun _ => ?_
  exact .bind (mvPathsOk_calm ..) fun _ => .when .wait fun _ => .modify fun _ => mvCommitDs_calm ..

theorem mvBlock_calm (u : ChUser) (m : MoverCh) : CalmRun s₀ (mvBlock u m) := by
  unfold mvBlock
  refine .bind (mvCheck_calm ..) fun _ => ?_
  split
  · exact .pure _
  · refine .bind (mvSource_calm ..) fun _ => ?_
    split
    · exact .pure _
    · refine .bind (mvCheck_calm ..) fun _ => ?_
      split
      · exact .pure _
      · refine .get_bind fun _ _ => ?_
        split
        · exact .pure _
        · exact .bind (mvDest_calm ..) fun _ => .pure _

theorem mvRun_calm (ch : BitVec 3) (m : MoverCh) (g : Regime) (s : State) : Calm s (mvRun ch m g s) := by
  have hrun := mvBlock_calm (s₀ := s) (mvUser ch m g) m
  have hback {t : State} (h : Calm s t) : Calm s { rollback s t with tile := t.tile } :=
    (rollback_calm h.undoable).trans (.of_rest rfl rfl rfl)
  unfold mvRun
  split
  · next t h => exact hback (hrun.of_error h)
  · next t h => exact .after (moverLeave_calm ..) (.after (noteForged_calm ..) (.after (dropChFills_calm ..) (hback (hrun.of_ok h))))
  · next t h =>
    extract_lets u
    have hu : Calm s u := .after (countEvent_trim ..).calm (.after (dropChFills_calm ..) (hrun.of_ok h))
    exact .ite (.after (moverLeave_calm ..) hu) (.after (setMover_calm ..) hu)

theorem execMoverBlock_lawful (ch : BitVec 3) (ecc : Option EccEvent) (s : State) : LawfulOut s (execMoverBlock ch ecc s) := by
  unfold execMoverBlock
  extract_lets m
  split
  · exact .calm (.refl s)
  · split
    · exact .calm (.refl s)
    · exact .calm (.after (mvRun_calm ..) (strike_calm ..))

theorem paceLines_calm (s : State) : Calm s (paceLines s) := by
  unfold paceLines
  exact .ite (.refl _) (paceApply_calm ..)

theorem stallRestart_calm (src : BitVec 2) (s : State) : Calm s (stallRestart src s) := by
  unfold stallRestart
  split <;> exact .of_rest rfl rfl rfl

theorem traceDone_calm (s : State) : Calm s (traceDone s) := by
  unfold traceDone
  refine .ite (.refl _) ?_
  extract_lets units h0
  split
  exact .ite (.after (traceFull_calm ..) (.of_rest rfl rfl rfl)) (.of_rest rfl rfl rfl)

theorem traceSend_calm (s : State) : Calm s (traceSend s) := by
  unfold traceSend
  extract_lets
  split
  · exact .refl _
  · refine .ite (.refl _) ?_
    have hout : Calm s { s with trace := { s.trace with trOut := true } } := .of_rest rfl rfl rfl
    exact .after (hitWatch_trim ..).calm (.after (sendWrite_trim ..).calm hout)

theorem copyStart_calm (s : State) : Calm s (copyStart s) := by
  unfold copyStart
  extract_lets t
  split
  · exact .refl _
  · refine .ite (.refl _) (.ite (.of_rest rfl rfl rfl) ?_)
    split
    · exact .of_rest rfl rfl rfl
    · exact .after (sendLines_calm ..) (.after (sendLines_calm ..) (.of_rest rfl rfl rfl))

theorem waysideBeat_calm (ready : Bool) (s : State) : Calm s (waysideBeat ready s) := by
  unfold waysideBeat
  extract_lets _ r
  have hr : r.wlock = s.rel.wlock := by
    unfold r
    split <;> rfl
  have hrel (q : BitVec 20) (hq : q = s.rel.wlock) (l) (n) : Calm s { s with rel := { r with wlock := q, wsbuf := l, wsBeat := n } } :=
    .of_rest rfl (by unfold steady privState; simp only [hq]; rfl) rfl
  exact .ite (.refl s) (.ite (hrel _ hr _ _) (hrel _ hr _ _))

theorem loadWords_calm (c : CtxId) (a : W64) (n : Nat) : CalmRun s₀ (loadWords c a n) := by
  induction n generalizing a with
  | zero => exact .pure _
  | succ n ih =>
    unfold loadWords
    exact .bind (loadAt_calm ..) fun _ => .bind (ih _) fun _ => .pure _

theorem postInstr_calm (r : BitVec 21) (c : CtxId) : CalmRun s₀ (postInstr r c) := by
  unfold postInstr
  refine .bind (.needDef _) fun _ => ?_
  refine .get_bind fun _ _ => ?_
  refine .when (.tagFault _) fun _ => ?_
  refine .when (.tagFault _) fun _ => ?_
  refine .when (ioProtection_calm ..) fun _ => ?_
  refine .bind (needIo_calm ..) fun _ => ?_
  refine .bind (needCanonical_calm ..) fun _ => ?_
  refine .bind (needAligned_calm ..) fun _ => ?_
  refine .when .misaligned fun _ => ?_
  refine .bind (needDdc_calm ..) fun _ => ?_
  refine .get_bind fun _ _ => ?_
  refine .bind (translateWords_calm ..) fun _ => ?_
  split
  · exact raiseX_calm ..
  · refine .bind (loadWords_calm ..) fun _ => ?_
    exact .bind (needLane_calm ..) fun _ => .modify fun _ => .after (sendPacket_trim ..).calm (.of_rest rfl rfl rfl)

theorem markInstr_calm (r : BitVec 21) (c : CtxId) : CalmRun s₀ (markInstr r c) := by
  unfold markInstr
  refine .bind (.needDef _) fun _ => .bind (.getC _) fun _ => .when (.tagFault _) fun _ => ?_
  exact .bind (.modC fun _ => ⟨id, id, ⟨_, rfl⟩, rfl⟩) fun _ => .modify fun _ => traceCtx_calm ..

theorem trecInstr_calm (r : BitVec 21) (c : CtxId) : CalmRun s₀ (trecInstr r c) := by
  unfold trecInstr
  refine .bind (.needDef _) fun _ => ?_
  refine .get_bind fun _ _ => ?_
  refine .bind (.needPriv _) fun _ => ?_
  exact .when (.tagFault _) fun _ => .when (.tagFault _) fun _ => .modify fun _ => traceCtx_calm ..

theorem xsnapInstr_calm (r : BitVec 21) (c : CtxId) : CalmRun s₀ (xsnapInstr r c) := by
  unfold xsnapInstr
  refine .bind (.needDef _) fun _ => ?_
  exact .bind (.getC _) fun _ => .bind (.needPriv _) fun _ => .modify fun _ => .ite (snapTrigger_calm ..) (.refl _)

theorem freezeInstr_calm (r : BitVec 21) (c : CtxId) : CalmRun s₀ (freezeInstr r c) := by
  unfold freezeInstr
  refine .bind (.needDef _) fun _ => ?_
  exact .bind (.getC _) fun _ => .bind (.needPriv _) fun _ => .modify fun _ => freezeTrigger_calm ..

theorem execHfenceRise_lawful (s : State) : LawfulOut s (execHfenceRise s) := by
  have h : Calm s { s with pins := { s.pins with hfence := true } } := .of_rest rfl rfl rfl
  exact .calm (.ite h (.after (ackFence_calm ..) (.after (accountChange_eq ..).calm h)))

theorem execHfenceFall_lawful (s : State) : LawfulOut s (execHfenceFall s) := by
  have h : Calm s { s with pins := { s.pins with hfence := false, fenceAck := false } } := .of_rest rfl rfl rfl
  exact .calm (.after (accountChange_eq ..).calm h)

theorem execFrzRise_lawful (s : State) : LawfulOut s (execFrzRise s) := by
  unfold execFrzRise
  split
  · exact .calm (.refl s)
  · split
    · exact .calm (.of_rest rfl rfl rfl)
    · exact .calm (.after (stopCounters_calm ..) (accountSteps_calm _))

theorem execFrzFall_lawful (s : State) : LawfulOut s (execFrzFall s) := by
  have h : Calm s { s with pins := { s.pins with frz := false } } := .of_rest rfl rfl rfl
  unfold execFrzFall
  extract_lets t
  split
  · exact .calm (.after (traceRec_trim ..).calm h)
  · exact .calm h

theorem execTamperEvent_lawful (s : State) : LawfulOut s (execTamperEvent s) := by
  have hline (b : Bool) (t : State) : Calm t { t with pins := { t.pins with alarmIn := b } } := .of_rest rfl rfl rfl
  have hsample (t : State) : Calm t (sampleAlarm (sampleAlarm t)) := .after (sampleAlarm_alarmed _).calm (sampleAlarm_alarmed t).calm
  exact .calm (.ite (hline true s) (.after (hsample _) (.after (hline true _) (.after (hsample _) (hline false s)))))

theorem execRefclkLoss_lawful (s : State) : LawfulOut s (execRefclkLoss s) := by
  unfold execRefclkLoss
  extract_lets t
  split
  · exact .calm (.of_rest rfl rfl rfl)
  · exact .calm (.after (machineCheck_trim ..).calm (.of_rest rfl rfl rfl))

theorem execRefclkReturn_lawful (s : State) : LawfulOut s (execRefclkReturn s) := .calm (.of_rest rfl rfl rfl)

theorem execPaceHwChange_lawful (v : BitVec 4) (s : State) : LawfulOut s (execPaceHwChange v s) :=
  .calm (.after (paceLines_calm ..) (.of_rest rfl rfl rfl))

theorem execCurHiRise_lawful (s : State) : LawfulOut s (execCurHiRise s) := .calm (.after (paceLines_calm ..) (.of_rest rfl rfl rfl))

theorem execCurHiFall_lawful (s : State) : LawfulOut s (execCurHiFall s) := .calm (.after (paceLines_calm ..) (.of_rest rfl rfl rfl))

theorem execStallWatchdog_lawful (src : BitVec 2) (s : State) : LawfulOut s (execStallWatchdog src s) := by
  unfold execStallWatchdog
  extract_lets lim _ t u
  have ht : Calm s t := .after (machineCheck_trim ..).calm (.of_rest rfl rfl rfl)
  have hu : Calm s u := .after (freezeTrigger_calm ..) (.after (wayside_trim ..).calm ht)
  split
  · exact .calm (.refl s)
  · exact .calm (.after (stallRestart_calm ..) (.ite (.after (snapTrigger_calm ..) hu) hu))

theorem execFcWindowEnd_lawful (s : State) : LawfulOut s (execFcWindowEnd s) := by
  unfold execFcWindowEnd
  split
  · exact .calm (.refl s)
  · exact .calm (.of_rest rfl rfl rfl)

theorem execDumpDue_lawful (s : State) : LawfulOut s (execDumpDue s) := by
  have h (t : State) : Calm t { t with trace := { t.trace with dumpAt := some t.time.tick } } := .of_rest rfl rfl rfl
  exact .calm (.ite (.after (dumpDue_calm ..) (.after (h _) (account_eq ..).calm)) (.refl s))

theorem execSnapshotCopy_lawful (s : State) : LawfulOut s (execSnapshotCopy s) := by
  unfold execSnapshotCopy
  extract_lets t
  split
  · exact .calm (.refl s)
  · split
    · exact .calm (copyStart_calm s)
    · split
      · exact .calm (.refl s)
      · exact .calm (.of_rest rfl rfl rfl)

end

end Sys2Proof.Machine

namespace Sys2Proof.Machine
open Sys2Proof

/-! ## How a tile instruction runs -/

section
variable {s₀ : State}

theorem translatePages_calm (c : CtxId) (k : AccKind) (vs : List W64) : CalmRun s₀ (translatePages c k vs) := by
  induction vs with
  | nil => exact .pure _
  | cons v vs ih =>
    unfold translatePages
    exact .bind (translateCtx_calm ..) fun _ => .bind ih fun _ => .pure _

theorem translateFeet_calm (c : CtxId) (fs : List Foot) : CalmRun s₀ (translateFeet c fs) := by
  induction fs with
  | nil => exact .pure _
  | cons f fs ih =>
    unfold translateFeet
    exact .bind (translatePages_calm ..) fun _ => .bind ih fun _ => .pure _

theorem rowCheck_calm (c : CtxId) (fs : List Foot) : CalmRun s₀ (rowCheck c fs) := by
  unfold rowCheck
  refine .bind (.forIn fun _ _ => .bind (.forIn fun _ _ => .bind (needCanonical_calm ..) fun _ => .pure _) fun _ => .pure _) fun _ => ?_
  refine .bind (.forIn fun _ _ => .bind (needDdc_calm ..) fun _ => .pure _) fun _ => ?_
  exact .bind (translateFeet_calm ..) fun _ => .when (.raise _ _) fun _ => .pure _

theorem spadLine_calm (i n : Nat) : CalmRun s₀ (spadLine i n) := by
  induction n generalizing i with
  | zero => exact .pure _
  | succ n ih =>
    unfold spadLine
    exact .bind (spadRead_calm ..) fun _ => .bind (ih _) fun _ => .pure _

theorem soft_calm {α : Type} {m : M α} (hm : CalmRun s₀ m) : CalmRun s₀ (soft m) := by
  refine ⟨fun s hs => ?_⟩
  have h := hm.carries s hs
  unfold soft
  cases e : m s with
  | ok a t => rw [e] at h; exact h
  | error x t =>
    rw [e] at h
    cases x <;> exact h

theorem readPiece_calm (c : CtxId) (stream : Bool) (ps : List (W64 × Phys)) (v : W64) (k : Nat) :
    CalmRun s₀ (readPiece c stream ps v k) := by
  unfold readPiece
  refine .ite (.bind (spadLine_calm ..) fun _ => .pure _) (.bind (soft_calm (readLine_calm ..)) fun _ => ?_)
  split <;> exact .pure _

theorem readPieces_calm (c : CtxId) (stream : Bool) (ps : List (W64 × Phys)) (l : List (W64 × Nat × Nat)) :
    CalmRun s₀ (readPieces c stream ps l) := by
  induction l with
  | nil => exact .pure _
  | cons e rest ih =>
    unfold readPieces
    exact .bind (readPiece_calm ..) fun _ => .bind ih fun _ => .pure _

theorem readFoot_calm (c : CtxId) (tmp : Bool) (e : Foot × List (W64 × Phys)) : CalmRun s₀ (readFoot c tmp e) := by
  unfold readFoot
  refine .bind (readPieces_calm ..) fun _ => ?_
  refine .when .wait fun _ => ?_
  refine .bind ?_ fun _ => .pure _
  refine .forIn fun _ _ => ?_
  split
  · exact .bind (.modify fun _ => (machineCheck_trim ..).calm) fun _ => .pure _
  · exact .pure _

theorem prepPieces_calm (c : CtxId) (ps : List (W64 × Phys)) (x : Nat) (l : List (W64 × Nat × Nat)) :
    CalmRun s₀ (prepPieces c ps x l) := by
  induction l with
  | nil => exact .pure _
  | cons e rest ih =>
    unfold prepPieces
    extract_lets pa b _ prepared
    have hprepared (path) : CalmRun s₀ (prepared path) := .bind ih fun _ => .pure _
    exact .ite (.bind (.pure _) fun _ => hprepared _) (.bind (prepBulkLine_calm ..) fun _ => hprepared _)

theorem forgetLine_calm (c : CtxId) (n : Nat) (s : State) : Calm s (forgetLine c n s) := by
  unfold forgetLine
  exact .of_rest rfl rfl rfl

theorem commitPiece_calm (c : CtxId) (p : PiecePath) (s : State) : Calm s (commitPiece c p s) := by
  unfold commitPiece
  exact .after (forgetLine_calm ..) (commitLine_calm ..)

theorem prepFoot_calm (c : CtxId) (e : Foot × List (W64 × Phys)) (x : Nat) : CalmRun s₀ (prepFoot c e x) := by
  unfold prepFoot
  exact .bind (prepPieces_calm ..) fun _ => .get_bind fun _ _ => .when .wait fun _ => .pure _

theorem commitFoot_calm (c : CtxId) (qs : List PiecePath) : CalmRun s₀ (commitFoot c qs) := by
  unfold commitFoot
  exact .modify fun _ => .foldl _ (fun _ _ => commitPiece_calm ..) _ _

theorem needTile_calm (ok : Bool) : CalmRun s₀ (needTile ok) := by
  unfold needTile
  exact .get_bind fun _ _ => .needDef _

theorem needTwin_calm (twin : Bool) : CalmRun s₀ (needTwin twin) := by
  unfold needTwin
  exact .get_bind fun _ _ => .needDef _

theorem tileGate_calm (c : CtxId) (w : W32) (q : BitVec 2) (free : Bool) : CalmRun s₀ (tileGate c w q free) := by
  unfold tileGate
  refine .get_bind fun _ _ => ?_
  refine .when (tileTrap_calm ..) fun _ => ?_
  refine .when .wait fun _ => ?_
  refine .when (tileTrap_calm ..) fun _ => ?_
  refine .when (tileTrap_calm ..) fun _ => ?_
  refine .when .wait fun _ => ?_
  extract_lets next
  have hnext (u) : CalmRun s₀ (next u) := .pure _
  split
  · exact .ite (.pure _) (hnext ())
  · exact hnext ()

theorem commitJob_calm (job : Option TileJob) (c : CtxId) : CalmRun s₀ (commitJob job c) := by
  unfold commitJob
  refine .bind (.modify fun _ => .after (countCtx_calm ..) (.of_rest rfl rfl rfl)) fun _ => ?_
  exact .bind (.modC fun _ => .of_eq rfl rfl rfl rfl) fun _ => .pure _

theorem inTurn_calm (before : List TileJob) (o : TileOp) {perform : Nat → Nat → RowPages → M Unit}
    (h : ∀ p r row, CalmRun s₀ (perform p r row)) (p r : Nat) (row : RowPages) : CalmRun s₀ (inTurn before o perform p r row) := by
  unfold inTurn
  exact .when .wait fun _ => h ..

theorem commitTile_calm (c : CtxId) (w : W32) (q : BitVec 2) (queued : Bool) : CalmRun s₀ (commitTile c w q queued) := by
  unfold commitTile
  exact .bind (.getC _) fun _ => .bind (.modify fun _ => .of_rest rfl rfl rfl) fun _ => commitJob_calm ..

theorem tileWhole_calm (o : TileOp) (x : TilePart) {eff : Nat → Nat → M Unit} (h : ∀ p r, CalmRun s₀ (eff p r)) :
    CalmRun s₀ (tileWhole o x eff) := by
  unfold tileWhole
  refine .get_bind fun _ _ => .ite ?_ (.bind (h _ _) fun _ => commitTile_calm ..)
  exact .bind (.modify fun _ => .of_rest rfl rfl rfl) fun _ => commitJob_calm ..

/-- The checks and the performing of rows are calm. -/
structure RowCalm (s₀ : State) (k : RowWork) : Prop where
  check : ∀ p r, CalmRun s₀ (k.check p r)
  perform : ∀ p r row, CalmRun s₀ (k.perform p r row)
  finish : CalmRun s₀ k.finish

theorem wholeWork_calm {eff : Nat → Nat → M Unit} (h : ∀ p r, CalmRun s₀ (eff p r)) : RowCalm s₀ (wholeWork eff) :=
  ⟨fun _ _ => .pure _, fun p r _ => h p r, .pure _⟩

theorem performRows_calm {perform : Nat → Nat → RowPages → M Unit} (h : ∀ p r row, CalmRun s₀ (perform p r row)) (p r : Nat)
    (rows : List RowPages) : CalmRun s₀ (performRows perform p r rows) := by
  induction rows generalizing r with
  | nil => exact .pure _
  | cons row rest ih =>
    unfold performRows
    refine .bind (soft_calm (h ..)) fun _ => ?_
    split
    · exact .pure _
    · exact ih _

theorem rowLoop_calm (c : CtxId) {k : RowWork} (h : RowCalm s₀ k) (fuel : Nat) (x : TilePart) : CalmRun s₀ (rowLoop c k fuel x) := by
  induction fuel generalizing x with
  | zero => exact .pure _
  | succ fuel ih =>
    unfold rowLoop
    refine .bind (performRows_calm h.perform ..) fun _ => ?_
    split
    extract_lets y next last
    refine .ite (.pure _) (.ite (.ite (ih _) (.pure _)) (.get_bind fun _ _ => .ite (.pure _) ⟨fun s hs => ?_⟩))
    have hs := (h.check y.pass next).carries s hs
    cases e : k.check y.pass next s with
    | ok row t => rw [e] at hs; exact (ih _).carries t hs
    | error stop t =>
      rw [e] at hs
      cases stop <;> exact hs

theorem tileRows_calm (o : TileOp) (x : TilePart) {k : RowWork} (h : RowCalm s₀ k) : CalmRun s₀ (tileRows o x k) := by
  unfold tileRows
  refine .get_bind fun s _ => ?_
  have hturn : RowCalm s₀ { k with perform := inTurn s.tile.tileq o k.perform } := ⟨h.check, inTurn_calm _ _ h.perform, h.finish⟩
  refine .bind (rowLoop_calm _ hturn ..) fun _ => ?_
  split
  · exact .when h.finish fun _ => .bind (.modify fun _ => .ite (.of_rest rfl rfl rfl) (.refl _)) fun _ => commitJob_calm ..
  · exact .bind (.modify fun _ => .of_rest rfl rfl rfl) fun _ => .pure _

theorem workJob_calm (before : List TileJob) {perform : Nat → Nat → RowPages → M Unit} {finish : M Unit}
    (hp : ∀ p r row, CalmRun s₀ (perform p r row)) (hf : CalmRun s₀ finish) (j : TileJob) :
    CalmRun s₀ (workJob before perform finish j) := by
  unfold workJob
  refine .bind (performRows_calm (inTurn_calm _ _ hp) ..) fun _ => ?_
  split
  exact .when hf fun _ => .pure _

theorem needBases_calm (c : CtxId) (align : Nat) (brs : List (BitVec 2)) : CalmRun s₀ (needBases c align brs) := by
  unfold needBases
  refine .bind (.getC _) fun _ => ?_
  refine .bind (.forIn fun _ _ => .ite (.bind (.tagFault _) fun _ => .pure _) (.pure _)) fun _ => ?_
  exact .bind (.forIn fun _ _ => .bind (needAligned_calm ..) fun _ => .pure _) fun _ => .pure _

theorem needShape_calm (ok : Bool) : CalmRun s₀ (needShape ok) := by
  unfold needShape
  exact .ite (.pure _) (.raise _ _)

theorem needFold_calm (n : BitVec 5) (twin : Bool) : CalmRun s₀ (needFold n twin) := by
  unfold needFold
  exact .get_bind fun _ _ => .ite (.pure _) (.raise _ _)

theorem captureShape_calm (n : BitVec 2) : CalmRun s₀ (captureShape n) := by
  unfold captureShape
  exact .get_bind fun _ _ => .when .wait fun _ => .pure _

theorem needTileShape_calm (wordOk : Bool) (d : Shape) (ocv : Bool) (mma : Bool) : CalmRun s₀ (needTileShape wordOk d ocv mma) := by
  unfold needTileShape
  exact .get_bind fun _ _ => needTile_calm ..

theorem needStream_calm (q : BitVec 2) : CalmRun s₀ (needStream q) := by
  unfold needStream
  exact .get_bind fun _ _ => .bind (needShape_calm ..) fun _ => .pure _

end

end Sys2Proof.Machine

namespace Sys2Proof.Machine
open Sys2Proof

/-! ## Tile instructions

The work of each, row by row, is calm; so is each instruction. -/

section
variable {s₀ : State}

theorem rowArgs_calm (f : BitVec 25) (c : CtxId) (v : Stream) (d : Shape) (base : W64) (base2 : W64) :
    CalmRun s₀ (rowArgs f c v d base base2) := by
  unfold rowArgs
  exact .bind (.getC _) fun _ => .pure _

theorem readPart_calm (c : CtxId) (tmp : Bool) (row : RowPages) (i : Nat) : CalmRun s₀ (readPart c tmp row i) := by
  unfold readPart
  split
  · exact readFoot_calm ..
  · exact .pure _

theorem prepPart_calm (c : CtxId) (row : RowPages) (i : Nat) (x : Nat) : CalmRun s₀ (prepPart c row i x) := by
  unfold prepPart
  split
  · exact prepFoot_calm ..
  · exact .pure _

theorem tldWork_calm (g : RowArgs) : RowCalm s₀ (tldWork g) :=
  ⟨fun _ _ => rowCheck_calm .., fun _ _ _ => .bind (readPart_calm ..) fun _ => modTile_calm .., .pure _⟩

theorem tldBody_calm (f : BitVec 25) (c : CtxId) : CalmRun s₀ (tldBody f c) := by
  unfold tldBody
  refine .bind (captureShape_calm ..) fun _ => .bind (needTileShape_calm ..) fun _ => .bind (tileGate_calm ..) fun _ => ?_
  refine .bind (needStream_calm ..) fun _ => .bind (needShape_calm ..) fun _ => .bind (needBases_calm ..) fun _ => ?_
  exact .bind (.getC _) fun _ => .bind (rowArgs_calm ..) fun _ => tileRows_calm _ _ (tldWork_calm _)

theorem tstWork_calm (g : RowArgs) : RowCalm s₀ (tstWork g) :=
  ⟨fun _ _ => rowCheck_calm .., fun _ _ _ => .get_bind fun _ _ => .bind (prepPart_calm ..) fun _ =>
    .bind (.modify fun _ => meetLrow_calm ..) fun _ => .bind readTile_calm fun _ => commitFoot_calm .., .pure _⟩

theorem tstBody_calm (f : BitVec 25) (c : CtxId) : CalmRun s₀ (tstBody f c) := by
  unfold tstBody
  refine .bind (captureShape_calm ..) fun _ => .bind (needTileShape_calm ..) fun _ => .bind (tileGate_calm ..) fun _ => ?_
  refine .bind (needStream_calm ..) fun _ => .bind (needShape_calm ..) fun _ => .bind (needBases_calm ..) fun _ => ?_
  exact .bind (.getC _) fun _ => .bind (rowArgs_calm ..) fun _ => tileRows_calm _ _ (tstWork_calm _)

theorem countArray_calm (evt : Nat) (n : Nat) (v : Stream) (cause : Option (Bool × Bool)) (s : State) :
    Calm s (countArray evt n v cause s) := by
  unfold countArray
  exact (countEvent_trim ..).calm

theorem countRow_calm (v : Stream) (cause : Option (Bool × Bool)) (n : Nat) (s : State) : Calm s (countRow v cause n s) := by
  unfold countRow
  refine .ite (.refl _) ?_
  exact .after (countArray_calm ..) (.after (countArray_calm ..) (.after (countArray_calm ..)
    (.after (countArray_calm ..) (.of_rest rfl rfl rfl))))

theorem setTile_calm (t : Tile) (s : State) : Calm s { s with tile := t } := .of_rest rfl rfl rfl

theorem meetB_calm (g : MmaArgs) (s : State) : Calm s (meetB g s) := by
  unfold meetB
  split
  · exact meetLatch_calm ..
  · split <;> exact meetReg_calm ..

theorem meetAcc_calm (g : MmaArgs) (m : Nat) (s : State) : Calm s (meetAcc g m s) := by
  unfold meetAcc
  exact .ite (.after (meetFold_calm ..) (meetFold_calm ..)) (meetFold_calm ..)

theorem mmaRow_calm (g : MmaArgs) (cause : Option (Bool × Bool)) (pass m : Nat) (a : LRow) :
    CalmRun s₀ (mmaRow g cause pass m a) := by
  unfold mmaRow
  refine .bind (.modify fun _ => .after (meetAcc_calm ..) (meetB_calm ..)) fun _ => .get_bind fun _ _ => .bind readTile_calm fun _ => ?_
  extract_lets
  refine .ite ?_ ?_
  · split
    exact .modify fun _ => .after (countRow_calm ..) (setTile_calm ..)
  · split
    exact .modify fun _ => .after (countRow_calm ..) (setTile_calm ..)

theorem mmaLatch_calm (g : MmaArgs) (keep : Bool) (cause : Option (Bool × Bool)) : CalmRun s₀ (mmaLatch g keep cause) := by
  refine .modify fun _ => ?_
  split
  exact .after (countArray_calm ..) (setTile_calm ..)

theorem tmmaWork_calm (g : RowArgs) : RowCalm s₀ (tmmaWork g) :=
  ⟨fun _ _ => rowCheck_calm .., fun _ _ _ => .bind (readPart_calm ..) fun _ => mmaRow_calm .., mmaLatch_calm ..⟩

theorem tmmaEff_calm (g : RowArgs) (pass row : Nat) : CalmRun s₀ (tmmaEff g pass row) := by
  unfold tmmaEff
  refine .bind (.forIn fun _ _ => ?_) fun _ => mmaLatch_calm ..
  exact .bind (.modify fun _ => meetLrow_calm ..) fun _ => .bind readTile_calm fun _ => .bind (mmaRow_calm ..) fun _ => .pure _

theorem tmmaBody_calm (f : BitVec 25) (c : CtxId) : CalmRun s₀ (tmmaBody f c) := by
  unfold tmmaBody
  refine .bind (captureShape_calm ..) fun _ => .bind (needTileShape_calm ..) fun _ => .bind (needTwin_calm ..) fun _ => ?_
  refine .bind (tileGate_calm ..) fun _ => .bind (needStream_calm ..) fun _ => .bind (needShape_calm ..) fun _ => ?_
  refine .bind (needFold_calm ..) fun _ => .ite ?_ (.bind (rowArgs_calm ..) fun _ => tileWhole_calm _ _ (tmmaEff_calm _))
  exact .bind (needBases_calm ..) fun _ => .bind (.getC _) fun _ => .bind (rowArgs_calm ..) fun _ => tileRows_calm _ _ (tmmaWork_calm _)

theorem tmovaEff_calm (g : RowArgs) (pass : Nat) (row : Nat) : CalmRun s₀ (tmovaEff g pass row) := by
  unfold tmovaEff
  exact .bind (.modify fun _ => .foldl _ (fun _ _ => .ite (meetLrow_calm ..) (meetFold_calm ..)) _ _) fun _ => modTile_calm ..

theorem tmovaBody_calm (f : BitVec 25) (c : CtxId) : CalmRun s₀ (tmovaBody f c) := by
  unfold tmovaBody
  refine .bind (captureShape_calm ..) fun _ => .bind (needTileShape_calm ..) fun _ => .bind (needTwin_calm ..) fun _ => ?_
  refine .bind (tileGate_calm ..) fun _ => .bind (needStream_calm ..) fun _ => .bind (needShape_calm ..) fun _ => ?_
  exact .bind (needFold_calm ..) fun _ => .bind (rowArgs_calm ..) fun _ => tileWhole_calm _ _ (tmovaEff_calm _)

theorem meetAc_calm (g : RowArgs) (r : Nat) (s : State) : Calm s (RowArgs.meetAc g r s) := by
  unfold RowArgs.meetAc
  exact .ite (.after (meetFold_calm ..) (meetFold_calm ..)) (meetFold_calm ..)

theorem tldacWork_calm (g : RowArgs) : RowCalm s₀ (tldacWork g) :=
  ⟨fun _ _ => rowCheck_calm .., fun _ _ _ => .bind (readPart_calm ..) fun _ => .when (.modify fun _ => meetAc_calm ..) fun _ =>
    .get_bind fun _ _ => modTile_calm .., .pure _⟩

theorem tstacWork_calm (g : RowArgs) : RowCalm s₀ (tstacWork g) :=
  ⟨fun _ _ => rowCheck_calm .., fun _ _ _ => .get_bind fun _ _ => .bind (prepPart_calm ..) fun _ =>
    .bind (.modify fun _ => meetAc_calm ..) fun _ => commitFoot_calm .., .pure _⟩

theorem tldacBody_calm (f : BitVec 25) (c : CtxId) : CalmRun s₀ (tldacBody f c) := by
  unfold tldacBody
  refine .bind (captureShape_calm ..) fun _ => .bind (needTileShape_calm ..) fun _ => .bind (needTwin_calm ..) fun _ => ?_
  refine .bind (tileGate_calm ..) fun _ => .bind (needStream_calm ..) fun _ => .bind (needShape_calm ..) fun _ => ?_
  refine .bind (needFold_calm ..) fun _ => .bind (needBases_calm ..) fun _ => .bind (.getC _) fun _ => .bind (rowArgs_calm ..) fun _ => ?_
  exact tileRows_calm _ _ (tldacWork_calm _)

theorem tstacBody_calm (f : BitVec 25) (c : CtxId) : CalmRun s₀ (tstacBody f c) := by
  unfold tstacBody
  refine .bind (captureShape_calm ..) fun _ => .bind (needTileShape_calm ..) fun _ => .bind (needTwin_calm ..) fun _ => ?_
  refine .bind (tileGate_calm ..) fun _ => .bind (needStream_calm ..) fun _ => .bind (needShape_calm ..) fun _ => ?_
  refine .bind (needFold_calm ..) fun _ => .bind (needBases_calm ..) fun _ => .bind (.getC _) fun _ => .bind (rowArgs_calm ..) fun _ => ?_
  exact tileRows_calm _ _ (tstacWork_calm _)

theorem clearEff_calm (g : RowArgs) : CalmRun s₀ (clearEff g) := by
  unfold clearEff
  exact modTile_calm ..

theorem tzeroTBody_calm (q : BitVec 2) (r : BitVec 21) (c : CtxId) : CalmRun s₀ (tzeroTBody q r c) := by
  unfold tzeroTBody
  refine .bind (needTile_calm ..) fun _ => .bind (tileGate_calm ..) fun _ => .bind (needStream_calm ..) fun _ => ?_
  exact .bind (rowArgs_calm ..) fun _ => tileWhole_calm _ _ fun _ _ => clearEff_calm _

theorem tzeroABody_calm (q : BitVec 2) (r : BitVec 21) (c : CtxId) : CalmRun s₀ (tzeroABody q r c) := by
  unfold tzeroABody
  refine .bind (needTile_calm ..) fun _ => .bind (needTwin_calm ..) fun _ => .bind (tileGate_calm ..) fun _ => ?_
  refine .bind (needStream_calm ..) fun _ => .bind (needShape_calm ..) fun _ => .bind (needFold_calm ..) fun _ => ?_
  exact .bind (rowArgs_calm ..) fun _ => tileWhole_calm _ _ fun _ _ => clearEff_calm _

theorem tclrABody_calm (q : BitVec 2) (r : BitVec 21) (c : CtxId) : CalmRun s₀ (tclrABody q r c) := by
  unfold tclrABody
  refine .bind (needTile_calm ..) fun _ => .bind (needTwin_calm ..) fun _ => .bind (tileGate_calm ..) fun _ => ?_
  refine .bind (needStream_calm ..) fun _ => .bind (needFold_calm ..) fun _ => ?_
  exact .bind (rowArgs_calm ..) fun _ => tileWhole_calm _ _ fun _ _ => clearEff_calm _

theorem tkillBody_calm (q : BitVec 2) (r : BitVec 21) (c : CtxId) : CalmRun s₀ (tkillBody q r c) := by
  unfold tkillBody
  refine .bind (needTile_calm ..) fun _ => ?_
  exact .bind (tileGate_calm ..) fun _ => .bind (modTile_calm ..) fun _ => commitTile_calm ..

theorem trowEff_calm (g : RowArgs) (pass row : Nat) : CalmRun s₀ (trowEff g pass row) := by
  unfold trowEff
  extract_lets
  split
  refine .bind (.modify fun _ => .foldl _ (fun s r => ?_) _ _) fun _ => .get_bind fun _ _ => modTile_calm ..
  extract_lets u u'
  have hu : Calm s u := meetLrow_calm ..
  have hu' : Calm s u' := .ite hu (.after (meetLrow_calm ..) hu)
  exact .ite (.after (meetLrow_calm ..) hu') hu'

theorem trowBody_calm (f : BitVec 25) (c : CtxId) : CalmRun s₀ (trowBody f c) := by
  unfold trowBody
  refine .bind (captureShape_calm ..) fun _ => .bind (needTileShape_calm ..) fun _ => .bind (tileGate_calm ..) fun _ => ?_
  refine .bind (needStream_calm ..) fun _ => .bind (needShape_calm ..) fun _ => .bind (rowArgs_calm ..) fun _ => ?_
  exact tileWhole_calm _ _ (trowEff_calm _)

theorem tcvtEff_calm (g : RowArgs) (pass : Nat) (row : Nat) : CalmRun s₀ (tcvtEff g pass row) := by
  unfold tcvtEff
  exact .bind (.modify fun _ => .foldl _ (fun _ _ => meetLrow_calm ..) _ _) fun _ => .get_bind fun _ _ => modTile_calm ..

theorem tcvtBody_calm (f : BitVec 25) (c : CtxId) : CalmRun s₀ (tcvtBody f c) := by
  unfold tcvtBody
  refine .bind (captureShape_calm ..) fun _ => .bind (needTileShape_calm ..) fun _ => .bind (tileGate_calm ..) fun _ => ?_
  refine .bind (needStream_calm ..) fun _ => .bind (needShape_calm ..) fun _ => .bind (rowArgs_calm ..) fun _ => ?_
  exact tileWhole_calm _ _ (tcvtEff_calm _)

theorem tfnEff_calm (g : RowArgs) (pass : Nat) (row : Nat) : CalmRun s₀ (tfnEff g pass row) := by
  unfold tfnEff
  exact .bind (.modify fun _ => .foldl _ (fun _ _ => meetLrow_calm ..) _ _) fun _ => .get_bind fun _ _ => modTile_calm ..

theorem tfnBody_calm (f : BitVec 25) (c : CtxId) : CalmRun s₀ (tfnBody f c) := by
  unfold tfnBody
  refine .bind (captureShape_calm ..) fun _ => .bind (needTileShape_calm ..) fun _ => .bind (tileGate_calm ..) fun _ => ?_
  refine .bind (needStream_calm ..) fun _ => .bind (needShape_calm ..) fun _ => .bind (rowArgs_calm ..) fun _ => ?_
  exact tileWhole_calm _ _ (tfnEff_calm _)

theorem tredEff_calm (g : RowArgs) (pass row : Nat) : CalmRun s₀ (tredEff g pass row) := by
  unfold tredEff
  extract_lets
  split
  refine .bind (.modify fun s => ?_) fun _ => .get_bind fun _ _ => modTile_calm ..
  extract_lets t
  have ht : Calm s t := .foldl _ (fun _ _ => .ite (.refl _) (meetLrow_calm ..)) _ _
  exact .ite (.after (.foldl _ (fun _ _ => meetLrow_calm ..) _ _) ht) ht

theorem tredBody_calm (f : BitVec 25) (c : CtxId) : CalmRun s₀ (tredBody f c) := by
  unfold tredBody
  refine .bind (captureShape_calm ..) fun _ => .bind (needTileShape_calm ..) fun _ => .bind (tileGate_calm ..) fun _ => ?_
  refine .bind (needStream_calm ..) fun _ => .bind (needShape_calm ..) fun _ => .bind (rowArgs_calm ..) fun _ => ?_
  exact tileWhole_calm _ _ (tredEff_calm _)

theorem meetEpi_calm (g : EpiArgs) (m : Nat) (s : State) : Calm s (meetEpi g m s) := by
  unfold meetEpi
  refine .ite ?_ (.ite (.after (meetFold_calm ..) (meetFold_calm ..)) (meetFold_calm ..))
  exact .after (meetReg_calm ..) (.ite (.after (meetFold_calm ..) (meetFold_calm ..)) (meetFold_calm ..))

theorem tepiWork_calm (g : RowArgs) : RowCalm s₀ (tepiWork g) := by
  refine ⟨fun _ _ => rowCheck_calm .., fun _ m row => ?_, .pure _⟩
  unfold tepiWork
  dsimp -zeta only
  extract_lets e write
  have hwrite (u) : CalmRun s₀ (write u) := by
    refine .get_bind fun _ _ => ?_
    refine .bind (prepPart_calm ..) fun _ => .bind (.modify fun _ => meetEpi_calm ..) fun _ => .bind readTile_calm fun _ => ?_
    exact .bind (.modify fun _ => setTile_calm ..) fun _ => commitFoot_calm ..
  exact .ite (.bind (.pure _) fun _ => hwrite _) (.bind (readPart_calm ..) fun _ => hwrite _)

theorem tepiBody_calm (f : BitVec 25) (c : CtxId) : CalmRun s₀ (tepiBody f c) := by
  unfold tepiBody
  refine .bind (captureShape_calm ..) fun _ => .bind (needTileShape_calm ..) fun _ => .bind (needTwin_calm ..) fun _ => ?_
  refine .bind (tileGate_calm ..) fun _ => .bind (needStream_calm ..) fun _ => .bind (.getC _) fun _ => .bind (rowArgs_calm ..) fun _ => ?_
  refine .bind (needShape_calm ..) fun _ => .bind (needFold_calm ..) fun _ => .bind (needBases_calm ..) fun _ => ?_
  exact tileRows_calm _ _ (tepiWork_calm _)

theorem meetBlock_calm (i : Nat) (s : State) : Calm s (meetBlock i s) := by
  unfold meetBlock
  exact .ite (.refl _) (.ite (.ite (meetReg_calm ..) (meetReg_calm ..)) (meetTile_calm ..))

theorem saveWork_calm (g : RowArgs) (n : Nat) : RowCalm s₀ { saveWork g with rows := n } :=
  ⟨fun _ _ => rowCheck_calm .., fun _ _ _ => .get_bind fun _ _ => .bind (prepPart_calm ..) fun _ =>
    .bind (.modify fun _ => meetBlock_calm ..) fun _ => .bind readTile_calm fun _ => commitFoot_calm .., modTile_calm ..⟩

theorem restoreWork_calm (g : RowArgs) (n : Nat) : RowCalm s₀ { restoreWork g with rows := n } :=
  ⟨fun _ _ => rowCheck_calm .., fun _ _ _ => .bind (readPart_calm ..) fun _ => .modify fun _ => setTile_calm ..,
    .modify fun _ => setTile_calm ..⟩

theorem tsaveBody_calm (q : BitVec 2) (r : BitVec 22) (c : CtxId) : CalmRun s₀ (tsaveBody q r c) := by
  unfold tsaveBody
  refine .bind (needTile_calm ..) fun _ => .bind (tileGate_calm ..) fun _ => .bind (needBases_calm ..) fun _ => .bind (.getC _) fun _ => ?_
  exact .bind (rowArgs_calm ..) fun _ => .get_bind fun _ _ => tileRows_calm _ _ (saveWork_calm ..)

theorem trestoreBody_calm (q : BitVec 2) (r : BitVec 22) (c : CtxId) : CalmRun s₀ (trestoreBody q r c) := by
  unfold trestoreBody
  refine .bind (needTile_calm ..) fun _ => .bind (tileGate_calm ..) fun _ => .bind (needBases_calm ..) fun _ => .bind (.getC _) fun _ => ?_
  refine .bind (rowArgs_calm ..) fun _ => ?_
  extract_lets _ next
  have hnext (u) : CalmRun s₀ (next u) := .get_bind fun _ _ => tileRows_calm _ _ (restoreWork_calm ..)
  refine .ite (.bind (rowCheck_calm ..) fun _ => .bind (readPart_calm ..) fun _ => .bind (needShape_calm ..) fun _ => ?_) (hnext ())
  exact .bind (.modify fun _ => .of_rest rfl rfl rfl) fun _ => hnext ()

theorem tsdwBody_calm (q : BitVec 2) (r : BitVec 21) (c : CtxId) : CalmRun s₀ (tsdwBody q r c) := by
  unfold tsdwBody
  refine .bind (needTile_calm ..) fun _ => ?_
  refine .bind (tileGate_calm ..) fun _ => ?_
  exact .bind (.getC _) fun _ => .when (.tagFault _) fun _ => .bind (modTile_calm ..) fun _ => commitTile_calm ..

theorem tsdrBody_calm (q : BitVec 2) (r : BitVec 21) (c : CtxId) : CalmRun s₀ (tsdrBody q r c) := by
  unfold tsdrBody
  refine .bind (needTile_calm ..) fun _ => ?_
  exact .bind (tileGate_calm ..) fun _ => .get_bind fun _ _ => .bind (.modC fun _ => setA_calm ..) fun _ => commitTile_calm ..

theorem tsyncBody_calm (q : BitVec 2) (r : BitVec 21) (c : CtxId) : CalmRun s₀ (tsyncBody q r c) := by
  unfold tsyncBody
  refine .bind (needTile_calm ..) fun _ => ?_
  exact .bind (tileGate_calm ..) fun _ => .get_bind fun _ _ => .when .wait fun _ => commitTile_calm ..

theorem dropTileFills_calm (c : CtxId) (s : State) : Calm s (dropTileFills c s) := by
  unfold dropTileFills
  exact .of_rest rfl rfl rfl

theorem work_calm (o : TileOp) : RowCalm s₀ o.work := by
  unfold TileOp.work
  extract_lets g
  split
  · exact tldWork_calm g
  · exact tstWork_calm g
  · split
    · exact tmmaWork_calm g
    · exact wholeWork_calm (tmmaEff_calm g)
  · exact wholeWork_calm (tmovaEff_calm g)
  · exact tldacWork_calm g
  · exact tstacWork_calm g
  · exact wholeWork_calm fun _ _ => clearEff_calm g
  · exact wholeWork_calm (trowEff_calm g)
  · exact wholeWork_calm (tcvtEff_calm g)
  · exact wholeWork_calm (tfnEff_calm g)
  · exact wholeWork_calm (tredEff_calm g)
  · exact tepiWork_calm g
  · split
    · exact restoreWork_calm g _
    · exact saveWork_calm g _

theorem workQueue_calm (before todo : List TileJob) (s : State) : Calm s (workQueue before todo s) := by
  induction todo generalizing before s with
  | nil => exact .refl s
  | cons j todo ih =>
    have hjob := workJob_calm (s₀ := s) before (work_calm j.op).perform (work_calm j.op).finish j
    unfold workQueue
    refine .ite (ih ..) ?_
    split
    · next k t ht =>
      have hqueue : Calm s (dropTileFills j.op.ctx { t with tile := { t.tile with tileq := before ++ k :: todo } }) :=
        .after (dropTileFills_calm ..) ((hjob.of_ok ht).trans (setTile_calm ..))
      exact Calm.after (ih ..) (.after (accountChange_eq ..).calm hqueue)
    · next t ht => exact (hjob.of_error ht).trans (ih ..)

theorem execTileComplete_lawful (s : State) : LawfulOut s (execTileComplete s) := by
  unfold execTileComplete
  split
  · exact .calm (.refl s)
  · extract_lets t _ u
    have ht : Calm s t := workQueue_calm ..
    have hu : Calm s u := by
      unfold u
      split
      · exact ht
      · exact .ite ht (.after (accountChange_eq ..).calm (ht.trans (setTile_calm ..)))
    exact .calm (.after (noteFences_trim ..).calm (.after (settle_trim ..).calm hu))

theorem execTpwrDrainEnd_lawful (s : State) : LawfulOut s (execTpwrDrainEnd s) := by
  unfold execTpwrDrainEnd
  split
  · exact .calm (setTile_calm ..)
  · exact .calm (.refl s)

theorem execTpwrGateOpen_lawful (s : State) : LawfulOut s (execTpwrGateOpen s) := by
  unfold execTpwrGateOpen
  split
  · exact .calm (.after (settle_trim ..).calm (.after (accountChange_eq ..).calm (setTile_calm ..)))
  · exact .calm (.refl s)

theorem execTpwrPowerUp_lawful (s : State) : LawfulOut s (execTpwrPowerUp s) := by
  unfold execTpwrPowerUp
  split
  · exact .calm (.after (settle_trim ..).calm (.after (accountChange_eq ..).calm (setTile_calm ..)))
  · exact .calm (.refl s)

/-- A tile instruction that is calm, or the exception that it stops with. -/
theorem runTile_lawful {body : CtxId → M TileEnd} (h : ∀ c s₀, CalmRun s₀ (body c)) (ecc : Option EccEvent) (s : State) :
    LawfulOut s (runTile ecc body s) := by
  unfold runTile
  split
  · exact .calm (.refl s)
  · next c _ =>
    extract_lets t go
    have ht : Calm s t := strike_calm ..
    have hgo : CalmRun t go := .bind (fetchCheck_calm c) fun _ => h c t
    split
    · exact .calm ht
    · split
      · next u hu => exact .calm (.after (retire_calm ..) (ht.trans (hgo.of_ok hu)))
      · next u hu => exact .calm (.after (accountChange_eq ..).calm (ht.trans (hgo.of_ok hu)))
      · next e u _ hu => exact .next ((ht.trans (hgo.of_ok hu)).trans_fair (afterStop_fair (Calm.refl u).undoable c e)).lawful
      · next e u hu => exact .next (ht.trans_fair (afterStop_fair (hgo.of_error hu).undoable c e)).lawful

end

end Sys2Proof.Machine

namespace Sys2Proof.Machine
open Sys2Proof

/-! ## Ticks -/

section
variable {s₀ : State}

theorem tickToll_calm (s : State) : Calm s (tickToll s) := by
  unfold tickToll
  exact .of_rest rfl rfl rfl

theorem tickStall_calm (s : State) : Calm s (tickStall s) := by
  unfold tickStall
  exact .trans (.after (cwOffer_calm ..) (offerNext_calm ..)) (.of_rest rfl rfl rfl)

theorem tickCount_calm (s : State) : Calm s (tickCount s) := by
  unfold tickCount
  exact .ite (.refl _) (.after (.foldl _ (fun _ _ => .ite (countCtx_calm ..) (.refl _)) _ _) (addFc_calm ..))

theorem refTick_calm (s : State) : Calm s (refTick s) := by
  unfold refTick
  extract_lets _ _ t
  have ht : Calm s t := .of_rest rfl rfl rfl
  exact .after (tickCount_calm ..) (.after (sampleAlarm_alarmed ..).calm (.after (tickStall_calm ..) (.after (tickToll_calm ..) ht)))

theorem tickWayside_calm (s : State) : Calm s (tickWayside s) := by
  unfold tickWayside
  exact .ite (.refl _) (.after (waysideBeat_calm ..) (.of_rest rfl rfl rfl))

theorem tickCopro_calm (s : State) : Calm s (tickCopro s) := by
  unfold tickCopro
  exact .ite (.refl _) (.after (cpTransfer_calm ..) (.of_rest rfl rfl rfl))

theorem idleTick_calm (s : State) : Calm s (idleTick s) := by
  unfold idleTick
  extract_lets t
  have ht : Calm s t := (account_eq ..).calm
  refine .ite (.refl _) (.after (accountSteps_calm ..) (.after (tickCopro_calm ..) (.after (tickWayside_calm ..) ?_)))
  exact .ite (.after (refTick_calm ..) ht) ht

end

end Sys2Proof.Machine

namespace Sys2Proof.Machine
open Sys2Proof

/-! ## Every command -/

section
variable {s : State}

theorem LawfulOut.seq {body : CtxId → M Unit} (h : ∀ c s₀, CalmRun s₀ (body c)) (s : State) : LawfulOut s (runSeq body s) :=
  runSeq_lawful (fun c s₀ => TameRun.of_calm (h c s₀)) s

theorem LawfulOut.instr {body : CtxId → M Unit} (h : ∀ c s₀, CalmRun s₀ (body c)) (s : State) : LawfulOut s (runInstr body s) :=
  runInstr_lawful (fun c s₀ => TameRun.of_calm (h c s₀)) s

theorem LawfulOut.hold {body : CtxId → M Bool} (h : ∀ c s₀, CalmRun s₀ (body c)) (s : State) : LawfulOut s (runHold body s) :=
  runHold_lawful (fun c s₀ => TameRun.of_calm (h c s₀)) s

theorem LawfulOut.ecc {body : CtxId → M Unit} (h : ∀ c s₀, CalmRun s₀ (body c)) (e : Option EccEvent) (s : State) :
    LawfulOut s (runEcc e body s) := runEcc_lawful (fun c s₀ => TameRun.of_calm (h c s₀)) e s

theorem localOut_lawful (port : BitVec 22) (p : W64 → Bool) (s : State) : LawfulOut s (localOut port p s) := by
  unfold localOut
  split
  · split
    · exact .hold (fun _ _ => outInstr_calm ..) s
    · exact .calm (.refl s)
  · exact .calm (.refl s)

theorem execMoverGo_lawful (ch : BitVec 3) (s : State) : LawfulOut s (execMoverGo ch s) := localOut_lawful _ _ s

theorem execMoverCont_lawful (ch : BitVec 3) (s : State) : LawfulOut s (execMoverCont ch s) := localOut_lawful _ _ s

theorem execCausewayGo_lawful (ch : BitVec 4) (s : State) : LawfulOut s (execCausewayGo ch s) := localOut_lawful _ _ s

theorem mtsTpwrWhen_lawful (b : Bool) (r : BitVec 13) (s : State) : LawfulOut s (mtsTpwrWhen b r s) := by
  unfold mtsTpwrWhen
  split
  · split
    · exact runSeq_lawful (fun _ _ => mtsInstr_tame ..) s
    · exact .calm (.refl s)
  · exact .calm (.refl s)

theorem execRhahaWord_lawful (w : W32) (s : State) : LawfulOut s (execRhahaWord w s) := by
  unfold execRhahaWord
  split
  · exact .calm (.refl s)
  · next c hc =>
    have hword (s₀ : State) : TameRun c s₀ (rhWord w c) := FairRun.tame (rhWord_fair w c)
    exact .next ((runBody_tame false hword s).lawful hc)

theorem execReservedOpcode_lawful (w : W32) (s : State) : LawfulOut s (execReservedOpcode w s) := by
  unfold execReservedOpcode
  split
  · exact .instr (fun _ _ => .undef) s
  · exact .refused _

/-! Resets and the start -/

theorem execColdResetRelease_lawful (s : State) : LawfulOut s (execColdResetRelease s) := by
  unfold execColdResetRelease
  split
  · exact .calm (.refl s)
  · split
    · exact .calm (.of_rest rfl rfl rfl)
    · exact .calm (enterInit_calm s)

theorem setWrst_calm (low : Bool) (s : State) : Calm s { s with boot := { s.boot with wrstLow := low } } := .of_rest rfl rfl rfl

theorem execWarmReset_lawful (s : State) : LawfulOut s (execWarmReset s) := by
  unfold execWarmReset
  extract_lets b t
  have ht : Calm s t := setWrst_calm true s
  split
  · exact .calm ht
  · exact .calm ht
  · exact .tame fun c => ht.trans_tame (beginReset_tame c .warm t)

theorem execWarmResetRelease_lawful (s : State) : LawfulOut s (execWarmResetRelease s) := by
  unfold execWarmResetRelease
  extract_lets b t
  have ht : Calm s t := setWrst_calm false s
  split
  · exact .calm (ht.trans (enterInit_calm t))
  · exact .calm (ht.trans (enterInit_calm t))
  · exact .calm ht

theorem setPhase_calm (p : Phase) (s : State) : Calm s { s with boot := { s.boot with phase := p } } := .of_rest rfl rfl rfl

theorem execDrainEnd_lawful (s : State) : LawfulOut s (execDrainEnd s) := by
  unfold execDrainEnd
  split
  · split
    · exact .calm (.refl s)
    · extract_lets t
      have ht : Calm s t := idlePorts_calm s
      split
      · split
        · exact .calm (.after (held_calm ..) (.after (paceApply_calm ..) ht))
        · exact .calm (ht.trans (setPhase_calm ..))
      · split
        · exact .calm (ht.trans (setPhase_calm ..))
        · exact .calm (.after (enterInit_calm ..) ht)
  · exact .calm (.refl s)

theorem execCoreResetEnd_lawful (s : State) : LawfulOut s (execCoreResetEnd s) := by
  unfold execCoreResetEnd
  split
  · split
    · exact .calm (.after (held_calm ..) (paceApply_calm ..))
    · exact .calm (.refl s)
  · exact .calm (.refl s)

theorem execInitEnd_lawful (s : State) : LawfulOut s (execInitEnd s) := by
  unfold execInitEnd
  split
  · exact .calm (.refl s)
  · split
    · exact .tame fun c => (held_calm s).trans_tame (goStart_tame c _)
    · exact .calm (held_calm s)

theorem execKeygenTimeout_lawful (s : State) : LawfulOut s (execKeygenTimeout s) := by
  unfold execKeygenTimeout
  split
  · exact .calm (keyFail_calm s)
  · exact .calm (.refl s)

theorem execCpResetRelease_lawful (s : State) : LawfulOut s (execCpResetRelease s) := by
  have h : Calm s { s with pins := { s.pins with cpRstN := true } } := .of_rest rfl rfl rfl
  unfold execCpResetRelease
  split
  · exact .calm (.refl s)
  · exact .calm (.ite h (.refl s))

theorem execLameWritebackEnd_lawful (s : State) : LawfulOut s (execLameWritebackEnd s) := by
  unfold execLameWritebackEnd
  split
  · exact .calm (.of_rest rfl rfl rfl)
  · exact .calm (.refl s)

theorem execIoResponse_lawful (r : IoResp) (s : State) : LawfulOut s (execIoResponse r s) := by
  unfold execIoResponse
  split
  · split
    · exact .tame fun c => .ite (keyWord_tame ..) ((keyFail_calm s).tame c)
    · exact .calm (.refl s)
  · split
    · split
      · exact .next (ioDone_fair ..).lawful
      · exact .calm (.refl s)
    · exact .calm (.refl s)

theorem execIoTimeout_lawful (c : CtxId) (s : State) : LawfulOut s (execIoTimeout c s) := by
  unfold execIoTimeout
  split
  · split
    · exact .next (ioLate_fair ..).lawful
    · exact .calm (.refl s)
  · exact .calm (.refl s)

/-! What passes beside the instructions -/

theorem execCreditReturn_lawful (ch : BitVec 4) (s : State) : LawfulOut s (execCreditReturn ch s) := by
  unfold execCreditReturn
  split
  · exact .calm (.refl s)
  · exact .calm (.after (accountChange_eq ..).calm (setCw_calm ..))

theorem execCausewayBeat_lawful (s : State) : LawfulOut s (execCausewayBeat s) :=
  .calm (.after (ackFence_calm ..) (.after (accountChange_eq ..).calm
    (.ite (.after (cwTake_calm ..) (cwOffer_calm ..)) (cwOffer_calm ..))))

theorem execWaysideSend_lawful (s : State) : LawfulOut s (execWaysideSend s) := .calm (.foldl _ (fun _ _ => waysideBeat_calm ..) _ _)

theorem execMeshFlitSend_lawful (ready : BitVec 4) (s : State) : LawfulOut s (execMeshFlitSend ready s) :=
  .calm (.after (ackFence_calm ..) (.after (driveFlit_calm ..) (.after (startWriteBacks_calm ..) (drainStep_calm ..))))

theorem execTraceRecordWrite_lawful (s : State) : LawfulOut s (execTraceRecordWrite s) :=
  .calm (.ite (.refl s) (.after (traceSend_calm ..) (traceDone_calm ..)))

/-! The chain -/

theorem execRespSend_lawful (s : State) : LawfulOut s (execRespSend s) := .calm (.ite (.refl s) (idleFrame_calm ..))

theorem execChainRead_lawful (f : ChainFrame) (s : State) : LawfulOut s (execChainRead f s) :=
  chainFrame_lawful .read f (fun _ => readAct_calm ..) s

theorem execTlatloRead_lawful (f : ChainFrame) (s : State) : LawfulOut s (execTlatloRead f s) := by
  unfold execTlatloRead
  split
  · exact chainFrame_lawful .read f (fun _ => readAct_calm ..) s
  · exact .calm (.refl s)

theorem execXrdataRead_lawful (f : ChainFrame) (s : State) : LawfulOut s (execXrdataRead f s) := by
  unfold execXrdataRead
  split
  · exact chainFrame_lawful .read f (fun _ => readAct_calm ..) s
  · exact .calm (.refl s)

/-- Of every command but a cold reset, O60 holds. -/
theorem exec_lawful {i : Instr} (hi : i ≠ .coldReset) (s : State) : LawfulOut s (exec i s) := by
  cases i with
  | coldReset => exact absurd rfl hi
  | coldResetRelease => exact execColdResetRelease_lawful s
  | warmReset => exact execWarmReset_lawful s
  | warmResetRelease => exact execWarmResetRelease_lawful s
  | drainEnd => exact execDrainEnd_lawful s
  | initEnd => exact execInitEnd_lawful s
  | keygenTimeout => exact execKeygenTimeout_lawful s
  | cpResetRelease => exact execCpResetRelease_lawful s
  | hfenceRise => exact execHfenceRise_lawful s
  | hfenceFall => exact execHfenceFall_lawful s
  | frzRise => exact execFrzRise_lawful s
  | frzFall => exact execFrzFall_lawful s
  | tamperEvent => exact execTamperEvent_lawful s
  | refclkLoss => exact execRefclkLoss_lawful s
  | refclkReturn => exact execRefclkReturn_lawful s
  | paceHwChange => exact execPaceHwChange_lawful _ s
  | curHiRise => exact execCurHiRise_lawful s
  | curHiFall => exact execCurHiFall_lawful s
  | stallWatchdog => exact execStallWatchdog_lawful _ s
  | ioTimeout => exact execIoTimeout_lawful _ s
  | timerInterrupt => exact .calm (timerCross_calm s)
  | timeEvent => exact .calm (.ite (setEvent_trim ..).calm (.refl s))
  | droverQuantum => exact execDroverQuantum_lawful s
  | droverSwitch => exact execDroverSwitch_lawful s
  | fcWindowEnd => exact execFcWindowEnd_lawful s
  | dumpDue => exact execDumpDue_lawful s
  | dumpComplete => exact .calm (dumpDone_calm s)
  | traceRecordWrite => exact execTraceRecordWrite_lawful s
  | snapshotCopy => exact execSnapshotCopy_lawful s
  | waysideSend => exact execWaysideSend_lawful s
  | tpwrDrainEnd => exact execTpwrDrainEnd_lawful s
  | tpwrGateOpen => exact execTpwrGateOpen_lawful s
  | tpwrPowerUp => exact execTpwrPowerUp_lawful s
  | tileComplete => exact execTileComplete_lawful s
  | meshFlitSend => exact execMeshFlitSend_lawful _ s
  | creditReturn => exact execCreditReturn_lawful _ s
  | causewayBeat => exact execCausewayBeat_lawful s
  | moverBlock => exact execMoverBlock_lawful _ _ s
  | dataS | dataX => exact .calm (dataArrives_calm ..)
  | ack => exact execAck_lawful _ s
  | err => exact execErr_lawful _ s
  | probeS | probeK => exact .calm (takeSnoop_calm ..)
  | badPacket => exact execBadPacket_lawful _ _ s
  | ioResponse => exact execIoResponse_lawful _ s
  | ioReadServe => exact serve_lawful (fun _ => serveRead_calm ..) s
  | ipi => exact execIpi_lawful _ _ s
  | wcfgWrite => exact execWcfgWrite_lawful _ _ s
  | wsub => exact execWsub_lawful _ s
  | claimServe => exact serve_lawful (fun _ => serveClaim_calm ..) s
  | completeServe => exact serve_lawful (fun _ => serveComplete_calm ..) s
  | notice => exact execNotice_lawful _ s
  | postReceive => exact execPostReceive_lawful _ _ s
  | cpResult => exact execCpResult_lawful _ _ _ _ s
  | enum => exact chainFrame_lawful _ _ (fun _ => enumAct_calm ..) s
  | identq => exact chainFrame_lawful _ _ (fun _ => identAct_calm ..) s
  | chainRead => exact execChainRead_lawful _ s
  | chainWrite | bwrite => exact .tame fun _ => writeFrame_tame ..
  | corerst => exact .tame fun _ => chainFrame_tame _ _ _ (corerstAct_tame _ _) _
  | respSend => exact execRespSend_lawful s
  | bootGo | enable0Write | mbinWrite | tsoffhiWrite | trheadWrite | dmheadWrite | xrstatTrig | fccfgWrite | almcfgWrite
  | tgrateWrite | tgstatWrite => exact writeTo_lawful (fun _ => _) _ _ s
  | mboutWrite | cctlWrite => exact localOut_lawful _ (fun _ => _) s
  | tlatloRead => exact execTlatloRead_lawful _ s
  | xrdataRead => exact execXrdataRead_lawful _ s
  | moverGo => exact execMoverGo_lawful _ s
  | moverCont => exact execMoverCont_lawful _ s
  | causewayGo => exact execCausewayGo_lawful _ s
  | ld | ldx | ldy => exact .ecc (fun _ _ => loadReg_calm ..) _ s
  | st | stx | sty => exact .seq (fun _ _ => storeReg_calm ..) s
  | ldB | ldBu | ldH | ldHu | ldW | ldWu => exact .ecc (fun _ _ => loadSub_calm ..) _ s
  | stB | stH | stW => exact .ecc (fun _ _ => storeSubReg_calm ..) _ s
  | ldc => exact .seq (fun _ _ => loadCode_calm ..) s
  | lea | leax | leay => exact .seq (fun _ _ => leaReg_calm ..) s
  | add | adc | sub | sbc | cmp => exact .seq (fun _ _ => sumInstr_calm ..) s
  | band | bor | bxor | shl | shr | sar | rol | ror | perm => exact .seq (fun _ _ => logicInstr_calm ..) s
  | bfx => exact .seq (fun _ _ => bfxInstr_calm ..) s
  | bfi => exact .seq (fun _ _ => bfiInstr_calm ..) s
  | mul | mulu => exact .seq (fun _ _ => mulInstr_calm ..) s
  | div | divu => exact .seq (fun _ _ => divInstr_calm ..) s
  | faddD | faddS | fsubD | fsubS | fmulD | fmulS | fdivD | fdivS | fminD | fminS | fmaxD | fmaxS =>
    exact .seq (fun _ _ => fpInstr_calm ..) s
  | fmacD | fmacS => exact .seq (fun _ _ => fmacInstr_calm ..) s
  | fcmpD | fcmpoD | fcmpS | fcmpoS => exact .seq (fun _ _ => fcmpInstr_calm ..) s
  | fsqrtD | fsqrtS => exact .seq (fun _ _ => fsqrtInstr_calm ..) s
  | fcvtDL | fcvtDLu | fcvtSL | fcvtSLu => exact .seq (fun _ _ => fromIntInstr_calm ..) s
  | fcvtLD | fcvtLuD | fcvtLS | fcvtLuS => exact .seq (fun _ _ => toIntInstr_calm ..) s
  | fcvtSD | fcvtDS => exact .seq (fun _ _ => fcvtInstr_calm ..) s
  | ioIn => exact .hold (fun c _ => ioAccess_calm _ _ _ _ c fun _ _ => .bind (localRead_calm ..) fun _ => .modC fun _ => setA_calm ..) s
  | ioOut => exact .hold (fun _ _ => outInstr_calm ..) s
  | claim => exact .hold (fun c _ => ioAccess_calm _ _ _ _ c fun _ _ => localClaim_calm ..) s
  | complete => exact .hold (fun c _ => ioAccess_calm _ _ _ _ c fun _ _ => localComplete_calm ..) s
  | jmp => exact .instr (fun _ _ => jmpInstr_calm ..) s
  | call => exact .instr (fun _ _ => callInstr_calm ..) s
  | jmpx => exact .instr (fun _ _ => jmpxInstr_calm ..) s
  | mov => exact .seq (fun _ _ => movInstr_calm ..) s
  | neg => exact .seq (fun _ _ => negInstr_calm ..) s
  | bnot => exact .seq (fun _ _ => notInstr_calm ..) s
  | clz => exact .seq (fun _ _ => clzInstr_calm ..) s
  | tagget => exact .seq (fun _ _ => taggetInstr_calm ..) s
  | tagset => exact .seq (fun _ _ => tagsetInstr_calm ..) s
  | skip => exact .instr (fun _ _ => skipInstr_calm ..) s
  | ret => exact .instr (fun _ _ => retInstr_calm ..) s
  | trap => exact .instr (fun _ _ => trapInstr_calm ..) s
  | rfe => exact runInstr_lawful (fun _ _ => rfeInstr_tame ..) s
  | rfi => exact runInstr_lawful (fun _ _ => rfiInstr_tame ..) s
  | stile => exact .instr (fun _ _ => stileInstr_calm ..) s
  | fence => exact .hold (fun _ _ => fenceInstr_calm ..) s
  | tlbinvVa | tlbinvVaw | tlbinvAsid | tlbinvAll => exact .seq (fun _ _ => tlbinvInstr_calm ..) s
  | cinvAll => exact .seq (fun _ _ => cinvAllInstr_calm ..) s
  | cwbAll => exact .hold (fun _ _ => cwbAllInstr_calm ..) s
  | cinvLine => exact .seq (fun _ _ => cinvLineInstr_calm ..) s
  | cwbLine | cwbiLine => exact .seq (fun _ _ => cwbLineInstr_calm ..) s
  | mfs | mfsKdout => exact .seq (fun _ _ => .bind (.needDef _) fun _ => mfsReg_calm ..) s
  | mts | mtsAcx | mtsRmax | mtsTcfg | mtsFcfg | mtsTown | waddrArm | watchArm | mtsTimer | mtsPam | mtsTranslation | mtsEvec
  | mtsVlvl | mtsFbst | mtsWlock | mtsWsreq | mtsPace => exact runSeq_lawful (fun _ _ => mtsInstr_tame ..) s
  | mtsTpwrOff | mtsTpwrOn => exact mtsTpwrWhen_lawful _ _ s
  | abase | atop | aperm => exact .seq (fun _ _ => capInspect_calm ..) s
  | anarb => exact .seq (fun _ _ => anarbInstr_calm ..) s
  | anart => exact .seq (fun _ _ => anartInstr_calm ..) s
  | amask => exact .seq (fun _ _ => amaskInstr_calm ..) s
  | aseal => exact .seq (fun _ _ => asealInstr_calm ..) s
  | aopen => exact .seq (fun _ _ => aopenInstr_calm ..) s
  | ald => exact .seq (fun _ _ => aldInstr_calm ..) s
  | ast => exact .seq (fun _ _ => astInstr_calm ..) s
  | aget => exact .seq (fun _ _ => agetInstr_calm ..) s
  | aput => exact .seq (fun _ _ => aputInstr_calm ..) s
  | ajmp => exact .instr (fun _ _ => ajmpInstr_calm ..) s
  | agate => exact .instr (fun _ _ => agateInstr_calm ..) s
  | sealA => exact .seq (fun _ _ => sealInstr_calm ..) s
  | unsealA => exact .seq (fun _ _ => unsealInstr_calm ..) s
  | achk => exact .seq (fun _ _ => achkInstr_calm ..) s
  | wait => exact .hold (fun _ _ => waitInstr_calm ..) s
  | yield => exact runInstr_lawful (fun _ _ => yieldInstr_tame ..) s
  | cstart => exact runSeq_lawful (fun _ _ => cstartInstr_tame ..) s
  | cstop => exact .seq (fun _ _ => cstopInstr_calm ..) s
  | cwake => exact .seq (fun _ _ => cwakeInstr_calm ..) s
  | fspill => exact .seq (fun _ _ => fspillInstr_calm ..) s
  | ffill => exact .seq (fun _ _ => ffillInstr_calm ..) s
  | post => exact .seq (fun _ _ => postInstr_calm ..) s
  | mark => exact .seq (fun _ _ => markInstr_calm ..) s
  | trec => exact .seq (fun _ _ => trecInstr_calm ..) s
  | xsnap => exact .seq (fun _ _ => xsnapInstr_calm ..) s
  | freeze => exact .seq (fun _ _ => freezeInstr_calm ..) s
  | rhahaWord => exact execRhahaWord_lawful _ s
  | cpInsn => exact .hold (fun _ _ => cpInstr_calm ..) s
  | tld => exact runTile_lawful (fun _ _ => tldBody_calm ..) _ s
  | tst => exact runTile_lawful (fun _ _ => tstBody_calm ..) _ s
  | tmma => exact runTile_lawful (fun _ _ => tmmaBody_calm ..) _ s
  | tmova => exact runTile_lawful (fun _ _ => tmovaBody_calm ..) _ s
  | tldac => exact runTile_lawful (fun _ _ => tldacBody_calm ..) _ s
  | tstac => exact runTile_lawful (fun _ _ => tstacBody_calm ..) _ s
  | tzeroT => exact runTile_lawful (fun _ _ => tzeroTBody_calm ..) _ s
  | tzeroA => exact runTile_lawful (fun _ _ => tzeroABody_calm ..) _ s
  | tclrA => exact runTile_lawful (fun _ _ => tclrABody_calm ..) _ s
  | tkill => exact runTile_lawful (fun _ _ => tkillBody_calm ..) _ s
  | trow => exact runTile_lawful (fun _ _ => trowBody_calm ..) _ s
  | tcvt => exact runTile_lawful (fun _ _ => tcvtBody_calm ..) _ s
  | tfn => exact runTile_lawful (fun _ _ => tfnBody_calm ..) _ s
  | tred => exact runTile_lawful (fun _ _ => tredBody_calm ..) _ s
  | tepi => exact runTile_lawful (fun _ _ => tepiBody_calm ..) _ s
  | tsave => exact runTile_lawful (fun _ _ => tsaveBody_calm ..) _ s
  | trestore => exact runTile_lawful (fun _ _ => trestoreBody_calm ..) _ s
  | tsdw => exact runTile_lawful (fun _ _ => tsdwBody_calm ..) _ s
  | tsdr => exact runTile_lawful (fun _ _ => tsdrBody_calm ..) _ s
  | tsync => exact runTile_lawful (fun _ _ => tsyncBody_calm ..) _ s
  | interruptEntry => exact execInterruptEntry_lawful s
  | fastInterruptEntry => exact execFastInterruptEntry_lawful s
  | lameWritebackEnd => exact execLameWritebackEnd_lawful s
  | reservedOpcode => exact execReservedOpcode_lawful _ s
  | ioWriteServe => exact serve_lawful (fun _ => serveWrite_calm ..) s
  | coreResetEnd => exact execCoreResetEnd_lawful s

/-! ## Cold reset -/

/-- What a cold reset leaves is in order. -/
theorem machineInv_of_reset {two : Bool} {vec : W64} (hctx : s.ctx = resetCtxs two vec) (hcaches : s.caches = State.reset.caches)
    (hrel : s.rel = State.reset.rel) : MachineInv s := by
  refine ⟨resetCtxs_running hctx, fun c => ?_, fun id => ?_, ?_⟩
  · obtain ⟨r, hr⟩ := resetCtxs_eq hctx c
    rw [hr]
    exact Nat.succ_pos 6
  · have hnone : s.caches.lines id = [] := by
      rw [hcaches]
      cases id <;> rfl
    have hfree : wayLocked s id 0 = false := by
      rw [wayLocked, hrel]
      cases id <;> rfl
    rw [hnone]
    exact ⟨rfl, ⟨0, by cases id <;> decide, hfree⟩, fun _ h => absurd h List.not_mem_nil, fun _ h => absurd h List.not_mem_nil⟩
  · rw [hcaches]
    exact List.nodup_nil

theorem coldState_sup (s : State) (c : CtxId) : bit ((coldState s).getCtx c).st 11 = true := by
  obtain ⟨r, hr⟩ := resetCtxs_eq (s := coldState s) rfl c
  rw [hr]
  exact resetSt_sup ..

/-! ## O60 -/

theorem step_lawful {t : State} (h : step s = .next t) (hc : s.pending.head? ≠ some .coldReset) : Lawful s t := by
  unfold step at h
  split at h
  · cases h
    exact (idleTick_calm s).lawful
  · next i rest hp =>
    rw [hp, List.head?_cons] at hc
    obtain ⟨hinv, hconfig, huser⟩ := exec_lawful (fun hi => hc (congrArg some hi)) { s with pending := rest } t h
    exact ⟨hinv, hconfig, huser⟩

theorem step_coldReset {t : State} (h : step s = .next t) (hc : s.pending.head? = some .coldReset) :
    ∃ rest, t = coldState { s with pending := rest } := by
  unfold step at h
  split at h
  · next hp =>
    rw [hp] at hc
    cases hc
  · next i rest hp =>
    rw [hp] at hc
    cases hc
    cases h
    exact ⟨rest, rfl⟩

end

/-- Settles O60. Nearly every step is calm, and any other enters the supervisor, is the supervisor's, or starts or resets the core. -/
theorem stepKeepsInvariants : Obligations.StepKeepsInvariants := by
  refine ⟨machineInv_of_reset rfl rfl rfl, fun s t h => ?_⟩
  by_cases hc : s.pending.head? = some .coldReset
  · obtain ⟨rest, rfl⟩ := step_coldReset h hc
    refine ⟨fun _ => machineInv_of_reset rfl rfl rfl, fun _ hne => absurd hc hne, fun c _ _ hu => ?_⟩
    exact absurd ((coldState_sup _ c).symm.trans hu) (by decide)
  · have hlaw := step_lawful h hc
    exact ⟨hlaw.inv, fun hl _ => hlaw.config hl, hlaw.user⟩

end Sys2Proof.Machine

namespace Sys2Proof.Machine
open Sys2Proof

/-! ## Tidy steps

O59 says of every step that it keeps the form of the scratchpad and takes no command but the one in front off the queue. A part of a step
is tidy when it keeps that form and leaves the queue; a word comes into the scratchpad through `spadPut` alone, which delivers it. -/

/-- From s to t the scratchpad keeps its form, and the queue is as it was. -/
structure Tidy (s t : State) : Prop where
  form : SpadInv s → SpadInv t
  queue : t.pending = s.pending

section
variable {s t u : State}

theorem Tidy.refl (s : State) : Tidy s s := ⟨id, rfl⟩

theorem Tidy.trans (h : Tidy s t) (g : Tidy t u) : Tidy s u := ⟨g.form ∘ h.form, g.queue.trans h.queue⟩

theorem Tidy.after (g : Tidy t u) (h : Tidy s t) : Tidy s u := h.trans g

/-- Neither the scratchpad nor the queue has changed. -/
theorem Tidy.of_eq (hs : t.spad = s.spad) (hp : t.pending = s.pending) : Tidy s t := ⟨fun h => h.congr hs, hp⟩

theorem Tidy.ite {b : Prop} [Decidable b] (ht : Tidy s t) (hu : Tidy s u) : Tidy s (if b then t else u) := by
  split
  · exact ht
  · exact hu

theorem Tidy.foldl {α : Type} (f : State → α → State) (hf : ∀ s a, Tidy s (f s a)) (l : List α) (s : State) :
    Tidy s (l.foldl f s) := by
  induction l generalizing s with
  | nil => exact .refl s
  | cons a l ih => exact (hf s a).trans (ih _)

theorem OnlyPerf.tidy (h : OnlyPerf s t) : Tidy s t := .of_eq (by rw [h.1]) (by rw [h.1])

theorem Alarmed.tidy (h : Alarmed s t) : Tidy s t := .of_eq (by rw [h]) (by rw [h])

theorem Background.tidy (h : Background True s t) : Tidy s t := .of_eq (h.spad trivial) h.pending

theorem modCtx_tidy (s : State) (c : CtxId) (f : Ctx → Ctx) : Tidy s (s.modCtx c f) := .of_eq rfl rfl

/-- A word comes into the scratchpad only as it is delivered (R102). -/
theorem spadPut_tidy (s : State) (i : Nat) (w : TWord) : Tidy s (spadPut s i w) := ⟨spadPut_inv s i w, spadPut_pending ..⟩

/-- A step that is undone keeps what its reads wrote in the scratchpad (R314). -/
theorem rollback_tidy (h : SpadInv s → SpadInv t) : Tidy s (rollback s t) := ⟨fun hs => (h hs).congr rfl, rfl⟩

end

/-! ## Programs whose steps are tidy -/

/-- Whether it ends or stops, m leads tidily on from what lay tidily after s₀. -/
structure TidyRun {α : Type} (s₀ : State) (m : M α) : Prop where
  carries : Carries (Tidy s₀) m

/-- A computation that may end in a translation fault leads tidily on, however it ends. -/
structure TidyX {α : Type} (s₀ : State) (x : X α) : Prop where
  run : TidyRun s₀ x.run

section
variable {α β : Type} {s₀ : State}

theorem TidyRun.pure (a : α) : TidyRun s₀ (pure a : M α) := ⟨Carries.pure a⟩

theorem TidyRun.throw (e : Stop) : TidyRun s₀ (throw e : M α) := ⟨Carries.throw e⟩

theorem TidyRun.bind {m : M α} {f : α → M β} (hm : TidyRun s₀ m) (hf : ∀ a, TidyRun s₀ (f a)) : TidyRun s₀ (m >>= f) :=
  ⟨hm.carries.bind fun a => (hf a).carries⟩

theorem TidyRun.ite {b : Prop} [Decidable b] {m n : M α} (hm : TidyRun s₀ m) (hn : TidyRun s₀ n) : TidyRun s₀ (if b then m else n) :=
  ⟨hm.carries.ite hn.carries⟩

theorem TidyRun.modify {f : State → State} (h : ∀ s, Tidy s (f s)) : TidyRun s₀ (modify f : M PUnit) :=
  ⟨Carries.modify fun s hs => hs.trans (h s)⟩

/-- A part that sets the state sets one that comes from the state it read. -/
theorem TidyRun.get_bind {f : State → M β} (h : ∀ s, Tidy s₀ s → TidyRun s₀ (f s)) : TidyRun s₀ (get >>= f) :=
  ⟨fun s hs => (h s hs).carries s hs⟩

theorem TidyRun.set {t : State} (h : Tidy s₀ t) : TidyRun s₀ (set t : M PUnit) := ⟨Carries.set h⟩

theorem TidyRun.getC {c : CtxId} : TidyRun s₀ (Machine.getC c) := ⟨Carries.getC c⟩

theorem TidyRun.modC {c : CtxId} {f : Ctx → Ctx} : TidyRun s₀ (Machine.modC c f) := .modify fun _ => modCtx_tidy ..

theorem TidyRun.wait : TidyRun s₀ (Machine.wait : M α) := .throw _
theorem TidyRun.raise (v : BitVec 6) (n : BitVec 8) : TidyRun s₀ (Machine.raise v n : M α) := .throw _
theorem TidyRun.undef : TidyRun s₀ (Machine.undef : M α) := .throw _
theorem TidyRun.privileged : TidyRun s₀ (Machine.privileged : M α) := .throw _
theorem TidyRun.tagFault (t : Tag) : TidyRun s₀ (Machine.tagFault t : M α) := .throw _
theorem TidyRun.misaligned : TidyRun s₀ (Machine.misaligned : M α) := .throw _
theorem TidyRun.ioProtection : TidyRun s₀ (Machine.ioProtection : M α) := .throw _
theorem TidyRun.capFault (n : BitVec 8) (f : Bool) : TidyRun s₀ (Machine.capFault n f : M α) := .throw _
theorem TidyRun.needDef (b : Bool) : TidyRun s₀ (Machine.needDef b) := .ite (.pure _) .undef
theorem TidyRun.needPriv (b : Bool) : TidyRun s₀ (Machine.needPriv b) := .ite (.pure _) (.throw _)

/-- A part that is done only in some case, before the rest. -/
theorem TidyRun.when {b : Prop} [Decidable b] {x : M PUnit} {f : PUnit → M β} (hx : TidyRun s₀ x) (hf : ∀ u, TidyRun s₀ (f u)) :
    TidyRun s₀ (if b then x >>= f else f ()) := .ite (hx.bind hf) (hf _)

theorem TidyRun.unless {b : Prop} [Decidable b] {x : M PUnit} {f : PUnit → M β} (hx : TidyRun s₀ x) (hf : ∀ u, TidyRun s₀ (f u)) :
    TidyRun s₀ (if b then f () else x >>= f) := .ite (hf _) (hx.bind hf)

theorem TidyRun.forIn {l : List α} {b : β} {f : α → β → M (ForInStep β)} (h : ∀ a b, TidyRun s₀ (f a b)) :
    TidyRun s₀ (forIn l b f) := by
  induction l generalizing b with
  | nil => exact .pure _
  | cons a l ih =>
    rw [List.forIn_cons]
    refine .bind (h a b) fun r => ?_
    cases r with
    | done b => exact .pure _
    | yield b => exact ih

theorem TidyX.pure (a : α) : TidyX s₀ (pure a : X α) := ⟨TidyRun.pure _⟩

theorem TidyX.throw (e : XFault) : TidyX s₀ (throw e : X α) := ⟨TidyRun.pure _⟩

theorem TidyX.bind {x : X α} {f : α → X β} (hx : TidyX s₀ x) (hf : ∀ a, TidyX s₀ (f a)) : TidyX s₀ (x >>= f) := by
  refine ⟨?_⟩
  rw [ExceptT.run_bind]
  refine hx.run.bind fun r => ?_
  cases r with
  | ok a => exact (hf a).run
  | error e => exact .pure _

theorem TidyX.ite {b : Prop} [Decidable b] {x y : X α} (hx : TidyX s₀ x) (hy : TidyX s₀ y) : TidyX s₀ (if b then x else y) := by
  split
  · exact hx
  · exact hy

theorem TidyX.lift {m : M α} (h : TidyRun s₀ m) : TidyX s₀ (liftM m : X α) := ⟨h.bind fun _ => .pure _⟩

theorem TidyX.modify {f : State → State} (h : ∀ s, Tidy s (f s)) : TidyX s₀ (modify f : X PUnit) := .lift (.modify h)

theorem TidyX.get_bind {f : State → X β} (h : ∀ s, Tidy s₀ s → TidyX s₀ (f s)) : TidyX s₀ (get >>= f) :=
  ⟨⟨fun s hs => (h s hs).run.carries s hs⟩⟩

theorem TidyX.tryCatch {x : X α} {f : XFault → X α} (hx : TidyX s₀ x) (hf : ∀ e, TidyX s₀ (f e)) :
    TidyX s₀ (tryCatchThe XFault x f) := by
  refine ⟨hx.run.bind fun r => ?_⟩
  cases r with
  | ok a => exact .pure _
  | error e => exact (hf e).run

theorem TidyX.when {b : Prop} [Decidable b] {x : X PUnit} {f : PUnit → X β} (hx : TidyX s₀ x) (hf : ∀ u, TidyX s₀ (f u)) :
    TidyX s₀ (if b then x >>= f else f ()) := .ite (hx.bind hf) (hf _)

theorem TidyRun.run {x : X α} (h : TidyX s₀ x) : TidyRun s₀ x.run := h.run

theorem TidyRun.of_ok {m : M α} {s t : State} {a : α} (h : TidyRun s m) (hm : m s = .ok a t) : Tidy s t := by
  have := h.carries s (.refl s)
  rwa [hm] at this

theorem TidyRun.of_error {m : M α} {s t : State} {e : Stop} (h : TidyRun s m) (hm : m s = .error e t) : Tidy s t := by
  have := h.carries s (.refl s)
  rwa [hm] at this

end

/-- The checks and the performing of rows are tidy. -/
structure RowTidy (s₀ : State) (k : RowWork) : Prop where
  check : ∀ p r, TidyRun s₀ (k.check p r)
  perform : ∀ p r row, TidyRun s₀ (k.perform p r row)
  finish : TidyRun s₀ k.finish

section
variable {s₀ : State}

theorem wholeWork_tidy {eff : Nat → Nat → M Unit} (h : ∀ p r, TidyRun s₀ (eff p r)) : RowTidy s₀ (wholeWork eff) :=
  ⟨fun _ _ => .pure _, fun p r _ => h p r, .pure _⟩

/-! Counters and events -/

theorem freshFree_tidy : TidyRun s₀ freshFree := .get_bind fun _ hs => .bind (.set (hs.trans (.of_eq rfl rfl))) fun _ => .pure _

theorem freeW_tidy : TidyRun s₀ freeW := .bind (freshFree_tidy ..) fun _ => .pure _

theorem freeB_tidy : TidyRun s₀ freeB := .bind (freshFree_tidy ..) fun _ => .pure _

theorem freeBounded_tidy : TidyRun s₀ freeBounded := .bind (freshFree_tidy ..) fun _ => .pure _

theorem countCtx_tidy (cls evt n : Nat) (c : CtxId) (addr : Option W64) (s : State) : Tidy s (countCtx cls evt n c addr s) :=
  (countEvent_eq ..).tidy

theorem traceCtx_tidy (typ : BitVec 6) (c : CtxId) (p0 p1 : W64) (s : State) : Tidy s (traceCtx typ c p0 p1 s) :=
  (traceRec_background ..).tidy

theorem setEvent_tidy (c : CtxId) (i : Nat) (s : State) : Tidy s (setEvent c i s) := .of_eq rfl rfl

theorem advance_tidy (c : CtxId) : TidyRun s₀ (advance c) := .modC

/-! Accounting -/

theorem retire_tidy (c : CtxId) (before after : State) : Tidy after (retire c before after) :=
  .trans (countRetired_eq ..).tidy (.of_eq rfl rfl)

/-! The mesh -/

theorem needLane_tidy (l : BitVec 2) : TidyRun s₀ (needLane l) := .get_bind fun _ _ => .ite .wait (.pure _)

theorem requestRead_tidy (op : ReqOp) (addr : PAddr) (who : Requester) (size : BitVec 4) (l1i l1d l2 stream : Bool) :
    TidyRun s₀ (requestRead op addr who size l1i l1d l2 stream) := by
  unfold requestRead
  refine .get_bind fun _ hs => ?_
  split
  · exact .wait
  · refine .ite ?_ ?_
    · exact .bind (needLane_tidy ..) fun _ => .set (hs.trans (sendReq_background ..).tidy)
    · exact .set (hs.trans (.trans (tollRefuse_background ..).tidy (.of_eq rfl rfl)))

/-! Caches and memory -/

theorem spadRead_tidy (bulk : Bool) (i : Nat) : TidyRun s₀ (spadRead bulk i) := by
  unfold spadRead
  refine .get_bind fun _ hs => ?_
  split
  · exact .pure _
  · exact .bind (.set (hs.trans (.after (spadPut_tidy ..) (countError_background ..).tidy))) fun _ => .pure _
  · refine .ite ?_ ?_
    · refine .bind (.set (hs.trans ?_)) fun _ => .pure _
      exact .after (machineCheck_background ..).tidy (.after (spadPut_tidy ..) (countError_background ..).tidy)
    · exact .bind (.set (hs.trans (.after (spadPut_tidy ..) (countError_background ..).tidy))) fun _ => .pure _

theorem meetErrors_tidy (c : CacheId) (n : Nat) (p : EccEvent → Bool) (s : State) : Tidy s (meetErrors c n p s) :=
  .after (.foldl _ (fun _ _ => (eccCache_background ..).tidy) _ _) (clearLatent_background ..).tidy

theorem meetTag_tidy (c : CacheId) (n : Nat) (s : State) : Tidy s (meetTag c n s) := meetErrors_tidy ..

theorem touch_tidy (c : CacheId) (key : Nat) (l : CLine) : TidyRun s₀ (touch c key l) := .modify fun _ => (cachePut_background ..).tidy

theorem ebufRecall_tidy (n : Nat) : TidyRun s₀ (ebufRecall n) := by
  unfold ebufRecall
  refine .get_bind fun s hs => ?_
  split
  · exact .pure _
  · refine .ite .wait ?_
    extract_lets _ t
    have ht : Tidy s t := .of_eq rfl rfl
    split
    · next u h =>
      have hu : Tidy t u := by
        split at h
        · exact (insertL2_background h).tidy
        · exact (insertL1D_background h).tidy
      exact .bind (.set (hs.trans (.after (retryHeld_background ..).tidy (ht.trans hu)))) fun _ => .pure _
    · exact .wait

theorem freeLine_tidy : TidyRun s₀ freeLine := by
  unfold freeLine
  refine .bind (freeBounded_tidy ..) fun _ => .bind (freeBounded_tidy ..) fun _ => .bind (freeBounded_tidy ..) fun _ => ?_
  refine .bind (freeBounded_tidy ..) fun _ => .bind (freeBounded_tidy ..) fun _ => .bind (freeBounded_tidy ..) fun _ => ?_
  exact .bind (freeBounded_tidy ..) fun _ => .bind (freeBounded_tidy ..) fun _ => .pure _

theorem uninitHit_tidy (cs : List CacheId) : TidyRun s₀ (uninitHit cs) := .get_bind fun _ _ => .ite (freeB_tidy ..) (.pure _)

theorem cachedLine_tidy (mode : ReadMode) (stream : Bool) (n : Nat) : TidyRun s₀ (cachedLine mode stream n) := by
  unfold cachedLine
  refine .get_bind fun _ _ => ?_
  split
  · exact .bind (touch_tidy ..) fun _ => .pure _
  · split
    · exact .pure _
    · refine .bind (touch_tidy ..) fun _ => .get_bind fun _ hs => .ite ?_ (.ite ?_ (.pure _))
      · exact .bind (.set (hs.trans (.ite (insertL1I_background ..).tidy (.refl _)))) fun _ => .pure _
      · split
        · next h => exact .bind (.set (hs.trans (insertL1D_background h).tidy)) fun _ => .pure _
        · exact .bind .wait fun _ => .pure _

theorem requestLine_tidy (who : Requester) (mode : ReadMode) (stream : Bool) (n : Nat) : TidyRun s₀ (requestLine who mode stream n) :=
  .get_bind fun _ _ => .ite (requestRead_tidy ..) (requestRead_tidy ..)

theorem readLine_tidy (who : Requester) (mode : ReadMode) (stream : Bool) (a : W64) (n : Nat) :
    TidyRun s₀ (readLine who mode stream a n) := by
  unfold readLine
  refine .bind (uninitHit_tidy ..) fun _ => ?_
  refine .ite (.bind (freeLine_tidy ..) fun _ => .pure _) ?_
  refine .get_bind fun _ _ => ?_
  split
  · exact .pure _
  · refine .bind (.modify fun _ => (meetRead_background ..).tidy) fun _ => .get_bind fun _ _ => .bind (cachedLine_tidy ..) fun _ => ?_
    split
    · exact .bind (.modify fun _ => (countLooks_background ..).tidy) fun _ => .pure _
    · refine .bind (ebufRecall_tidy ..) fun _ => ?_
      refine .ite ?_ ?_
      · refine .bind (cachedLine_tidy ..) fun _ => ?_
        split
        · exact .bind (.modify fun _ => (countLooks_background ..).tidy) fun _ => .pure _
        · exact .wait
      · refine .get_bind fun _ _ => ?_
        refine .ite .wait ?_
        refine .bind (.modify fun _ => (countLooks_background ..).tidy) fun _ => .bind (requestLine_tidy ..) fun _ => ?_
        exact .get_bind fun _ _ => .ite (.pure _) .wait

theorem readDevice_tidy (who : Requester) (pa : PAddr) (size : BitVec 4) : TidyRun s₀ (readDevice who pa size) := by
  unfold readDevice
  refine .get_bind fun _ _ => ?_
  split
  · exact .pure _
  · exact .ite .wait (.bind (requestRead_tidy ..) fun _ => .get_bind fun _ _ => .ite (.pure _) .wait)

theorem promoteLine_tidy (who : Requester) (n : Nat) (st : LineState) (ok : WPath) : TidyRun s₀ (promoteLine who n st ok) := by
  unfold promoteLine
  refine .ite (.pure _) ?_
  exact .get_bind fun _ _ => .ite (.pure _) (.ite .wait (.bind (requestRead_tidy ..) fun _ => .get_bind fun _ _ => .ite (.pure _) .wait))

theorem storeHit_tidy (who : Requester) (c : CacheId) (n : Nat) : TidyRun s₀ (storeHit who c n) := by
  unfold storeHit
  refine .get_bind fun _ _ => ?_
  split
  · exact .ite (touch_tidy ..) (.pure _)
  · exact .pure _

theorem storeFromL2_tidy (who : Requester) (stream : Bool) (n : Nat) : TidyRun s₀ (storeFromL2 who stream n) := by
  unfold storeFromL2
  refine .bind (.modify fun _ => (meetLine_background ..).tidy) fun _ => .get_bind fun _ _ => ?_
  split
  · exact .wait
  · refine .bind (storeHit_tidy ..) fun _ => .bind (promoteLine_tidy ..) fun _ => ?_
    split
    · refine .get_bind fun t ht => ?_
      extract_lets u
      have hu := ht.trans (meetLine_background .l2 n t).tidy
      split
      · exact .bind (.set hu) fun _ => .wait
      · split
        · next h => exact .bind (.set (hu.trans (insertL1D_background h).tidy)) fun _ => .pure _
        · exact .wait
    · exact .pure _

theorem meetTags_tidy (id : CacheId) (n : Nat) :
    TidyRun s₀ (modify fun t => if cacheOn t id then meetTag id n t else t : M PUnit) :=
  .modify fun t => .ite (meetTag_tidy ..) (.refl t)

theorem lookedFor_tidy (who src : Requester) (a : W64) (n : Nat) (v : State) {m : M WPath} (h : TidyRun s₀ m) :
    TidyRun s₀ (lookedFor who src a n v m) :=
  h.bind fun _ => .when (.modify fun _ => (countLooks_background ..).tidy) fun _ => .pure _

theorem prepScalarLine_tidy (who : Requester) (stream : Bool) (a : W64) (n : Nat) : TidyRun s₀ (prepScalarLine who stream a n) := by
  unfold prepScalarLine
  refine .get_bind fun _ _ => .when .wait fun _ => .bind (uninitHit_tidy ..) fun _ => ?_
  extract_lets look
  have hlook (u) : TidyRun s₀ (look u) := by
    refine .bind (meetTags_tidy ..) fun _ => .bind (meetTags_tidy ..) fun _ => .get_bind fun _ _ => ?_
    dsimp only
    split
    · exact .bind (storeHit_tidy ..) fun _ => lookedFor_tidy (h := promoteLine_tidy ..) ..
    · exact .ite (lookedFor_tidy (h := storeFromL2_tidy ..) ..)
        (.bind (storeHit_tidy ..) fun _ => lookedFor_tidy (h := promoteLine_tidy ..) ..)
    · refine .bind (ebufRecall_tidy n) fun _ => .ite .wait (.get_bind fun _ _ => .ite (.ite .wait (.pure _)) (.ite (.pure _) ?_))
      refine .ite .wait (.bind (.modify fun _ => (countLooks_background ..).tidy) fun _ => .bind (requestRead_tidy ..) fun _ => ?_)
      exact .get_bind fun _ _ => .ite (.pure _) .wait
  exact .ite (.bind (freeB_tidy ..) fun _ => .ite (.pure _) (hlook ())) (hlook ())

theorem prepBulkLine_tidy (who src : Requester) (a : W64) (n : Nat) : TidyRun s₀ (prepBulkLine who src a n) := by
  unfold prepBulkLine
  refine .get_bind fun _ _ => .when .wait fun _ => .bind (uninitHit_tidy ..) fun _ => ?_
  extract_lets look
  have hlook (u) : TidyRun s₀ (look u) := by
    refine .bind (meetTags_tidy ..) fun _ => .bind (meetTags_tidy ..) fun _ => .get_bind fun _ _ => ?_
    dsimp only
    split
    · exact .bind (storeHit_tidy ..) fun _ => lookedFor_tidy (h := promoteLine_tidy ..) ..
    · exact .bind (storeHit_tidy ..) fun _ => lookedFor_tidy (h := promoteLine_tidy ..) ..
    · refine .bind (ebufRecall_tidy n) fun _ => .ite .wait (.get_bind fun _ _ => .get_bind fun _ _ => .get_bind fun _ _ => ?_)
      exact .ite .wait (lookedFor_tidy (h := .pure _) ..)
  exact .ite (.bind (freeB_tidy ..) fun _ => .ite (.pure _) (hlook ())) (hlook ())

theorem clearWords_tidy (c : CacheId) (n : Nat) (mask : W64) (s : State) : Tidy s (clearWords c n mask s) :=
  (clearLatent_background ..).tidy

theorem commitLine_tidy (who : Requester) (own : Option CtxId) (path : WPath) (pa : PAddr) (mask : W64) (d : Line) (s : State) :
    Tidy s (commitLine who own path pa mask d s) := by
  unfold commitLine
  extract_lets n gone t
  have hgone : Tidy s gone := by
    unfold gone
    split
    · exact (cacheDel_background ..).tidy
    · exact .refl s
  suffices h : Tidy s t from .ite h (h.trans (hitWatch_background ..).tidy)
  unfold t
  split
  · exact .refl s
  · exact .foldl _ (fun _ _ => .ite (.refl _) (spadPut_tidy ..)) _ s
  · split
    · exact .trans (cachePut_background ..).tidy (clearLatent_background ..).tidy
    · exact .refl s
  · split
    · exact hgone.trans (.trans (cachePut_background ..).tidy (clearLatent_background ..).tidy)
    · exact .refl s
  · exact (sendWrite_background ..).tidy
  · exact (sendWrite_background ..).tidy

/-! Translation -/

theorem pickFree_tidy (l : List α) : TidyRun s₀ (pickFree l) := by
  induction l with
  | nil => exact .pure none
  | cons a l ih => exact freeB_tidy.bind fun _ => .ite (.pure _) ih

theorem walkWord_tidy (who : Requester) (pa : PAddr) : TidyRun s₀ (walkWord who pa) := by
  unfold walkWord
  refine .ite ?_ (.bind (readLine_tidy ..) fun _ => .pure _)
  refine .bind (.bind (spadRead_tidy ..) fun _ => .pure _) fun _ => .bind (.modify fun _ => (countSpec_background ..).tidy) fun _ => ?_
  exact .pure _

theorem walkRead_tidy (who : Requester) (g : Regime) (stage2 s1w : Bool) (lvl ipa : Nat) (pa : PAddr) :
    TidyX s₀ (walkRead who g stage2 s1w lvl ipa pa) := by
  unfold walkRead
  refine .get_bind fun _ _ => .when (.throw _) fun _ => .when (.throw _) fun _ => .bind (.lift (walkWord_tidy ..)) fun _ => ?_
  split
  · exact .throw _
  · exact .ite (.throw _) (.pure _)

theorem walkCached_tidy (g : Regime) (stage2 : Bool) (lvl a : Nat) : TidyRun s₀ (walkCached g stage2 lvl a) :=
  .ite (.pure _) (.get_bind fun _ _ => .bind (pickFree_tidy ..) fun _ => .pure _)

theorem keepWalk_tidy (g : Regime) (stage2 : Bool) (lvl a : Nat) (e : W64) : TidyRun s₀ (keepWalk g stage2 lvl a e) :=
  .modify fun _ => .ite (.refl _) (.of_eq rfl rfl)

theorem walkFrom_tidy (g : Regime) (stage2 s1w : Bool) (ipa : Nat) {rd : Nat → Nat → X W64} (hrd : ∀ lvl p, TidyX s₀ (rd lvl p))
    (a fuel lvl table : Nat) : TidyX s₀ (walkFrom g stage2 s1w ipa rd a fuel lvl table) := by
  induction fuel generalizing lvl table with
  | zero => exact .throw _
  | succ fuel ih =>
    unfold walkFrom
    refine .bind (.lift (walkCached_tidy ..)) fun c => ?_
    extract_lets go
    have hgo (e) : TidyX s₀ (go e) := by
      refine .when (.throw _) fun _ => .when (.throw _) fun _ => .ite (.bind (.lift (keepWalk_tidy ..)) fun _ => ih _ _) (.ite ?_ (.pure _))
      exact .bind (.lift freshFree_tidy) fun _ => .bind (hrd _ _) fun _ => .pure _
    split
    · exact .bind (.pure _) hgo
    · exact .bind (hrd _ _) hgo

theorem stage2Leaf_tidy (who : Requester) (g : Regime) (s1w fresh : Bool) (ipa : Nat) :
    TidyX s₀ (stage2Leaf who g s1w fresh ipa) := by
  unfold stage2Leaf
  refine .get_bind fun _ _ => .bind (.lift (pickFree_tidy _)) fun _ => ?_
  split
  · exact .pure _
  · refine .bind (walkFrom_tidy _ _ _ _ (fun _ _ => walkRead_tidy ..) ..) fun _ => ?_
    exact .when (.modify fun _ => (keepEntry_background ..).tidy) fun _ => .pure _

theorem stage1Read_tidy (who : Requester) (g : Regime) (fresh : Bool) (lvl p : Nat) : TidyX s₀ (stage1Read who g fresh lvl p) := by
  unfold stage1Read
  refine .ite ?_ (walkRead_tidy ..)
  refine .bind (stage2Leaf_tidy ..) fun _ => ?_
  split
  exact .when (.throw _) fun _ => .when (.throw _) fun _ => walkRead_tidy ..

theorem walkLeaves_tidy (who : Requester) (g : Regime) (fresh : Bool) (a : Nat) : TidyX s₀ (walkLeaves who g fresh a) := by
  unfold walkLeaves
  have stage2 (l1 : Option (W64 × Nat)) (ipa : Nat) : TidyX s₀ (do
      let l2 ← if g.en2 then (do return some (← stage2Leaf who g false fresh ipa) : X (Option (W64 × Nat))) else pure none
      return (l1, l2)) :=
    .ite (.bind (.bind (stage2Leaf_tidy ..) fun _ => .pure _) fun _ => .pure _) (.bind (.pure _) fun _ => .pure _)
  refine .ite (.bind (.bind ?_ fun _ => .pure _) fun l1 => stage2 ..) (.bind (.pure _) fun l1 => stage2 ..)
  exact walkFrom_tidy _ _ _ _ (fun _ _ => stage1Read_tidy ..) ..

theorem leavesOf_tidy (who : Requester) (g : Regime) (x : XReq) (fresh : Bool) (a : Nat) : TidyX s₀ (leavesOf who g x fresh a) := by
  unfold leavesOf
  refine .get_bind fun _ _ => .bind (.lift (pickFree_tidy ..)) fun _ => ?_
  split
  · exact .pure _
  · refine .bind (.tryCatch (walkLeaves_tidy ..) fun _ => .bind (.ite ?_ (.pure _)) fun _ => .throw _) fun _ => ?_
    · exact .modify fun _ => (countXlate_background ..).tidy
    exact .bind (.ite (.modify fun _ => (countXlate_background ..).tidy) (.pure _)) fun _ => .pure _

theorem keepLeaf_tidy (g : Regime) (a ipa : Nat) (l1 l2 : Option (W64 × Nat)) (fresh : Bool) :
    TidyRun s₀ (keepLeaf g a ipa l1 l2 fresh) := .ite (.modify fun _ => (keepEntry_background ..).tidy) (.pure _)

theorem checkLeaves_tidy (g : Regime) (x : XReq) (l1 l2 : Option (W64 × Nat)) (ipa : Nat) (pa : PAddr) :
    TidyX s₀ (checkLeaves g x l1 l2 ipa pa) := by
  unfold checkLeaves
  refine .get_bind fun _ _ => ?_
  extract_lets right e1 dev mark found marks keys inside device sealed stage2
  have hmark (b : Nat) (t : BitVec 4) : TidyX s₀ (mark b t) := by
    cases l1 with
    | none =>
      cases l2 with
      | none => exact .pure _
      | some _ => exact .ite (.throw _) (.pure _)
    | some _ =>
      cases l2 with
      | none => exact .when (.throw _) fun _ => .pure _
      | some _ => exact .when (.throw _) fun _ => .ite (.throw _) (.pure _)
  have hmarks (u) : TidyX s₀ (marks u) := .bind (hmark 6 4) fun _ => .ite (.bind (hmark 7 5) fun _ => .pure _) (.pure _)
  have hkeys (u) : TidyX s₀ (keys u) := by
    show TidyX s₀ (match x.keys, l1 with | some _, some (_, _) => _ | _, _ => _)
    split
    · exact .when (.throw _) hmarks
    · exact hmarks ()
  have hinside (u) : TidyX s₀ (inside u) := .when (.throw _) hkeys
  have hdevice (u) : TidyX s₀ (device u) := .when (.throw _) hinside
  have hsealed (u) : TidyX s₀ (sealed u) := .when (.throw _) hdevice
  have hstage2 (u) : TidyX s₀ (stage2 u) := by
    cases l2 with
    | none => exact hsealed ()
    | some _ => exact .when (.throw _) hsealed
  clear_value stage2
  cases l1 with
  | none =>
    dsimp only
    split
    · exact .bind (.throw _) hstage2
    · exact hstage2 ()
  | some _ =>
    refine .when (.throw _) fun _ => .when (.throw _) fun _ => ?_
    dsimp only
    split
    · exact .when (.throw _) fun _ => .when (.throw _) hstage2
    · exact .when (.throw _) hstage2

theorem translateOnce_tidy (who : Requester) (g : Regime) (x : XReq) (fresh : Bool) : TidyX s₀ (translateOnce who g x fresh) := by
  unfold translateOnce
  refine .bind (leavesOf_tidy ..) fun _ => ?_
  split
  exact .when (.lift (keepLeaf_tidy ..)) fun _ => checkLeaves_tidy ..

theorem translate_tidy (who : Requester) (g : Regime) (x : XReq) : TidyRun s₀ (translate who g x) := by
  unfold translate
  refine .ite (.pure _) ?_
  refine .bind (.run (translateOnce_tidy ..)) fun _ => ?_
  split
  · exact .pure _
  · exact .ite (.run (translateOnce_tidy ..)) (.pure _)

theorem raiseX_tidy {α : Type} (f : XFault) (k : AccKind) (va : W64) : TidyRun s₀ (raiseX f k va : M α) := .throw _

theorem translateCtx_tidy (c : CtxId) (x : XReq) : TidyRun s₀ (translateCtx c x) := by
  unfold translateCtx
  refine .get_bind fun _ _ => ?_
  refine .bind (translate_tidy ..) fun _ => ?_
  split
  · exact .pure _
  · exact raiseX_tidy ..

theorem needCanonical_tidy (c : CtxId) (va : W64) (k : AccKind) : TidyRun s₀ (needCanonical c va k) :=
  .get_bind fun _ _ => .ite (.pure _) (raiseX_tidy ..)

/-! Capabilities -/

theorem needCap_tidy (e : Option CapErr) : TidyRun s₀ (needCap e) := by
  unfold needCap
  split
  · exact .pure _
  · exact .capFault _ _

/-! Access to memory -/

theorem needAligned_tidy (va : W64) (n : Nat) : TidyRun s₀ (needAligned va n) := .ite (.pure _) .misaligned

theorem needStack_tidy (c : CtxId) (a : W64) (n : Nat) : TidyRun s₀ (needStack c a n) := .bind .getC fun _ => .ite (.pure _) (.raise _ _)

theorem needDdc_tidy (c : CtxId) (k : AccKind) (a : W64) (n : Nat) (give : Bool) : TidyRun s₀ (needDdc c k a n give) :=
  .get_bind fun _ _ => .ite (.bind (needCap_tidy ..) fun _ => .ite (.capFault _ _) (.pure _)) (.pure _)

theorem needRows_tidy (c : CtxId) (k : AccKind) (a : W64) (n : Nat) (sp give : Bool) : TidyRun s₀ (needRows c k a n sp give) :=
  .bind (needCanonical_tidy ..) fun _ => .bind (needAligned_tidy ..) fun _ => .when (needStack_tidy ..) fun _ => needDdc_tidy ..

theorem readPhys_tidy (c : CtxId) (p : Phys) (n : Nat) : TidyRun s₀ (readPhys c p n) := by
  unfold readPhys
  refine .get_bind fun _ _ => .when .wait fun _ => ?_
  refine .ite ?_ ?_
  · exact .bind (.modify fun _ => countCtx_tidy ..) fun _ => .bind (spadRead_tidy ..) fun _ => .pure _
  · refine .ite ?_ ?_
    · refine .bind (readDevice_tidy ..) fun _ => ?_
      split <;> exact .pure _
    · refine .get_bind fun _ _ => .bind (readLine_tidy ..) fun _ => ?_
      split
      · exact .when (.modify fun _ => countCtx_tidy ..) fun _ => .pure _
      · exact .pure _

theorem loadAt_tidy (c : CtxId) (a : W64) (n : Nat) : TidyRun s₀ (loadAt c a n) :=
  .bind (translateCtx_tidy ..) fun _ => .bind (readPhys_tidy ..) fun _ => .get_bind fun _ _ => .pure _

theorem loadWord_tidy (c : CtxId) (a : W64) (sp : Bool) : TidyRun s₀ (loadWord c a sp) := .bind (needRows_tidy ..) fun _ => loadAt_tidy ..

theorem prepPhys_tidy (c : CtxId) (p : Phys) (n : Nat) : TidyRun s₀ (prepPhys c p n) := by
  unfold prepPhys
  refine .get_bind fun _ _ => .when .wait fun _ => ?_
  refine .ite (.pure _) ?_
  refine .ite (.get_bind fun _ _ => .ite .wait (.pure _)) ?_
  exact .get_bind fun _ _ => .bind (prepScalarLine_tidy ..) fun _ => .when (.modify fun _ => countCtx_tidy ..) fun _ => .pure _

theorem countStore_tidy (path : WPath) (c : CtxId) (va : W64) (s t : State) : Tidy t (countStore path c va s t) := by
  unfold countStore
  split
  · exact .refl _
  · exact .of_eq rfl rfl
  · exact .of_eq rfl rfl
  · exact countCtx_tidy ..

theorem commitAs_tidy (own : Option CtxId) (c : CtxId) (path : WPath) (p : Phys) (n : Nat) (w : TWord) :
    TidyRun s₀ (commitAs own c path p n w) := .modify fun _ => .after (countStore_tidy ..) (commitLine_tidy ..)

theorem commitPhys_tidy (c : CtxId) (path : WPath) (p : Phys) (n : Nat) (w : TWord) : TidyRun s₀ (commitPhys c path p n w) :=
  commitAs_tidy ..

theorem storeWord_tidy (c : CtxId) (a : W64) (sp : Bool) (w : TWord) : TidyRun s₀ (storeWord c a sp w) :=
  .bind (needRows_tidy ..) fun _ => .bind (translateCtx_tidy ..) fun _ => .bind (prepPhys_tidy ..) fun _ => commitPhys_tidy ..

theorem dropXlate_tidy (i : Nat) (s : State) : Tidy s (dropXlate i s) := .after (countError_background ..).tidy (.of_eq rfl rfl)

theorem strike_tidy (c : CtxId) (ecc : Option EccEvent) (s : State) : Tidy s (strike c ecc s) := by
  unfold strike
  split
  · exact .refl _
  · exact .ite (.refl _) (.ite (dropXlate_tidy ..) (.ite (.of_eq rfl rfl) (.ite (.of_eq rfl rfl) (.of_eq rfl rfl))))

theorem meetSlot_tidy (c : CtxId) (i : Nat) (s : State) : Tidy s (meetSlot c i s) :=
  .ite (.refl _) (.after (countError_background ..).tidy (.of_eq rfl rfl))

theorem meetBank_tidy (c : CtxId) (s : State) : Tidy s (meetBank c s) := .foldl _ (fun _ _ => meetSlot_tidy ..) _ _

theorem readSlot_tidy (c : CtxId) (i : BitVec 5) : TidyRun s₀ (readSlot c i) :=
  .bind (.modify fun _ => meetSlot_tidy ..) fun _ => .bind .getC fun _ => .pure _

theorem oldWord_tidy (c : CtxId) (path : WPath) (p : Phys) : TidyRun s₀ (oldWord c path p) := by
  unfold oldWord
  extract_lets
  split
  · refine .get_bind fun _ _ => ?_
    split
    · exact .bind (.modify fun _ => .after (spadPut_tidy ..) (countError_background ..).tidy) fun _ => .pure _
    · exact .bind (.modify fun _ => .after (spadPut_tidy ..) (countError_background ..).tidy) fun _ => .pure _
    · exact .pure _
  · refine .bind (.modify fun _ => .after (meetLine_background ..).tidy (meetLine_background ..).tidy) fun _ => .get_bind fun _ _ => ?_
    split
    · exact .pure _
    · exact .wait
  · refine .bind (.modify fun _ => .after (meetLine_background ..).tidy (meetLine_background ..).tidy) fun _ => .get_bind fun _ _ => ?_
    split
    · exact .pure _
    · exact .wait
  · refine .bind (readLine_tidy ..) fun _ => ?_
    split <;> exact .pure _
  · exact .pure _

theorem storeSub_tidy (c : CtxId) (a : W64) (n : Nat) (sp : Bool) (w : TWord) : TidyRun s₀ (storeSub c a n sp w) := by
  unfold storeSub
  refine .bind (needRows_tidy ..) fun _ => .bind (translateCtx_tidy ..) fun _ => .get_bind fun _ _ => ?_
  refine .bind (prepPhys_tidy ..) fun _ => ?_
  refine .ite (commitPhys_tidy ..) ?_
  refine .bind (oldWord_tidy ..) fun _ => ?_
  split
  · exact commitPhys_tidy ..
  · exact .when (.raise _ _) fun _ => commitPhys_tidy ..

/-! Observation -/

theorem freezeTrigger_tidy (b : Nat) (s : State) : Tidy s (freezeTrigger b s) := .ite (.of_eq rfl rfl) (.refl _)

theorem snapTrigger_tidy (cause : BitVec 4) (s : State) : Tidy s (snapTrigger cause s) :=
  .ite (.refl _) (.ite (.of_eq rfl rfl) (.of_eq rfl rfl))

theorem sendLines_tidy (who : Requester) (addr : Nat) (ls : List Line) (s : State) : Tidy s (sendLines who addr ls s) :=
  .foldl _ (fun _ _ => .after (hitWatch_background ..).tidy (sendWrite_background ..).tidy) _ _

theorem dumpDone_tidy (s : State) : Tidy s (dumpDone s) := by
  unfold dumpDone
  split
  · exact .refl _
  · refine .ite (.refl _) ?_
    extract_lets
    split
    exact .after (traceRec_background ..).tidy (.of_eq rfl rfl)

theorem dumpDue_tidy (reason : BitVec 4) (s : State) : Tidy s (dumpDue reason s) :=
  .ite (.trans (dumpDone_tidy ..) (.of_eq rfl rfl)) (.after (sendLines_tidy ..) (.trans (dumpDone_tidy ..) (.of_eq rfl rfl)))

theorem traceFull_tidy (s : State) : Tidy s (traceFull s) := .after (freezeTrigger_tidy ..) (.ite (setPend_eq ..).tidy (.refl _))

theorem stopCounters_tidy (s : State) : Tidy s (stopCounters s) := by
  unfold stopCounters
  refine .after (traceRec_background ..).tidy ?_
  refine .ite ?_ (.ite (.after (dumpDue_tidy ..) (.of_eq rfl rfl)) (.of_eq rfl rfl))
  exact .after (snapTrigger_tidy ..) (.ite (.after (dumpDue_tidy ..) (.of_eq rfl rfl)) (.of_eq rfl rfl))

theorem settle_tidy (s : State) : Tidy s (settle s) := .foldl _ (fun _ _ => (setEvents_background ..).tidy) _ _

theorem moverLeave_tidy (ch : BitVec 3) (m : MoverCh) (s : State) : Tidy s (moverLeave ch m s) := by
  unfold moverLeave
  extract_lets t cause u c v
  have ht : Tidy s t := .trans (t := setMover ch m s) (.of_eq rfl rfl) (traceRec_background ..).tidy
  have hu : Tidy s u := .ite (.after (countEvent_eq ..).tidy ht) ht
  have hv : Tidy s v := .ite (.after (setPend_eq ..).tidy (hu.trans (.of_eq rfl rfl))) hu
  exact .after (noteFences_background ..).tidy (.after (settle_tidy ..) (.after (accountChange_eq ..).tidy hv))

theorem stopTileChannels_tidy (s : State) : Tidy s (stopTileChannels s) := .foldl _ (fun _ _ => .ite (moverLeave_tidy ..) (.refl _)) _ _

theorem milestone_tidy (c : CtxId) (kind idx : BitVec 4) (peer : Option CoreId) (pctx : CtxId) (dur detail : W64) (s : State) :
    Tidy s (milestone c kind idx peer pctx dur detail s) :=
  .ite (.refl _) (.ite (.after (countCtx_tidy ..) (traceCtx_tidy ..)) (traceCtx_tidy ..))

/-! Exceptions and entry -/

theorem goLame_tidy (cause : BitVec 3) (c : CtxId) (s : State) : Tidy s (goLame cause c s) := by
  unfold goLame
  refine .ite ?_ ?_
  · refine .after (snapTrigger_tidy ..) ?_
    exact .after (freezeTrigger_tidy ..) (.after (wayside_background ..).tidy (.after (accountChange_eq ..).tidy (.of_eq rfl rfl)))
  · exact .after (freezeTrigger_tidy ..) (.after (wayside_background ..).tidy (.after (accountChange_eq ..).tidy (.of_eq rfl rfl)))

theorem prepWords_tidy (c : CtxId) (ps : List Phys) : TidyRun s₀ (prepWords c ps) := by
  induction ps with
  | nil => exact .pure _
  | cons p ps ih => exact .bind (prepPhys_tidy ..) fun _ => .bind ih fun _ => .pure _

theorem needPaths_tidy (ps : List (Phys × WPath)) : TidyRun s₀ (needPaths ps) := .get_bind fun _ _ => .ite (.pure _) .wait

theorem commitWords_tidy (own : Option CtxId) (c : CtxId) (ps : List (Phys × WPath)) (ws : List TWord) :
    TidyRun s₀ (commitWords own c ps ws) := by
  induction ps generalizing ws with
  | nil => exact .pure _
  | cons p ps ih =>
    cases ws with
    | nil => exact .pure _
    | cons w ws => exact .bind (commitAs_tidy ..) fun _ => ih ws

theorem translateWords_tidy (who : Requester) (g : Regime) (k : AccKind) (a : W64) (n : Nat) :
    TidyRun s₀ (translateWords who g k a n) := by
  induction n generalizing a with
  | zero => exact .pure _
  | succ n ih =>
    refine .bind (translate_tidy ..) fun _ => ?_
    split
    · exact .pure _
    · refine .bind (ih _) fun _ => ?_
      split <;> exact .pure _

theorem entryRecords_tidy (c : CtxId) (k : Ctx) (esc : Bool) (ecause retPc : W64) (s : State) :
    Tidy s (entryRecords c k esc ecause retPc s) := by
  unfold entryRecords
  refine .ite ?_ (.after (countEvent_eq ..).tidy (traceCtx_tidy ..))
  exact .after (countEvent_eq ..).tidy (.after (countEvent_eq ..).tidy (traceCtx_tidy ..))

theorem escalate_tidy (c : CtxId) (r : EntryReq) (esr : BitVec 4) (svec : BitVec 6) : TidyRun s₀ (escalate c r esr svec) := by
  unfold escalate
  refine .get_bind fun _ hs => ?_
  refine .ite (.set (hs.trans (goLame_tidy ..))) ?_
  refine .ite (.set (hs.trans (goLame_tidy ..))) ?_
  refine .ite (.set (hs.trans (goLame_tidy ..))) ?_
  refine .bind (prepWords_tidy ..) fun _ => .bind (needPaths_tidy ..) fun _ => .bind (commitWords_tidy ..) fun _ => ?_
  exact .modify fun _ => .after (entryRecords_tidy ..) (.of_eq rfl rfl)

theorem pushCheck_tidy (c : CtxId) (r : EntryReq) : TidyRun s₀ (pushCheck c r) := by
  unfold pushCheck
  refine .get_bind fun _ _ => .ite (.pure _) (.ite (.pure _) ?_)
  extract_lets _ _ next
  have hnext (u) : TidyRun s₀ (next u) := by
    refine .bind (translateWords_tidy ..) fun _ => ?_
    split <;> exact .pure _
  refine .ite ?_ (hnext ())
  split
  · exact .pure _
  · exact .pure _
  · exact hnext ()

theorem enter_tidy (c : CtxId) (r : EntryReq) : TidyRun s₀ (enter c r) := by
  unfold enter
  refine .get_bind fun _ _ => .ite (escalate_tidy ..) (.bind (pushCheck_tidy ..) fun p => ?_)
  cases p with
  | error e =>
    dsimp only
    have hesc (v) : TidyRun s₀ (if e.forged then modify (countViolation 0) >>= fun _ => escalate c r 2 v else escalate c r 2 v) :=
      .when (f := fun _ => escalate c r 2 v) (.modify fun _ => (countViolation_alarmed ..).tidy) fun _ => escalate_tidy ..
    split
    · exact .bind .modC fun _ => hesc _
    · exact hesc _
  | ok ps =>
    refine .bind (prepWords_tidy ..) fun _ => .bind (needPaths_tidy ..) fun _ => .bind (commitWords_tidy ..) fun _ => ?_
    exact .bind (.modify fun _ => .after (entryRecords_tidy ..) (modCtx_tidy ..)) fun _ => .ite (.modify fun _ => .of_eq rfl rfl) (.pure _)

theorem transferTile_tidy (c : CtxId) (trap : Bool) (s : State) : Tidy s (transferTile c trap s) :=
  .after (stopTileChannels_tidy ..) (.of_eq rfl rfl)

theorem takeSync_tidy (c : CtxId) (e : ExcInfo) : TidyRun s₀ (takeSync c e) := by
  unfold takeSync
  refine .get_bind fun _ _ => .when (.modify fun _ => (countViolation_alarmed ..).tidy) fun _ => ?_
  extract_lets _ _ entry
  have hentry (u) : TidyRun s₀ (entry u) := by
    refine .get_bind fun s hs => ?_
    extract_lets _ _ _ record
    have hrecord (a) : TidyRun s₀ (record a) :=
      .when (.modify fun _ => (countEvent_eq ..).tidy) fun _ => .modify fun _ => (fireAlarm_alarmed ..).tidy
    refine .ite (.bind (.set (hs.trans (goLame_tidy ..))) hrecord) (.ite (.bind (escalate_tidy ..) hrecord) ?_)
    exact .bind (enter_tidy ..) fun _ => .get_bind fun _ _ => .ite (.bind (.modify fun _ => transferTile_tidy ..) hrecord) (hrecord ())
  split
  · exact .bind .modC hentry
  · exact hentry ()

theorem takeIllegal_tidy (c : CtxId) (check : BitVec 8) (forged : Bool) : TidyRun s₀ (takeIllegal c check forged) := by
  unfold takeIllegal
  refine .get_bind fun _ hs => .bind (.modify fun _ => (countViolation_alarmed ..).tidy) fun _ => ?_
  refine .when (.modify fun _ => (countViolation_alarmed ..).tidy) fun _ => .get_bind fun _ hs => ?_
  extract_lets _ _ jp
  have hjp (u) : TidyRun s₀ (jp u) := .modify fun _ => (fireAlarm_alarmed ..).tidy
  exact .ite (.bind (.set (hs.trans (goLame_tidy ..))) fun _ => hjp ()) (.bind (escalate_tidy ..) fun _ => hjp ())

theorem afterStop_tidy {s t : State} (h : SpadInv s → SpadInv t) (c : CtxId) (stop : Stop) : Tidy s (afterStop c s t stop) := by
  have hbase : Tidy s (rollback s t) := rollback_tidy h
  have htake {m : M Unit} (hm : TidyRun (rollback s t) m) : Tidy s (match m (rollback s t) with
      | .ok _ u => dropFills c (accountChange s u)
      | .error _ u => rollback (rollback s t) u) := by
    split
    · next u hu => exact hbase.trans ((hm.of_ok hu).trans (.trans (accountChange_eq ..).tidy (.of_eq rfl rfl)))
    · next u hu => exact hbase.trans (rollback_tidy (hm.of_error hu).form)
  unfold afterStop
  cases stop with
  | wait => exact hbase
  | exc e => exact .ite hbase (htake (takeSync_tidy ..))
  | illegal n f => exact .ite hbase (htake (takeIllegal_tidy ..))

theorem fetchCheck_tidy (c : CtxId) : TidyRun s₀ (fetchCheck c) := by
  unfold fetchCheck
  refine .get_bind fun _ _ => .bind (needCanonical_tidy ..) fun _ => .when (needCap_tidy ..) fun _ => ?_
  exact .bind (translateCtx_tidy ..) fun _ => .modify fun _ => meetBank_tidy ..

theorem runBody_tidy (native : Bool) {body : CtxId → M Bool} (h : ∀ s₀ c, TidyRun s₀ (body c)) (c : CtxId) (s : State) :
    Tidy s (runBody native body c s) := by
  unfold runBody
  extract_lets rest go
  have hrest (u) : TidyRun s (rest u) := .bind .getC fun _ => .bind .modC fun _ => .bind (h ..) fun _ => .when .modC fun _ => .pure _
  have hgo : TidyRun s go := .when (fetchCheck_tidy c) hrest
  split
  · exact .refl s
  · split
    · next t ht => exact (hgo.of_ok ht).trans (retire_tidy ..)
    · next t ht => exact (hgo.of_ok ht).trans (accountChange_eq ..).tidy
    · next e t ht => exact afterStop_tidy (hgo.of_error ht).form c e

/-! Operands -/

theorem needMode_tidy (c : CtxId) (k : OpClass) (m : BitVec 3) (d : BitVec 22) : TidyRun s₀ (needMode c k m d) := by
  unfold needMode
  refine .bind (.needDef _) fun _ => ?_
  extract_lets jp
  have hjp (u) : TidyRun s₀ (jp u) := .ite (.needDef _) (.pure _)
  exact .ite (.bind (.needDef _) fun _ => .bind .getC fun _ => .bind (.needDef _) fun _ => hjp ()) (hjp ())

theorem needBase_tidy (c : CtxId) (k : OpClass) (m : BitVec 3) : TidyRun s₀ (needBase c k m) :=
  .bind .getC fun _ => .ite (.ite (.tagFault _) (.pure _)) (.pure _)

theorem addrOf_tidy (c : CtxId) (m : BitVec 3) (d : BitVec 22) : TidyRun s₀ (addrOf c m d) := .get_bind fun _ _ => .pure _

theorem postIncrement_tidy (c : CtxId) (m : BitVec 3) (d : BitVec 22) : TidyRun s₀ (postIncrement c m d) := .ite .modC (.pure _)

theorem readOperand_tidy (c : CtxId) (m : BitVec 3) (d : BitVec 22) : TidyRun s₀ (readOperand c m d) := by
  unfold readOperand
  split
  · exact .pure _
  · exact readSlot_tidy ..
  · exact .bind (addrOf_tidy ..) fun _ => loadWord_tidy ..

theorem readPair_tidy (c : CtxId) (m : BitVec 3) (d : BitVec 22) (accA : Tag → Bool) (accOp : Tag → Tag → Bool) {extra : M Unit}
    (hx : TidyRun s₀ extra) : TidyRun s₀ (readPair c m d accA accOp extra) := by
  unfold readPair
  refine .bind (needMode_tidy ..) fun _ => .bind .getC fun _ => .when (.tagFault _) fun _ => ?_
  refine .ite ?_ (.bind hx fun _ => .bind (needBase_tidy ..) fun _ => ?_)
  · exact .bind (readOperand_tidy ..) fun _ => .when (.tagFault _) fun _ => .bind hx fun _ => .pure _
  · exact .bind (readOperand_tidy ..) fun _ => .when (.tagFault _) fun _ => .pure _

theorem needX_tidy (c : CtxId) (ok : Tag → Bool) : TidyRun s₀ (needX c ok) := .bind .getC fun _ => .ite (.pure _) (.tagFault _)

/-! Fences and cache maintenance -/

theorem fenceInstr_tidy (f : BitVec 25) (c : CtxId) : TidyRun s₀ (fenceInstr f c) := by
  unfold fenceInstr
  refine .bind (.needDef _) fun _ => .get_bind fun _ _ => ?_
  refine .ite ?_ (.bind .modC fun _ => .pure _)
  exact .bind (.modify fun _ => milestone_tidy ..) fun _ => .bind .modC fun _ => .bind (advance_tidy ..) fun _ => .pure _

theorem tlbQuiet_tidy : TidyRun s₀ tlbQuiet := .get_bind fun _ hs => .when .wait fun _ => .set (hs.trans (.of_eq rfl rfl))

theorem tlbinvInstr_tidy (scope : TlbScope) (r : BitVec 23) (c : CtxId) : TidyRun s₀ (tlbinvInstr scope r c) := by
  unfold tlbinvInstr
  refine .get_bind fun _ _ => .bind (.needDef _) fun _ => .bind (.needPriv _) fun _ => .when (.tagFault _) fun _ => ?_
  exact .when (.tagFault _) fun _ => .bind (tlbQuiet_tidy ..) fun _ => .modify fun _ => .of_eq rfl rfl

theorem invalidateCache_tidy (id : CacheId) (s : State) : Tidy s (invalidateCache id s) :=
  .trans (.foldl _ (fun _ _ => (dropLine_background ..).tidy) _ _) (.of_eq rfl rfl)

theorem cinvAllInstr_tidy (r : BitVec 22) (c : CtxId) : TidyRun s₀ (cinvAllInstr r c) := by
  unfold cinvAllInstr
  refine .bind (.needDef _) fun _ => .bind .getC fun _ => .bind (.needPriv _) fun _ => ?_
  exact .modify fun _ => .foldl _ (fun _ _ => invalidateCache_tidy ..) _ _

theorem cleanToMemory_tidy (id : CacheId) (key : Nat) (l : CLine) (s : State) : Tidy s (cleanToMemory id key l s) := by
  unfold cleanToMemory
  refine .after (countEvent_eq ..).tidy ?_
  refine .after (sendWrite_background ..).tidy ?_
  split
  · exact .after (cachePut_background ..).tidy (cachePut_background ..).tidy
  · exact (cachePut_background ..).tidy

theorem cleanToL2_tidy {k : Nat} {l : CLine} {s t : State} (h : cleanToL2 k l s = some t) : Tidy s t := by
  unfold cleanToL2 at h
  split at h
  · obtain ⟨u, hu, rfl⟩ := Option.map_eq_some_iff.mp h
    have hu := (insertL2_background hu).tidy
    split
    · exact hu.trans (cachePut_background ..).tidy
    · exact hu
  · cases h
    exact cleanToMemory_tidy ..

theorem cleanLine_tidy {toL2 : Bool} {id : CacheId} {k : Nat} {s t : State} (h : cleanLine toL2 id k s = some t) : Tidy s t := by
  have hread := (readOut_background (pad := True) id k s).tidy
  unfold cleanLine at h
  generalize readOut id k s = r at hread h
  obtain ⟨u, l⟩ := r
  cases l with
  | none => cases h; exact hread
  | some l =>
    dsimp only at h
    split at h
    · cases h
      exact hread
    · split at h
      · exact hread.trans (cleanToL2_tidy h)
      · split at h <;> cases h
        exact hread.trans (cleanToMemory_tidy ..)

theorem cleanLines_tidy (toL2 : Bool) (id : CacheId) (ks : List Nat) (s : State) : Tidy s (cleanLines toL2 id ks s).2 := by
  induction ks generalizing s with
  | nil => exact .refl s
  | cons k ks ih =>
    unfold cleanLines
    split
    · next t ht => exact (cleanLine_tidy ht).trans (ih t)
    · exact .refl s

/-- CWB.ALL cleans the caches it names one after another, until one cannot be cleaned. -/
theorem cleanCaches_tidy (toL2 : Bool) (ids : List CacheId) (p : Bool × State) :
    Tidy p.2 (ids.foldl (fun (p : Bool × State) id =>
      if p.1 then cleanLines toL2 id ((p.2.caches.lines id).map (·.1)) p.2 else p) p).2 := by
  induction ids generalizing p with
  | nil => exact .refl _
  | cons id ids ih =>
    refine .after (ih _) ?_
    dsimp only
    split
    · exact cleanLines_tidy ..
    · exact .refl _

theorem cwbAllInstr_tidy (r : BitVec 22) (c : CtxId) : TidyRun s₀ (cwbAllInstr r c) := by
  unfold cwbAllInstr
  refine .bind (.needDef _) fun _ => .bind .getC fun _ => .bind (.needPriv _) fun _ => .get_bind fun s hs => ?_
  split
  next ok t h =>
  have ht : Tidy s t := by
    have := cleanCaches_tidy (fld r 0 2 == 1) (dataCaches (fld r 0 2)) (true, s)
    rwa [h] at this
  exact .bind (.set (hs.trans ht)) fun _ => .when (advance_tidy ..) fun _ => .pure _

theorem lineOperand_tidy (r : BitVec 22) (write : Bool) (c : CtxId) : TidyRun s₀ (lineOperand r write c) := by
  unfold lineOperand
  refine .get_bind fun _ _ => .when (.tagFault _) fun _ => .bind (needCanonical_tidy ..) fun _ => ?_
  extract_lets jp
  have hjp (u) : TidyRun s₀ (jp u) := .bind (translateCtx_tidy ..) fun _ => .pure _
  exact .ite (.ite (.bind (needCap_tidy ..) fun _ => hjp ()) (hjp ())) (.bind (needDdc_tidy ..) fun _ => hjp ())

theorem dropFrom_tidy (ids : List CacheId) (n : Nat) (s : State) : Tidy s (dropFrom ids n s) := by
  unfold dropFrom
  refine .foldl _ (fun _ _ => ?_) _ _
  split
  · exact (dropLine_background ..).tidy
  · exact .refl _

theorem cinvLineInstr_tidy (r : BitVec 22) (c : CtxId) : TidyRun s₀ (cinvLineInstr r c) := by
  unfold cinvLineInstr
  refine .bind (.needDef _) fun _ => .bind .getC fun _ => .bind (.needPriv _) fun _ => .bind (lineOperand_tidy ..) fun _ => ?_
  exact .modify fun _ => dropFrom_tidy ..

theorem cleanLineAt_tidy (r : BitVec 22) (n : Nat) : TidyRun s₀ (cleanLineAt r n) := by
  unfold cleanLineAt
  refine .bind (.forIn fun _ _ => .get_bind fun _ hs => ?_) fun _ => .pure _
  split
  · exact .pure _
  · split
    · next h => exact .bind (.set (hs.trans (cleanLine_tidy h))) fun _ => .pure _
    · exact .bind .wait fun _ => .pure _

theorem cwbLineInstr_tidy (r : BitVec 22) (inv : Bool) (c : CtxId) : TidyRun s₀ (cwbLineInstr r inv c) := by
  unfold cwbLineInstr
  refine .bind (.needDef _) fun _ => .bind (lineOperand_tidy ..) fun _ => .bind (cleanLineAt_tidy ..) fun _ => ?_
  exact .ite (.modify fun _ => dropFrom_tidy ..) (.pure _)

/-! Packets out -/

theorem postGone_tidy (s : State) : Tidy s (postGone s) := by
  unfold postGone
  split
  · exact .refl _
  · exact .after (countEvent_eq ..).tidy (.after (countEvent_eq ..).tidy (.of_eq rfl rfl))

theorem takeFlit_tidy (l : BitVec 2) (s : State) : Tidy s (takeFlit l s) := by
  unfold takeFlit
  split
  · exact .refl _
  · exact .ite (.after (postGone_tidy ..) (.of_eq rfl rfl)) (.of_eq rfl rfl)

theorem driveFlit_tidy (ready : BitVec 4) (s : State) : Tidy s (driveFlit ready s) := by
  unfold driveFlit
  extract_lets
  split
  · exact (offerNext_background ..).tidy
  · refine .ite ?_ (offerNext_background ..).tidy
    exact .after (noteFences_background ..).tidy (.after (takeFlit_tidy ..) (.after (account_eq ..).tidy (offerNext_background ..).tidy))

/-! Loads and stores -/

theorem loadReg_tidy (r : Axy) (m : BitVec 3) (d : BitVec 22) (c : CtxId) : TidyRun s₀ (loadReg r m d c) := by
  unfold loadReg
  refine .bind (needMode_tidy ..) fun _ => .bind (needBase_tidy ..) fun _ => .bind (readOperand_tidy ..) fun _ => ?_
  exact .bind (postIncrement_tidy ..) fun _ => .modC

theorem loadSub_tidy (n : Nat) (signed : Bool) (m : BitVec 3) (d : BitVec 22) (c : CtxId) : TidyRun s₀ (loadSub n signed m d c) := by
  unfold loadSub
  refine .bind (needMode_tidy ..) fun _ => .bind (needBase_tidy ..) fun _ => ?_
  refine .bind (.ite (.bind (readOperand_tidy ..) fun _ => .pure _) (.bind (addrOf_tidy ..) fun _ => ?_)) fun _ => ?_
  · exact .bind (needRows_tidy ..) fun _ => .bind (loadAt_tidy ..) fun _ => .pure _
  exact .bind (postIncrement_tidy ..) fun _ => .modC

theorem storeReg_tidy (r : Axy) (m : BitVec 3) (d : BitVec 22) (c : CtxId) : TidyRun s₀ (storeReg r m d c) := by
  unfold storeReg
  refine .bind (needMode_tidy ..) fun _ => .bind (needBase_tidy ..) fun _ => .bind .getC fun _ => ?_
  exact .ite .modC (.bind (addrOf_tidy ..) fun _ => .bind (storeWord_tidy ..) fun _ => postIncrement_tidy ..)

theorem storeSubReg_tidy (n : Nat) (m : BitVec 3) (d : BitVec 22) (c : CtxId) : TidyRun s₀ (storeSubReg n m d c) := by
  unfold storeSubReg
  refine .bind (needMode_tidy ..) fun _ => .bind (needBase_tidy ..) fun _ => .bind .getC fun _ => ?_
  refine .ite (.bind (readSlot_tidy ..) fun _ => .modC) ?_
  exact .bind (addrOf_tidy ..) fun _ => .bind (storeSub_tidy ..) fun _ => postIncrement_tidy ..

theorem leaReg_tidy (r : Axy) (m : BitVec 3) (d : BitVec 22) (c : CtxId) : TidyRun s₀ (leaReg r m d c) := by
  unfold leaReg
  refine .bind (needMode_tidy ..) fun _ => .bind (needBase_tidy ..) fun _ => .bind .getC fun _ => .bind (addrOf_tidy ..) fun _ => ?_
  exact .bind (postIncrement_tidy ..) fun _ => .modC

theorem readCode_tidy (c : CtxId) (a : W64) (p : Phys) : TidyRun s₀ (readCode c a p) := by
  unfold readCode
  refine .bind ?_ fun _ => .pure _
  refine .ite (spadRead_tidy ..) ?_
  refine .ite ?_ ?_
  · refine .bind (readDevice_tidy ..) fun _ => ?_
    split
    · exact .pure _
    · exact raiseX_tidy ..
  · refine .bind (readLine_tidy ..) fun _ => ?_
    split
    · exact .pure _
    · exact raiseX_tidy ..

theorem loadCode_tidy (m : BitVec 3) (d : BitVec 22) (c : CtxId) : TidyRun s₀ (loadCode m d c) := by
  unfold loadCode
  refine .bind (needMode_tidy ..) fun _ => .bind (needBase_tidy ..) fun _ => .bind (addrOf_tidy ..) fun _ => ?_
  refine .bind (needCanonical_tidy ..) fun _ => .bind (needAligned_tidy ..) fun _ => .get_bind fun _ _ => ?_
  refine .when (needCap_tidy ..) fun _ => .bind (translateCtx_tidy ..) fun _ => .bind (readCode_tidy ..) fun _ => ?_
  exact .bind (postIncrement_tidy ..) fun _ => .modC

/-! System registers -/

theorem tileTrap_tidy {α : Type} (code : BitVec 8) : TidyRun s₀ (tileTrap code : M α) := .raise _ _

theorem needTileOwner_tidy (c : CtxId) (write : Bool) : TidyRun s₀ (needTileOwner c write) :=
  .get_bind fun _ _ => .when (tileTrap_tidy ..) fun _ => .when .wait fun _ => .ite (tileTrap_tidy ..) (.pure _)

theorem accountFor_tidy (r : SysReg) : TidyRun s₀ (accountFor r) := .modify fun _ => .ite (accountSteps_background ..).tidy (.refl _)

theorem needReg_tidy (c : CtxId) (idx : BitVec 12) : TidyRun s₀ (needReg c idx) := by
  unfold needReg
  refine .get_bind fun _ _ => ?_
  split
  · exact .undef
  · exact .ite (.pure _) .undef

theorem mfsReg_tidy (idx : BitVec 12) (c : CtxId) : TidyRun s₀ (mfsReg idx c) := by
  unfold mfsReg
  refine .bind (needReg_tidy ..) fun _ => .get_bind fun _ _ => .bind (.needPriv _) fun _ => .when (needTileOwner_tidy ..) fun _ => ?_
  exact .bind (accountFor_tidy ..) fun _ => .get_bind fun _ _ => .modC

theorem tileOff_tidy (s : State) : Tidy s (tileOff s) := .after (stopTileChannels_tidy ..) (.of_eq rfl rfl)

theorem mtsTpwrReg_tidy (v : W64) : TidyRun s₀ (mtsTpwrReg v) := by
  unfold mtsTpwrReg
  refine .get_bind fun _ hs => .when .wait fun _ => ?_
  refine .ite ?_ ?_
  · exact .when .wait fun _ => .set (hs.trans (.after (settle_tidy ..) (.of_eq rfl rfl)))
  · exact .ite (.set (hs.trans (.after (settle_tidy ..) (tileOff_tidy ..)))) (.pure _)

theorem mtsPamReg_tidy (c : CtxId) {f : State → State} (hf : ∀ s, Tidy s (f s)) : TidyRun s₀ (mtsPamReg c f) := by
  unfold mtsPamReg
  refine .get_bind fun _ hs => .when .wait fun _ => .set (hs.trans (.after (hf _) ?_))
  refine .foldl _ (fun t x => ?_) _ _
  split
  · exact .refl t
  · exact .of_eq rfl rfl

theorem flushWay_tidy {id : CacheId} {k : Nat} {s t : State} (h : flushWay id k s = some t) : Tidy s t := by
  have hread := (readOut_background (pad := True) id k s).tidy
  unfold flushWay at h
  generalize readOut id k s = r at hread h
  obtain ⟨u, l⟩ := r
  cases l with
  | none => cases h; exact hread
  | some l =>
    have hdel : Tidy s (cacheDel u id k) := hread.trans (cacheDel_background ..).tidy
    cases id with
    | l1i => cases h; exact hdel
    | l1d => exact hdel.trans (evictL1D_background h).tidy
    | l2 => exact hdel.trans (evictL2_background h).tidy

theorem flushWays_tidy (id : CacheId) (bits : BitVec 20) (ks : List Nat) : TidyRun s₀ (flushWays id bits ks) := by
  induction ks with
  | nil => exact .pure _
  | cons k ks ih =>
    unfold flushWays
    refine .ite (.get_bind fun _ hs => ?_) ih
    split
    · next h => exact .bind (.set (hs.trans (flushWay_tidy h))) fun _ => ih
    · exact .bind .wait fun _ => ih

theorem mtsWlockReg_tidy (v : W64) : TidyRun s₀ (mtsWlockReg v) := by
  unfold mtsWlockReg
  refine .get_bind fun _ _ => .bind (flushWays_tidy ..) fun _ => .bind (flushWays_tidy ..) fun _ => .get_bind fun _ _ => ?_
  exact .bind (flushWays_tidy ..) fun _ => .modify fun _ => .of_eq rfl rfl

theorem armLine_tidy (c : CtxId) (v : W64) : TidyRun s₀ (armLine c v) := by
  unfold armLine
  refine .bind (needCanonical_tidy ..) fun _ => .bind (needDdc_tidy ..) fun _ => .bind (translateCtx_tidy ..) fun _ => ?_
  refine .ite (.pure _) ?_
  refine .get_bind fun _ _ => ?_
  refine .ite (.pure _) ?_
  refine .bind (readLine_tidy ..) fun _ => ?_
  split
  · exact .pure _
  · exact .get_bind fun _ _ => .ite (.bind (.modify fun _ => .of_eq rfl rfl) fun _ => .bind .wait fun _ => .pure _) (.pure _)

theorem mtsWaddrReg_tidy (c : CtxId) (v : W64) : TidyRun s₀ (mtsWaddrReg c v) := by
  unfold mtsWaddrReg
  refine .ite ?_ .modC
  refine .bind (armLine_tidy ..) fun _ => ?_
  split
  exact .modC

theorem armLevel_tidy (c : CtxId) (kind : Nat) (f : Events → Events) : TidyRun s₀ (armLevel c kind f) :=
  .bind .modC fun _ => .modify fun _ => settle_tidy ..

theorem mtsPlain_tidy (r : SysReg) (k : Ctx) (w : TWord) (s : State) (c : CtxId) : Tidy s (mtsPlain r k w s c) := by
  unfold mtsPlain
  extract_lets
  split
  · exact .of_eq rfl rfl
  · exact .of_eq rfl rfl
  · exact .of_eq rfl rfl
  · exact .of_eq rfl rfl
  · exact .of_eq rfl rfl
  · exact .ite (.refl _) (.of_eq rfl rfl)
  · exact .ite (.of_eq rfl rfl) (.refl _)
  · exact .of_eq rfl rfl
  · exact .of_eq rfl rfl
  · exact .of_eq rfl rfl
  · exact .of_eq rfl rfl
  · exact .after (wakeIrqs_eq ..).tidy (.of_eq rfl rfl)
  · exact .of_eq rfl rfl
  · exact .of_eq rfl rfl
  · exact .of_eq rfl rfl
  · exact .of_eq rfl rfl
  · exact .of_eq rfl rfl
  · exact .of_eq rfl rfl
  · exact .of_eq rfl rfl
  · exact .of_eq rfl rfl
  · exact .of_eq rfl rfl
  · exact .trans (.ite (.refl _) (transferTile_tidy ..)) (.of_eq rfl rfl)
  · exact .of_eq rfl rfl
  · exact .of_eq rfl rfl
  · exact .of_eq rfl rfl
  · exact .of_eq rfl rfl
  · exact .after (settle_tidy ..) (.of_eq rfl rfl)
  · exact .of_eq rfl rfl
  · exact .of_eq rfl rfl
  · exact .of_eq rfl rfl
  · exact .of_eq rfl rfl
  · exact .of_eq rfl rfl
  · exact .of_eq rfl rfl
  · exact .of_eq rfl rfl
  · exact .of_eq rfl rfl
  · exact .of_eq rfl rfl
  · exact .of_eq rfl rfl
  · exact .of_eq rfl rfl
  · exact .of_eq rfl rfl
  · exact .of_eq rfl rfl
  · exact .of_eq rfl rfl
  · exact .of_eq rfl rfl
  · exact .of_eq rfl rfl
  · exact (wayside_background ..).tidy
  · exact .of_eq rfl rfl
  · exact .of_eq rfl rfl
  · exact .ite (.of_eq rfl rfl) (.refl _)
  · exact .of_eq rfl rfl
  · exact .refl _

theorem mtsApply_tidy (r : SysReg) (w : TWord) (c : CtxId) : TidyRun s₀ (mtsApply r w c) := by
  unfold mtsApply
  extract_lets
  split
  · exact mtsPamReg_tidy _ fun _ => .of_eq rfl rfl
  · exact mtsPamReg_tidy _ fun _ => .of_eq rfl rfl
  · exact mtsWaddrReg_tidy ..
  · exact armLevel_tidy ..
  · exact armLevel_tidy ..
  · exact armLevel_tidy ..
  · exact mtsWlockReg_tidy ..
  · exact mtsTpwrReg_tidy ..
  · exact .get_bind fun _ _ => .ite (.modify fun _ => .of_eq rfl rfl) .wait
  · exact .get_bind fun _ _ => .ite (.modify fun _ => .of_eq rfl rfl) .wait
  · exact .modify fun _ => mtsPlain_tidy ..

theorem mtsReg_tidy (idx : BitVec 12) (c : CtxId) : TidyRun s₀ (mtsReg idx c) := by
  unfold mtsReg
  refine .bind (needReg_tidy ..) fun _ => .get_bind fun _ _ => ?_
  refine .ite (.bind (.needPriv _) fun _ => .ite (needTileOwner_tidy ..) (.pure _)) ?_
  refine .ite (.bind (.needPriv _) fun _ => .ite (needTileOwner_tidy ..) (.pure _)) ?_
  refine .when (.needPriv _) fun _ => .when (needTileOwner_tidy ..) fun _ => .when (.tagFault _) fun _ => ?_
  exact .bind (accountFor_tidy ..) fun _ => mtsApply_tidy ..

theorem mtsInstr_tidy (idx : BitVec 12) (r : BitVec 13) (c : CtxId) : TidyRun s₀ (mtsInstr idx r c) :=
  .bind (.needDef _) fun _ => mtsReg_tidy ..

/-! Control instructions -/

theorem movInstr_tidy (f : BitVec 25) (c : CtxId) : TidyRun s₀ (movInstr f c) := by
  unfold movInstr
  refine .bind .getC fun _ => .bind (.needDef _) fun _ => .bind .getC fun _ => ?_
  extract_lets _ move
  have hmove (u) : TidyRun s₀ (move u) := by
    refine .bind .getC fun _ => ?_
    split
    · exact .undef
    · exact .when (.tagFault _) fun _ => .modC
  exact .ite (.bind (readSlot_tidy ..) fun _ => hmove ()) (hmove ())

theorem skipInstr_tidy (f : BitVec 25) (c : CtxId) : TidyRun s₀ (skipInstr f c) :=
  .bind .getC fun _ => .bind (.needDef _) fun _ => .bind (.needDef _) fun _ => .when (.tagFault _) fun _ => .modC

theorem targetOf_tidy (c : CtxId) (m : BitVec 3) (d : BitVec 22) : TidyRun s₀ (targetOf c m d) := by
  unfold targetOf
  refine .bind (needBase_tidy ..) fun _ => .bind (addrOf_tidy ..) fun _ => .bind (needCanonical_tidy ..) fun _ => ?_
  exact .bind (needAligned_tidy ..) fun _ => .pure _

theorem targetCheck_tidy (c : CtxId) (ea : W64) (rh : Option Bool) : TidyRun s₀ (targetCheck c ea rh) :=
  .get_bind fun _ _ => .when (needCap_tidy ..) fun _ => translateCtx_tidy ..

theorem jmpInstr_tidy (m : BitVec 3) (d : BitVec 22) (c : CtxId) : TidyRun s₀ (jmpInstr m d c) := by
  unfold jmpInstr
  refine .bind (needMode_tidy ..) fun _ => .bind (targetOf_tidy ..) fun _ => .bind .getC fun _ => ?_
  exact .bind (targetCheck_tidy ..) fun _ => .bind (postIncrement_tidy ..) fun _ => .modC

theorem jmpxInstr_tidy (m : BitVec 3) (d : BitVec 22) (c : CtxId) : TidyRun s₀ (jmpxInstr m d c) := by
  unfold jmpxInstr
  refine .bind (needMode_tidy ..) fun _ => .bind (targetOf_tidy ..) fun _ => .bind (targetCheck_tidy ..) fun _ => ?_
  exact .get_bind fun _ _ => .when .undef fun _ => .bind (postIncrement_tidy ..) fun _ => .modC

theorem needFreeWindow_tidy (c : CtxId) : TidyRun s₀ (needFreeWindow c) := .bind .getC fun _ => .ite (.raise _ _) (.pure _)

theorem needCallerWindow_tidy (c : CtxId) : TidyRun s₀ (needCallerWindow c) := .bind .getC fun _ => .ite (.raise _ _) (.pure _)

theorem pushPhys_tidy (c : CtxId) : TidyRun s₀ (pushPhys c) := .bind .getC fun _ => .bind (needRows_tidy ..) fun _ => translateCtx_tidy ..

theorem callFinish_tidy (c : CtxId) (p : Phys) (ea ret : W64) : TidyRun s₀ (callFinish c p ea ret) :=
  .bind (needFreeWindow_tidy ..) fun _ => .bind (prepPhys_tidy ..) fun _ => .bind (commitPhys_tidy ..) fun _ => .modC

theorem callInstr_tidy (m : BitVec 3) (d : BitVec 22) (c : CtxId) : TidyRun s₀ (callInstr m d c) := by
  unfold callInstr
  refine .bind (needMode_tidy ..) fun _ => .bind .getC fun _ => .bind (.needDef _) fun _ => .bind (targetOf_tidy ..) fun _ => ?_
  exact .bind (pushPhys_tidy ..) fun _ => .bind (targetCheck_tidy ..) fun _ => .bind (callFinish_tidy ..) fun _ => postIncrement_tidy ..

theorem popReturn_tidy (c : CtxId) (unit : Nat) : TidyRun s₀ (popReturn c unit) :=
  .bind .getC fun _ => .bind (loadWord_tidy ..) fun _ => .when (.tagFault _) fun _ => .bind (needAligned_tidy ..) fun _ => .pure _

theorem retInstr_tidy (f : BitVec 25) (c : CtxId) : TidyRun s₀ (retInstr f c) := by
  unfold retInstr
  refine .bind .getC fun _ => .bind (.needDef _) fun _ => .bind (popReturn_tidy ..) fun _ => ?_
  exact .bind (needCallerWindow_tidy ..) fun _ => .modC

theorem trapInstr_tidy (f : BitVec 25) (x : CtxId) : TidyRun s₀ (trapInstr f x) := .bind (.needDef _) fun _ => .throw _

theorem stileInstr_tidy (f : BitVec 25) (c : CtxId) : TidyRun s₀ (stileInstr f c) :=
  .get_bind fun _ _ => .bind (.needDef _) fun _ => .bind (.needPriv _) fun _ => .throw _

theorem needReturn_tidy (s : State) (k : Ctx) (r : ReturnImage) : TidyRun s₀ (needReturn s k r) := by
  unfold needReturn
  split
  · exact .throw _
  · exact .pure _

theorem rfiInstr_tidy (r : BitVec 24) (c : CtxId) : TidyRun s₀ (rfiInstr r c) :=
  .get_bind fun _ _ => .bind (.needDef _) fun _ => .bind (.needPriv _) fun _ => .bind (needReturn_tidy ..) fun _ => .modC

theorem frameRead_tidy (c : CtxId) (a : W64) (n : Nat) : TidyRun s₀ (frameRead c a n) := by
  induction n generalizing a with
  | zero => exact .pure _
  | succ n ih => exact .bind (loadAt_tidy ..) fun _ => .bind (ih _) fun _ => .pure _

theorem rfeInstr_tidy (r : BitVec 24) (c : CtxId) : TidyRun s₀ (rfeInstr r c) := by
  unfold rfeInstr
  refine .get_bind fun _ _ => .bind (.needDef _) fun _ => .bind (.needPriv _) fun _ => .bind (needCanonical_tidy ..) fun _ => ?_
  refine .bind (needAligned_tidy ..) fun _ => .bind (needStack_tidy ..) fun _ => .bind (needDdc_tidy ..) fun _ => ?_
  exact .bind (frameRead_tidy ..) fun _ => .when (.throw _) fun _ => .get_bind fun _ _ => .bind (needReturn_tidy ..) fun _ => .modC

/-! Integer instructions -/

theorem sumInstr_tidy (o : SumOp) (m : BitVec 3) (d : BitVec 22) (c : CtxId) : TidyRun s₀ (sumInstr o m d c) :=
  .bind (readPair_tidy (hx := .pure _) ..) fun _ => .bind .getC fun _ => .bind (postIncrement_tidy ..) fun _ => .modC

theorem logicInstr_tidy (f : W64 → W64 → W64) (m : BitVec 3) (d : BitVec 22) (c : CtxId) : TidyRun s₀ (logicInstr f m d c) :=
  .bind (readPair_tidy (hx := .pure _) ..) fun _ => .bind (postIncrement_tidy ..) fun _ => .modC

theorem bfxInstr_tidy (m : BitVec 3) (d : BitVec 22) (c : CtxId) : TidyRun s₀ (bfxInstr m d c) :=
  .bind (readPair_tidy (hx := .pure _) ..) fun _ => .bind (postIncrement_tidy ..) fun _ => .modC

theorem bfiInstr_tidy (m : BitVec 3) (d : BitVec 22) (c : CtxId) : TidyRun s₀ (bfiInstr m d c) :=
  .bind (readPair_tidy (hx := needX_tidy ..) ..) fun _ => .bind .getC fun _ => .bind (postIncrement_tidy ..) fun _ => .modC

theorem mulInstr_tidy (signed : Bool) (m : BitVec 3) (d : BitVec 22) (c : CtxId) : TidyRun s₀ (mulInstr signed m d c) :=
  .bind (readPair_tidy (hx := .pure _) ..) fun _ => .bind (postIncrement_tidy ..) fun _ => .modC

theorem divInstr_tidy (signed : Bool) (m : BitVec 3) (d : BitVec 22) (c : CtxId) : TidyRun s₀ (divInstr signed m d c) := by
  unfold divInstr
  refine .bind (readPair_tidy (hx := .pure _) ..) fun _ => .when (.raise _ _) fun _ => .bind (postIncrement_tidy ..) fun _ => ?_
  exact .ite .modC .modC

theorem negInstr_tidy (r : BitVec 21) (c : CtxId) : TidyRun s₀ (negInstr r c) :=
  .bind (.needDef _) fun _ => .bind .getC fun _ => .when (.tagFault _) fun _ => .modC

theorem notInstr_tidy (r : BitVec 21) (c : CtxId) : TidyRun s₀ (notInstr r c) :=
  .bind (.needDef _) fun _ => .bind .getC fun _ => .when (.tagFault _) fun _ => .modC

theorem clzInstr_tidy (r : BitVec 21) (c : CtxId) : TidyRun s₀ (clzInstr r c) :=
  .bind (.needDef _) fun _ => .bind .getC fun _ => .when (.tagFault _) fun _ => .modC

theorem taggetInstr_tidy (r : BitVec 21) (c : CtxId) : TidyRun s₀ (taggetInstr r c) := by
  unfold taggetInstr
  refine .bind (.needDef _) fun _ => ?_
  split
  · exact .undef
  · exact .modC

theorem tagsetInstr_tidy (f : BitVec 25) (c : CtxId) : TidyRun s₀ (tagsetInstr f c) := by
  unfold tagsetInstr
  refine .bind (.needDef _) fun _ => ?_
  split
  · exact .undef
  · exact .bind .getC fun _ => .when (.tagFault _) fun _ => .modC

/-! Chain registers -/

theorem chainReadEffect_tidy (i : Nat) (s : State) : Tidy s (chainReadEffect i s) := .ite (.of_eq rfl rfl) (.refl _)

/-! Ports -/

theorem sendIoReq_tidy (addr : W32) (opc : IoOpc) (who : Issuer) (txid : BitVec 8) (data : TWord) (s : State) :
    Tidy s (sendIoReq addr opc who txid data s) := (sendPacket_background ..).tidy

theorem sendIoResp_tidy (sts : BitVec 2) (opc : IoOpc) (q : IoReq) (data : TWord) (s : State) : Tidy s (sendIoResp sts opc q data s) :=
  (sendPacket_background ..).tidy

theorem bumpTxid_tidy (t : BitVec 8) (s : State) : Tidy s (bumpTxid t s) := .of_eq rfl rfl

theorem ipiArrive_tidy (src : CoreId) (s : State) : Tidy s (ipiArrive src s) :=
  .after (setEvent_tidy ..) (.after (setPend_eq ..).tidy (modCtx_tidy ..))

theorem claimOp_tidy (w : BitVec 3) (s : State) : Tidy s (claimOp w s).2 := by
  unfold claimOp
  extract_lets
  split
  · exact .refl s
  · exact .of_eq rfl rfl

theorem completeOp_tidy (w : BitVec 3) (c : W64) (s : State) : Tidy s (completeOp w c s) := .ite (.of_eq rfl rfl) (.of_eq rfl rfl)

theorem sendNotice_tidy (w : BitVec 3) (from? : Option CtxId) (p : CoreId × CtxId) (s : State) : Tidy s (sendNotice w from? p s) :=
  .ite (.of_eq rfl rfl) (.ite (.after (countEvent_eq ..).tidy (sendIoReq_tidy ..)) (tollRefuse_background ..).tidy)

theorem wcfgOp_tidy (w : BitVec 3) (from? : Option CtxId) (v : W64) (s : State) : Tidy s (wcfgOp w from? v s) :=
  .after (.foldl _ (fun _ _ => sendNotice_tidy ..) _ _) (.of_eq rfl rfl)

theorem wsubOp_tidy (w : BitVec 3) (src : CoreId) (c : CtxId) (s : State) : Tidy s (wsubOp w src c s).2 := by
  unfold wsubOp
  extract_lets
  split
  · exact .refl s
  · split
    · exact .refl s
    · split
      · exact .of_eq rfl rfl
      · exact .refl s

theorem workRead_tidy {w : BitVec 3} {i : Nat} {src : CoreId} {c : CtxId} {s t : State} {v : TWord}
    (h : workRead w i src c s = some (v, t)) : Tidy s t := by
  unfold workRead at h
  split at h
  · cases h; exact .refl s
  · cases h; exact .refl s
  · cases h; exact .refl s
  · have ht : (wsubOp w src c s).2 = t := congrArg Prod.snd (Option.some.inj h)
    exact ht ▸ wsubOp_tidy w src c s
  · cases h

theorem workWrite_tidy {w : BitVec 3} {i : Nat} {c : Option CtxId} {v : W64} {s t : State} (h : workWrite w i c v s = some t) :
    Tidy s t := by
  unfold workWrite at h
  split at h <;> cases h
  · exact wcfgOp_tidy ..
  · exact .refl s
  · exact .refl s

/-! Channel registers -/

theorem setMover_tidy (ch : BitVec 3) (m : MoverCh) (s : State) : Tidy s (setMover ch m s) := .of_eq rfl rfl

theorem moverStart_tidy (ch : BitVec 3) (c : CtxId) (s : State) : Tidy s (moverStart ch c s) := by
  unfold moverStart
  extract_lets
  split
  · exact moverLeave_tidy ..
  · exact .of_eq rfl rfl

theorem moverResume_tidy (ch : BitVec 3) (s : State) : Tidy s (moverResume ch s) := by
  unfold moverResume
  extract_lets
  split
  · exact moverLeave_tidy ..
  · exact .of_eq rfl rfl

theorem mctlWrite_tidy (ch : BitVec 3) (c : CtxId) (v : W64) (s : State) : Tidy s (mctlWrite ch c v s) := by
  unfold mctlWrite
  refine .ite (.of_eq rfl rfl) ?_
  exact .ite (.after (moverStart_tidy ..) (.of_eq rfl rfl)) (.ite (.after (moverResume_tidy ..) (.of_eq rfl rfl)) (.of_eq rfl rfl))

theorem moverWrite_tidy (ch : BitVec 3) (i : Nat) (c : CtxId) (w : TWord) (s : State) : Tidy s (moverWrite ch i c w s) := by
  unfold moverWrite
  extract_lets
  split
  · exact .of_eq rfl rfl
  · exact .of_eq rfl rfl
  · exact .of_eq rfl rfl
  · exact .of_eq rfl rfl
  · exact mctlWrite_tidy ..
  · exact .of_eq rfl rfl
  · exact .of_eq rfl rfl
  · exact .refl _

theorem cwStart_tidy (ch : BitVec 4) (c : CtxId) (s : State) : Tidy s (cwStart ch c s) :=
  .ite (setCw_background ..).tidy (cwLeave_background ..).tidy

theorem cwWrite_tidy (ch : BitVec 4) (i : Nat) (c : CtxId) (w : TWord) (s : State) : Tidy s (cwWrite ch i c w s) := by
  unfold cwWrite
  extract_lets
  split
  · exact (setCw_background ..).tidy
  · exact (setCw_background ..).tidy
  · exact (setCw_background ..).tidy
  · exact .ite (.after (cwStart_tidy ..) (setCw_background ..).tidy) (setCw_background ..).tidy
  · exact (setCw_background ..).tidy
  · exact (setCw_background ..).tidy
  · exact .refl _

/-! I/O instructions -/

theorem needIo_tidy (c : CtxId) (a : W64) (mesh : Bool) (cls : BitVec 4) : TidyRun s₀ (needIo c a mesh cls) := by
  unfold needIo
  refine .get_bind fun _ _ => .when .ioProtection fun _ => .when .ioProtection fun _ => ?_
  exact .ite (.bind (.modify fun _ => (tollRefuse_background ..).tidy) fun _ => .ioProtection) (.pure _)

theorem needChainPort_tidy (s : State) (k : Ctx) : TidyRun s₀ (needChainPort s k) := .ite (.pure _) .ioProtection

theorem needSupPort_tidy (k : Ctx) : TidyRun s₀ (needSupPort k) := .ite (.pure _) .ioProtection

theorem localRead_tidy (c : CtxId) (port : Nat) : TidyRun s₀ (localRead c port) := by
  unfold localRead
  refine .get_bind fun _ hs => ?_
  extract_lets _ _ orFault
  have horFault (u) : TidyRun s₀ (orFault u) := by
    unfold orFault
    split
    · exact .pure _
    · exact .ioProtection
  refine .ite (.bind (needChainPort_tidy ..) fun _ => .bind (.modify fun _ => chainReadEffect_tidy ..) fun _ => horFault _) ?_
  refine .ite (.pure _) (.ite (.pure _) (.ite (.bind (needSupPort_tidy ..) fun _ => .pure _) (.ite (.pure _) ?_)))
  refine .ite (.bind (needSupPort_tidy ..) fun _ => .pure _) (.ite (.when (needSupPort_tidy ..) fun _ => horFault _) ?_)
  refine .ite (.when (needSupPort_tidy ..) fun _ => horFault _) ?_
  split
  · exact .ioProtection
  · split
    · exact .ioProtection
    · next h => exact .bind (.set (hs.trans (workRead_tidy h))) fun _ => .pure _

theorem mboutWrite_tidy (k : Nat) (v : W32) (s : State) : Tidy s (mboutWrite k v s) := .ite (.of_eq rfl rfl) (.of_eq rfl rfl)

theorem chainPortWrite_tidy (i : Nat) (v : W32) (s : State) : Tidy s (chainPortWrite i v s) :=
  .ite (mboutWrite_tidy ..) (.ite (.of_eq rfl rfl) (.ite (.of_eq rfl rfl) (.refl _)))

theorem cctlOp_tidy (v : W64) : TidyRun s₀ (cctlOp v) := .get_bind fun _ hs => .when .wait fun _ => .set (hs.trans (.of_eq rfl rfl))

theorem localWrite_tidy (c : CtxId) (port : Nat) (w : TWord) : TidyRun s₀ (localWrite c port w) := by
  unfold localWrite
  refine .get_bind fun _ hs => ?_
  refine .ite (.bind (needChainPort_tidy ..) fun _ => .when .ioProtection fun _ => .set (hs.trans (chainPortWrite_tidy ..))) ?_
  refine .ite (.set (hs.trans (ipiArrive_tidy ..))) (.ite (.set (hs.trans (.after (settle_tidy ..) (.of_eq rfl rfl)))) ?_)
  refine .ite (.bind (needSupPort_tidy ..) fun _ => .set (hs.trans (.of_eq rfl rfl))) (.ite (.set (hs.trans (.of_eq rfl rfl))) ?_)
  refine .ite (.bind (needSupPort_tidy ..) fun _ => cctlOp_tidy ..) ?_
  refine .ite (.when (needSupPort_tidy ..) fun _ => .when .ioProtection fun _ => .set (hs.trans (moverWrite_tidy ..))) ?_
  refine .ite (.when (needSupPort_tidy ..) fun _ => .when .ioProtection fun _ => .set (hs.trans (cwWrite_tidy ..))) ?_
  split
  · exact .ioProtection
  · split
    · exact .ioProtection
    · next h => exact .set (hs.trans (workWrite_tidy h))

theorem ioAccess_tidy (opc : IoOpc) (m : BitVec 3) (d : BitVec 22) (accA : Tag → Bool) {here : CtxId → Nat → M Unit} (c : CtxId)
    (hhere : ∀ c p, TidyRun s₀ (here c p)) : TidyRun s₀ (ioAccess opc m d accA here c) := by
  unfold ioAccess
  refine .bind (needMode_tidy ..) fun _ => .bind .getC fun _ => .when (.tagFault _) fun _ => ?_
  refine .bind (needBase_tidy ..) fun _ => .bind (addrOf_tidy ..) fun _ => .get_bind fun _ _ => .bind (needIo_tidy ..) fun _ => ?_
  refine .ite (.bind (hhere _ _) fun _ => .bind (postIncrement_tidy ..) fun _ => .bind (advance_tidy ..) fun _ => .pure _) ?_
  refine .bind (needLane_tidy ..) fun _ => .get_bind fun _ _ => .bind (.modify fun _ => ?_) fun _ => .bind .modC fun _ => .pure _
  exact .after (countCtx_tidy ..) (.after (bumpTxid_tidy ..) (sendIoReq_tidy ..))

theorem localClaim_tidy (c : CtxId) (port : Nat) : TidyRun s₀ (localClaim c port) := by
  unfold localClaim
  split
  · exact .get_bind fun _ hs => .bind (.set (hs.trans (.after (countCtx_tidy ..) (claimOp_tidy ..)))) fun _ => .modC
  · exact .ioProtection

theorem localComplete_tidy (c : CtxId) (port : Nat) : TidyRun s₀ (localComplete c port) := by
  unfold localComplete
  split
  · exact .modify fun _ => completeOp_tidy ..
  · exact .ioProtection

theorem outInstr_tidy (m : BitVec 3) (d : BitVec 22) (c : CtxId) : TidyRun s₀ (outInstr m d c) :=
  ioAccess_tidy _ _ _ _ _ fun _ _ => .bind .getC fun _ => localWrite_tidy ..

/-! Rhaha words -/

theorem rhAddr_tidy (t : Tag) (v : TWord) : TidyRun s₀ (rhAddr t v) := .ite (.pure _) (.tagFault _)

theorem rhPlain_tidy (v : TWord) : TidyRun s₀ (rhPlain v) := .ite (.pure _) (.tagFault _)

theorem rhRead_tidy (c : CtxId) (p : BitVec 8) : TidyRun s₀ (rhRead c p) := by
  unfold rhRead
  refine .bind .getC fun _ => ?_
  extract_lets source
  have hsource (u) : TidyRun s₀ (source u) := .bind .getC fun _ => .pure _
  exact .ite (.bind (readSlot_tidy ..) fun _ => hsource ()) (hsource ())

theorem rhLoad_tidy (c : CtxId) (a : W64) (n : Nat) : TidyRun s₀ (rhLoad c a n) :=
  .bind (needRows_tidy ..) fun _ => .bind (translateCtx_tidy ..) fun _ => .pure _

theorem rhStore_tidy (c : CtxId) (acts : List RhAct) (a : W64) (n : Nat) (w : TWord) : TidyRun s₀ (rhStore c acts a n w) := by
  unfold rhStore
  refine .bind (needRows_tidy ..) fun _ => .bind (translateCtx_tidy ..) fun _ => ?_
  refine .ite (.pure _) ?_
  refine .ite (.pure _) ?_
  refine .get_bind fun _ _ => .bind (prepPhys_tidy ..) fun _ => .bind (oldWord_tidy ..) fun _ => ?_
  split
  · exact .pure _
  · exact .when (.raise _ _) fun _ => .pure _

theorem rhSum_tidy (c : CtxId) (o : SumOp) (v : TWord) : TidyRun s₀ (rhSum c o v) :=
  .bind .getC fun _ => .when (.tagFault _) fun _ => .when (.tagFault _) fun _ => .modC

theorem rhLogic_tidy (c : CtxId) (f : W64 → W64 → W64) (v : TWord) : TidyRun s₀ (rhLogic c f v) :=
  .bind .getC fun _ => .when (.tagFault _) fun _ => .when (.tagFault _) fun _ => .modC

theorem rhMul_tidy (c : CtxId) (signed : Bool) (v : TWord) : TidyRun s₀ (rhMul c signed v) :=
  .bind .getC fun _ => .bind (rhPlain_tidy ..) fun _ => .bind (rhPlain_tidy ..) fun _ => .modC

theorem rhDiv_tidy (c : CtxId) (signed : Bool) (v : TWord) : TidyRun s₀ (rhDiv c signed v) := by
  unfold rhDiv
  refine .bind .getC fun _ => .bind (rhPlain_tidy ..) fun _ => .bind (rhPlain_tidy ..) fun _ => .when (.raise _ _) fun _ => ?_
  refine .ite ?_ .modC
  split
  exact .modC

theorem rhIo_tidy (c : CtxId) (write slot : Bool) (v data : TWord) : TidyRun s₀ (rhIo c write slot v data) := by
  unfold rhIo
  refine .bind (rhAddr_tidy ..) fun _ => .when (.tagFault _) fun _ => .get_bind fun _ hs => .bind (needIo_tidy ..) fun _ => ?_
  refine .ite ?_ (.pure _)
  refine .get_bind fun _ hs => ?_
  extract_lets jp
  have hjp (u) : TidyRun s₀ (jp u) := .bind (.set (hs.trans (.refl _))) fun _ => .pure _
  exact .ite (.bind (localWrite_tidy ..) fun _ => hjp ()) (.bind (localRead_tidy ..) fun _ => hjp ())

theorem rhMove_tidy (c : CtxId) (slot : Bool) (p : BitVec 8) (v : TWord) (k : RhWork) : TidyRun s₀ (rhMove c slot p v k) := by
  unfold rhMove
  refine .bind .getC fun _ => ?_
  refine .ite (.bind .modC fun _ => .pure _) ?_
  split
  · exact .bind .modC fun _ => .pure _
  · exact .bind (rhSum_tidy ..) fun _ => .pure _
  · exact .bind (rhSum_tidy ..) fun _ => .pure _
  · exact .bind (rhLogic_tidy ..) fun _ => .pure _
  · exact .bind (rhLogic_tidy ..) fun _ => .pure _
  · exact .bind (rhLogic_tidy ..) fun _ => .pure _
  · exact .bind (rhLogic_tidy ..) fun _ => .pure _
  · exact .bind (rhLogic_tidy ..) fun _ => .pure _
  · exact .bind (rhLogic_tidy ..) fun _ => .pure _
  · exact .bind (rhSum_tidy ..) fun _ => .pure _
  · exact .bind (rhPlain_tidy ..) fun _ => .bind (rhPlain_tidy ..) fun _ => .bind .modC fun _ => .pure _
  · exact .bind (rhMul_tidy ..) fun _ => .pure _
  · exact .bind (rhMul_tidy ..) fun _ => .pure _
  · exact .bind (rhDiv_tidy ..) fun _ => .pure _
  · exact .bind (rhDiv_tidy ..) fun _ => .pure _
  · exact .bind (rhAddr_tidy ..) fun _ => .bind (rhLoad_tidy ..) fun _ => .pure _
  · exact .bind (rhAddr_tidy ..) fun _ => .bind (rhLoad_tidy ..) fun _ => .pure _
  · exact .bind (rhAddr_tidy ..) fun _ => .bind (readSlot_tidy ..) fun _ => .bind (rhStore_tidy ..) fun _ => .pure _
  · exact .bind (rhAddr_tidy ..) fun _ => .bind (readSlot_tidy ..) fun _ => .bind (rhStore_tidy ..) fun _ => .pure _
  · exact .bind (rhAddr_tidy ..) fun _ => .pure _
  · exact .bind (rhAddr_tidy ..) fun _ => .pure _
  · exact .bind (rhAddr_tidy ..) fun _ => .pure _
  · exact .bind (rhPlain_tidy ..) fun _ => .pure _
  · exact .bind (rhPlain_tidy ..) fun _ => .pure _
  · exact .bind (rhPlain_tidy ..) fun _ => .pure _
  · exact .bind (rhPlain_tidy ..) fun _ => .bind (.needDef _) fun _ => .pure _
  · exact .bind (rhIo_tidy ..) fun _ => .pure _
  · exact .bind (readSlot_tidy ..) fun _ => .bind (rhIo_tidy ..) fun _ => .pure _
  · exact .undef

theorem inSlot_tidy {α : Type} (slot : Bool) {m : M α} (hm : TidyRun s₀ m) : TidyRun s₀ (inSlot slot m) := by
  refine ⟨fun s hs => ?_⟩
  have h := hm.carries s hs
  unfold inSlot
  simp only [tryCatch, tryCatchThe, MonadExceptOf.tryCatch, EStateM.tryCatch]
  cases e : m s with
  | ok a t => rw [e] at h; exact h
  | error x t =>
    rw [e] at h
    cases x with
    | exc i => exact h
    | wait => exact h
    | illegal n f => exact h

theorem rhTarget_tidy (c : CtxId) (v : W64) (rh : Option Bool) : TidyRun s₀ (rhTarget c v rh) :=
  .bind (needCanonical_tidy ..) fun _ => .bind (needAligned_tidy ..) fun _ => targetCheck_tidy ..

theorem rhPrepare_tidy (c : CtxId) (k : RhWork) : TidyRun s₀ (rhPrepare c k) := by
  unfold rhPrepare
  refine .bind .getC fun _ => ?_
  split
  · exact .bind (rhTarget_tidy ..) fun _ => .pure _
  · exact .bind (rhTarget_tidy ..) fun _ => .get_bind fun _ _ => .when .undef fun _ => .pure _
  · refine .bind (.needDef _) fun _ => .bind (needCanonical_tidy ..) fun _ => .bind (needAligned_tidy ..) fun _ => ?_
    exact .bind (pushPhys_tidy ..) fun _ => .bind (targetCheck_tidy ..) fun _ => .bind (needFreeWindow_tidy ..) fun _ => .pure _
  · refine .bind (.needDef _) fun _ => .bind (needRows_tidy ..) fun _ => .bind (translateCtx_tidy ..) fun _ => .get_bind fun _ _ => ?_
    refine .bind (readPhys_tidy ..) fun _ => .when (.tagFault _) fun _ => .bind (needAligned_tidy ..) fun _ => ?_
    exact .bind (needCallerWindow_tidy ..) fun _ => .pure _
  · exact .pure _

theorem rhEffect_tidy (c : CtxId) (ctl : RhCtl) (v : W64) : TidyRun s₀ (rhEffect c ctl v) := by
  unfold rhEffect
  split
  · exact .bind (advance_tidy ..) fun _ => .pure _
  · exact .bind .modC fun _ => .pure _
  · exact .bind .modC fun _ => .pure _
  · exact .bind .modC fun _ => .pure _
  · exact .bind .modC fun _ => .pure _
  · exact .bind .modC fun _ => .pure _
  · exact .bind (takeSync_tidy ..) fun _ => .pure _
  · refine .get_bind fun _ _ => ?_
    exact .ite (.bind (.modify fun _ => milestone_tidy ..) fun _ => .bind .modC fun _ => .bind (advance_tidy ..) fun _ => .pure _) .wait

theorem rhMiles_tidy (c : CtxId) (ms : List InMile) (s : State) : Tidy s (rhMiles c ms s) := .foldl _ (fun _ _ => milestone_tidy ..) _ _

theorem rhFinish_tidy (c : CtxId) (r : RhRest) : TidyRun s₀ (rhFinish c r) := by
  unfold rhFinish
  refine .get_bind fun s hs => ?_
  extract_lets effect go
  have heffect (u) : TidyRun s (effect u) := .bind (rhEffect_tidy ..) fun _ => .when (takeSync_tidy ..) fun _ => .pure _
  have hgo : TidyRun s go := .bind .modC fun _ => .when (.modify fun _ => rhMiles_tidy ..) heffect
  split
  · next t h => exact .bind (.set (hs.trans (hgo.of_ok h))) fun _ => .pure _
  · next t h => exact .bind (.set (hs.trans ((hgo.of_ok h).trans (.of_eq rfl rfl)))) fun _ => .pure _
  · next t h => exact .bind (.set (hs.trans ((rollback_tidy (hgo.of_error h).form).trans (modCtx_tidy ..)))) fun _ => .pure _
  · next t _ h => exact .bind (.set (hs.trans (hgo.of_error h))) fun _ => .throw _

theorem rhLocal_tidy (c : CtxId) (a : RhIo) : TidyRun s₀ (rhLocal c a) :=
  .ite (localWrite_tidy ..) (.bind (localRead_tidy ..) fun _ => .ite .modC (.pure _))

theorem rhSend_tidy (c : CtxId) (a : RhIo) : TidyRun s₀ (rhSend c a) := by
  unfold rhSend
  refine .bind (needLane_tidy ..) fun _ => .get_bind fun _ _ => .bind (.modify fun _ => ?_) fun _ => .modC
  exact .after (countCtx_tidy ..) (.after (bumpTxid_tidy ..) (sendIoReq_tidy ..))

theorem rhAct_tidy (c : CtxId) (a : RhAct) : TidyRun s₀ (rhAct c a) := by
  unfold rhAct
  split
  · exact .get_bind fun _ _ => .ite (.bind (rhLocal_tidy ..) fun _ => .pure _) (.bind (rhSend_tidy ..) fun _ => .pure _)
  · exact .get_bind fun _ _ => .bind (readPhys_tidy ..) fun _ => .when .modC fun _ => .pure _
  · exact .bind (prepPhys_tidy ..) fun _ => .bind (commitPhys_tidy ..) fun _ => .pure _

theorem rhRun_tidy (c : CtxId) (r : RhRest) (acts : List RhAct) : TidyRun s₀ (rhRun c r acts) := by
  induction acts with
  | nil => exact .pure _
  | cons a acts ih =>
    unfold rhRun
    refine .get_bind fun s hs => ?_
    split
    · next t h => exact .bind (.set (hs.trans ((rhAct_tidy ..).of_ok h))) fun _ => ih
    · next t h =>
      exact .bind (.set ((hs.trans ((rhAct_tidy ..).of_ok h)).trans (modCtx_tidy ..))) fun _ => .pure _
    · next t h =>
      have ht := rollback_tidy ((rhAct_tidy ..).of_error h).form
      exact .bind (.set ((hs.trans ht).trans (modCtx_tidy ..))) fun _ => .pure _
    · next t _ h => exact .bind (.set (hs.trans ((rhAct_tidy ..).of_error h))) fun _ => .throw _

theorem rhRest_tidy (c : CtxId) (r : RhRest) : TidyRun s₀ (rhRest c r) := .bind (rhRun_tidy ..) fun _ => .ite (rhFinish_tidy ..) (.pure _)

theorem rhWord_tidy (w : W32) (c : CtxId) : TidyRun s₀ (rhWord w c) := by
  unfold rhWord
  refine .bind .getC fun _ => ?_
  split
  · exact rhRest_tidy ..
  · refine .bind (.needDef _) fun _ => .bind (rhRead_tidy ..) fun _ => .bind (rhRead_tidy ..) fun _ => ?_
    split
    · exact .undef
    · exact inSlot_tidy _ .undef
    · refine .bind (.needDef _) fun _ => .bind (inSlot_tidy _ (.needDef _)) fun _ => .bind .getC fun _ => ?_
      refine .bind (rhMove_tidy ..) fun _ => .bind (inSlot_tidy _ (rhMove_tidy ..)) fun _ => ?_
      exact .bind (inSlot_tidy _ (rhPrepare_tidy ..)) fun _ => .get_bind fun _ _ => rhRest_tidy ..

theorem ioFail_tidy (c : CtxId) (vec : BitVec 6) (off : W64) (s : State) : Tidy s (ioFail c vec off s) := by
  unfold ioFail
  extract_lets back
  have hback := modCtx_tidy s c fun k => { back k with io := none, rest := none }
  split
  · next t ht => exact hback.trans (((takeSync_tidy ..).of_ok ht).trans (.trans (accountChange_eq ..).tidy (.of_eq rfl rfl)))
  · next t ht => exact rollback_tidy (hback.trans ((takeSync_tidy ..).of_error ht)).form

theorem ioFinish_tidy {s t : State} (h : Tidy s t) (c : CtxId) (w : IoWait) (late : Bool) : Tidy s (ioFinish c w late s t) := by
  unfold ioFinish
  split
  · exact h.trans (.after (retire_tidy ..) (modCtx_tidy ..))
  · split
    · next u hu => exact h.trans (((rhRest_tidy ..).of_ok hu).trans (retire_tidy ..))
    · next u hu => exact h.trans (((rhRest_tidy ..).of_ok hu).trans (accountChange_eq ..).tidy)
    · next u hu => exact rollback_tidy (h.trans ((rhRest_tidy ..).of_error hu)).form

theorem ioMile_tidy (c : CtxId) (m : InMile) (s : State) : Tidy s (ioMile c m s) := by
  unfold ioMile
  split
  · exact rhMiles_tidy ..
  · exact .of_eq rfl rfl

theorem ioDone_tidy (c : CtxId) (w : IoWait) (r : IoResp) (s : State) : Tidy s (ioDone c w r s) := by
  unfold ioDone
  refine .ite (ioFail_tidy ..) ?_
  extract_lets v t t1 t2
  have ht : Tidy s t := modCtx_tidy ..
  have ht1 : Tidy s t1 := .ite (.after (countCtx_tidy ..) ht) ht
  have ht2 : Tidy s t2 := .ite (.after (ioMile_tidy ..) ht1) ht1
  exact ioFinish_tidy ht2 ..

theorem ioLate_tidy (c : CtxId) (w : IoWait) (s : State) : Tidy s (ioLate c w s) :=
  .ite (ioFinish_tidy (modCtx_tidy ..) ..) (ioFail_tidy ..)

/-! Resets and the start -/

/-- The scratchpad is empty after a cold reset. -/
theorem coldState_tidy (s : State) : Tidy s (coldState s) := ⟨fun _ => ⟨rfl, nofun⟩, rfl⟩

theorem beginReset_tidy (k : ResetKind) (s : State) : Tidy s (beginReset k s) := by
  unfold beginReset
  refine .after (drainStep_background ..).tidy ?_
  exact .after (warmMesh_background ..).tidy (.trans (.trans (endKeys_background ..).tidy (.of_eq rfl rfl)) (.of_eq rfl rfl))

theorem lockConfig_tidy (s : State) : Tidy s (lockConfig s) := .ite (.refl _) (.of_eq rfl rfl)

theorem startCore_tidy (s : State) : Tidy s (startCore s) := .after (settle_tidy ..) (.trans (lockConfig_tidy ..) (.of_eq rfl rfl))

theorem keyFail_tidy (s : State) : Tidy s (keyFail s) :=
  .after (endKeys_background ..).tidy (.after (wayside_background ..).tidy (.of_eq rfl rfl))

theorem keyRead_tidy (s : State) : Tidy s (keyRead s) := by
  unfold keyRead
  refine .ite (keyFail_tidy ..) (.ite (.after (tollRefuse_background ..).tidy (keyFail_tidy ..)) ?_)
  exact .after (bumpTxid_tidy ..) (.after (sendIoReq_tidy ..) (.of_eq rfl rfl))

theorem keyDone_tidy (ws : List W64) (s : State) : Tidy s (keyDone ws s) :=
  .after (startCore_tidy ..) (.after (endKeys_background ..).tidy (.ite (.of_eq rfl rfl) (.refl _)))

theorem keyWord_tidy (w : W64) (s : State) : Tidy s (keyWord w s) := by
  unfold keyWord
  refine .ite (.after (keyFail_tidy ..) (.of_eq rfl rfl)) ?_
  exact .ite (.after (keyDone_tidy ..) (.of_eq rfl rfl)) (.after (keyRead_tidy ..) (.of_eq rfl rfl))

theorem goStart_tidy (s : State) : Tidy s (goStart s) := .ite (startCore_tidy ..) (.after (keyRead_tidy ..) (.of_eq rfl rfl))

/-! Capability instructions -/

theorem needCapForm_tidy (always useS useSel : Bool) (r : BitVec 20) : TidyRun s₀ (needCapForm always useS useSel r) :=
  .get_bind fun _ _ => .needDef _

theorem needXY_tidy (c : CtxId) : TidyRun s₀ (needXY c) := .get_bind fun _ _ => .bind (needCap_tidy ..) fun _ => .pure _

theorem needUnsealed_tidy (c : CtxId) : TidyRun s₀ (needUnsealed c) :=
  .bind (needXY_tidy ..) fun _ => .when (.capFault _ _) fun _ => .pure _

theorem capFaultFree_tidy {α : Type} : TidyRun s₀ (capFaultFree : M α) := .bind (freeW_tidy ..) fun _ => .capFault _ _

theorem needTagA_tidy (c : CtxId) (ok : Tag → Bool) : TidyRun s₀ (needTagA c ok) :=
  .bind .getC fun _ => .ite (.pure _) capFaultFree_tidy

theorem needPlainA_tidy (c : CtxId) : TidyRun s₀ (needPlainA c) := needTagA_tidy ..

theorem putXY_tidy (c : CtxId) (p : CapPair) : TidyRun s₀ (putXY c p) := .modify fun _ => .of_eq rfl rfl

theorem putInt_tidy (c : CtxId) (v : W64) : TidyRun s₀ (putInt c v) := .modC

theorem capInspect_tidy (f : CapPair → W64) (r : BitVec 20) (c : CtxId) : TidyRun s₀ (capInspect f r c) :=
  .bind (needCapForm_tidy ..) fun _ => .bind (needXY_tidy ..) fun _ => putInt_tidy ..

theorem anarbInstr_tidy (r : BitVec 20) (c : CtxId) : TidyRun s₀ (anarbInstr r c) := by
  unfold anarbInstr
  refine .bind (needCapForm_tidy ..) fun _ => .bind (needPlainA_tidy ..) fun _ => .bind (needUnsealed_tidy ..) fun _ => ?_
  exact .when (.capFault _ _) fun _ => .when (.capFault _ _) fun _ => .when (.capFault _ _) fun _ => putXY_tidy ..

theorem anartInstr_tidy (r : BitVec 20) (c : CtxId) : TidyRun s₀ (anartInstr r c) := by
  unfold anartInstr
  refine .bind (needCapForm_tidy ..) fun _ => .bind (needPlainA_tidy ..) fun _ => .bind (needUnsealed_tidy ..) fun _ => ?_
  exact .when (.capFault _ _) fun _ => .when (.capFault _ _) fun _ => .when (.capFault _ _) fun _ => putXY_tidy ..

theorem amaskInstr_tidy (r : BitVec 20) (c : CtxId) : TidyRun s₀ (amaskInstr r c) := by
  unfold amaskInstr
  refine .bind (needCapForm_tidy ..) fun _ => .bind .getC fun _ => .when (.tagFault _) fun _ => .bind (needUnsealed_tidy ..) fun _ => ?_
  exact putXY_tidy ..

theorem asealInstr_tidy (r : BitVec 20) (c : CtxId) : TidyRun s₀ (asealInstr r c) := by
  unfold asealInstr
  refine .bind (needCapForm_tidy ..) fun _ => .bind (needPlainA_tidy ..) fun _ => .bind (needUnsealed_tidy ..) fun _ => ?_
  exact .when (.capFault _ _) fun _ => .bind .getC fun _ => .when (.capFault _ _) fun _ => putXY_tidy ..

theorem aopenInstr_tidy (r : BitVec 20) (c : CtxId) : TidyRun s₀ (aopenInstr r c) := by
  unfold aopenInstr
  refine .bind (needCapForm_tidy ..) fun _ => .bind (needXY_tidy ..) fun _ => .when (.capFault _ _) fun _ => .bind .getC fun _ => ?_
  exact .when (.capFault _ _) fun _ => putXY_tidy ..

theorem capAddress_tidy (c : CtxId) (kind : AccKind) (extra : Nat) : TidyRun s₀ (capAddress c kind extra) := by
  unfold capAddress
  refine .bind (needTagA_tidy ..) fun _ => .bind (needCanonical_tidy ..) fun _ => .when (.capFault _ _) fun _ => ?_
  exact .bind (needDdc_tidy ..) fun _ => .get_bind fun _ _ => .when (.capFault _ _) fun _ => .pure _

theorem aldInstr_tidy (r : BitVec 20) (c : CtxId) : TidyRun s₀ (aldInstr r c) := by
  unfold aldInstr
  refine .bind (needCapForm_tidy ..) fun _ => .bind (capAddress_tidy ..) fun _ => .bind (translateCtx_tidy ..) fun _ => ?_
  exact .bind (translateCtx_tidy ..) fun _ => .bind (readPhys_tidy ..) fun _ => .bind (readPhys_tidy ..) fun _ => .modC

theorem astInstr_tidy (r : BitVec 20) (c : CtxId) : TidyRun s₀ (astInstr r c) := by
  unfold astInstr
  refine .bind (needCapForm_tidy ..) fun _ => .bind (needTagA_tidy ..) fun _ => .bind (needCanonical_tidy ..) fun _ => ?_
  refine .bind (needXY_tidy ..) fun _ => .bind (capAddress_tidy ..) fun _ => .bind (translateCtx_tidy ..) fun _ => ?_
  refine .bind (translateCtx_tidy ..) fun _ => .bind (prepPhys_tidy ..) fun _ => .bind (prepPhys_tidy ..) fun _ => ?_
  exact .bind (needPaths_tidy ..) fun _ => .bind (commitPhys_tidy ..) fun _ => commitPhys_tidy ..

theorem agetInstr_tidy (r : BitVec 20) (c : CtxId) : TidyRun s₀ (agetInstr r c) :=
  .bind (needCapForm_tidy ..) fun _ => .bind (.needDef _) fun _ => .modC

theorem aputInstr_tidy (r : BitVec 20) (c : CtxId) : TidyRun s₀ (aputInstr r c) := by
  unfold aputInstr
  refine .bind (needCapForm_tidy ..) fun _ => .bind (.needDef _) fun _ => .bind .getC fun _ => .bind (.needPriv _) fun _ => ?_
  exact .when capFaultFree_tidy fun _ => .bind (needUnsealed_tidy ..) fun _ => .modC

theorem ajmpInstr_tidy (r : BitVec 20) (c : CtxId) : TidyRun s₀ (ajmpInstr r c) := by
  unfold ajmpInstr
  refine .bind (needCapForm_tidy ..) fun _ => .bind (needTagA_tidy ..) fun _ => .bind (needCanonical_tidy ..) fun _ => ?_
  refine .when (.capFault _ _) fun _ => .bind (needUnsealed_tidy ..) fun _ => .when (.capFault _ _) fun _ => ?_
  exact .when (.capFault _ _) fun _ => .modC

theorem agateInstr_tidy (r : BitVec 20) (c : CtxId) : TidyRun s₀ (agateInstr r c) := by
  unfold agateInstr
  refine .bind (needCapForm_tidy ..) fun _ => .bind .getC fun _ => .bind .getC fun _ => .bind (.needDef _) fun _ => ?_
  refine .bind (needXY_tidy ..) fun _ => .when (.capFault _ _) fun _ => .when (.capFault _ _) fun _ => .get_bind fun _ _ => ?_
  exact .bind (needCap_tidy ..) fun _ => .when (.capFault _ _) fun _ => .when (.capFault _ _) fun _ => .modC

theorem needSealKey_tidy : TidyRun s₀ needSealKey := .get_bind fun _ _ => .ite (.pure _) (.capFault _ _)

theorem sealInstr_tidy (r : BitVec 20) (c : CtxId) : TidyRun s₀ (sealInstr r c) := by
  unfold sealInstr
  refine .bind (needCapForm_tidy ..) fun _ => .bind .getC fun _ => .bind (.needPriv _) fun _ => .bind .getC fun _ => ?_
  exact .when (.tagFault _) fun _ => .bind (needSealKey_tidy ..) fun _ => .when (.capFault _ _) fun _ => .modify fun _ => .of_eq rfl rfl

theorem unsealInstr_tidy (r : BitVec 20) (c : CtxId) : TidyRun s₀ (unsealInstr r c) := by
  unfold unsealInstr
  refine .bind (needCapForm_tidy ..) fun _ => .bind .getC fun _ => .bind (.needPriv _) fun _ => .when (.tagFault _) fun _ => ?_
  exact .bind (needSealKey_tidy ..) fun _ => .get_bind fun _ _ => .when (.capFault _ _) fun _ => putInt_tidy ..

theorem achkInstr_tidy (r : BitVec 20) (c : CtxId) : TidyRun s₀ (achkInstr r c) :=
  .bind (needCapForm_tidy ..) fun _ => .get_bind fun _ _ => putInt_tidy ..

/-! The Causeway -/

theorem chCheckGo_tidy (u : ChUser) (k : AccKind) (a : List W64) : TidyRun s₀ (chCheck.go u k a) := by
  induction a with
  | nil => exact .pure _
  | cons v vs ih =>
    unfold chCheck.go
    refine .bind (translate_tidy ..) fun _ => ?_
    split
    · exact .pure _
    · refine .ite (.pure _) (.bind ih fun _ => ?_)
      split <;> exact .pure _

theorem chCheck_tidy (u : ChUser) (k : AccKind) (a : W64) (n : Nat) : TidyRun s₀ (chCheck u k a n) := by
  unfold chCheck
  refine .get_bind fun _ _ => ?_
  split
  · exact .pure _
  · exact chCheckGo_tidy ..

theorem chRead_tidy (u : ChUser) (stream : Bool) (ps : List (W64 × Phys)) (v : W64) : TidyRun s₀ (chRead u stream ps v) := by
  unfold chRead
  refine .ite (.bind (spadRead_tidy ..) fun _ => .pure _) ?_
  refine .bind (readLine_tidy ..) fun _ => ?_
  split <;> exact .pure _

theorem cwCheckPages_tidy (u : ChUser) (a : W64) (n : Nat) (vs : List W64) : TidyRun s₀ (cwCheckPages u a n vs) := by
  induction vs with
  | nil => exact .pure _
  | cons v vs ih =>
    unfold cwCheckPages
    refine .bind (chCheck_tidy ..) fun _ => ?_
    split
    · exact .pure _
    · exact ih

theorem cwCheck_tidy (c : BitVec 4) (s : State) : Tidy s (cwCheck c s) := by
  unfold cwCheck
  extract_lets k
  split
  · exact .refl _
  · next g _ =>
    have hrun := cwCheckPages_tidy (s₀ := s) (cwUser c k g) k.src k.bytes (pageStarts k.src k.bytes)
    refine .ite (setCw_background ..).tidy ?_
    split
    · next t h => exact .after (setCw_background ..).tidy (.after (dropChFills_background ..).tidy (hrun.of_ok h))
    · next t h =>
      refine .after (cwLeave_background ..).tidy (.after (noteForged_background ..).tidy ?_)
      exact .after (dropChFills_background ..).tidy (hrun.of_ok h)
    · next t h => exact rollback_tidy (hrun.of_error h).form

theorem cwChecks_tidy (s : State) : Tidy s (cwChecks s) := .foldl _ (fun _ _ => .ite (cwCheck_tidy ..) (.refl _)) _ _

theorem cwLose_tidy (c : BitVec 4) : TidyRun s₀ (cwLose c) := .bind (.modify fun _ => (setCw_background ..).tidy) fun _ => .pure _

theorem cwSpad_tidy (c : BitVec 4) (i : Nat) : TidyRun s₀ (cwSpad c i) :=
  .get_bind fun _ _ => .bind (spadRead_tidy ..) fun _ => .ite (cwLose_tidy ..) (.pure _)

theorem cwWord_tidy (c : BitVec 4) (k : CwCh) (o : Nat) : TidyRun s₀ (cwWord c k o) := by
  unfold cwWord
  refine .ite ?_ (cwSpad_tidy ..)
  split
  · exact cwLose_tidy ..
  · refine .bind (translate_tidy ..) fun _ => ?_
    split
    · exact cwLose_tidy ..
    · refine .ite (cwSpad_tidy ..) ?_
      refine .get_bind fun _ _ => .when (.modify fun _ => (setCw_background ..).tidy) fun _ => .bind (readLine_tidy ..) fun _ => ?_
      split
      · exact .pure _
      · exact cwLose_tidy ..

theorem cwBeatData_tidy (c : BitVec 4) (k : CwCh) (j i : Nat) : TidyRun s₀ (cwBeatData c k j i) := by
  induction i with
  | zero => exact .pure _
  | succ i ih =>
    unfold cwBeatData
    exact .bind ih fun _ => .ite (.pure _) (.bind (cwWord_tidy ..) fun _ => .pure _)

theorem cwPush_tidy (c : BitVec 4) (data : BitVec 256) (s : State) : Tidy s (cwPush c data s) := by
  unfold cwPush
  extract_lets k t
  have ht : Tidy s t := (setCw_background ..).tidy
  exact ht.trans (.of_eq rfl rfl)

theorem cwBeat_tidy (c : BitVec 4) (s : State) : Tidy s (cwBeat c s).2 := by
  unfold cwBeat
  extract_lets k
  split
  · exact cwPush_tidy ..
  · split
    · next h => exact .after (cwPush_tidy ..) (.after (dropChFills_background ..).tidy ((cwBeatData_tidy ..).of_ok h))
    · next h => exact .after (setCw_background ..).tidy (rollback_tidy ((cwBeatData_tidy ..).of_error h).form)

theorem cwServe_tidy (cs : List (BitVec 4)) (s : State) : Tidy s (cwServe cs s) := by
  induction cs generalizing s with
  | nil => exact .refl s
  | cons c cs ih =>
    have h := cwBeat_tidy c s
    unfold cwServe
    split
    · next t ht => rw [ht] at h; exact h
    · next t ht => rw [ht] at h; exact h.trans (ih t)

theorem cwFill_tidy (s : State) : Tidy s (cwFill s) := .ite (.refl _) (cwServe_tidy ..)

theorem cwTake_tidy (s : State) : Tidy s (cwTake s) := by
  unfold cwTake
  split
  · exact .refl _
  · next b q _ =>
    extract_lets k k' _ _ _ _ t u
    have ht : Tidy s t := .of_eq rfl rfl
    have hu : Tidy s u := .after (countEvent_eq ..).tidy ht
    exact .ite (.after (cwLeave_background ..).tidy hu) hu

theorem cwOffer_tidy (s : State) : Tidy s (cwOffer s) :=
  .after (offerBeat_background ..).tidy (.after (cwFill_tidy ..) (.ite (cwChecks_tidy ..) (.refl _)))

/-! The chain -/

theorem driveSlot_tidy (w : W64) (s : State) : Tidy s (driveSlot w s) := by
  unfold driveSlot
  extract_lets
  split <;> exact .of_eq rfl rfl

theorem countCrc_tidy (s : State) : Tidy s (countCrc s) := .of_eq rfl rfl

theorem badFrame_tidy (cmd : ChainCmd) (f : ChainFrame) (s : State) : Tidy s (badFrame cmd f s) := by
  unfold badFrame
  extract_lets t
  have ht : Tidy s t := .after (driveSlot_tidy ..) (countCrc_tidy s)
  exact .ite (ht.trans (.of_eq rfl rfl)) ht

theorem respAct_tidy (w : W64) (s : State) : Tidy s (respAct w s) := by
  unfold respAct
  split
  · exact driveSlot_tidy ..
  · exact .ite (driveSlot_tidy ..) (.after (driveSlot_tidy ..) (.of_eq rfl rfl))

theorem idleFrame_tidy (w : W64) (s : State) : Tidy s (idleFrame w s) :=
  .ite (.refl _) (.ite (.after (driveSlot_tidy ..) (.of_eq rfl rfl)) (.ite (respAct_tidy ..) (driveSlot_tidy ..)))

theorem chainFrame_tidy (cmd : ChainCmd) (f : ChainFrame) {act : State → State} (h : ∀ s, Tidy s (act s)) (s : State) :
    Tidy s (chainFrame cmd f act s) := by
  unfold chainFrame
  extract_lets t
  have ht : Tidy s t := .foldl _ (fun _ _ => idleFrame_tidy ..) _ _
  split
  · exact .refl s
  · exact .ite (ht.trans (h t)) (ht.trans (badFrame_tidy ..))

theorem enumAct_tidy (f : ChainFrame) (s : State) : Tidy s (enumAct f s) := by
  unfold enumAct
  extract_lets k k1 t
  have hk : Tidy s { s with chain := k1 } := by
    unfold k1
    split <;> exact .of_eq rfl rfl
  have ht : Tidy s t := hk.trans (driveSlot_tidy ..)
  exact ht.trans (.of_eq rfl rfl)

theorem identAct_tidy (f : ChainFrame) (s : State) : Tidy s (identAct f s) :=
  .ite (driveSlot_tidy ..) (.ite (.after (driveSlot_tidy ..) (.of_eq rfl rfl)) (driveSlot_tidy ..))

theorem chainReadBefore_tidy (i : Nat) (s : State) : Tidy s (chainReadBefore i s) := .ite (.of_eq rfl rfl) (.refl _)

theorem readAct_tidy (f : ChainFrame) (s : State) : Tidy s (readAct f s) := by
  unfold readAct
  refine .ite (driveSlot_tidy ..) ?_
  refine .ite (driveSlot_tidy ..) ?_
  exact .after (driveSlot_tidy ..) (.after (chainReadEffect_tidy ..) (.trans (chainReadBefore_tidy ..) (.of_eq rfl rfl)))

theorem writeBoot_tidy (i : Nat) (v : W32) (s : State) : Tidy s (writeBoot i v s) := by
  unfold writeBoot
  refine .ite (.of_eq rfl rfl) ?_
  refine .ite (.ite (.refl _) (.of_eq rfl rfl)) ?_
  refine .ite (.ite (.refl _) (.of_eq rfl rfl)) ?_
  exact .ite (.ite (.refl _) (.of_eq rfl rfl)) (.ite (.ite (.refl _) (.of_eq rfl rfl)) (.ite (.ite (.refl _) (.of_eq rfl rfl)) (.refl _)))

theorem writeGo_tidy (v : W32) (s : State) : Tidy s (writeGo v s) := by
  unfold writeGo
  extract_lets _ t _ u
  have ht : Tidy s t := .ite (.of_eq rfl rfl) (.refl _)
  have hu : Tidy s u := ht.trans (.of_eq rfl rfl)
  refine .ite ht ?_
  split
  · exact hu
  · exact hu.trans (goStart_tidy ..)
  · exact ht

theorem writeMbin_tidy (k : Nat) (v : W32) (s : State) : Tidy s (writeMbin k v s) :=
  .ite (.of_eq rfl rfl) (.ite (.after (setPend_eq ..).tidy (.of_eq rfl rfl)) (.of_eq rfl rfl))

theorem writeBoundary_tidy (i : Nat) (v : W32) (s : State) : Tidy s (writeBoundary i v s) :=
  .ite (.of_eq rfl rfl) (.ite (.of_eq rfl rfl) (.ite (.of_eq rfl rfl) (.ite (.of_eq rfl rfl) (.refl _))))

theorem writeTrace_tidy (i : Nat) (v : W32) (s : State) : Tidy s (writeTrace i v s) :=
  .ite (.refl _) (.ite (.of_eq rfl rfl) (.ite (.of_eq rfl rfl) (.of_eq rfl rfl)))

theorem writeXrstat_tidy (v : W32) (s : State) : Tidy s (writeXrstat v s) :=
  .ite (.after (snapTrigger_tidy ..) (.ite (.of_eq rfl rfl) (.refl _))) (.ite (.of_eq rfl rfl) (.refl _))

theorem writeDump_tidy (i : Nat) (v : W32) (s : State) : Tidy s (writeDump i v s) := by
  unfold writeDump
  refine .ite (.of_eq rfl rfl) ?_
  refine .ite (.of_eq rfl rfl) ?_
  refine .ite (.of_eq rfl rfl) ?_
  refine .ite (.of_eq rfl rfl) ?_
  exact .ite (.of_eq rfl rfl) (.ite (.of_eq rfl rfl) (.ite (writeXrstat_tidy ..) (.ite (.of_eq rfl rfl) (.refl _))))

theorem writeAlmcfg_tidy (v : W32) (s : State) : Tidy s (writeAlmcfg v s) := .ite (.refl _) (.of_eq rfl rfl)

theorem writeSafety_tidy (i : Nat) (v : W32) (s : State) : Tidy s (writeSafety i v s) := by
  unfold writeSafety
  refine .ite (.of_eq rfl rfl) ?_
  refine .ite (writeAlmcfg_tidy ..) ?_
  refine .ite (.of_eq rfl rfl) ?_
  refine .ite (.of_eq rfl rfl) ?_
  exact .ite (.of_eq rfl rfl) (.ite (.of_eq rfl rfl) (.ite (.of_eq rfl rfl) (.ite (.of_eq rfl rfl) (.ite (.of_eq rfl rfl) (.refl _)))))

theorem writeFcstat_tidy (i : Nat) (v : W32) (s : State) : Tidy s (writeFcstat i v s) := .ite (.of_eq rfl rfl) (.refl _)

theorem writeReg_tidy (i : Nat) (v : W32) (s : State) : Tidy s (writeReg i v s) := by
  unfold writeReg
  refine .ite (writeBoot_tidy ..) ?_
  refine .ite (writeGo_tidy ..) ?_
  refine .ite (writeMbin_tidy ..) ?_
  refine .ite (.refl _) ?_
  refine .ite (writeBoundary_tidy ..) ?_
  exact .ite (writeTrace_tidy ..) (.ite (writeDump_tidy ..) (.ite (writeSafety_tidy ..) (.ite (writeFcstat_tidy ..) (.refl _))))

theorem writeAct_tidy (f : ChainFrame) (s : State) : Tidy s (writeAct f s) :=
  .ite (driveSlot_tidy ..) (.ite (.after (writeReg_tidy ..) (driveSlot_tidy ..)) (driveSlot_tidy ..))

theorem bwriteAct_tidy (f : ChainFrame) (s : State) : Tidy s (bwriteAct f s) :=
  .ite (driveSlot_tidy ..) (.ite (.after (writeReg_tidy ..) (driveSlot_tidy ..)) (driveSlot_tidy ..))

theorem writeFrame_tidy (f : ChainFrame) (bc : Bool) (s : State) : Tidy s (writeFrame f bc s) :=
  .ite (chainFrame_tidy (h := bwriteAct_tidy f) ..) (chainFrame_tidy (h := writeAct_tidy f) ..)

theorem corerstAct_tidy (f : ChainFrame) (s : State) : Tidy s (corerstAct f s) :=
  .ite (driveSlot_tidy ..) (.ite (.after (beginReset_tidy ..) (driveSlot_tidy ..)) (driveSlot_tidy ..))

/-! Switches -/

theorem discard_tidy (c : CtxId) (s : State) : Tidy s (discard c s) := by
  unfold discard
  extract_lets w t
  have ht : Tidy s t := modCtx_tidy ..
  clear_value w
  split
  · exact ht.trans (.of_eq rfl rfl)
  · exact ht

theorem switchTo_tidy (c : CtxId) (s : State) : Tidy s (switchTo c s) := by
  unfold switchTo
  extract_lets t _ _ u
  have ht : Tidy s t := by
    unfold t
    split
    · exact .trans (discard_tidy ..) (.of_eq rfl rfl)
    · exact .refl s
  have hu : Tidy t u := .of_eq rfl rfl
  exact .after (countCtx_tidy ..) (.after (traceCtx_tidy ..) (.after (accountChange_eq ..).tidy (ht.trans hu)))

theorem timerCross_tidy (s : State) : Tidy s (timerCross s) := .ite (.after (setPend_eq ..).tidy (.of_eq rfl rfl)) (.refl _)

/-! Context instructions -/

theorem waitMilestone_tidy (c : CtxId) (got : BitVec 8) (s : State) : Tidy s (waitMilestone c got s) := by
  unfold waitMilestone
  extract_lets k e kind fin
  split
  · exact .refl _
  · refine .ite (.refl _) ?_
    extract_lets t
    have ht : Tidy s t := by
      unfold t
      clear_value kind
      split <;> exact milestone_tidy ..
    exact ht.trans (modCtx_tidy ..)

theorem waitInstr_tidy (r : BitVec 21) (c : CtxId) : TidyRun s₀ (waitInstr r c) := by
  unfold waitInstr
  refine .bind (.needDef _) fun _ => .bind (.modify fun _ => settle_tidy ..) fun _ => .get_bind fun _ _ => ?_
  refine .ite ?_ ?_
  · refine .bind (.modify fun _ => waitMilestone_tidy ..) fun _ => .bind .modC fun _ => ?_
    exact .bind (.modify fun _ => settle_tidy ..) fun _ => .bind (advance_tidy ..) fun _ => .pure _
  · exact .bind .modC fun _ => .bind (.modify fun _ => .trans (wakeByIrq_eq ..).tidy (.of_eq rfl rfl)) fun _ => .pure _

theorem afterYield_tidy (c : CtxId) (s : State) : Tidy s (afterYield c s) := by
  unfold afterYield
  split
  · exact .ite (switchTo_tidy ..) (.refl _)
  · exact .refl _

theorem yieldInstr_tidy (r : BitVec 21) (c : CtxId) : TidyRun s₀ (yieldInstr r c) :=
  .bind (.needDef _) fun _ => .bind (advance_tidy ..) fun _ => .modify fun _ => afterYield_tidy ..

theorem cwakeInstr_tidy (r : BitVec 21) (c : CtxId) : TidyRun s₀ (cwakeInstr r c) := by
  unfold cwakeInstr
  refine .bind (.needDef _) fun _ => .bind .getC fun _ => .bind (.needPriv _) fun _ => ?_
  exact .ite (.modify fun _ => .trans (.of_eq rfl rfl) (.of_eq rfl rfl)) (.pure _)

theorem cstartInstr_tidy (r : BitVec 21) (c : CtxId) : TidyRun s₀ (cstartInstr r c) := by
  unfold cstartInstr
  refine .bind (.needDef _) fun _ => .get_bind fun _ _ => .bind (.needPriv _) fun _ => .when (.tagFault _) fun _ => ?_
  refine .when (.tagFault _) fun _ => .bind (needCanonical_tidy ..) fun _ => .bind (needAligned_tidy ..) fun _ => ?_
  refine .bind (needAligned_tidy ..) fun _ => .bind (needDdc_tidy ..) fun _ => .bind (frameRead_tidy ..) fun _ => ?_
  split
  · exact .tagFault _
  · exact .get_bind fun _ _ => .ite .modC (.bind .modC fun _ => .modify fun _ => modCtx_tidy ..)

theorem cstopInstr_tidy (r : BitVec 21) (c : CtxId) : TidyRun s₀ (cstopInstr r c) := by
  unfold cstopInstr
  refine .bind (.needDef _) fun _ => .get_bind fun _ _ => .bind (.needPriv _) fun _ => .bind (.needDef _) fun _ => ?_
  exact .bind .modC fun _ => .ite (.modify fun _ => .of_eq rfl rfl) (.pure _)

theorem needWindowStack_tidy (c : CtxId) (k : AccKind) (a : W64) (give : Bool) : TidyRun s₀ (needWindowStack c k a give) :=
  .bind (needCanonical_tidy ..) fun _ => needDdc_tidy ..

theorem fspillInstr_tidy (r : BitVec 21) (c : CtxId) : TidyRun s₀ (fspillInstr r c) := by
  unfold fspillInstr
  refine .bind (.needDef _) fun _ => ?_
  refine .bind .getC fun _ => ?_
  refine .bind (.needPriv _) fun _ => ?_
  refine .bind (.needDef _) fun _ => ?_
  refine .bind (.modify fun _ => .foldl _ (fun _ _ => meetSlot_tidy ..) _ _) fun _ => ?_
  refine .bind .getC fun _ => ?_
  refine .bind (needWindowStack_tidy ..) fun _ => ?_
  refine .get_bind fun _ _ => ?_
  refine .bind (translateWords_tidy ..) fun _ => ?_
  split
  · exact raiseX_tidy ..
  · refine .bind (prepWords_tidy ..) fun _ => ?_
    exact .bind (needPaths_tidy ..) fun _ => .bind (commitWords_tidy ..) fun _ => .modC

theorem ffillInstr_tidy (r : BitVec 21) (c : CtxId) : TidyRun s₀ (ffillInstr r c) := by
  unfold ffillInstr
  refine .bind (.needDef _) fun _ => .bind .getC fun _ => .bind (.needPriv _) fun _ => .bind (.needDef _) fun _ => ?_
  refine .bind (needWindowStack_tidy ..) fun _ => .get_bind fun _ _ => .bind (translateWords_tidy ..) fun _ => ?_
  split
  · exact raiseX_tidy ..
  · exact .bind (frameRead_tidy ..) fun _ => .modC

/-! The coprocessor -/

theorem cpAccepts_tidy (w : TWord) : TidyRun s₀ (cpAccepts w) := .ite (.tagFault _) (.pure _)

theorem cpIssue_tidy (c : CtxId) (ord : Bool) (i : CpIssue) (s : State) : Tidy s (cpIssue c ord i s) :=
  .after (cpOffer_background ..).tidy (.of_eq rfl rfl)

theorem cpInstr_tidy (w : BitVec 27) (c : CtxId) : TidyRun s₀ (cpInstr w c) := by
  unfold cpInstr
  refine .get_bind fun _ _ => .bind (.needDef _) fun _ => ?_
  extract_lets a next
  have hnext (u) : TidyRun s₀ (next u) := by
    refine .bind (cpAccepts_tidy ..) fun _ => .bind (cpAccepts_tidy ..) fun _ => ?_
    split
    · exact .wait
    · exact .bind (.modify fun _ => cpIssue_tidy ..) fun _ => .bind .modC fun _ => .pure _
  exact .ite (.bind (readSlot_tidy ..) fun _ => hnext _) (.bind (.pure _) fun _ => hnext _)

theorem cpAnswered_tidy (tag : BitVec 3) (s : State) : Tidy s (cpAnswered tag s) := .after (cpOffer_background ..).tidy (.of_eq rfl rfl)

theorem cpTake_tidy (c : CtxId) (w : CpWait) (res : TWord) (bad : Bool) (code : BitVec 8) (s : State) :
    Tidy s (cpTake c w res bad code s) := by
  unfold cpTake
  extract_lets t u
  have ht : Tidy s t := .after (modCtx_tidy ..) (cpAnswered_tidy ..)
  split
  · exact ht.trans (.trans (accountChange_eq ..).tidy (.of_eq rfl rfl))
  · split
    · split
      · next v hv => exact ht.trans (((takeSync_tidy ..).of_ok hv).trans (.trans (accountChange_eq ..).tidy (.of_eq rfl rfl)))
      · next v hv => exact rollback_tidy (ht.trans ((takeSync_tidy ..).of_error hv)).form
    · exact ht.trans (.after (countCtx_tidy ..) (.after (retire_tidy ..) (modCtx_tidy ..)))

/-! Floating point -/

theorem fpInstr_tidy (z : FpSize) (f : FpRound → Nat → Nat → Nat × FpFlags) (m : BitVec 3) (d : BitVec 22) (c : CtxId) :
    TidyRun s₀ (fpInstr z f m d c) := by
  unfold fpInstr
  refine .bind (readPair_tidy (hx := .pure _) ..) fun _ => .bind .getC fun _ => ?_
  exact .bind (postIncrement_tidy ..) fun _ => .bind .modC fun _ => .modify fun _ => countCtx_tidy ..

theorem fmacInstr_tidy (z : FpSize) (m : BitVec 3) (d : BitVec 22) (c : CtxId) : TidyRun s₀ (fmacInstr z m d c) := by
  unfold fmacInstr
  refine .bind (readPair_tidy (hx := needX_tidy ..) ..) fun _ => .bind .getC fun _ => ?_
  exact .bind (postIncrement_tidy ..) fun _ => .bind .modC fun _ => .modify fun _ => countCtx_tidy ..

theorem fcmpInstr_tidy (z : FpSize) (ordered : Bool) (m : BitVec 3) (d : BitVec 22) (c : CtxId) :
    TidyRun s₀ (fcmpInstr z ordered m d c) := by
  unfold fcmpInstr
  refine .bind (readPair_tidy (hx := .pure _) ..) fun _ => .bind (postIncrement_tidy ..) fun _ => ?_
  exact .bind .modC fun _ => .modify fun _ => countCtx_tidy ..

theorem fop1Instr_tidy (accepts : Tag → Bool) (rz : Bool) (f : FpRound → W64 → W64 × FpFlags) (t : Tag) (r : BitVec 21) (c : CtxId) :
    TidyRun s₀ (fop1Instr accepts rz f t r c) := by
  unfold fop1Instr
  refine .bind (.needDef _) fun _ => .bind .getC fun _ => .when (.tagFault _) fun _ => ?_
  split
  exact .bind .modC fun _ => .modify fun _ => countCtx_tidy ..

theorem fsqrtInstr_tidy (z : FpSize) (r : BitVec 21) (c : CtxId) : TidyRun s₀ (fsqrtInstr z r c) := fop1Instr_tidy ..

theorem fromIntInstr_tidy (z : FpSize) (signed : Bool) (r : BitVec 21) (c : CtxId) : TidyRun s₀ (fromIntInstr z signed r c) :=
  fop1Instr_tidy ..

theorem toIntInstr_tidy (z : FpSize) (signed : Bool) (r : BitVec 21) (c : CtxId) : TidyRun s₀ (toIntInstr z signed r c) := fop1Instr_tidy ..

theorem fcvtInstr_tidy (x z : FpSize) (r : BitVec 21) (c : CtxId) : TidyRun s₀ (fcvtInstr x z r c) := fop1Instr_tidy ..

/-! Requests from the mesh -/

theorem answerIo_tidy (sts : BitVec 2) (opc : IoOpc) (q : IoReq) (w : TWord) (s : State) : Tidy s (answerIo sts opc q w s) :=
  .after (countEvent_eq ..).tidy (sendIoResp_tidy ..)

theorem serveRead_tidy (q : IoReq) (s : State) : Tidy s (serveRead q s) := by
  unfold serveRead
  refine .ite (answerIo_tidy ..) ?_
  split
  · exact answerIo_tidy ..
  · split
    · exact answerIo_tidy ..
    · next h => exact .after (answerIo_tidy ..) (workRead_tidy h)

theorem serveWrite_tidy (q : IoReq) (v : TWord) (s : State) : Tidy s (serveWrite q v s) := by
  unfold serveWrite
  refine .ite (.after (answerIo_tidy ..) (.after (countEvent_eq ..).tidy (ipiArrive_tidy ..))) ?_
  split
  · exact answerIo_tidy ..
  · split
    · exact answerIo_tidy ..
    · next h => exact .after (answerIo_tidy ..) (workWrite_tidy h)

theorem serveClaim_tidy (q : IoReq) (s : State) : Tidy s (serveClaim q s) := by
  unfold serveClaim
  split
  · next w _ => exact .after (answerIo_tidy ..) (.after (countEvent_eq ..).tidy (claimOp_tidy w s))
  · exact answerIo_tidy ..

theorem serveComplete_tidy (q : IoReq) (v : TWord) (s : State) : Tidy s (serveComplete q v s) := by
  unfold serveComplete
  split
  · exact .after (answerIo_tidy ..) (.ite (completeOp_tidy ..) (.after (countEvent_eq ..).tidy (completeOp_tidy ..)))
  · exact answerIo_tidy ..

theorem postWords_tidy (tags : Bool) (ws : List TWord) (i : Nat) (s : State) : Tidy s (postWords tags ws i s) := by
  induction ws generalizing i s with
  | nil => exact .refl s
  | cons w ws ih =>
    unfold postWords
    exact (spadPut_tidy ..).trans (ih _ _)

theorem acceptPost_tidy (h : PostHdr) (ws : List TWord) (s : State) : Tidy s (acceptPost h ws s) := by
  unfold acceptPost
  split
  next a z _ =>
  extract_lets t v _ u met w
  have ht : Tidy s t := .after (.foldl _ (fun _ _ => (hitWatch_background ..).tidy) _ _) (postWords_tidy ..)
  have hu : Tidy s u := ht.trans (.of_eq rfl rfl)
  have hw : Tidy u w := by
    refine .foldl _ (fun x c => ?_) _ u
    exact .ite (modCtx_tidy ..) (.refl x)
  exact .after (countEvent_eq ..).tidy (.after (settle_tidy ..) (hu.trans hw))

theorem dropPost_tidy (s : State) : Tidy s (dropPost s) := .after (countEvent_eq ..).tidy (.of_eq rfl rfl)

/-! Packets in -/

theorem snoopResp_tidy (opc : BitVec 4) (q : Snoop) (s : State) : Tidy s (snoopResp opc q s) := (sendPacket_background ..).tidy

theorem snoopDirty_tidy (q : Snoop) (d : Line) (s : State) : Tidy s (snoopDirty q d s) :=
  .after (sendPacket_background ..).tidy (snoopResp_tidy ..)

theorem snoopCache_tidy (q : Snoop) (c : CacheId) (s : State) : Tidy s (snoopCache q c s) := by
  unfold snoopCache
  split
  · exact .refl _
  · exact .ite (cacheDel_background ..).tidy (cachePut_background ..).tidy

theorem snoopWatch_tidy (q : Snoop) (s : State) : Tidy s (snoopWatch q s) :=
  .ite (.after (hitWatch_background ..).tidy (lineGone_background ..).tidy) (.refl _)

theorem snoopMeets_tidy (n : Nat) (s : State) : Tidy s (snoopMeets n s) :=
  .after (meetLine_background ..).tidy (meetLine_background ..).tidy

theorem answerSnoop_tidy (q : Snoop) (s0 : State) : Tidy s0 (answerSnoop q s0) := by
  unfold answerSnoop
  extract_lets
  split
  · refine .ite ?_ ?_
    · exact .after (snoopResp_tidy ..) (.after (snoopWatch_tidy ..) (snoopMeets_tidy ..))
    · refine .after (snoopDirty_tidy ..) ?_
      exact .after (snoopWatch_tidy ..) (.after (retryHeld_background ..).tidy (.trans (snoopMeets_tidy ..) (.of_eq rfl rfl)))
  · split
    · refine .ite ?_ ?_
      · refine .after (snoopDirty_tidy ..) ?_
        refine .after (snoopWatch_tidy ..) ?_
        exact .trans (.after (snoopCache_tidy ..) (.after (snoopCache_tidy ..) (snoopMeets_tidy ..))) (.of_eq rfl rfl)
      · refine .ite ?_ ?_
        · refine .after (snoopResp_tidy ..) ?_
          refine .after (snoopWatch_tidy ..) ?_
          exact .trans (.after (snoopCache_tidy ..) (.after (snoopCache_tidy ..) (snoopMeets_tidy ..))) (.of_eq rfl rfl)
        · refine .after (snoopResp_tidy ..) ?_
          refine .after (snoopWatch_tidy ..) ?_
          exact .trans (.after (snoopCache_tidy ..) (.after (snoopCache_tidy ..) (snoopMeets_tidy ..))) (.of_eq rfl rfl)
    · refine .ite ?_ ?_
      · exact .after (snoopResp_tidy ..) (.after (snoopWatch_tidy ..) (.trans (snoopMeets_tidy ..) (.of_eq rfl rfl)))
      · exact .after (snoopResp_tidy ..) (.after (snoopWatch_tidy ..) (snoopMeets_tidy ..))

theorem takeSnoop_tidy (q : Snoop) (s : State) : Tidy s (takeSnoop q s) := by
  unfold takeSnoop
  refine .ite (snoopResp_tidy ..) ?_
  refine .ite (.trans (countEvent_eq ..).tidy (.of_eq rfl rfl)) ?_
  exact .after (drainStep_background ..).tidy (.after (answerSnoop_tidy ..) (countEvent_eq ..).tidy)

theorem wakeSnoops_tidy (n : Nat) (s : State) : Tidy s (wakeSnoops n s) :=
  .ite (.refl _) (.after (.foldl _ (fun _ _ => answerSnoop_tidy ..) _ _) (.of_eq rfl rfl))

theorem dataArrives_tidy (excl : Bool) (txid : BitVec 8) (d : Line) (s : State) : Tidy s (dataArrives excl txid d s) := by
  unfold dataArrives
  split
  · exact .refl _
  · extract_lets
    split
    · exact .after (wakeSnoops_tidy ..) (.after (placeFill_background ..).tidy (.of_eq rfl rfl))
    · exact .after (wakeSnoops_tidy ..) (.after (placeFill_background ..).tidy (.of_eq rfl rfl))
    · exact .after (noteFill_background ..).tidy (.of_eq rfl rfl)
    · exact .after (noteFill_background ..).tidy (.of_eq rfl rfl)
    · exact .refl _

theorem promoted_tidy (n : Nat) (s : State) : Tidy s (promoted n s) := by
  unfold promoted
  extract_lets up
  have hup (c t) : Tidy t (up c t) := by
    unfold up
    split
    · exact .ite (cachePut_background ..).tidy (.refl t)
    · exact .refl t
  exact (hup ..).trans (hup ..)

theorem freeEntry_tidy (n : Nat) (s : State) : Tidy s (freeEntry n s) := .ite (.refl _) (.of_eq rfl rfl)

theorem storeDone_tidy (r : Req) (s : State) : Tidy s (storeDone r s) := by
  unfold storeDone
  split
  · exact (countEvent_eq ..).tidy
  · exact .refl _

theorem acknowledged_tidy (r : Req) (s : State) : Tidy s (acknowledged r s) := by
  unfold acknowledged
  extract_lets
  split
  · exact .after (promoted_tidy ..) (.of_eq rfl rfl)
  · exact .after (drainStep_background ..).tidy (.after (retryHeld_background ..).tidy (.after (freeEntry_tidy ..) (.of_eq rfl rfl)))
  · exact .after (noteFences_background ..).tidy (.after (storeDone_tidy ..) (.of_eq rfl rfl))

/-! Tile registers -/

theorem meetTile_tidy (str : BitVec 3) (p : Nat → Bool) (s : State) : Tidy s (meetTile str p s) := by
  have hclear : Tidy s { s with tile := s.tile.clearErrs str p } := .of_eq rfl rfl
  unfold meetTile
  refine hclear.trans (.foldl _ (fun t e => ?_) _ _)
  extract_lets u
  have hu : Tidy t u := (countError_background ..).tidy
  exact .ite (hu.trans (.of_eq rfl rfl)) hu

theorem meetReg_tidy (n : Nat) (pair : Bool) (a b : Nat) (s : State) : Tidy s (meetReg n pair a b s) := meetTile_tidy ..

theorem meetLrow_tidy (v : Stream) (mx6 : Bool) (n r : Nat) (s : State) : Tidy s (meetLrow v mx6 n r s) := meetReg_tidy ..

theorem meetFold_tidy (v : Stream) (i m : Nat) (s : State) : Tidy s (meetFold v i m s) := meetTile_tidy ..

theorem meetLatch_tidy (l : Latch) (s : State) : Tidy s (meetLatch l s) := meetTile_tidy ..

theorem unveil_tidy (s : State) (t : Tile) : Tidy s (unveil s t) := .ite (.of_eq rfl rfl) (.of_eq rfl rfl)

theorem modTile_tidy (f : Tile → Tile) : TidyRun s₀ (modTile f) := .modify fun _ => unveil_tidy ..

theorem readTile_tidy : TidyRun s₀ readTile := .get_bind fun _ hs => .bind (.set (hs.trans (unveil_tidy ..))) fun _ => .pure _

/-! The Mover -/

theorem mvReadDs_tidy (u : ChUser) (stream : Bool) (ps : List (W64 × Phys)) (a : W64) (n : Nat) :
    TidyRun s₀ (mvReadDs u stream ps a n) := by
  induction n generalizing a with
  | zero => exact .pure _
  | succ n ih =>
    unfold mvReadDs
    refine .bind (chRead_tidy ..) fun _ => ?_
    split
    refine .ite (.pure _) (.bind (ih _) fun _ => ?_)
    split
    · exact .pure _
    · exact .get_bind fun _ _ => .pure _

theorem mvReadSp_tidy (u : ChUser) (i n : Nat) : TidyRun s₀ (mvReadSp u i n) := by
  induction n generalizing i with
  | zero => exact .pure _
  | succ n ih =>
    unfold mvReadSp
    exact .bind (spadRead_tidy ..) fun _ => .bind (ih _) fun _ => .pure _

theorem mvWriteSp_tidy (ws : List TWord) (i : Nat) (s : State) : Tidy s (mvWriteSp ws i s) := by
  induction ws generalizing i s with
  | nil => exact .refl s
  | cons w ws ih =>
    unfold mvWriteSp
    exact .trans (.after (hitWatch_background ..).tidy (spadPut_tidy ..)) (ih _ _)

theorem mvPrepDs_tidy (u : ChUser) (l : List (W64 × PAddr × List TWord)) : TidyRun s₀ (mvPrepDs u l) := by
  induction l with
  | nil => exact .pure _
  | cons e rest ih =>
    unfold mvPrepDs
    extract_lets prepared
    have hprepared (path) : TidyRun s₀ (prepared path) := .bind ih fun _ => .pure _
    exact .ite (.bind (.pure _) fun _ => hprepared _) (.bind (prepBulkLine_tidy ..) fun _ => hprepared _)

theorem mvPathsOk_tidy (parts : List (PAddr × List TWord × WPath)) : TidyRun s₀ (mvPathsOk parts) := .get_bind fun _ _ => .pure _

theorem mvCommitDs_tidy (u : ChUser) (parts : List (PAddr × List TWord × WPath)) (s : State) : Tidy s (mvCommitDs u parts s) := by
  unfold mvCommitDs
  refine .foldl _ (fun _ _ => ?_) _ _
  split
  exact commitLine_tidy ..

theorem mvSource_tidy (u : ChUser) (m : MoverCh) (b : MvBlock) (ps : List (W64 × Phys)) : TidyRun s₀ (mvSource u m b ps) := by
  unfold mvSource
  refine .ite (mvReadDs_tidy ..) ?_
  refine .ite (.bind (mvReadSp_tidy ..) fun _ => .pure _) ?_
  exact .bind (.modify fun _ => meetReg_tidy ..) fun _ => .get_bind fun _ _ => .pure _

theorem mvCheck_tidy (u : ChUser) (k : AccKind) (e : EndPoint) (b : MvBlock) : TidyRun s₀ (mvCheck u k e b) :=
  .ite (chCheck_tidy ..) (.pure _)

theorem mvDest_tidy (u : ChUser) (m : MoverCh) (b : MvBlock) (ps : List (W64 × Phys)) (ws : List TWord) :
    TidyRun s₀ (mvDest u m b ps ws) := by
  unfold mvDest
  refine .ite ?_ ?_
  · exact .bind (mvPrepDs_tidy ..) fun _ => .bind (mvPathsOk_tidy ..) fun _ => .when .wait fun _ => .modify fun _ => mvCommitDs_tidy ..
  · exact .ite (.modify fun _ => mvWriteSp_tidy ..) (.modify fun _ => .of_eq rfl rfl)

theorem mvBlock_tidy (u : ChUser) (m : MoverCh) : TidyRun s₀ (mvBlock u m) := by
  unfold mvBlock
  refine .bind (mvCheck_tidy ..) fun _ => ?_
  split
  · exact .pure _
  · refine .bind (mvSource_tidy ..) fun _ => ?_
    split
    · exact .pure _
    · refine .bind (mvCheck_tidy ..) fun _ => ?_
      split
      · exact .pure _
      · refine .get_bind fun _ _ => ?_
        split
        · exact .pure _
        · exact .bind (mvDest_tidy ..) fun _ => .pure _

theorem mvRun_tidy (ch : BitVec 3) (m : MoverCh) (g : Regime) (s : State) : Tidy s (mvRun ch m g s) := by
  have hrun := mvBlock_tidy (s₀ := s) (mvUser ch m g) m
  have hback {t : State} (h : Tidy s t) : Tidy s { rollback s t with tile := t.tile } :=
    (rollback_tidy h.form).trans (.of_eq rfl rfl)
  unfold mvRun
  split
  · next t h => exact hback (hrun.of_error h)
  · next t h =>
    refine .after (moverLeave_tidy ..) (.after (noteForged_background ..).tidy ?_)
    exact .after (dropChFills_background ..).tidy (hback (hrun.of_ok h))
  · next t h =>
    extract_lets u
    have hu : Tidy s u := .after (countEvent_eq ..).tidy (.after (dropChFills_background ..).tidy (hrun.of_ok h))
    exact .ite (.after (moverLeave_tidy ..) hu) (hu.trans (.of_eq rfl rfl))

/-! Pins -/

theorem paceLines_tidy (s : State) : Tidy s (paceLines s) := .ite (.refl _) (.of_eq rfl rfl)

theorem stallRestart_tidy (src : BitVec 2) (s : State) : Tidy s (stallRestart src s) := by
  unfold stallRestart
  split <;> exact .of_eq rfl rfl

theorem traceDone_tidy (s : State) : Tidy s (traceDone s) := by
  unfold traceDone
  refine .ite (.refl _) ?_
  extract_lets
  split
  exact .ite (.after (traceFull_tidy ..) (.of_eq rfl rfl)) (.of_eq rfl rfl)

theorem traceSend_tidy (s : State) : Tidy s (traceSend s) := by
  unfold traceSend
  extract_lets
  split
  · exact .refl _
  · refine .ite (.refl _) ?_
    extract_lets
    split
    exact .after (hitWatch_background ..).tidy (.after (sendWrite_background ..).tidy (.of_eq rfl rfl))

theorem copyStart_tidy (s : State) : Tidy s (copyStart s) := by
  unfold copyStart
  extract_lets
  split
  · exact .refl _
  · refine .ite (.refl _) ?_
    refine .ite (.of_eq rfl rfl) ?_
    split
    · exact .of_eq rfl rfl
    · exact .after (sendLines_tidy ..) (.after (sendLines_tidy ..) (.of_eq rfl rfl))

/-! Posts -/

theorem loadWords_tidy (c : CtxId) (a : W64) (n : Nat) : TidyRun s₀ (loadWords c a n) := by
  induction n generalizing a with
  | zero => exact .pure _
  | succ n ih =>
    unfold loadWords
    exact .bind (loadAt_tidy ..) fun _ => .bind (ih _) fun _ => .pure _

theorem postInstr_tidy (r : BitVec 21) (c : CtxId) : TidyRun s₀ (postInstr r c) := by
  unfold postInstr
  refine .bind (.needDef _) fun _ => ?_
  refine .get_bind fun _ _ => ?_
  refine .when (.tagFault _) fun _ => ?_
  refine .when (.tagFault _) fun _ => ?_
  refine .when .ioProtection fun _ => ?_
  refine .bind (needIo_tidy ..) fun _ => ?_
  refine .bind (needCanonical_tidy ..) fun _ => ?_
  refine .bind (needAligned_tidy ..) fun _ => ?_
  refine .when .misaligned fun _ => ?_
  refine .bind (needDdc_tidy ..) fun _ => ?_
  refine .get_bind fun _ _ => ?_
  refine .bind (translateWords_tidy ..) fun _ => ?_
  split
  · exact raiseX_tidy ..
  · refine .bind (loadWords_tidy ..) fun _ => ?_
    exact .bind (needLane_tidy ..) fun _ => .modify fun _ => .after (sendPacket_background ..).tidy (.of_eq rfl rfl)

theorem markInstr_tidy (r : BitVec 21) (c : CtxId) : TidyRun s₀ (markInstr r c) := by
  unfold markInstr
  refine .bind (.needDef _) fun _ => .bind .getC fun _ => .when (.tagFault _) fun _ => .bind .modC fun _ => ?_
  exact .modify fun _ => traceCtx_tidy ..

theorem trecInstr_tidy (r : BitVec 21) (c : CtxId) : TidyRun s₀ (trecInstr r c) := by
  unfold trecInstr
  refine .bind (.needDef _) fun _ => .get_bind fun _ _ => .bind (.needPriv _) fun _ => .when (.tagFault _) fun _ => ?_
  exact .when (.tagFault _) fun _ => .modify fun _ => traceCtx_tidy ..

theorem xsnapInstr_tidy (r : BitVec 21) (c : CtxId) : TidyRun s₀ (xsnapInstr r c) := by
  unfold xsnapInstr
  refine .bind (.needDef _) fun _ => .bind .getC fun _ => .bind (.needPriv _) fun _ => ?_
  exact .modify fun _ => .ite (snapTrigger_tidy ..) (.refl _)

theorem freezeInstr_tidy (r : BitVec 21) (c : CtxId) : TidyRun s₀ (freezeInstr r c) :=
  .bind (.needDef _) fun _ => .bind .getC fun _ => .bind (.needPriv _) fun _ => .modify fun _ => freezeTrigger_tidy ..

/-! Tile memory -/

theorem translatePages_tidy (c : CtxId) (k : AccKind) (vs : List W64) : TidyRun s₀ (translatePages c k vs) := by
  induction vs with
  | nil => exact .pure _
  | cons v vs ih =>
    unfold translatePages
    exact .bind (translateCtx_tidy ..) fun _ => .bind ih fun _ => .pure _

theorem translateFeet_tidy (c : CtxId) (fs : List Foot) : TidyRun s₀ (translateFeet c fs) := by
  induction fs with
  | nil => exact .pure _
  | cons f fs ih =>
    unfold translateFeet
    exact .bind (translatePages_tidy ..) fun _ => .bind ih fun _ => .pure _

theorem rowCheck_tidy (c : CtxId) (fs : List Foot) : TidyRun s₀ (rowCheck c fs) := by
  unfold rowCheck
  refine .bind (.forIn fun _ _ => .bind (.forIn fun _ _ => .bind (needCanonical_tidy ..) fun _ => .pure _) fun _ => .pure _) fun _ => ?_
  refine .bind (.forIn fun _ _ => .bind (needDdc_tidy ..) fun _ => .pure _) fun _ => .bind (translateFeet_tidy ..) fun _ => ?_
  exact .when (.raise _ _) fun _ => .pure _

theorem spadLine_tidy (i n : Nat) : TidyRun s₀ (spadLine i n) := by
  induction n generalizing i with
  | zero => exact .pure _
  | succ n ih =>
    unfold spadLine
    exact .bind (spadRead_tidy ..) fun _ => .bind (ih _) fun _ => .pure _

theorem soft_tidy {α : Type} {m : M α} (hm : TidyRun s₀ m) : TidyRun s₀ (soft m) := by
  refine ⟨fun s hs => ?_⟩
  have h := hm.carries s hs
  unfold soft
  cases e : m s with
  | ok a t => rw [e] at h; exact h
  | error x t =>
    rw [e] at h
    cases x <;> exact h

theorem readPiece_tidy (c : CtxId) (stream : Bool) (ps : List (W64 × Phys)) (v : W64) (k : Nat) :
    TidyRun s₀ (readPiece c stream ps v k) := by
  unfold readPiece
  refine .ite (.bind (spadLine_tidy ..) fun _ => .pure _) (.bind (soft_tidy (readLine_tidy ..)) fun _ => ?_)
  split <;> exact .pure _

theorem readPieces_tidy (c : CtxId) (stream : Bool) (ps : List (W64 × Phys)) (l : List (W64 × Nat × Nat)) :
    TidyRun s₀ (readPieces c stream ps l) := by
  induction l with
  | nil => exact .pure _
  | cons e rest ih =>
    unfold readPieces
    exact .bind (readPiece_tidy ..) fun _ => .bind ih fun _ => .pure _

theorem readFoot_tidy (c : CtxId) (tmp : Bool) (e : Foot × List (W64 × Phys)) : TidyRun s₀ (readFoot c tmp e) := by
  unfold readFoot
  refine .bind (readPieces_tidy ..) fun _ => .when .wait fun _ => ?_
  refine .bind ?_ fun _ => ?_
  · refine .forIn fun _ _ => ?_
    split
    · exact .bind (.modify fun _ => (machineCheck_background ..).tidy) fun _ => .pure _
    · exact .pure _
  · exact .pure _

theorem prepPieces_tidy (c : CtxId) (ps : List (W64 × Phys)) (x : Nat) (l : List (W64 × Nat × Nat)) :
    TidyRun s₀ (prepPieces c ps x l) := by
  induction l with
  | nil => exact .pure _
  | cons e rest ih =>
    unfold prepPieces
    extract_lets pa b _ prepared
    have hprepared (path) : TidyRun s₀ (prepared path) := .bind ih fun _ => .pure _
    exact .ite (.bind (.pure _) fun _ => hprepared _) (.bind (prepBulkLine_tidy ..) fun _ => hprepared _)

theorem commitPiece_tidy (c : CtxId) (p : PiecePath) (s : State) : Tidy s (commitPiece c p s) :=
  .trans (commitLine_tidy ..) (.of_eq rfl rfl)

theorem prepFoot_tidy (c : CtxId) (e : Foot × List (W64 × Phys)) (x : Nat) : TidyRun s₀ (prepFoot c e x) :=
  .bind (prepPieces_tidy ..) fun _ => .get_bind fun _ _ => .when .wait fun _ => .pure _

theorem commitFoot_tidy (c : CtxId) (qs : List PiecePath) : TidyRun s₀ (commitFoot c qs) :=
  .modify fun _ => .foldl _ (fun _ _ => commitPiece_tidy ..) _ _

theorem needTile_tidy (ok : Bool) : TidyRun s₀ (needTile ok) := .get_bind fun _ _ => .needDef _

theorem needTwin_tidy (twin : Bool) : TidyRun s₀ (needTwin twin) := .get_bind fun _ _ => .needDef _

theorem tileGate_tidy (c : CtxId) (w : W32) (q : BitVec 2) (free : Bool) : TidyRun s₀ (tileGate c w q free) := by
  unfold tileGate
  refine .get_bind fun _ _ => ?_
  refine .when (tileTrap_tidy ..) fun _ => ?_
  refine .when .wait fun _ => ?_
  refine .when (tileTrap_tidy ..) fun _ => ?_
  refine .when (tileTrap_tidy ..) fun _ => ?_
  refine .when .wait fun _ => ?_
  extract_lets next
  have hnext (u) : TidyRun s₀ (next u) := .pure _
  split
  · exact .ite (.pure _) (hnext ())
  · exact hnext ()

theorem commitJob_tidy (job : Option TileJob) (c : CtxId) : TidyRun s₀ (commitJob job c) :=
  .bind (.modify fun _ => .after (countCtx_tidy ..) (.of_eq rfl rfl)) fun _ => .bind .modC fun _ => .pure _

theorem inTurn_tidy (before : List TileJob) (o : TileOp) {perform : Nat → Nat → RowPages → M Unit}
    (h : ∀ p r row, TidyRun s₀ (perform p r row)) (p r : Nat) (row : RowPages) : TidyRun s₀ (inTurn before o perform p r row) :=
  .when .wait fun _ => h ..

theorem commitTile_tidy (c : CtxId) (w : W32) (q : BitVec 2) (queued : Bool) : TidyRun s₀ (commitTile c w q queued) :=
  .bind .getC fun _ => .bind (.modify fun _ => .of_eq rfl rfl) fun _ => commitJob_tidy ..

theorem tileWhole_tidy (o : TileOp) (x : TilePart) {eff : Nat → Nat → M Unit} (h : ∀ p r, TidyRun s₀ (eff p r)) :
    TidyRun s₀ (tileWhole o x eff) := by
  unfold tileWhole
  refine .get_bind fun _ _ => .ite ?_ (.bind (h _ _) fun _ => commitTile_tidy ..)
  exact .bind (.modify fun _ => .of_eq rfl rfl) fun _ => commitJob_tidy ..

theorem performRows_tidy {perform : Nat → Nat → RowPages → M Unit} (h : ∀ p r row, TidyRun s₀ (perform p r row)) (p r : Nat)
    (rows : List RowPages) : TidyRun s₀ (performRows perform p r rows) := by
  induction rows generalizing r with
  | nil => exact .pure _
  | cons row rest ih =>
    unfold performRows
    refine .bind (soft_tidy (h ..)) fun _ => ?_
    split
    · exact .pure _
    · exact ih _

theorem rowLoop_tidy (c : CtxId) {k : RowWork} (h : RowTidy s₀ k) (fuel : Nat) (x : TilePart) : TidyRun s₀ (rowLoop c k fuel x) := by
  induction fuel generalizing x with
  | zero => exact .pure _
  | succ fuel ih =>
    unfold rowLoop
    refine .bind (performRows_tidy h.perform ..) fun _ => ?_
    split
    extract_lets y next last
    refine .ite (.pure _) (.ite (.ite (ih _) (.pure _)) (.get_bind fun _ _ => .ite (.pure _) ⟨fun s hs => ?_⟩))
    have hs := (h.check y.pass next).carries s hs
    cases e : k.check y.pass next s with
    | ok row t => rw [e] at hs; exact (ih _).carries t hs
    | error stop t =>
      rw [e] at hs
      cases stop <;> exact hs

theorem tileRows_tidy (o : TileOp) (x : TilePart) {k : RowWork} (h : RowTidy s₀ k) : TidyRun s₀ (tileRows o x k) := by
  unfold tileRows
  refine .get_bind fun s _ => ?_
  have hturn : RowTidy s₀ { k with perform := inTurn s.tile.tileq o k.perform } := ⟨h.check, inTurn_tidy _ _ h.perform, h.finish⟩
  refine .bind (rowLoop_tidy _ hturn ..) fun _ => ?_
  split
  · exact .when h.finish fun _ => .bind (.modify fun _ => .ite (.of_eq rfl rfl) (.refl _)) fun _ => commitJob_tidy ..
  · exact .bind (.modify fun _ => .of_eq rfl rfl) fun _ => .pure _

theorem workJob_tidy (before : List TileJob) {perform : Nat → Nat → RowPages → M Unit} {finish : M Unit}
    (hp : ∀ p r row, TidyRun s₀ (perform p r row)) (hf : TidyRun s₀ finish) (j : TileJob) :
    TidyRun s₀ (workJob before perform finish j) := by
  unfold workJob
  refine .bind (performRows_tidy (inTurn_tidy _ _ hp) ..) fun _ => ?_
  split
  exact .when hf fun _ => .pure _

theorem needBases_tidy (c : CtxId) (align : Nat) (brs : List (BitVec 2)) : TidyRun s₀ (needBases c align brs) := by
  unfold needBases
  refine .bind .getC fun _ => .bind (.forIn fun _ _ => .ite (.bind (.tagFault _) fun _ => .pure _) (.pure _)) fun _ => ?_
  exact .bind (.forIn fun _ _ => .bind (needAligned_tidy ..) fun _ => .pure _) fun _ => .pure _

theorem needShape_tidy (ok : Bool) : TidyRun s₀ (needShape ok) := .ite (.pure _) (.raise _ _)

theorem needFold_tidy (n : BitVec 5) (twin : Bool) : TidyRun s₀ (needFold n twin) := .get_bind fun _ _ => .ite (.pure _) (.raise _ _)

/-! Tile shapes -/

theorem captureShape_tidy (n : BitVec 2) : TidyRun s₀ (captureShape n) := .get_bind fun _ _ => .when .wait fun _ => .pure _

theorem needTileShape_tidy (wordOk : Bool) (d : Shape) (ocv mma : Bool) : TidyRun s₀ (needTileShape wordOk d ocv mma) :=
  .get_bind fun _ _ => needTile_tidy ..

theorem needStream_tidy (q : BitVec 2) : TidyRun s₀ (needStream q) := .get_bind fun _ _ => .bind (needShape_tidy ..) fun _ => .pure _

/-! The tile array -/

theorem rowArgs_tidy (f : BitVec 25) (c : CtxId) (v : Stream) (d : Shape) (base base2 : W64) :
    TidyRun s₀ (rowArgs f c v d base base2) := .bind .getC fun _ => .pure _

theorem readPart_tidy (c : CtxId) (tmp : Bool) (row : RowPages) (i : Nat) : TidyRun s₀ (readPart c tmp row i) := by
  unfold readPart
  split
  · exact readFoot_tidy ..
  · exact .pure _

theorem prepPart_tidy (c : CtxId) (row : RowPages) (i x : Nat) : TidyRun s₀ (prepPart c row i x) := by
  unfold prepPart
  split
  · exact prepFoot_tidy ..
  · exact .pure _

theorem tldWork_tidy (g : RowArgs) : RowTidy s₀ (tldWork g) :=
  ⟨fun _ _ => rowCheck_tidy .., fun _ _ _ => .bind (readPart_tidy ..) fun _ => modTile_tidy .., .pure _⟩

theorem tldBody_tidy (f : BitVec 25) (c : CtxId) : TidyRun s₀ (tldBody f c) := by
  unfold tldBody
  refine .bind (captureShape_tidy ..) fun _ => .bind (needTileShape_tidy ..) fun _ => .bind (tileGate_tidy ..) fun _ => ?_
  refine .bind (needStream_tidy ..) fun _ => .bind (needShape_tidy ..) fun _ => .bind (needBases_tidy ..) fun _ => ?_
  exact .bind .getC fun _ => .bind (rowArgs_tidy ..) fun _ => tileRows_tidy _ _ (tldWork_tidy _)

theorem tstWork_tidy (g : RowArgs) : RowTidy s₀ (tstWork g) :=
  ⟨fun _ _ => rowCheck_tidy .., fun _ _ _ => .get_bind fun _ _ => .bind (prepPart_tidy ..) fun _ =>
    .bind (.modify fun _ => meetLrow_tidy ..) fun _ => .bind readTile_tidy fun _ => commitFoot_tidy .., .pure _⟩

theorem tstBody_tidy (f : BitVec 25) (c : CtxId) : TidyRun s₀ (tstBody f c) := by
  unfold tstBody
  refine .bind (captureShape_tidy ..) fun _ => .bind (needTileShape_tidy ..) fun _ => .bind (tileGate_tidy ..) fun _ => ?_
  refine .bind (needStream_tidy ..) fun _ => .bind (needShape_tidy ..) fun _ => .bind (needBases_tidy ..) fun _ => ?_
  exact .bind .getC fun _ => .bind (rowArgs_tidy ..) fun _ => tileRows_tidy _ _ (tstWork_tidy _)

theorem countArray_tidy (evt n : Nat) (v : Stream) (cause : Option (Bool × Bool)) (s : State) : Tidy s (countArray evt n v cause s) :=
  (countEvent_eq ..).tidy

theorem countRow_tidy (v : Stream) (cause : Option (Bool × Bool)) (n : Nat) (s : State) : Tidy s (countRow v cause n s) := by
  unfold countRow
  refine .ite (.refl _) ?_
  refine .after (countArray_tidy ..) ?_
  exact .after (countArray_tidy ..) (.after (countArray_tidy ..) (.after (countArray_tidy ..) (.of_eq rfl rfl)))

theorem meetB_tidy (g : MmaArgs) (s : State) : Tidy s (meetB g s) := by
  unfold meetB
  split
  · exact meetLatch_tidy ..
  · split <;> exact meetReg_tidy ..

theorem meetAcc_tidy (g : MmaArgs) (m : Nat) (s : State) : Tidy s (meetAcc g m s) :=
  .ite (.after (meetFold_tidy ..) (meetFold_tidy ..)) (meetFold_tidy ..)

theorem mmaRow_tidy (g : MmaArgs) (cause : Option (Bool × Bool)) (pass m : Nat) (a : LRow) : TidyRun s₀ (mmaRow g cause pass m a) := by
  unfold mmaRow
  refine .bind (.modify fun _ => .after (meetAcc_tidy ..) (meetB_tidy ..)) fun _ => .get_bind fun _ _ => ?_
  refine .bind (readTile_tidy ..) fun _ => ?_
  refine .ite ?_ ?_
  · extract_lets
    split
    exact .modify fun _ => .after (countRow_tidy ..) (.of_eq rfl rfl)
  · extract_lets
    split
    exact .modify fun _ => .after (countRow_tidy ..) (.of_eq rfl rfl)

theorem mmaLatch_tidy (g : MmaArgs) (keep : Bool) (cause : Option (Bool × Bool)) : TidyRun s₀ (mmaLatch g keep cause) := by
  unfold mmaLatch
  refine .modify fun _ => ?_
  split
  exact .after (countArray_tidy ..) (.of_eq rfl rfl)

theorem tmmaEff_tidy (g : RowArgs) (pass row : Nat) : TidyRun s₀ (tmmaEff g pass row) := by
  unfold tmmaEff
  refine .bind (.forIn fun _ _ => ?_) fun _ => mmaLatch_tidy ..
  exact .bind (.modify fun _ => meetLrow_tidy ..) fun _ => .bind readTile_tidy fun _ => .bind (mmaRow_tidy ..) fun _ => .pure _

theorem tmmaWork_tidy (g : RowArgs) : RowTidy s₀ (tmmaWork g) :=
  ⟨fun _ _ => rowCheck_tidy .., fun _ _ _ => .bind (readPart_tidy ..) fun _ => mmaRow_tidy .., mmaLatch_tidy ..⟩

theorem tmmaBody_tidy (f : BitVec 25) (c : CtxId) : TidyRun s₀ (tmmaBody f c) := by
  unfold tmmaBody
  refine .bind (captureShape_tidy ..) fun _ => .bind (needTileShape_tidy ..) fun _ => .bind (needTwin_tidy ..) fun _ => ?_
  refine .bind (tileGate_tidy ..) fun _ => .bind (needStream_tidy ..) fun _ => .bind (needShape_tidy ..) fun _ => ?_
  refine .bind (needFold_tidy ..) fun _ => .ite ?_ (.bind (rowArgs_tidy ..) fun _ => tileWhole_tidy _ _ (tmmaEff_tidy _))
  exact .bind (needBases_tidy ..) fun _ => .bind .getC fun _ => .bind (rowArgs_tidy ..) fun _ => tileRows_tidy _ _ (tmmaWork_tidy _)

theorem tmovaEff_tidy (g : RowArgs) (pass row : Nat) : TidyRun s₀ (tmovaEff g pass row) :=
  .bind (.modify fun _ => .foldl _ (fun _ _ => .ite (meetLrow_tidy ..) (meetFold_tidy ..)) _ _) fun _ => modTile_tidy ..

theorem tmovaBody_tidy (f : BitVec 25) (c : CtxId) : TidyRun s₀ (tmovaBody f c) := by
  unfold tmovaBody
  refine .bind (captureShape_tidy ..) fun _ => .bind (needTileShape_tidy ..) fun _ => .bind (needTwin_tidy ..) fun _ => ?_
  refine .bind (tileGate_tidy ..) fun _ => .bind (needStream_tidy ..) fun _ => .bind (needShape_tidy ..) fun _ => ?_
  exact .bind (needFold_tidy ..) fun _ => .bind (rowArgs_tidy ..) fun _ => tileWhole_tidy _ _ (tmovaEff_tidy _)

theorem RowArgs.meetAc_tidy (g : RowArgs) (r : Nat) (s : State) : Tidy s (RowArgs.meetAc g r s) :=
  .ite (.after (meetFold_tidy ..) (meetFold_tidy ..)) (meetFold_tidy ..)

theorem tldacWork_tidy (g : RowArgs) : RowTidy s₀ (tldacWork g) :=
  ⟨fun _ _ => rowCheck_tidy .., fun _ _ _ => .bind (readPart_tidy ..) fun _ => .when (.modify fun _ => RowArgs.meetAc_tidy ..) fun _ =>
    .get_bind fun _ _ => modTile_tidy .., .pure _⟩

theorem tldacBody_tidy (f : BitVec 25) (c : CtxId) : TidyRun s₀ (tldacBody f c) := by
  unfold tldacBody
  refine .bind (captureShape_tidy ..) fun _ => .bind (needTileShape_tidy ..) fun _ => .bind (needTwin_tidy ..) fun _ => ?_
  refine .bind (tileGate_tidy ..) fun _ => .bind (needStream_tidy ..) fun _ => .bind (needShape_tidy ..) fun _ => ?_
  refine .bind (needFold_tidy ..) fun _ => .bind (needBases_tidy ..) fun _ => .bind .getC fun _ => .bind (rowArgs_tidy ..) fun _ => ?_
  exact tileRows_tidy _ _ (tldacWork_tidy _)

theorem tstacWork_tidy (g : RowArgs) : RowTidy s₀ (tstacWork g) :=
  ⟨fun _ _ => rowCheck_tidy .., fun _ _ _ => .get_bind fun _ _ => .bind (prepPart_tidy ..) fun _ =>
    .bind (.modify fun _ => RowArgs.meetAc_tidy ..) fun _ => commitFoot_tidy .., .pure _⟩

theorem tstacBody_tidy (f : BitVec 25) (c : CtxId) : TidyRun s₀ (tstacBody f c) := by
  unfold tstacBody
  refine .bind (captureShape_tidy ..) fun _ => .bind (needTileShape_tidy ..) fun _ => .bind (needTwin_tidy ..) fun _ => ?_
  refine .bind (tileGate_tidy ..) fun _ => .bind (needStream_tidy ..) fun _ => .bind (needShape_tidy ..) fun _ => ?_
  refine .bind (needFold_tidy ..) fun _ => .bind (needBases_tidy ..) fun _ => .bind .getC fun _ => .bind (rowArgs_tidy ..) fun _ => ?_
  exact tileRows_tidy _ _ (tstacWork_tidy _)

theorem clearEff_tidy (g : RowArgs) : TidyRun s₀ (clearEff g) := modTile_tidy ..

theorem tzeroTBody_tidy (q : BitVec 2) (r : BitVec 21) (c : CtxId) : TidyRun s₀ (tzeroTBody q r c) := by
  unfold tzeroTBody
  refine .bind (needTile_tidy ..) fun _ => .bind (tileGate_tidy ..) fun _ => .bind (needStream_tidy ..) fun _ => ?_
  exact .bind (rowArgs_tidy ..) fun _ => tileWhole_tidy _ _ fun _ _ => clearEff_tidy _

theorem tzeroABody_tidy (q : BitVec 2) (r : BitVec 21) (c : CtxId) : TidyRun s₀ (tzeroABody q r c) := by
  unfold tzeroABody
  refine .bind (needTile_tidy ..) fun _ => .bind (needTwin_tidy ..) fun _ => .bind (tileGate_tidy ..) fun _ => ?_
  refine .bind (needStream_tidy ..) fun _ => .bind (needShape_tidy ..) fun _ => .bind (needFold_tidy ..) fun _ => ?_
  exact .bind (rowArgs_tidy ..) fun _ => tileWhole_tidy _ _ fun _ _ => clearEff_tidy _

theorem tclrABody_tidy (q : BitVec 2) (r : BitVec 21) (c : CtxId) : TidyRun s₀ (tclrABody q r c) := by
  unfold tclrABody
  refine .bind (needTile_tidy ..) fun _ => .bind (needTwin_tidy ..) fun _ => .bind (tileGate_tidy ..) fun _ => ?_
  refine .bind (needStream_tidy ..) fun _ => .bind (needFold_tidy ..) fun _ => ?_
  exact .bind (rowArgs_tidy ..) fun _ => tileWhole_tidy _ _ fun _ _ => clearEff_tidy _

theorem tkillBody_tidy (q : BitVec 2) (r : BitVec 21) (c : CtxId) : TidyRun s₀ (tkillBody q r c) :=
  .bind (needTile_tidy ..) fun _ => .bind (tileGate_tidy ..) fun _ => .bind (modTile_tidy ..) fun _ => commitTile_tidy ..

/-! Tile rows -/

theorem trowEff_tidy (g : RowArgs) (pass row : Nat) : TidyRun s₀ (trowEff g pass row) := by
  unfold trowEff
  extract_lets
  split
  refine .bind (.modify fun _ => .foldl _ (fun s r => ?_) _ _) fun _ => .get_bind fun _ _ => modTile_tidy ..
  extract_lets u u'
  have hu : Tidy s u := meetLrow_tidy ..
  have hu' : Tidy s u' := .ite hu (.after (meetLrow_tidy ..) hu)
  exact .ite (.after (meetLrow_tidy ..) hu') hu'

theorem trowBody_tidy (f : BitVec 25) (c : CtxId) : TidyRun s₀ (trowBody f c) := by
  unfold trowBody
  refine .bind (captureShape_tidy ..) fun _ => .bind (needTileShape_tidy ..) fun _ => .bind (tileGate_tidy ..) fun _ => ?_
  refine .bind (needStream_tidy ..) fun _ => .bind (needShape_tidy ..) fun _ => .bind (rowArgs_tidy ..) fun _ => ?_
  exact tileWhole_tidy _ _ (trowEff_tidy _)

theorem tcvtEff_tidy (g : RowArgs) (pass row : Nat) : TidyRun s₀ (tcvtEff g pass row) :=
  .bind (.modify fun _ => .foldl _ (fun _ _ => meetLrow_tidy ..) _ _) fun _ => .get_bind fun _ _ => modTile_tidy ..

theorem tcvtBody_tidy (f : BitVec 25) (c : CtxId) : TidyRun s₀ (tcvtBody f c) := by
  unfold tcvtBody
  refine .bind (captureShape_tidy ..) fun _ => .bind (needTileShape_tidy ..) fun _ => .bind (tileGate_tidy ..) fun _ => ?_
  refine .bind (needStream_tidy ..) fun _ => .bind (needShape_tidy ..) fun _ => .bind (rowArgs_tidy ..) fun _ => ?_
  exact tileWhole_tidy _ _ (tcvtEff_tidy _)

theorem tfnEff_tidy (g : RowArgs) (pass row : Nat) : TidyRun s₀ (tfnEff g pass row) :=
  .bind (.modify fun _ => .foldl _ (fun _ _ => meetLrow_tidy ..) _ _) fun _ => .get_bind fun _ _ => modTile_tidy ..

theorem tfnBody_tidy (f : BitVec 25) (c : CtxId) : TidyRun s₀ (tfnBody f c) := by
  unfold tfnBody
  refine .bind (captureShape_tidy ..) fun _ => .bind (needTileShape_tidy ..) fun _ => .bind (tileGate_tidy ..) fun _ => ?_
  refine .bind (needStream_tidy ..) fun _ => .bind (needShape_tidy ..) fun _ => .bind (rowArgs_tidy ..) fun _ => ?_
  exact tileWhole_tidy _ _ (tfnEff_tidy _)

theorem tredEff_tidy (g : RowArgs) (pass row : Nat) : TidyRun s₀ (tredEff g pass row) := by
  unfold tredEff
  extract_lets
  split
  refine .bind (.modify fun s => ?_) fun _ => .get_bind fun _ _ => modTile_tidy ..
  extract_lets t
  have ht : Tidy s t := .foldl _ (fun _ _ => .ite (.refl _) (meetLrow_tidy ..)) _ _
  exact .ite (.after (.foldl _ (fun _ _ => meetLrow_tidy ..) _ _) ht) ht

theorem tredBody_tidy (f : BitVec 25) (c : CtxId) : TidyRun s₀ (tredBody f c) := by
  unfold tredBody
  refine .bind (captureShape_tidy ..) fun _ => .bind (needTileShape_tidy ..) fun _ => .bind (tileGate_tidy ..) fun _ => ?_
  refine .bind (needStream_tidy ..) fun _ => .bind (needShape_tidy ..) fun _ => .bind (rowArgs_tidy ..) fun _ => ?_
  exact tileWhole_tidy _ _ (tredEff_tidy _)

theorem meetEpi_tidy (g : EpiArgs) (m : Nat) (s : State) : Tidy s (meetEpi g m s) := by
  unfold meetEpi
  refine .ite ?_ ?_
  · exact .after (meetReg_tidy ..) (.ite (.after (meetFold_tidy ..) (meetFold_tidy ..)) (meetFold_tidy ..))
  · exact .ite (.after (meetFold_tidy ..) (meetFold_tidy ..)) (meetFold_tidy ..)

theorem tepiWork_tidy (g : RowArgs) : RowTidy s₀ (tepiWork g) := by
  refine ⟨fun _ _ => rowCheck_tidy .., fun _ m row => ?_, .pure _⟩
  unfold tepiWork
  dsimp -zeta only
  extract_lets e write
  have hwrite (u) : TidyRun s₀ (write u) := by
    refine .get_bind fun _ _ => ?_
    refine .bind (prepPart_tidy ..) fun _ => .bind (.modify fun _ => meetEpi_tidy ..) fun _ => .bind readTile_tidy fun _ => ?_
    exact .bind (.modify fun _ => .of_eq rfl rfl) fun _ => commitFoot_tidy ..
  exact .ite (.bind (.pure _) fun _ => hwrite _) (.bind (readPart_tidy ..) fun _ => hwrite _)

theorem tepiBody_tidy (f : BitVec 25) (c : CtxId) : TidyRun s₀ (tepiBody f c) := by
  unfold tepiBody
  refine .bind (captureShape_tidy ..) fun _ => .bind (needTileShape_tidy ..) fun _ => .bind (needTwin_tidy ..) fun _ => ?_
  refine .bind (tileGate_tidy ..) fun _ => .bind (needStream_tidy ..) fun _ => .bind .getC fun _ => .bind (rowArgs_tidy ..) fun _ => ?_
  refine .bind (needShape_tidy ..) fun _ => .bind (needFold_tidy ..) fun _ => .bind (needBases_tidy ..) fun _ => ?_
  exact tileRows_tidy _ _ (tepiWork_tidy _)

/-! Tile save and restore -/

theorem meetBlock_tidy (i : Nat) (s : State) : Tidy s (meetBlock i s) :=
  .ite (.refl _) (.ite (.ite (meetReg_tidy ..) (meetReg_tidy ..)) (meetTile_tidy ..))

theorem saveWork_tidy (g : RowArgs) (n : Nat) : RowTidy s₀ { saveWork g with rows := n } :=
  ⟨fun _ _ => rowCheck_tidy .., fun _ _ _ => .get_bind fun _ _ => .bind (prepPart_tidy ..) fun _ =>
    .bind (.modify fun _ => meetBlock_tidy ..) fun _ => .bind readTile_tidy fun _ => commitFoot_tidy .., modTile_tidy ..⟩

theorem tsaveBody_tidy (q : BitVec 2) (r : BitVec 22) (c : CtxId) : TidyRun s₀ (tsaveBody q r c) := by
  unfold tsaveBody
  refine .bind (needTile_tidy ..) fun _ => .bind (tileGate_tidy ..) fun _ => .bind (needBases_tidy ..) fun _ => .bind .getC fun _ => ?_
  exact .bind (rowArgs_tidy ..) fun _ => .get_bind fun _ _ => tileRows_tidy _ _ (saveWork_tidy ..)

theorem restoreWork_tidy (g : RowArgs) (n : Nat) : RowTidy s₀ { restoreWork g with rows := n } :=
  ⟨fun _ _ => rowCheck_tidy .., fun _ _ _ => .bind (readPart_tidy ..) fun _ => .modify fun _ => .of_eq rfl rfl,
    .modify fun _ => .of_eq rfl rfl⟩

theorem trestoreBody_tidy (q : BitVec 2) (r : BitVec 22) (c : CtxId) : TidyRun s₀ (trestoreBody q r c) := by
  unfold trestoreBody
  refine .bind (needTile_tidy ..) fun _ => .bind (tileGate_tidy ..) fun _ => .bind (needBases_tidy ..) fun _ => .bind .getC fun _ => ?_
  refine .bind (rowArgs_tidy ..) fun _ => ?_
  extract_lets _ next
  have hnext (u) : TidyRun s₀ (next u) := .get_bind fun _ _ => tileRows_tidy _ _ (restoreWork_tidy ..)
  refine .ite (.bind (rowCheck_tidy ..) fun _ => .bind (readPart_tidy ..) fun _ => .bind (needShape_tidy ..) fun _ => ?_) (hnext ())
  exact .bind (.modify fun _ => .of_eq rfl rfl) fun _ => hnext ()

theorem tsdwBody_tidy (q : BitVec 2) (r : BitVec 21) (c : CtxId) : TidyRun s₀ (tsdwBody q r c) := by
  unfold tsdwBody
  refine .bind (needTile_tidy ..) fun _ => .bind (tileGate_tidy ..) fun _ => .bind .getC fun _ => .when (.tagFault _) fun _ => ?_
  exact .bind (modTile_tidy ..) fun _ => commitTile_tidy ..

theorem tsdrBody_tidy (q : BitVec 2) (r : BitVec 21) (c : CtxId) : TidyRun s₀ (tsdrBody q r c) :=
  .bind (needTile_tidy ..) fun _ => .bind (tileGate_tidy ..) fun _ => .get_bind fun _ _ => .bind .modC fun _ => commitTile_tidy ..

theorem tsyncBody_tidy (q : BitVec 2) (r : BitVec 21) (c : CtxId) : TidyRun s₀ (tsyncBody q r c) :=
  .bind (needTile_tidy ..) fun _ => .bind (tileGate_tidy ..) fun _ => .get_bind fun _ _ => .when .wait fun _ => commitTile_tidy ..

theorem dropTileFills_tidy (c : CtxId) (s : State) : Tidy s (dropTileFills c s) := .of_eq rfl rfl

theorem work_tidy (o : TileOp) : RowTidy s₀ o.work := by
  unfold TileOp.work
  extract_lets g
  split
  · exact tldWork_tidy g
  · exact tstWork_tidy g
  · split
    · exact tmmaWork_tidy g
    · exact wholeWork_tidy (tmmaEff_tidy g)
  · exact wholeWork_tidy (tmovaEff_tidy g)
  · exact tldacWork_tidy g
  · exact tstacWork_tidy g
  · exact wholeWork_tidy fun _ _ => clearEff_tidy g
  · exact wholeWork_tidy (trowEff_tidy g)
  · exact wholeWork_tidy (tcvtEff_tidy g)
  · exact wholeWork_tidy (tfnEff_tidy g)
  · exact wholeWork_tidy (tredEff_tidy g)
  · exact tepiWork_tidy g
  · split
    · exact restoreWork_tidy g _
    · exact saveWork_tidy g _

theorem workQueue_tidy (before todo : List TileJob) (s : State) : Tidy s (workQueue before todo s) := by
  induction todo generalizing before s with
  | nil => exact .refl s
  | cons j todo ih =>
    have hjob := workJob_tidy (s₀ := s) before (work_tidy j.op).perform (work_tidy j.op).finish j
    unfold workQueue
    refine .ite (ih ..) ?_
    split
    · next k t ht =>
      have hqueue : Tidy s (dropTileFills j.op.ctx { t with tile := { t.tile with tileq := before ++ k :: todo } }) :=
        .after (dropTileFills_tidy ..) ((hjob.of_ok ht).trans (.of_eq rfl rfl))
      exact .after (ih ..) (.after (accountChange_eq ..).tidy hqueue)
    · next t ht => exact (hjob.of_error ht).trans (ih ..)

/-! Ticks -/

theorem tickToll_tidy (s : State) : Tidy s (tickToll s) := .of_eq rfl rfl

theorem tickStall_tidy (s : State) : Tidy s (tickStall s) :=
  .trans (.after (cwOffer_tidy ..) (offerNext_background ..).tidy) (.of_eq rfl rfl)

theorem tickCount_tidy (s : State) : Tidy s (tickCount s) :=
  .trans (.ite (u := s) (t := addFc 1 1 s) (.of_eq rfl rfl) (.refl s)) (tickCount_background s).tidy

theorem refTick_tidy (s : State) : Tidy s (refTick s) := by
  unfold refTick
  extract_lets _ _ t
  have ht : Tidy s t := .of_eq rfl rfl
  exact .after (tickCount_tidy _) (.after (sampleAlarm_alarmed ..).tidy (.after (tickStall_tidy ..) (.after (tickToll_tidy ..) ht)))

theorem idleTick_tidy (s : State) : Tidy s (idleTick s) := by
  unfold idleTick
  refine .ite (.refl _) ?_
  refine .after (accountSteps_background ..).tidy ?_
  refine .after (tickCopro_background ..).tidy ?_
  exact .after (tickWayside_background ..).tidy (.ite (.after (refTick_tidy ..) (account_eq ..).tidy) (account_eq ..).tidy)

end

/-! ## What a command's meaning is -/

/-- The step that a command's meaning is, if it is one, is tidy. -/
def TidyOut (s : State) (o : Host.Outcome State Fault Refusal) : Prop := ∀ t, o = .next t → Tidy s t

section
variable {s t : State}

theorem TidyOut.next (h : Tidy s t) : TidyOut s (.next t) := by
  rintro _ ⟨⟩
  exact h

theorem TidyOut.refused (r : Refusal) : TidyOut s (.refused r) := by
  rintro _ ⟨⟩

theorem TidyOut.hold {body : CtxId → M Bool} (h : ∀ c s₀, TidyRun s₀ (body c)) (s : State) : TidyOut s (runHold body s) := by
  unfold runHold
  split
  · exact .next (.refl s)
  · exact .next (runBody_tidy true (fun s₀ c => h c s₀) ..)

theorem TidyOut.instr {body : CtxId → M Unit} (h : ∀ c s₀, TidyRun s₀ (body c)) (s : State) : TidyOut s (runInstr body s) := by
  unfold runInstr
  split
  · exact .next (.refl s)
  · exact .next (runBody_tidy true (fun s₀ c => .bind (h c s₀) fun _ => .pure _) ..)

theorem TidyOut.seq {body : CtxId → M Unit} (h : ∀ c s₀, TidyRun s₀ (body c)) (s : State) : TidyOut s (runSeq body s) :=
  .instr (fun c s₀ => .bind (h c s₀) fun _ => advance_tidy c) s

theorem TidyOut.ecc {body : CtxId → M Unit} (h : ∀ c s₀, TidyRun s₀ (body c)) (e : Option EccEvent) (s : State) :
    TidyOut s (runEcc e body s) := by
  unfold runEcc
  split
  · exact .next (.refl s)
  · next c _ => exact fun t ht => .trans (strike_tidy c e s) (TidyOut.seq h _ t ht)

end

section
variable {s₀ : State}

theorem dropFills_tidy (c : CtxId) (s : State) : Tidy s (dropFills c s) := .of_eq rfl rfl
theorem held_tidy (s : State) : Tidy s (held s) := .of_eq rfl rfl
theorem ackFence_tidy (s : State) : Tidy s (ackFence s) := .of_eq rfl rfl
theorem paceApply_tidy (s : State) : Tidy s (paceApply s) := .of_eq rfl rfl
theorem enterInit_tidy (s : State) : Tidy s (enterInit s) := .of_eq rfl rfl
theorem idlePorts_tidy (s : State) : Tidy s (idlePorts s) := .of_eq rfl rfl
theorem noticeArrive_tidy (p : CoreId) (w : BitVec 3) (c : CtxId) (s : State) : Tidy s (noticeArrive p w c s) := .of_eq rfl rfl
theorem endReq_tidy (r : Req) (s : State) : Tidy s (endReq r s) := .of_eq rfl rfl

theorem writeTo_tidy (p : BitVec 7 → Bool) (f : ChainFrame) (bc : Bool) (s : State) : TidyOut s (writeTo p f bc s) :=
  .next (.ite (writeFrame_tidy f bc s) (.refl s))

theorem execInterruptEntry_tidy (s : State) : TidyOut s (execInterruptEntry s) := by
  unfold execInterruptEntry
  split
  · exact .next (.refl s)
  · next c _ =>
    split
    · exact .next (.refl s)
    · split
      · exact .next (.refl s)
      · extract_lets k world r t
        have ht : Tidy s t := discard_tidy c s
        split
        · next u hu =>
          have hu : Tidy s u := ht.trans ((enter_tidy c r).of_ok hu)
          exact .next (.after (dropFills_tidy ..) (.after (accountChange_eq ..).tidy (.after (fireAlarm_alarmed ..).tidy hu)))
        · next u hu => exact .next (ht.trans (rollback_tidy ((enter_tidy c r).of_error hu).form))

theorem execFastInterruptEntry_tidy (s : State) : TidyOut s (execFastInterruptEntry s) := by
  unfold execFastInterruptEntry
  split
  · exact .next (.refl s)
  · next c _ =>
    split
    · exact .next (.refl s)
    · next v _ =>
      split
      · exact .next (.refl s)
      · extract_lets k world ecause t
        have ht : Tidy s t := .after (modCtx_tidy ..) (discard_tidy c s)
        refine .next (.after (dropFills_tidy ..) (.after (accountChange_eq ..).tidy (.after (entryRecords_tidy ..) ?_)))
        exact ht.trans (.of_eq rfl rfl)

theorem execDroverSwitch_tidy (s : State) : TidyOut s (execDroverSwitch s) := by
  unfold execDroverSwitch
  split
  · exact .next (.refl s)
  · split
    · split
      · exact .next (switchTo_tidy ..)
      · exact .next (.refl s)
    · split
      · split
        · exact .next (.refl s)
        · exact .next (switchTo_tidy ..)
      · exact .next (.refl s)

theorem execDroverQuantum_tidy (s : State) : TidyOut s (execDroverQuantum s) := by
  unfold execDroverQuantum
  split
  · exact .next (.refl s)
  · split
    · exact .next (.refl s)
    · split
      · split
        · exact .next (.refl s)
        · exact .next (switchTo_tidy ..)
      · exact .next (.refl s)

theorem execCpResult_tidy (tag : BitVec 3) (res : TWord) (bad : Bool) (code : BitVec 8) (s : State) :
    TidyOut s (execCpResult tag res bad code s) := by
  unfold execCpResult
  split
  · exact .next (.refl s)
  · split
    · exact .next (machineCheck_background ..).tidy
    · extract_lets k
      split
      · split
        · exact .next (cpTake_tidy ..)
        · exact .next (cpAnswered_tidy ..)
      · exact .next (cpAnswered_tidy ..)

theorem serve_tidy {f : State → State} (h : ∀ s, Tidy s (f s)) (s : State) : TidyOut s (serve f s) := .next (.ite (h s) (.refl s))

theorem execIpi_tidy (q : IoReq) (w : TWord) (s : State) : TidyOut s (execIpi q w s) := by
  unfold execIpi
  split
  · exact serve_tidy (serveWrite_tidy q w) s
  · exact .next (.refl s)

theorem execWcfgWrite_tidy (q : IoReq) (w : TWord) (s : State) : TidyOut s (execWcfgWrite q w s) := by
  unfold execWcfgWrite
  split
  · exact serve_tidy (serveWrite_tidy q w) s
  · exact .next (.refl s)

theorem execWsub_tidy (q : IoReq) (s : State) : TidyOut s (execWsub q s) := by
  unfold execWsub
  split
  · exact serve_tidy (serveRead_tidy q) s
  · exact .next (.refl s)

theorem execNotice_tidy (q : IoReq) (s : State) : TidyOut s (execNotice q s) := by
  refine serve_tidy (fun s => ?_) s
  have h : Tidy s { s with free := s.free + 1 } := .of_eq rfl rfl
  exact .after (answerIo_tidy ..) (.after (noticeArrive_tidy ..) h)

theorem execPostReceive_tidy (h : PostHdr) (ws : List TWord) (s : State) : TidyOut s (execPostReceive h ws s) := by
  unfold execPostReceive
  split
  · exact .refused _
  · split
    · exact .next (.refl s)
    · exact .next (.ite (acceptPost_tidy ..) (dropPost_tidy ..))

theorem execAck_tidy (txid : BitVec 8) (s : State) : TidyOut s (execAck txid s) := by
  unfold execAck
  split
  · exact .next (.refl s)
  · split
    case h_5 => exact .next (.refl s)
    all_goals exact .next (acknowledged_tidy ..)

theorem execErr_tidy (txid : BitVec 8) (s : State) : TidyOut s (execErr txid s) := by
  unfold execErr
  split
  · exact .next (.refl s)
  · next r _ =>
    have hend : Tidy s (endReq r s) := endReq_tidy ..
    split
    case h_5 => exact .next (acknowledged_tidy ..)
    all_goals exact .next (.after (wakeSnoops_tidy ..) (.after (noteFill_background ..).tidy hend))

theorem execBadPacket_tidy (cls opc : BitVec 4) (s : State) : TidyOut s (execBadPacket cls opc s) := by
  unfold execBadPacket
  split
  · exact .refused _
  · split
    · exact .next (.refl s)
    · exact .next (.of_eq rfl rfl)

theorem execMoverBlock_tidy (ch : BitVec 3) (ecc : Option EccEvent) (s : State) : TidyOut s (execMoverBlock ch ecc s) := by
  unfold execMoverBlock
  extract_lets m
  split
  · exact .next (.refl s)
  · split
    · exact .next (.refl s)
    · exact .next (.after (mvRun_tidy ..) (strike_tidy ..))

theorem execHfenceRise_tidy (s : State) : TidyOut s (execHfenceRise s) := by
  have h : Tidy s { s with pins := { s.pins with hfence := true } } := .of_eq rfl rfl
  exact .next (.ite h (.after (ackFence_tidy ..) (.after (accountChange_eq ..).tidy h)))

theorem execHfenceFall_tidy (s : State) : TidyOut s (execHfenceFall s) := by
  have h : Tidy s { s with pins := { s.pins with hfence := false, fenceAck := false } } := .of_eq rfl rfl
  exact .next (.after (accountChange_eq ..).tidy h)

theorem execFrzRise_tidy (s : State) : TidyOut s (execFrzRise s) := by
  unfold execFrzRise
  split
  · exact .next (.refl s)
  · split
    · exact .next (.of_eq rfl rfl)
    · exact .next (.after (stopCounters_tidy ..) (accountSteps_background ..).tidy)

theorem execFrzFall_tidy (s : State) : TidyOut s (execFrzFall s) := by
  have h : Tidy s { s with pins := { s.pins with frz := false } } := .of_eq rfl rfl
  unfold execFrzFall
  extract_lets t
  split
  · exact .next (.after (traceRec_background ..).tidy h)
  · exact .next h

theorem execTamperEvent_tidy (s : State) : TidyOut s (execTamperEvent s) := by
  have hline (b : Bool) (t : State) : Tidy t { t with pins := { t.pins with alarmIn := b } } := .of_eq rfl rfl
  have hsample (t : State) : Tidy t (sampleAlarm (sampleAlarm t)) := .after (sampleAlarm_alarmed _).tidy (sampleAlarm_alarmed t).tidy
  exact .next (.ite (hline true s) (.after (hsample _) (.after (hline true _) (.after (hsample _) (hline false s)))))

theorem execRefclkLoss_tidy (s : State) : TidyOut s (execRefclkLoss s) := by
  unfold execRefclkLoss
  extract_lets t
  split
  · exact .next (.of_eq rfl rfl)
  · exact .next (.after (machineCheck_background ..).tidy (.of_eq rfl rfl))

theorem execRefclkReturn_tidy (s : State) : TidyOut s (execRefclkReturn s) := .next (.of_eq rfl rfl)

theorem execPaceHwChange_tidy (v : BitVec 4) (s : State) : TidyOut s (execPaceHwChange v s) :=
  .next (.after (paceLines_tidy ..) (.of_eq rfl rfl))

theorem execCurHiRise_tidy (s : State) : TidyOut s (execCurHiRise s) := .next (.after (paceLines_tidy ..) (.of_eq rfl rfl))

theorem execCurHiFall_tidy (s : State) : TidyOut s (execCurHiFall s) := .next (.after (paceLines_tidy ..) (.of_eq rfl rfl))

theorem execStallWatchdog_tidy (src : BitVec 2) (s : State) : TidyOut s (execStallWatchdog src s) := by
  unfold execStallWatchdog
  extract_lets lim _ t u
  have ht : Tidy s t := .after (machineCheck_background ..).tidy (.of_eq rfl rfl)
  have hu : Tidy s u := .after (freezeTrigger_tidy ..) (.after (wayside_background ..).tidy ht)
  split
  · exact .next (.refl s)
  · exact .next (.after (stallRestart_tidy ..) (.ite (.after (snapTrigger_tidy ..) hu) hu))

theorem execFcWindowEnd_tidy (s : State) : TidyOut s (execFcWindowEnd s) := by
  unfold execFcWindowEnd
  split
  · exact .next (.refl s)
  · exact .next (.of_eq rfl rfl)

theorem execDumpDue_tidy (s : State) : TidyOut s (execDumpDue s) := by
  have h (t : State) : Tidy t { t with trace := { t.trace with dumpAt := some t.time.tick } } := .of_eq rfl rfl
  exact .next (.ite (.after (dumpDue_tidy ..) (.after (h _) (account_eq ..).tidy)) (.refl s))

theorem execSnapshotCopy_tidy (s : State) : TidyOut s (execSnapshotCopy s) := by
  unfold execSnapshotCopy
  extract_lets t
  split
  · exact .next (.refl s)
  · split
    · exact .next (copyStart_tidy s)
    · split
      · exact .next (.refl s)
      · exact .next (.of_eq rfl rfl)

theorem execTileComplete_tidy (s : State) : TidyOut s (execTileComplete s) := by
  unfold execTileComplete
  split
  · exact .next (.refl s)
  · extract_lets t _ u
    have ht : Tidy s t := workQueue_tidy ..
    have hu : Tidy s u := by
      unfold u
      split
      · exact ht
      · exact .ite ht (.after (accountChange_eq ..).tidy (ht.trans (.of_eq rfl rfl)))
    exact .next (.after (noteFences_background ..).tidy (.after (settle_tidy ..) hu))

theorem execTpwrDrainEnd_tidy (s : State) : TidyOut s (execTpwrDrainEnd s) := by
  unfold execTpwrDrainEnd
  split
  · exact .next (.of_eq rfl rfl)
  · exact .next (.refl s)

theorem execTpwrGateOpen_tidy (s : State) : TidyOut s (execTpwrGateOpen s) := by
  unfold execTpwrGateOpen
  split
  · exact .next (.after (settle_tidy ..) (.after (accountChange_eq ..).tidy (.of_eq rfl rfl)))
  · exact .next (.refl s)

theorem execTpwrPowerUp_tidy (s : State) : TidyOut s (execTpwrPowerUp s) := by
  unfold execTpwrPowerUp
  split
  · exact .next (.after (settle_tidy ..) (.after (accountChange_eq ..).tidy (.of_eq rfl rfl)))
  · exact .next (.refl s)

theorem runTile_tidy {body : CtxId → M TileEnd} (h : ∀ c s₀, TidyRun s₀ (body c)) (ecc : Option EccEvent) (s : State) :
    TidyOut s (runTile ecc body s) := by
  unfold runTile
  split
  · exact .next (.refl s)
  · next c _ =>
    extract_lets t go
    have ht : Tidy s t := strike_tidy ..
    have hgo : TidyRun t go := .bind (fetchCheck_tidy c) fun _ => h c t
    split
    · exact .next ht
    · split
      · next u hu => exact .next (.after (retire_tidy ..) (ht.trans (hgo.of_ok hu)))
      · next u hu => exact .next (.after (accountChange_eq ..).tidy (ht.trans (hgo.of_ok hu)))
      · next e u _ hu => exact .next ((ht.trans (hgo.of_ok hu)).trans (afterStop_tidy id c e))
      · next e u hu => exact .next (ht.trans (afterStop_tidy (hgo.of_error hu).form c e))

theorem localOut_tidy (port : BitVec 22) (p : W64 → Bool) (s : State) : TidyOut s (localOut port p s) := by
  unfold localOut
  split
  · split
    · exact .hold (fun _ _ => outInstr_tidy ..) s
    · exact .next (.refl s)
  · exact .next (.refl s)

theorem execMoverGo_tidy (ch : BitVec 3) (s : State) : TidyOut s (execMoverGo ch s) := localOut_tidy _ _ s

theorem execMoverCont_tidy (ch : BitVec 3) (s : State) : TidyOut s (execMoverCont ch s) := localOut_tidy _ _ s

theorem execCausewayGo_tidy (ch : BitVec 4) (s : State) : TidyOut s (execCausewayGo ch s) := localOut_tidy _ _ s

theorem mtsTpwrWhen_tidy (b : Bool) (r : BitVec 13) (s : State) : TidyOut s (mtsTpwrWhen b r s) := by
  unfold mtsTpwrWhen
  split
  · split
    · exact .seq (fun _ _ => mtsInstr_tidy ..) s
    · exact .next (.refl s)
  · exact .next (.refl s)

theorem execRhahaWord_tidy (w : W32) (s : State) : TidyOut s (execRhahaWord w s) := by
  unfold execRhahaWord
  split
  · exact .next (.refl s)
  · exact .next (runBody_tidy false (fun _ _ => rhWord_tidy ..) ..)

theorem execReservedOpcode_tidy (w : W32) (s : State) : TidyOut s (execReservedOpcode w s) := by
  unfold execReservedOpcode
  split
  · exact .instr (fun _ _ => .undef) s
  · exact .refused _

theorem execColdResetRelease_tidy (s : State) : TidyOut s (execColdResetRelease s) := by
  unfold execColdResetRelease
  split
  · exact .next (.refl s)
  · split
    · exact .next (.of_eq rfl rfl)
    · exact .next (enterInit_tidy s)

theorem execWarmReset_tidy (s : State) : TidyOut s (execWarmReset s) := by
  unfold execWarmReset
  extract_lets b t
  have ht : Tidy s t := .of_eq rfl rfl
  split
  · exact .next ht
  · exact .next ht
  · exact .next (ht.trans (beginReset_tidy ..))

theorem execWarmResetRelease_tidy (s : State) : TidyOut s (execWarmResetRelease s) := by
  unfold execWarmResetRelease
  extract_lets b t
  have ht : Tidy s t := .of_eq rfl rfl
  split
  · exact .next (ht.trans (enterInit_tidy t))
  · exact .next (ht.trans (enterInit_tidy t))
  · exact .next ht

theorem execDrainEnd_tidy (s : State) : TidyOut s (execDrainEnd s) := by
  unfold execDrainEnd
  split
  · split
    · exact .next (.refl s)
    · extract_lets t
      have ht : Tidy s t := idlePorts_tidy s
      split
      · split
        · exact .next (.after (held_tidy ..) (.after (paceApply_tidy ..) ht))
        · exact .next (ht.trans (.of_eq rfl rfl))
      · split
        · exact .next (ht.trans (.of_eq rfl rfl))
        · exact .next (.after (enterInit_tidy ..) ht)
  · exact .next (.refl s)

theorem execCoreResetEnd_tidy (s : State) : TidyOut s (execCoreResetEnd s) := by
  unfold execCoreResetEnd
  split
  · split
    · exact .next (.after (held_tidy ..) (paceApply_tidy ..))
    · exact .next (.refl s)
  · exact .next (.refl s)

theorem execInitEnd_tidy (s : State) : TidyOut s (execInitEnd s) := by
  unfold execInitEnd
  split
  · exact .next (.refl s)
  · split
    · exact .next (.after (goStart_tidy ..) (held_tidy s))
    · exact .next (held_tidy s)

theorem execKeygenTimeout_tidy (s : State) : TidyOut s (execKeygenTimeout s) := by
  unfold execKeygenTimeout
  split
  · exact .next (keyFail_tidy s)
  · exact .next (.refl s)

theorem execCpResetRelease_tidy (s : State) : TidyOut s (execCpResetRelease s) := by
  have h : Tidy s { s with pins := { s.pins with cpRstN := true } } := .of_eq rfl rfl
  unfold execCpResetRelease
  split
  · exact .next (.refl s)
  · exact .next (.ite h (.refl s))

theorem execLameWritebackEnd_tidy (s : State) : TidyOut s (execLameWritebackEnd s) := by
  unfold execLameWritebackEnd
  split
  · exact .next (.of_eq rfl rfl)
  · exact .next (.refl s)

theorem execIoResponse_tidy (r : IoResp) (s : State) : TidyOut s (execIoResponse r s) := by
  unfold execIoResponse
  split
  · split
    · exact .next (.ite (keyWord_tidy ..) (keyFail_tidy s))
    · exact .next (.refl s)
  · split
    · split
      · exact .next (ioDone_tidy ..)
      · exact .next (.refl s)
    · exact .next (.refl s)

theorem execIoTimeout_tidy (c : CtxId) (s : State) : TidyOut s (execIoTimeout c s) := by
  unfold execIoTimeout
  split
  · split
    · exact .next (ioLate_tidy ..)
    · exact .next (.refl s)
  · exact .next (.refl s)

theorem execCreditReturn_tidy (ch : BitVec 4) (s : State) : TidyOut s (execCreditReturn ch s) := by
  unfold execCreditReturn
  split
  · exact .next (.refl s)
  · exact .next (.after (accountChange_eq ..).tidy (setCw_background ..).tidy)

theorem execCausewayBeat_tidy (s : State) : TidyOut s (execCausewayBeat s) :=
  .next (.after (ackFence_tidy ..) (.after (accountChange_eq ..).tidy
    (.ite (.after (cwTake_tidy ..) (cwOffer_tidy ..)) (cwOffer_tidy ..))))

theorem execWaysideSend_tidy (s : State) : TidyOut s (execWaysideSend s) := .next (.foldl _ (fun _ _ => (waysideBeat_background ..).tidy) _ _)

theorem execMeshFlitSend_tidy (ready : BitVec 4) (s : State) : TidyOut s (execMeshFlitSend ready s) :=
  .next (.after (ackFence_tidy ..) (.after (driveFlit_tidy ..) (.after (startWriteBacks_background ..).tidy (drainStep_background ..).tidy)))

theorem execTraceRecordWrite_tidy (s : State) : TidyOut s (execTraceRecordWrite s) :=
  .next (.ite (.refl s) (.after (traceSend_tidy ..) (traceDone_tidy ..)))

theorem execRespSend_tidy (s : State) : TidyOut s (execRespSend s) := .next (.ite (.refl s) (idleFrame_tidy ..))

theorem execChainRead_tidy (f : ChainFrame) (s : State) : TidyOut s (execChainRead f s) :=
  .next (chainFrame_tidy (h := readAct_tidy f) ..)

theorem execTlatloRead_tidy (f : ChainFrame) (s : State) : TidyOut s (execTlatloRead f s) := by
  unfold execTlatloRead
  split
  · exact .next (chainFrame_tidy (h := readAct_tidy f) ..)
  · exact .next (.refl s)

theorem execXrdataRead_tidy (f : ChainFrame) (s : State) : TidyOut s (execXrdataRead f s) := by
  unfold execXrdataRead
  split
  · exact .next (chainFrame_tidy (h := readAct_tidy f) ..)
  · exact .next (.refl s)

/-! ## Every command -/

theorem exec_tidy (i : Instr) (s : State) : TidyOut s (exec i s) := by
  cases i with
  | coldReset => exact .next (coldState_tidy s)
  | coldResetRelease => exact execColdResetRelease_tidy s
  | warmReset => exact execWarmReset_tidy s
  | warmResetRelease => exact execWarmResetRelease_tidy s
  | drainEnd => exact execDrainEnd_tidy s
  | initEnd => exact execInitEnd_tidy s
  | keygenTimeout => exact execKeygenTimeout_tidy s
  | cpResetRelease => exact execCpResetRelease_tidy s
  | hfenceRise => exact execHfenceRise_tidy s
  | hfenceFall => exact execHfenceFall_tidy s
  | frzRise => exact execFrzRise_tidy s
  | frzFall => exact execFrzFall_tidy s
  | tamperEvent => exact execTamperEvent_tidy s
  | refclkLoss => exact execRefclkLoss_tidy s
  | refclkReturn => exact execRefclkReturn_tidy s
  | paceHwChange => exact execPaceHwChange_tidy _ s
  | curHiRise => exact execCurHiRise_tidy s
  | curHiFall => exact execCurHiFall_tidy s
  | stallWatchdog => exact execStallWatchdog_tidy _ s
  | ioTimeout => exact execIoTimeout_tidy _ s
  | timerInterrupt => exact .next (timerCross_tidy s)
  | timeEvent => exact .next (.ite (setEvent_tidy ..) (.refl s))
  | droverQuantum => exact execDroverQuantum_tidy s
  | droverSwitch => exact execDroverSwitch_tidy s
  | fcWindowEnd => exact execFcWindowEnd_tidy s
  | dumpDue => exact execDumpDue_tidy s
  | dumpComplete => exact .next (dumpDone_tidy s)
  | traceRecordWrite => exact execTraceRecordWrite_tidy s
  | snapshotCopy => exact execSnapshotCopy_tidy s
  | waysideSend => exact execWaysideSend_tidy s
  | tpwrDrainEnd => exact execTpwrDrainEnd_tidy s
  | tpwrGateOpen => exact execTpwrGateOpen_tidy s
  | tpwrPowerUp => exact execTpwrPowerUp_tidy s
  | tileComplete => exact execTileComplete_tidy s
  | meshFlitSend => exact execMeshFlitSend_tidy _ s
  | creditReturn => exact execCreditReturn_tidy _ s
  | causewayBeat => exact execCausewayBeat_tidy s
  | moverBlock => exact execMoverBlock_tidy _ _ s
  | dataS | dataX => exact .next (dataArrives_tidy ..)
  | ack => exact execAck_tidy _ s
  | err => exact execErr_tidy _ s
  | probeS | probeK => exact .next (takeSnoop_tidy ..)
  | badPacket => exact execBadPacket_tidy _ _ s
  | ioResponse => exact execIoResponse_tidy _ s
  | ioReadServe => exact serve_tidy (fun _ => serveRead_tidy ..) s
  | ipi => exact execIpi_tidy _ _ s
  | wcfgWrite => exact execWcfgWrite_tidy _ _ s
  | wsub => exact execWsub_tidy _ s
  | claimServe => exact serve_tidy (fun _ => serveClaim_tidy ..) s
  | completeServe => exact serve_tidy (fun _ => serveComplete_tidy ..) s
  | notice => exact execNotice_tidy _ s
  | postReceive => exact execPostReceive_tidy _ _ s
  | cpResult => exact execCpResult_tidy _ _ _ _ s
  | enum => exact .next (chainFrame_tidy (h := enumAct_tidy _) ..)
  | identq => exact .next (chainFrame_tidy (h := identAct_tidy _) ..)
  | chainRead => exact execChainRead_tidy _ s
  | chainWrite | bwrite => exact .next (writeFrame_tidy ..)
  | corerst => exact .next (chainFrame_tidy (h := corerstAct_tidy _) ..)
  | respSend => exact execRespSend_tidy s
  | bootGo | enable0Write | mbinWrite | tsoffhiWrite | trheadWrite | dmheadWrite | xrstatTrig | fccfgWrite | almcfgWrite
  | tgrateWrite | tgstatWrite => exact writeTo_tidy (fun _ => _) _ _ s
  | mboutWrite | cctlWrite => exact localOut_tidy _ (fun _ => _) s
  | tlatloRead => exact execTlatloRead_tidy _ s
  | xrdataRead => exact execXrdataRead_tidy _ s
  | moverGo => exact execMoverGo_tidy _ s
  | moverCont => exact execMoverCont_tidy _ s
  | causewayGo => exact execCausewayGo_tidy _ s
  | ld | ldx | ldy => exact .ecc (fun _ _ => loadReg_tidy ..) _ s
  | st | stx | sty => exact .seq (fun _ _ => storeReg_tidy ..) s
  | ldB | ldBu | ldH | ldHu | ldW | ldWu => exact .ecc (fun _ _ => loadSub_tidy ..) _ s
  | stB | stH | stW => exact .ecc (fun _ _ => storeSubReg_tidy ..) _ s
  | ldc => exact .seq (fun _ _ => loadCode_tidy ..) s
  | lea | leax | leay => exact .seq (fun _ _ => leaReg_tidy ..) s
  | add | adc | sub | sbc | cmp => exact .seq (fun _ _ => sumInstr_tidy ..) s
  | band | bor | bxor | shl | shr | sar | rol | ror | perm => exact .seq (fun _ _ => logicInstr_tidy ..) s
  | bfx => exact .seq (fun _ _ => bfxInstr_tidy ..) s
  | bfi => exact .seq (fun _ _ => bfiInstr_tidy ..) s
  | mul | mulu => exact .seq (fun _ _ => mulInstr_tidy ..) s
  | div | divu => exact .seq (fun _ _ => divInstr_tidy ..) s
  | faddD | faddS | fsubD | fsubS | fmulD | fmulS | fdivD | fdivS | fminD | fminS | fmaxD | fmaxS =>
    exact .seq (fun _ _ => fpInstr_tidy ..) s
  | fmacD | fmacS => exact .seq (fun _ _ => fmacInstr_tidy ..) s
  | fcmpD | fcmpoD | fcmpS | fcmpoS => exact .seq (fun _ _ => fcmpInstr_tidy ..) s
  | fsqrtD | fsqrtS => exact .seq (fun _ _ => fsqrtInstr_tidy ..) s
  | fcvtDL | fcvtDLu | fcvtSL | fcvtSLu => exact .seq (fun _ _ => fromIntInstr_tidy ..) s
  | fcvtLD | fcvtLuD | fcvtLS | fcvtLuS => exact .seq (fun _ _ => toIntInstr_tidy ..) s
  | fcvtSD | fcvtDS => exact .seq (fun _ _ => fcvtInstr_tidy ..) s
  | ioIn => exact .hold (fun c _ => ioAccess_tidy _ _ _ _ c fun _ _ => .bind (localRead_tidy ..) fun _ => .modC) s
  | ioOut => exact .hold (fun _ _ => outInstr_tidy ..) s
  | claim => exact .hold (fun c _ => ioAccess_tidy _ _ _ _ c fun _ _ => localClaim_tidy ..) s
  | complete => exact .hold (fun c _ => ioAccess_tidy _ _ _ _ c fun _ _ => localComplete_tidy ..) s
  | jmp => exact .instr (fun _ _ => jmpInstr_tidy ..) s
  | call => exact .instr (fun _ _ => callInstr_tidy ..) s
  | jmpx => exact .instr (fun _ _ => jmpxInstr_tidy ..) s
  | mov => exact .seq (fun _ _ => movInstr_tidy ..) s
  | neg => exact .seq (fun _ _ => negInstr_tidy ..) s
  | bnot => exact .seq (fun _ _ => notInstr_tidy ..) s
  | clz => exact .seq (fun _ _ => clzInstr_tidy ..) s
  | tagget => exact .seq (fun _ _ => taggetInstr_tidy ..) s
  | tagset => exact .seq (fun _ _ => tagsetInstr_tidy ..) s
  | skip => exact .instr (fun _ _ => skipInstr_tidy ..) s
  | ret => exact .instr (fun _ _ => retInstr_tidy ..) s
  | trap => exact .instr (fun _ _ => trapInstr_tidy ..) s
  | rfe => exact .instr (fun _ _ => rfeInstr_tidy ..) s
  | rfi => exact .instr (fun _ _ => rfiInstr_tidy ..) s
  | stile => exact .instr (fun _ _ => stileInstr_tidy ..) s
  | fence => exact .hold (fun _ _ => fenceInstr_tidy ..) s
  | tlbinvVa | tlbinvVaw | tlbinvAsid | tlbinvAll => exact .seq (fun _ _ => tlbinvInstr_tidy ..) s
  | cinvAll => exact .seq (fun _ _ => cinvAllInstr_tidy ..) s
  | cwbAll => exact .hold (fun _ _ => cwbAllInstr_tidy ..) s
  | cinvLine => exact .seq (fun _ _ => cinvLineInstr_tidy ..) s
  | cwbLine | cwbiLine => exact .seq (fun _ _ => cwbLineInstr_tidy ..) s
  | mfs | mfsKdout => exact .seq (fun _ _ => .bind (.needDef _) fun _ => mfsReg_tidy ..) s
  | mts | mtsAcx | mtsRmax | mtsTcfg | mtsFcfg | mtsTown | waddrArm | watchArm | mtsTimer | mtsPam | mtsTranslation | mtsEvec
  | mtsVlvl | mtsFbst | mtsWlock | mtsWsreq | mtsPace => exact .seq (fun _ _ => mtsInstr_tidy ..) s
  | mtsTpwrOff | mtsTpwrOn => exact mtsTpwrWhen_tidy _ _ s
  | abase | atop | aperm => exact .seq (fun _ _ => capInspect_tidy ..) s
  | anarb => exact .seq (fun _ _ => anarbInstr_tidy ..) s
  | anart => exact .seq (fun _ _ => anartInstr_tidy ..) s
  | amask => exact .seq (fun _ _ => amaskInstr_tidy ..) s
  | aseal => exact .seq (fun _ _ => asealInstr_tidy ..) s
  | aopen => exact .seq (fun _ _ => aopenInstr_tidy ..) s
  | ald => exact .seq (fun _ _ => aldInstr_tidy ..) s
  | ast => exact .seq (fun _ _ => astInstr_tidy ..) s
  | aget => exact .seq (fun _ _ => agetInstr_tidy ..) s
  | aput => exact .seq (fun _ _ => aputInstr_tidy ..) s
  | ajmp => exact .instr (fun _ _ => ajmpInstr_tidy ..) s
  | agate => exact .instr (fun _ _ => agateInstr_tidy ..) s
  | sealA => exact .seq (fun _ _ => sealInstr_tidy ..) s
  | unsealA => exact .seq (fun _ _ => unsealInstr_tidy ..) s
  | achk => exact .seq (fun _ _ => achkInstr_tidy ..) s
  | wait => exact .hold (fun _ _ => waitInstr_tidy ..) s
  | yield => exact .instr (fun _ _ => yieldInstr_tidy ..) s
  | cstart => exact .seq (fun _ _ => cstartInstr_tidy ..) s
  | cstop => exact .seq (fun _ _ => cstopInstr_tidy ..) s
  | cwake => exact .seq (fun _ _ => cwakeInstr_tidy ..) s
  | fspill => exact .seq (fun _ _ => fspillInstr_tidy ..) s
  | ffill => exact .seq (fun _ _ => ffillInstr_tidy ..) s
  | post => exact .seq (fun _ _ => postInstr_tidy ..) s
  | mark => exact .seq (fun _ _ => markInstr_tidy ..) s
  | trec => exact .seq (fun _ _ => trecInstr_tidy ..) s
  | xsnap => exact .seq (fun _ _ => xsnapInstr_tidy ..) s
  | freeze => exact .seq (fun _ _ => freezeInstr_tidy ..) s
  | rhahaWord => exact execRhahaWord_tidy _ s
  | cpInsn => exact .hold (fun _ _ => cpInstr_tidy ..) s
  | tld => exact runTile_tidy (fun _ _ => tldBody_tidy ..) _ s
  | tst => exact runTile_tidy (fun _ _ => tstBody_tidy ..) _ s
  | tmma => exact runTile_tidy (fun _ _ => tmmaBody_tidy ..) _ s
  | tmova => exact runTile_tidy (fun _ _ => tmovaBody_tidy ..) _ s
  | tldac => exact runTile_tidy (fun _ _ => tldacBody_tidy ..) _ s
  | tstac => exact runTile_tidy (fun _ _ => tstacBody_tidy ..) _ s
  | tzeroT => exact runTile_tidy (fun _ _ => tzeroTBody_tidy ..) _ s
  | tzeroA => exact runTile_tidy (fun _ _ => tzeroABody_tidy ..) _ s
  | tclrA => exact runTile_tidy (fun _ _ => tclrABody_tidy ..) _ s
  | tkill => exact runTile_tidy (fun _ _ => tkillBody_tidy ..) _ s
  | trow => exact runTile_tidy (fun _ _ => trowBody_tidy ..) _ s
  | tcvt => exact runTile_tidy (fun _ _ => tcvtBody_tidy ..) _ s
  | tfn => exact runTile_tidy (fun _ _ => tfnBody_tidy ..) _ s
  | tred => exact runTile_tidy (fun _ _ => tredBody_tidy ..) _ s
  | tepi => exact runTile_tidy (fun _ _ => tepiBody_tidy ..) _ s
  | tsave => exact runTile_tidy (fun _ _ => tsaveBody_tidy ..) _ s
  | trestore => exact runTile_tidy (fun _ _ => trestoreBody_tidy ..) _ s
  | tsdw => exact runTile_tidy (fun _ _ => tsdwBody_tidy ..) _ s
  | tsdr => exact runTile_tidy (fun _ _ => tsdrBody_tidy ..) _ s
  | tsync => exact runTile_tidy (fun _ _ => tsyncBody_tidy ..) _ s
  | interruptEntry => exact execInterruptEntry_tidy s
  | fastInterruptEntry => exact execFastInterruptEntry_tidy s
  | lameWritebackEnd => exact execLameWritebackEnd_tidy s
  | reservedOpcode => exact execReservedOpcode_tidy _ s
  | ioWriteServe => exact serve_tidy (fun _ => serveWrite_tidy ..) s
  | coreResetEnd => exact execCoreResetEnd_tidy s

end

/-- Settles O59. Every part of every command is tidy: a word comes into the scratchpad as it is delivered, and none of them writes the
queue, off which the step took its command. -/
theorem stepKeepsScratchpad : Obligations.StepKeepsScratchpad := by
  intro s t hs h
  unfold step at h
  split at h
  · next hp =>
    cases h
    have ht := idleTick_tidy s
    exact ⟨ht.form hs, by rw [ht.queue, hp, List.tail_nil]⟩
  · next i rest hp =>
    have ht := exec_tidy i { s with pending := rest } t h
    exact ⟨ht.form (hs.congr rfl), by rw [ht.queue, hp, List.tail_cons]⟩

end Sys2Proof.Machine

namespace Sys2Proof.Machine
open Sys2Proof

/-! ## Integer instructions

An instruction of two operands ends where its own effect leads from the state after the operand was read. -/

/-- The four flags of a sum, whose exact value is given (R138). -/
def sumResOf (r : W64 × Bool × Int) : SumRes :=
  ⟨r.1, r.2.1, r.1 == 0, bit r.1 63, decide (r.2.2 < -(2 ^ 63)) || decide ((2 : Int) ^ 63 ≤ r.2.2)⟩

section
variable {c : CtxId} {s t u : State} {m : BitVec 3} {d : BitVec 22} {a b : TWord}

theorem bAt_eq_ofBool {n : Nat} (i : Nat) (b : Bool) : (bAt i b : BitVec n) = (BitVec.ofBool b).setWidth n <<< i := by
  cases b with
  | false => simp [bAt]
  | true =>
    have h1 : (BitVec.ofBool true).setWidth n = 1#n := by
      apply BitVec.eq_of_toNat_eq
      simp
    rw [h1]
    rfl

theorem sumSt_eq_stFlags (st : W32) (r : W64) (cy : Bool) (e : Int) :
    sumSt st r cy e = stFlags st cy (r == 0) (bit r 63) (decide (e < -(2 ^ 63)) || decide ((2 : Int) ^ 63 ≤ e)) := by
  simp only [sumSt, stFlags, bAt_eq_ofBool, BitVec.shiftLeft_zero, BitVec.msb_eq_getLsbD_last, Bool.decide_or]

theorem zeroNegSt_eq_stZN (st : W32) (r : W64) : zeroNegSt st r = stZN st r := by
  simp only [zeroNegSt, stZN, bAt_eq_ofBool, BitVec.msb_eq_getLsbD_last]

theorem incY_st (m : BitVec 3) (d : BitVec 22) (k : Ctx) : (incY m d k).st = k.st := by
  unfold incY Ctx.setY Ctx.clearSlotErrs
  repeat' split
  all_goals rfl

/-- A sum's flags are those of its exact value, and its result is that of the row. -/
theorem sumOf_eq_row : ∀ row ∈ sumRows, ∀ (a b : W64) (cy : Bool), sumOf row.2.1 a b cy = sumResOf (row.2.2 a b cy) := by
  have hadd (a b : W64) (cy : Bool) : addSum a b cy =
      sumResOf (a + b + (BitVec.ofBool cy).setWidth 64, decide (2 ^ 64 ≤ a.toNat + b.toNat + cy.toNat), a.toInt + b.toInt + cy.toNat) := by
    cases cy <;> simp [addSum, sumResOf, BitVec.ofNat_add]
  have hsub (a b : W64) (bw : Bool) : subSum a b bw =
      sumResOf (a - b - (BitVec.ofBool bw).setWidth 64, decide (b.toNat + bw.toNat ≤ a.toNat), a.toInt - b.toInt - bw.toNat) := by
    cases bw <;> simp [subSum, sumResOf]
  intro row hrow a b cy
  simp only [sumRows, List.mem_cons, List.not_mem_nil, or_false] at hrow
  rcases hrow with rfl | rfl | rfl | rfl | rfl
  · simpa [sumOf] using hadd a b false
  · exact hadd a b cy
  · simpa [sumOf] using hsub a b false
  · exact hsub a b (!cy)
  · simpa [sumOf] using hsub a b false

theorem readPair_reads {accA : Tag → Bool} {accOp : Tag → Tag → Bool} (hr : Reads c m d t b u) (ha : (t.getCtx c).getA = a)
    (h1 : accA a.tag = true) (h2 : accOp a.tag b.tag = true) : readPair c m d accA accOp (pure ()) t = .ok (a, b) u :=
  readPair_ok hr ha h1 h2 rfl rfl

/-- The effect of a sum on its context (R103, R138). -/
theorem sumInstr_run {o : SumOp} (hr : Reads c m d t b u) (ha : (t.getCtx c).getA = a) (htag : isPlain a.tag ∨ isPtr a.tag)
    (hacc : sumAccepts o a.tag b.tag = true) :
    sumInstr o m d c t = .ok () (u.modCtx c fun k =>
      let r := sumOf o a.val b.val (bit (u.getCtx c).st 0)
      let k' := (incY m d k).setSumFlags r
      if o = .cmp then k' else k'.setA ⟨r.val, sumTag a.tag b.tag⟩) := by
  unfold sumInstr
  rw [run_bind_ok (readPair_reads hr ha (by simpa using htag) hacc)]
  dsimp only
  rw [run_bind_ok (run_getC c u), run_bind_ok (run_postIncrement c m d u), run_modC, modCtx_modCtx]
  simp only [beq_iff_eq]

end

/-- Settles O3: a row's result, carry and exact value are those of the sum that it names. -/
theorem sumInstructions : Obligations.SumInstructions := by
  intro row hrow c s t u m d a b hb hr ha htag hacc
  have hexec : exec (row.1 m d) s = runSeq (sumInstr row.2.1 m d) s := by
    simp only [sumRows, List.mem_cons, List.not_mem_nil, or_false] at hrow
    rcases hrow with rfl | rfl | rfl | rfl | rfl <;> rfl
  rw [hexec, runSeq_ends hb (sumInstr_run hr ha htag hacc), sumOf_eq_row row hrow]
  dsimp only
  simp only [Ctx.setSumFlags, sumResOf, sumSt_eq_stFlags, incY_st]

section
variable {c : CtxId} {s t u : State} {m : BitVec 3} {d : BitVec 22} {a b : TWord}

theorem logicTag_pair (x y : Tag) : logicTag [x, y] = if x = Tag.int ∧ y = Tag.int then Tag.int else Tag.raw := by
  simp [logicTag]

theorem logicTag_one (x : Tag) : logicTag [x] = if x = Tag.int then Tag.int else Tag.raw := by
  simp [logicTag]

/-- The effect of an instruction of the logic row on its context (R103, R139). -/
theorem logicInstr_run {f : W64 → W64 → W64} (hr : Reads c m d t b u) (ha : (t.getCtx c).getA = a) (hta : isLogic a.tag = true)
    (htb : isLogic b.tag = true) :
    logicInstr f m d c t = .ok () (u.modCtx c fun k =>
      ((incY m d k).setZN (f a.val b.val)).setA ⟨f a.val b.val, logicTag [a.tag, b.tag]⟩) := by
  unfold logicInstr
  rw [run_bind_ok (readPair_reads hr ha hta htb)]
  dsimp only
  rw [run_bind_ok (run_postIncrement c m d u), run_modC, modCtx_modCtx]

theorem shiftCount_eq (b : W64) : shiftCount b = b.toNat % 64 := by
  simp [shiftCount]

end

/-- Settles O4: a row names the function that its instruction applies. -/
theorem logicInstructions : Obligations.LogicInstructions := by
  intro row hrow c s t u m d a b hb hr ha hta htb
  have hexec : exec (row.1 m d) s = runSeq (logicInstr row.2 m d) s := by
    simp only [logicRows, List.mem_cons, List.not_mem_nil, or_false, ← shiftCount_eq] at hrow
    rcases hrow with rfl | rfl | rfl | rfl | rfl | rfl | rfl | rfl | rfl <;> rfl
  rw [hexec, runSeq_ends hb (logicInstr_run hr ha hta htb)]
  simp only [Ctx.setZN, zeroNegSt_eq_stZN, incY_st, logicTag_pair]

section
variable {c : CtxId} {s t u : State} {m : BitVec 3} {d : BitVec 22} {a b : TWord}

/-- The two halves of 128 bits as a signed number. -/
theorem toInt_halves (p : BitVec 128) : (fld p 64 64).toInt * 2 ^ 64 + ((fld p 0 64).toNat : Int) = p.toInt := by
  have hp := p.isLt
  have hhi : (fld p 64 64).toNat = p.toNat / 2 ^ 64 := by
    rw [BitVec.extractLsb'_toNat, Nat.shiftRight_eq_div_pow, Nat.mod_eq_of_lt (by omega)]
  have hlo : (fld p 0 64).toNat = p.toNat % 2 ^ 64 := by
    rw [BitVec.extractLsb'_toNat, Nat.shiftRight_zero]
  rw [BitVec.toInt_eq_toNat_cond, BitVec.toInt_eq_toNat_cond, hhi, hlo]
  split <;> split <;> omega

theorem toNat_halves (p : BitVec 128) : (fld p 64 64).toNat * 2 ^ 64 + (fld p 0 64).toNat = p.toNat := by
  have hp := p.isLt
  rw [BitVec.extractLsb'_toNat, BitVec.extractLsb'_toNat, Nat.shiftRight_zero, Nat.shiftRight_eq_div_pow]
  omega

theorem toInt_mul_ofInt (x y : W64) : (BitVec.ofInt 128 (x.toInt * y.toInt)).toInt = x.toInt * y.toInt := by
  have hx : -2 ^ 63 ≤ x.toInt ∧ x.toInt < 2 ^ 63 := ⟨x.le_toInt, x.toInt_lt⟩
  have hy : -2 ^ 63 ≤ y.toInt ∧ y.toInt < 2 ^ 63 := ⟨y.le_toInt, y.toInt_lt⟩
  have habs : |x.toInt * y.toInt| ≤ 2 ^ 63 * 2 ^ 63 := by
    rw [abs_mul]
    exact mul_le_mul (abs_le.mpr ⟨hx.1, hx.2.le⟩) (abs_le.mpr ⟨hy.1, hy.2.le⟩) (abs_nonneg _) (by norm_num)
  rw [BitVec.toInt_ofInt]
  apply Int.bmod_eq_of_le <;> have := abs_le.mp habs <;> norm_num at this ⊢ <;> omega

theorem toNat_mul_ofNat (x y : W64) : (BitVec.ofNat 128 (x.toNat * y.toNat)).toNat = x.toNat * y.toNat := by
  rw [BitVec.toNat_ofNat]
  exact Nat.mod_eq_of_lt ((Nat.mul_lt_mul'' x.isLt y.isLt).trans_eq rfl)

theorem mulInstr_run (signed : Bool) (hr : Reads c m d t b u) (ha : (t.getCtx c).getA = a) (hta : isPlain a.tag = true)
    (htb : isPlain b.tag = true) :
    mulInstr signed m d c t = .ok () (u.modCtx c fun k =>
      let p : BitVec 128 := if signed then BitVec.ofInt 128 (a.val.toInt * b.val.toInt) else BitVec.ofNat 128 (a.val.toNat * b.val.toNat)
      { incY m d k with mh := ⟨fld p 64 64, Tag.int⟩, ml := ⟨fld p 0 64, Tag.int⟩ }) := by
  unfold mulInstr
  rw [run_bind_ok (readPair_reads hr ha hta htb)]
  dsimp only
  rw [run_bind_ok (run_postIncrement c m d u), run_modC, modCtx_modCtx]

/-- A division by a number other than zero (R119). -/
theorem divInstr_run (signed : Bool) (hr : Reads c m d t b u) (ha : (t.getCtx c).getA = a) (hta : isPlain a.tag = true)
    (htb : isPlain b.tag = true) (hb : b.val ≠ 0) :
    divInstr signed m d c t = .ok () (u.modCtx c fun k =>
      if signed then
        { incY m d k with
          mq := ⟨(signedDiv a.val b.val).1, Tag.int⟩
          mr := ⟨(signedDiv a.val b.val).2.1, Tag.int⟩
          st := setBit (incY m d k).st 3 (signedDiv a.val b.val).2.2 }
      else { incY m d k with mq := ⟨a.val / b.val, Tag.int⟩, mr := ⟨a.val % b.val, Tag.int⟩ }) := by
  unfold divInstr
  rw [run_bind_ok (readPair_reads hr ha hta htb)]
  simp only [hb, if_false]
  rw [run_bind_ok (run_postIncrement c m d u)]
  cases signed <;> simp only [Bool.false_eq_true, if_false, if_true, run_modC, modCtx_modCtx]

/-- A division by zero stops where its operand was read (R119). -/
theorem divInstr_zero (signed : Bool) (hr : Reads c m d t b u) (ha : (t.getCtx c).getA = a) (hta : isPlain a.tag = true)
    (htb : isPlain b.tag = true) (hb : b.val = 0) : divInstr signed m d c t = .error (.exc (plainExc 12 0)) u := by
  unfold divInstr
  rw [run_bind_ok (readPair_reads hr ha hta htb)]
  simp only [hb, if_true]
  rfl

theorem setBit_eq_masked (x : W32) (v : Bool) : setBit x 3 v = (x &&& 0xFFFFFFF7#32) ||| (if v then 8 else 0) := by
  cases v with
  | false => simp [setBit]
  | true =>
    have hor (y : W32) : x ||| y = (x &&& ~~~y) ||| y := by
      ext i
      simp only [BitVec.getElem_or, BitVec.getElem_and, BitVec.getElem_not]
      cases x[i] <;> cases y[i] <;> rfl
    exact hor 8#32

end

/-- Settles O6: the product's halves are the exact product, the quotient and remainder those of the truncating division. -/
theorem multiplyDivide : Obligations.MultiplyDivide := by
  intro c s t u m d a b hb hr ha hta htb
  refine ⟨⟨_, runSeq_ends hb (mulInstr_run true hr ha hta htb), ?_⟩, ⟨_, runSeq_ends hb (mulInstr_run false hr ha hta htb), ?_⟩,
    fun h0 => ?_, fun h0 => ?_, fun h0 i hi => ?_⟩
  · simp only [getCtx_modCtx]
    exact ⟨trivial, trivial, trivial, (toInt_halves _).trans (toInt_mul_ofInt ..)⟩
  · simp only [getCtx_modCtx]
    exact ⟨trivial, trivial, trivial, (toNat_halves _).trans (toNat_mul_ofNat ..)⟩
  · refine (runSeq_ends hb (divInstr_run true hr ha hta htb h0)).trans ?_
    simp only [if_true, incY_st, signedDiv, setBit_eq_masked, Bool.and_eq_true, decide_eq_true_eq]
  · refine (runSeq_ends hb (divInstr_run false hr ha hta htb h0)).trans ?_
    have hdiv : a.val / b.val = BitVec.ofNat 64 (a.val.toNat / b.val.toNat) := by
      rw [← BitVec.toNat_udiv, BitVec.ofNat_toNat, BitVec.setWidth_eq]
    have hmod : a.val % b.val = BitVec.ofNat 64 (a.val.toNat % b.val.toNat) := by
      rw [← BitVec.toNat_umod, BitVec.ofNat_toNat, BitVec.setWidth_eq]
    simp only [Bool.false_eq_true, if_false, hdiv, hmod]
  · simp only [List.mem_cons, List.not_mem_nil, or_false] at hi
    rcases hi with rfl | rfl
    · exact runSeq_stop hb (divInstr_zero true hr ha hta htb h0)
    · exact runSeq_stop hb (divInstr_zero false hr ha hta htb h0)

section
variable {c : CtxId} {s t : State}

theorem axyOf_field {r : BitVec 2} {g : Axy} (h : (r, g) ∈ [((0 : BitVec 2), Axy.a), (1, Axy.x), (2, Axy.y)]) : axyOf r = some g := by
  simp only [List.mem_cons, List.not_mem_nil, or_false, Prod.mk.injEq] at h
  rcases h with ⟨rfl, rfl⟩ | ⟨rfl, rfl⟩ | ⟨rfl, rfl⟩ <;> rfl

theorem negInstr_run (hp : isPlain (t.getCtx c).getA.tag = true) :
    negInstr 0 c t = .ok () (t.modCtx c fun k =>
      (k.setSumFlags (subSum 0 (t.getCtx c).getA.val false)).setA ⟨(subSum 0 (t.getCtx c).getA.val false).val, Tag.int⟩) := by
  unfold negInstr
  rw [run_bind_ok (by rw [run_needDef]; rfl), run_bind_ok (run_getC c t)]
  simp only [hp, Bool.not_true, Bool.false_eq_true, if_false]
  rfl

theorem notInstr_run (hl : isLogic (t.getCtx c).getA.tag = true) :
    notInstr 0 c t = .ok () (t.modCtx c fun k =>
      (k.setZN (~~~(t.getCtx c).getA.val)).setA ⟨~~~(t.getCtx c).getA.val, logicTag [(t.getCtx c).getA.tag]⟩) := by
  unfold notInstr
  rw [run_bind_ok (by rw [run_needDef]; rfl), run_bind_ok (run_getC c t)]
  simp only [hl, Bool.not_true, Bool.false_eq_true, if_false]
  rfl

theorem clzInstr_run (hp : (t.getCtx c).getA.tag ≠ Tag.poison) :
    clzInstr 0 c t = .ok () (t.modCtx c fun k =>
      (k.setZN (BitVec.ofNat 64 (leadingZeros (t.getCtx c).getA.val))).setA
        ⟨BitVec.ofNat 64 (leadingZeros (t.getCtx c).getA.val), Tag.int⟩) := by
  unfold clzInstr
  rw [run_bind_ok (by rw [run_needDef]; rfl), run_bind_ok (run_getC c t)]
  simp only [beq_iff_eq, hp, if_false]
  rfl

theorem taggetInstr_run {r : BitVec 21} {g : Axy} (hf : fld r 0 19 = 0) (hg : axyOf (fld r 19 2) = some g) :
    taggetInstr r c t = .ok () (t.modCtx c fun k => k.setA ⟨(k.axy g).tag.setWidth 64, Tag.int⟩) := by
  unfold taggetInstr
  rw [run_bind_ok (by rw [run_needDef, hf]; rfl), hg]
  rfl

theorem tagsetInstr_run {f : BitVec 25} {g : Axy} (hf : fld f 0 19 = 0) (hn : tagSettable (fld f 21 4) = true)
    (hg : axyOf (fld f 19 2) = some g) (hp : isProtected ((t.getCtx c).axy g).tag = false) :
    tagsetInstr f c t = .ok () (t.modCtx c fun k => k.setAxy g ⟨((t.getCtx c).axy g).val, fld f 21 4⟩) := by
  unfold tagsetInstr
  rw [run_bind_ok (by rw [run_needDef, hf, hn]; rfl), hg]
  refine (run_bind_ok (run_getC c t)).trans ?_
  simp only [hp, Bool.false_eq_true, if_false]
  rfl

theorem modCtx_congr {f g : Ctx → Ctx} (h : f (t.getCtx c) = g (t.getCtx c)) : t.modCtx c f = t.modCtx c g := by
  simp only [State.modCtx, h]

end

/-- The registers' codes of R146 and the tags of R105, in the fields of TAGGET and TAGSET. -/
theorem taggetField (r : BitVec 2) : fld (r.setWidth 21 <<< 19) 0 19 = (0 : BitVec 19) ∧ fld (r.setWidth 21 <<< 19) 19 2 = r := by
  revert r; decide

theorem tagsetField (r : BitVec 2) (n : Tag) :
    fld (n.setWidth 25 <<< 21 ||| r.setWidth 25 <<< 19) 0 19 = (0 : BitVec 19) ∧
    fld (n.setWidth 25 <<< 21 ||| r.setWidth 25 <<< 19) 19 2 = r ∧ fld (n.setWidth 25 <<< 21 ||| r.setWidth 25 <<< 19) 21 4 = n := by
  revert r n; decide

/-- Settles O7: each of the five by its effect on the context. -/
theorem aluGroup : Obligations.AluGroup := by
  rintro c s t a hb rfl
  refine ⟨fun hp => ?_, fun hl => ?_, fun hp => ?_, fun r g hg => ⟨?_, fun n hn hp => ?_⟩⟩
  · refine (runSeq_ends hb (negInstr_run hp)).trans ?_
    have hneg : subSum 0 (t.getCtx c).getA.val false =
        sumResOf (-(t.getCtx c).getA.val, decide ((t.getCtx c).getA.val = 0), -(t.getCtx c).getA.val.toInt) := by
      simp [subSum, sumResOf, ← BitVec.toNat_inj]
    simp only [hneg, Ctx.setSumFlags, sumSt_eq_stFlags, sumResOf]
  · refine (runSeq_ends hb (notInstr_run hl)).trans ?_
    simp only [Ctx.setZN, zeroNegSt_eq_stZN, logicTag_one]
  · refine (runSeq_ends hb (clzInstr_run hp)).trans ?_
    simp only [Ctx.setZN, zeroNegSt_eq_stZN]
  · obtain ⟨hz, hr⟩ := taggetField r
    exact runSeq_ends hb (taggetInstr_run hz (by rw [hr, axyOf_field hg]))
  · obtain ⟨hz, hr, ht⟩ := tagsetField r n
    refine (runSeq_ends hb (tagsetInstr_run hz ?_ (by rw [hr, axyOf_field hg]) hp)).trans ?_
    · rw [ht]
      exact List.contains_iff_mem.mpr hn
    · rw [modCtx_congr (t := t) (g := fun k => k.setAxy g ⟨(k.axy g).val, n⟩) (by rw [ht])]

section
variable {c : CtxId} {s t : State}

/-- What SKIP's field says of its condition and of the register whose tag TAG and NTAG compare (R114). -/
def skipHit (k : Ctx) (f : BitVec 25) : Bool :=
  let r : BitVec 2 := fld f 18 2
  skipCond k (fld f 20 5) (if r == 0 then k.getA.tag else if r == 1 then k.getX.tag else k.getY.tag) (fld f 14 4)

theorem skipReads_eq {cc : BitVec 5} (k : Ctx) (h : 0x10 ≤ cc.toNat) : skipReads cc k = some (skipReg k cc) := by
  rw [skipReads, skipReg, if_neg (by omega)]
  split
  · rfl
  · split <;> rfl

/-- A defined SKIP, with the register of its condition not POISON. -/
theorem skipInstr_run {f : BitVec 25} (hcc : (decide ((fld f 20 5).toNat < 0x1E) && fld f 0 14 == 0) = true)
    (hform : (if fld f 20 5 == 0x1C || fld f 20 5 == 0x1D then fld f 18 2 != 3 else fld f 18 2 == 0 && fld f 14 4 == 0) = true)
    (htag : ∀ w, skipReads (fld f 20 5) (t.getCtx c) = some w → (fld f 20 5).toNat < 0x1C → w.tag ≠ Tag.poison) :
    skipInstr f c t = .ok () (t.modCtx c fun k =>
      { k with pc := k.pc + (if skipHit (t.getCtx c) f then 8 else 4), skipPair := !skipHit (t.getCtx c) f }) := by
  unfold skipInstr
  rw [run_bind_ok (run_getC c t), run_bind_ok (by rw [run_needDef, hcc]; rfl), run_bind_ok (by rw [run_needDef, hform]; rfl)]
  have hno : ¬(0x10 ≤ (fld f 20 5).toNat ∧ (fld f 20 5).toNat < 0x1C ∧ (skipReg (t.getCtx c) (fld f 20 5)).tag == Tag.poison) := by
    rintro ⟨hlo, hhi, hp⟩
    exact htag _ (skipReads_eq _ hlo) hhi (eq_of_beq hp)
  rw [if_neg hno]
  rfl

/-- A SKIP whose condition reads a POISON register (R103). -/
theorem skipInstr_poison {f : BitVec 25} {w : TWord} (hcc : (decide ((fld f 20 5).toNat < 0x1E) && fld f 0 14 == 0) = true)
    (hform : (if fld f 20 5 == 0x1C || fld f 20 5 == 0x1D then fld f 18 2 != 3 else fld f 18 2 == 0 && fld f 14 4 == 0) = true)
    (hlt : (fld f 20 5).toNat < 0x1C) (hw : skipReads (fld f 20 5) (t.getCtx c) = some w) (hp : w.tag = Tag.poison) :
    skipInstr f c t = .error (.exc (plainExc 3 15)) t := by
  have hlo : 0x10 ≤ (fld f 20 5).toNat := by
    refine Nat.le_of_not_lt fun h => ?_
    rw [skipReads, if_pos h] at hw
    cases hw
  obtain rfl : skipReg (t.getCtx c) (fld f 20 5) = w := Option.some.inj ((skipReads_eq _ hlo).symm.trans hw)
  unfold skipInstr
  rw [run_bind_ok (run_getC c t), run_bind_ok (by rw [run_needDef, hcc]; rfl), run_bind_ok (by rw [run_needDef, hform]; rfl)]
  rw [if_pos ⟨hlo, hlt, beq_iff_eq.mpr hp⟩]
  exact run_bind_error (run_tagFault _ t)

theorem skipField (cc : BitVec 5) : fld (cc.setWidth 25 <<< 20) 20 5 = cc ∧ fld (cc.setWidth 25 <<< 20) 0 14 = (0 : BitVec 14) ∧
    fld (cc.setWidth 25 <<< 20) 18 2 = (0 : BitVec 2) ∧ fld (cc.setWidth 25 <<< 20) 14 4 = (0 : BitVec 4) := by
  revert cc; decide

theorem skipTagField (r : BitVec 2) (n : Tag) (neg : Bool) :
    let f := (if neg then 0x1D#25 else 0x1C#25) <<< 20 ||| r.setWidth 25 <<< 18 ||| n.setWidth 25 <<< 14
    fld f 20 5 = (if neg then 0x1D else 0x1C : BitVec 5) ∧ fld f 0 14 = (0 : BitVec 14) ∧ fld f 18 2 = r ∧ fld f 14 4 = n := by
  revert r n neg; decide

theorem skipConditions_code : ∀ e ∈ skipConditions, e.1.toNat < 0x1C := by decide

/-- The table of R114 is the model's condition. -/
theorem skipConditions_cond : ∀ e ∈ skipConditions, ∀ k x y, skipCond k e.1 x y = e.2 k := by
  simp [skipConditions, skipCond, skipReg, BitVec.msb_eq_getLsbD_last]

theorem skipForm_of_lt {cc : BitVec 5} (h : cc.toNat < 0x1C) : (cc == 0x1C || cc == 0x1D) = false := by
  simp only [Bool.or_eq_false_iff, beq_eq_false_iff_ne]
  constructor <;> rintro rfl <;> exact absurd h (by decide)

end

/-- Settles O17: the table of R114 is the model's condition, and the fields of the word are those it was made of. -/
theorem skipInstruction : Obligations.SkipInstruction := by
  intro c s t hb k
  have hplain (cc : BitVec 5) (hlt : cc.toNat < 0x1C) :
      (decide ((fld (cc.setWidth 25 <<< 20) 20 5).toNat < 0x1E) && fld (cc.setWidth 25 <<< 20) 0 14 == 0) = true ∧
      (if fld (cc.setWidth 25 <<< 20) 20 5 == 0x1C || fld (cc.setWidth 25 <<< 20) 20 5 == 0x1D then fld (cc.setWidth 25 <<< 20) 18 2 != 3
        else fld (cc.setWidth 25 <<< 20) 18 2 == 0 && fld (cc.setWidth 25 <<< 20) 14 4 == 0) = true := by
    obtain ⟨hcc, hz, hr, hn⟩ := skipField cc
    rw [hcc, hz, hr, hn, skipForm_of_lt hlt]
    exact ⟨by simpa using Nat.lt_trans hlt (by decide), rfl⟩
  refine ⟨fun cc p hp hw => ?_, fun cc p hp w hw hpoison => ?_, fun r w n neg hr => ?_⟩
  · have hlt := skipConditions_code _ hp
    have hcond := skipConditions_cond _ hp
    obtain ⟨hdef, hform⟩ := hplain cc hlt
    have hf : fld (cc.setWidth 25 <<< 20) 20 5 = cc := (skipField cc).1
    refine (runInstr_ends hb (skipInstr_run hdef hform fun w hr _ => hw w (hf ▸ hr))).trans ?_
    rw [modCtx_congr (t := t) (g := fun k => { k with pc := k.pc + (if p k then 8 else 4), skipPair := !p k })]
    simp only [skipHit, hf, hcond]
  · have hlt := skipConditions_code _ hp
    obtain ⟨hdef, hform⟩ := hplain cc hlt
    have hf : fld (cc.setWidth 25 <<< 20) 20 5 = cc := (skipField cc).1
    exact runInstr_stop hb (skipInstr_poison hdef hform (hf.symm ▸ hlt) (hf.symm ▸ hw) hpoison)
  · intro hit
    have hw : (if r == 0 then k.getA.tag else if r == 1 then k.getX.tag else k.getY.tag) = w.tag ∧ (r != 3) = true := by
      simp only [List.mem_cons, List.not_mem_nil, or_false, Prod.mk.injEq] at hr
      rcases hr with ⟨rfl, rfl⟩ | ⟨rfl, rfl⟩ | ⟨rfl, rfl⟩ <;> exact ⟨rfl, rfl⟩
    obtain ⟨hcc, hz, hfr, hn⟩ := skipTagField r n neg
    refine (runInstr_ends hb (skipInstr_run ?_ ?_ fun w _ hlt => ?_)).trans ?_
    · rw [hcc, hz]
      cases neg <;> rfl
    · rw [hcc, hfr, hw.2]
      cases neg <;> rfl
    · rw [hcc] at hlt
      cases neg <;> exact absurd hlt (by decide)
    · have hhit : skipHit (t.getCtx c) ((if neg then 0x1D#25 else 0x1C#25) <<< 20 ||| r.setWidth 25 <<< 18 ||| n.setWidth 25 <<< 14) = hit := by
        simp only [skipHit, hcc, hfr, hn]
        cases neg <;> exact congrArg (skipCond k _ · n) hw.1
      rw [hhit]

end Sys2Proof.Machine

namespace Sys2Proof.Machine
open Sys2Proof

/-! ## I/O instructions (R107, R126, R152, R423, R430, R431) -/

section
variable {c : CtxId} {s t u : State} {m : BitVec 3} {d : BitVec 22} {opc : IoOpc} {accA : Tag → Bool} {here : CtxId → Nat → M Unit}

theorem run_addrOf (c : CtxId) (m : BitVec 3) (d : BitVec 22) (t : State) : addrOf c m d t = .ok (eaOf c m d t) t := rfl

/-- What the context of a request on the mesh waits for. -/
def ioWaitOf (c : CtxId) (opc : IoOpc) (m : BitVec 3) (d : BitVec 22) (t : State) : IoWait :=
  { addr := fld (eaOf c m d t) 0 32, opc := opc, txid := ioTxid t, since := t.time.tick, next := (t.getCtx c).pc + 4
    dest := if opc = .read ∨ opc = .claim then .a else .none
    inc := if m = 2 then d.signExtend 64 else 0 }

/-- The state after a request on the mesh was sent. -/
def ioSent (c : CtxId) (opc : IoOpc) (m : BitVec 3) (d : BitVec 22) (t : State) : State :=
  (countCtx 2 7 1 c none (bumpTxid (ioTxid t) (sendIoReq (fld (eaOf c m d t) 0 32) opc (issuerOf t c) (ioTxid t)
    (if opc = .write ∨ opc = .complete then (t.getCtx c).getA else ⟨0, Tag.int⟩) t))).modCtx c fun k =>
      { k with io := some (ioWaitOf c opc m d t) }

theorem needIo_ok (hhigh : fld (eaOf c m d t) 32 32 = 0)
    (hallow : ioAllowed t (t.getCtx c) (fld (eaOf c m d t) 0 32) = true) {mesh : Bool}
    (htoll : mesh = true → tollAllowsIo t (fld (eaOf c m d t) 0 32) = true) :
    needIo c (eaOf c m d t) mesh 6 t = .ok () t := by
  unfold needIo
  rw [run_bind_ok (run_get t)]
  cases mesh with
  | false => simp only [hhigh, hallow]; rfl
  | true => simp only [hhigh, hallow, htoll rfl]; rfl

/-- An I/O access whose checks pass is done at once at a port of this core (R107). -/
theorem ioAccess_here (hb : Begins c s t) (hok : IoOk c m d t) (hacc : accA (t.getCtx c).getA.tag = true)
    (hl : isLocal t (fld (eaOf c m d t) 0 32) = true) (hh : here c (fldN (eaOf c m d t) 0 19) t = .ok () u) :
    runHold (ioAccess opc m d accA here) s = .next (ends c s (u.modCtx c (incY m d))) := by
  obtain ⟨⟨hmode, hbase⟩, hhigh, hallow⟩ := hok
  refine runHold_ends hb ?_
  unfold ioAccess
  rw [run_bind_ok hmode, run_bind_ok (run_getC c t)]
  simp only [hacc, Bool.not_true, Bool.false_eq_true, if_false]
  rw [run_bind_ok hbase, run_bind_ok (run_addrOf c m d t), run_bind_ok (run_get t)]
  simp only [hl, Bool.not_true, if_true]
  rw [run_bind_ok (needIo_ok (mesh := false) hhigh hallow fun h => absurd h Bool.false_ne_true), run_bind_ok hh,
    run_bind_ok (run_postIncrement c m d u)]
  rfl

/-- At another address the access sends one request, and its context waits (R126, R423). -/
theorem ioAccess_mesh_run (hok : IoOk c m d t) (hacc : accA (t.getCtx c).getA.tag = true)
    (hl : isLocal t (fld (eaOf c m d t) 0 32) = false) (htoll : tollAllowsIo t (fld (eaOf c m d t) 0 32) = true)
    (hlane : laneFull t 2 = false) : ioAccess opc m d accA here c t = .ok false (ioSent c opc m d t) := by
  obtain ⟨⟨hmode, hbase⟩, hhigh, hallow⟩ := hok
  have hneedLane : needLane 2 t = .ok () t := by
    unfold needLane
    rw [run_bind_ok (run_get t), hlane]
    rfl
  unfold ioAccess
  rw [run_bind_ok hmode, run_bind_ok (run_getC c t)]
  simp only [hacc, Bool.not_true, Bool.false_eq_true, if_false]
  rw [run_bind_ok hbase, run_bind_ok (run_addrOf c m d t), run_bind_ok (run_get t)]
  simp only [hl, Bool.not_false, Bool.false_eq_true, if_false]
  rw [run_bind_ok (needIo_ok hhigh hallow fun _ => htoll), run_bind_ok hneedLane, run_bind_ok (run_get t),
    run_bind_ok (run_modify _ t), run_bind_ok (run_modC c _ _)]
  unfold ioSent ioWaitOf
  simp only [beq_iff_eq]
  cases opc <;> rfl

/-- What the statement says of an instruction that sends a request. -/
theorem ioAccess_mesh (hb : Begins c s t) (hok : IoOk c m d t) (hacc : accA (t.getCtx c).getA.tag = true)
    (hl : isLocal t (fld (eaOf c m d t) 0 32) = false) (htoll : tollAllowsIo t (fld (eaOf c m d t) 0 32) = true)
    (hlane : laneFull t 2 = false) :
    ∃ p, runHold (ioAccess opc m d accA here) s =
      .next (accountChange s ((ioSent c opc m d t).modCtx c fun k => { k with skipPair := p })) :=
  runHold_waits hb (ioAccess_mesh_run hok hacc hl htoll hlane)

/-- An address of this core's I/O space names one of its own ports (R107). -/
theorem isLocal_eaOf (h31 : bit (eaOf c m d t) 31 = false) (hcore : fld (eaOf c m d t) 19 12 = t.chain.caddr) :
    isLocal t (fld (eaOf c m d t) 0 32) = true := by
  have h1 : bit (fld (eaOf c m d t) 0 32) 31 = bit (eaOf c m d t) 31 := by simp
  have h2 : fld (fld (eaOf c m d t) 0 32) 19 12 = fld (eaOf c m d t) 19 12 := by
    ext i hi
    have : 19 + i < 32 := by omega
    simp
  rw [isLocal, h1, h2, h31, hcore]
  simp

theorem workPort_claim (w : BitVec 3) : workPort (0x400 + 16 * w.toNat) = some (w, 0) := by
  revert w
  decide

theorem claimWord_eq (stop : Bool) (w : BitVec 3) (core : CoreId) (epoch : BitVec 16) (i : W32) :
    claimWord stop w core epoch i = ⟨(i.setWidth 64 : W64) ||| epoch.setWidth 64 <<< 32 ||| core.setWidth 64 <<< 48 |||
      w.setWidth 64 <<< 60 ||| (BitVec.ofBool stop).setWidth 64 <<< 63, Tag.epoch⟩ := by
  have h : (bAt 63 stop : W64) = (BitVec.ofBool stop).setWidth 64 <<< 63 := by cases stop <;> rfl
  simp only [claimWord, at', h, BitVec.shiftLeft_zero]

/-- Bit 63 of a claim word is its end marker (R430). -/
theorem bit63_claimWord (stop : Bool) (w : BitVec 3) (core : CoreId) (epoch : BitVec 16) (i : W32) :
    bit (claimWord stop w core epoch i).val 63 = stop := by
  cases stop <;> simp [claimWord, at', bAt]

/-- CLAIM at its counter's port (R430, R431). -/
theorem localClaim_run (w : BitVec 3) (t : State) :
    let q := vget t.coop.work w.toNat WorkCtr.reset
    localClaim c (0x400 + 16 * w.toNat) t = .ok () (
      if q.limit.toNat ≤ q.next.toNat then
        (countCtx 6 3 1 c none t).modCtx c fun k => k.setA (claimWord true w t.chain.caddr q.epoch q.limit)
      else (countCtx 6 2 1 c none (setWork w { q with next := q.next + 1 } t)).modCtx c fun k =>
        k.setA (claimWord false w t.chain.caddr q.epoch q.next)) := by
  intro q
  unfold localClaim
  simp only [workPort_claim]
  rw [run_bind_ok (run_get t)]
  by_cases h : q.limit.toNat ≤ q.next.toNat
  · have hop : claimOp w t = (claimWord true w t.chain.caddr q.epoch q.limit, t) := if_pos h
    rw [hop, if_pos h]
    simp only [bit63_claimWord, if_true]
    rfl
  · have hop : claimOp w t = (claimWord false w t.chain.caddr q.epoch q.next, setWork w { q with next := q.next + 1 } t) := if_neg h
    rw [hop, if_neg h]
    simp only [bit63_claimWord, Bool.false_eq_true, if_false]
    rfl

/-- COMPLETE at its counter's port (R431). -/
theorem localComplete_run (w : BitVec 3) (t : State) :
    let q := vget t.coop.work w.toNat WorkCtr.reset
    let a := (t.getCtx c).getA.val
    let good := bit a 63 = false ∧ fld a 60 3 = w ∧ fld a 48 12 = t.chain.caddr ∧ fld a 32 16 = q.epoch ∧ fldN a 0 32 < q.next.toNat
    localComplete c (0x400 + 16 * w.toNat) t = .ok () (setWork w (if good then { q with done := q.done + 1 }
      else { q with rej := if q.rej = BitVec.allOnes _ then q.rej else q.rej + 1 }) t) := by
  intro q a good
  have hgood : completeAccepts t w a = true ↔ good := by
    simp only [completeAccepts, workCtr, Bool.and_eq_true, Bool.not_eq_true', beq_iff_eq, decide_eq_true_eq, BitVec.lt_def, good, fldN, q]
    tauto
  unfold localComplete
  simp only [workPort_claim]
  refine (run_modify _ t).trans (congrArg _ ?_)
  by_cases h : good
  · rw [if_pos h]
    exact if_pos (hgood.mpr h)
  · rw [if_neg h]
    exact (if_neg (mt hgood.mp h)).trans (by simp only [satInc]; rfl)

end

/-- Settles O34: each of the four is one I/O access, whose port of this core is done at once. -/
theorem ioInstructions : Obligations.IoInstructions := by
  unfold Obligations.IoInstructions
  constructor
  · intro c s t u m d hb hok ea k port h31 hcore
    have hl := isLocal_eaOf h31 hcore
    refine ⟨fun w hw => ?_, fun hp hw => ?_, fun w hport => ⟨?_, fun htag => ?_⟩⟩
    · refine (ioAccess_here hb hok rfl hl ((run_bind_ok hw).trans (run_modC c _ u))).trans ?_
      rw [modCtx_modCtx]
    · exact ioAccess_here hb hok (by simpa using hp) hl ((run_bind_ok (run_getC c t)).trans hw)
    · refine (ioAccess_here hb hok rfl hl (hport ▸ localClaim_run w t)).trans ?_
      split
      · rw [modCtx_modCtx]
        simp only [claimWord_eq]
      · rw [modCtx_modCtx]
        simp only [claimWord_eq]
        rfl
    · exact ioAccess_here hb hok (by simpa using htag) hl (by rw [show fldN (eaOf c m d t) 0 19 = _ from hport]; exact localComplete_run w t)
  · intro row hrow c s t m d hb hok a k x hacc hl htoll hlane
    have key : ∃ p, exec (row.1 m d) s = .next (accountChange s ((ioSent c row.2.1 m d t).modCtx c fun k => { k with skipPair := p })) := by
      simp only [List.mem_cons, List.not_mem_nil, or_false] at hrow
      rcases hrow with rfl | rfl | rfl | rfl
      · exact ioAccess_mesh hb hok rfl hl htoll hlane
      · exact ioAccess_mesh hb hok (by simpa using hacc) hl htoll hlane
      · exact ioAccess_mesh hb hok rfl hl htoll hlane
      · exact ioAccess_mesh hb hok (by simpa using hacc) hl htoll hlane
    obtain ⟨p, hp⟩ := key
    refine ⟨p, ioWaitOf c row.2.1 m d t, hp.trans ?_, rfl, rfl, rfl, rfl, rfl, rfl, rfl⟩
    unfold ioSent
    rw [modCtx_modCtx]

end Sys2Proof.Machine

namespace Sys2Proof.Machine
open Sys2Proof

/-! ## Returns (R383 to R385, R394, R417) -/

section
variable {c : CtxId} {s t u v x : State}

/-- The checks of R385, in the statement's words. -/
theorem returnCheck_eq (s : State) (k : Ctx) (st : W32) (sup world : Bool) (mask : BitVec 3) (ofib : Bool) (pcc : CapPair)
    (placed : Bool) : returnCheck s k ⟨st, ⟨sup, world, mask⟩, ofib, pcc, placed⟩ = illegalCheck s k st sup world mask ofib pcc placed := by
  have h1 : (bit st 11 && !sup) = true ↔ bit st 11 = true ∧ sup = false := by simp
  have h2 : (twoWorlds s && (bit st 12 != world || (world && !k.world))) = true ↔
      twoWorlds s = true ∧ (bit st 12 ≠ world ∨ world = true ∧ bit k.st 12 = false) := by simp [Ctx.world]
  have h4 : (capsConf s && !(placed && capValid s pcc && pcc.perm 2)) = true ↔
      capsConf s = true ∧ ¬ (placed = true ∧ capValid s pcc = true ∧ bit pcc.hi.val 56 = true) := by
    simp only [Bool.and_eq_true, Bool.not_eq_true', ← Bool.not_eq_true, and_assoc]
    rfl
  have h5 : (ofib && !k.inEsc) = true ↔ ofib = true ∧ bit k.st 26 = false := by simp [Ctx.inEsc]
  simp only [returnCheck, illegalCheck, h1, h2, h4, h5]
  rfl

/-- ST with FIB replaced and ESC 0. -/
theorem setBit_fib_esc (y : W32) (b : Bool) :
    setBit (setBit y 14 b) 26 false = y &&& 0xFBFFBFFF#32 ||| (if b then 0x4000#32 else 0) := by
  cases b with
  | false =>
    change (y &&& ~~~0x4000#32) &&& ~~~0x4000000#32 = (y &&& 0xFBFFBFFF#32) ||| 0#32
    rw [BitVec.or_zero, BitVec.and_assoc]
    rfl
  | true =>
    change (y ||| 0x4000#32) &&& ~~~0x4000000#32 = (y &&& 0xFBFFBFFF#32) ||| 0x4000#32
    have hbit : ∀ i : Fin 32, ∀ b : Bool, ((b || (0x4000#32)[i.val]) && !(0x4000000#32)[i.val]) =
        (b && (0xFBFFBFFF#32)[i.val] || (0x4000#32)[i.val]) := by decide
    ext i hi
    simp only [BitVec.getElem_or, BitVec.getElem_and, BitVec.getElem_not]
    exact hbit ⟨i, hi⟩ y[i]

theorem fld_low (x : W64) : fld x 0 32 = x.setWidth 32 := by
  ext i hi
  simp

/-- The bits of ST that RFE restores (R384 step 4). -/
theorem rfeSt_eq (s : State) (k : Ctx) (img : W64) : rfeSt s k img =
    ((k.st &&& ~~~restoreMask s) ||| (img.setWidth 32 &&& restoreMask s)) &&& 0xFBFFBFFF#32 |||
      (if bit img 37 then 0x4000#32 else 0) := by
  unfold rfeSt
  simp only [setBit_fib_esc, fld_low]

theorem prevWin_eq {i : Nat} (h : i < 7) : (prevWin (BitVec.ofNat 3 i)).toNat = (i + 6) % 7 := by
  simp [prevWin]
  omega

/-- Linked windows begin at the one that LINK names. -/
theorem find_link {i : Nat} (h : i < 7) : (List.range 7).find? (fun j => bit (1#7 <<< i) j) = some i := by
  revert i
  decide

/-- The reserved window goes with every linked one and those newer (R417). -/
theorem releaseWindow_spec (w : Windows) :
    releaseWindow w = { w with rsv := false, link := 0, res := (releaseWindow w).res, cur := (releaseWindow w).cur } ∧
      (w.link = 0 → ((releaseWindow w).res, (releaseWindow w).cur) = (w.res, w.cur)) ∧
      (∀ i < 7, w.link = 1#7 <<< i →
        (releaseWindow w).res = w.res - BitVec.ofNat 3 ((w.cur.toNat + 7 - i) % 7 + 1) ∧
        (releaseWindow w).cur.toNat = (i + 6) % 7) := by
  refine ⟨?_, fun h => ?_, fun i hi h => ?_⟩
  · unfold releaseWindow
    split
    case h_1 hnone =>
      have hlink : w.link = 0 := by
        ext j hj
        have := List.find?_eq_none.mp hnone j (List.mem_range.mpr hj)
        simpa [hj] using this
      rw [hlink]
    case h_2 => rfl
  · unfold releaseWindow
    rw [h]
    rfl
  · unfold releaseWindow
    rw [h, find_link hi]
    exact ⟨rfl, prevWin_eq hi⟩

/-! ### Completion -/

/-- Word i of a frame that was read. -/
def frameWord (ws : List TWord) (i : Nat) : TWord := ws.getD i TWord.poison

/-- What a frame at an address returns to (R384). -/
def frameImage (s : State) (w : Nat → TWord) (sp : W64) : ReturnImage :=
  ⟨fld (w 1).val 0 32 &&& restoreMask s, ⟨bit (w 1).val 35, bit (w 1).val 36, fld (w 1).val 32 3⟩, bit (w 1).val 37, ⟨w 4, w 5⟩,
    sp.toNat % 16 == 0⟩

theorem restoreMask_of_conf (h : capsConf u = capsConf t) : restoreMask u = if capsConf t then 0x00FBAF0F#32 else 0x00FBBF0F#32 := by
  unfold restoreMask
  rw [h]

theorem frameImage_eq (h : capsConf u = capsConf t) (w : Nat → TWord) (sp : W64) : frameImage u w sp =
    ⟨(w 1).val.setWidth 32 &&& (if capsConf t then 0x00FBAF0F#32 else 0x00FBBF0F#32),
      ⟨bit (w 1).val 35, bit (w 1).val 36, fld (w 1).val 32 3⟩, bit (w 1).val 37, ⟨w 4, w 5⟩, sp.toNat % 16 == 0⟩ := by
  rw [frameImage, fld_low, restoreMask_of_conf h]

/-- The checks before RFE reads its frame pass. -/
structure FrameReadable (c : CtxId) (t : State) (ws : List TWord) (u : State) : Prop where
  fib : bit (t.getCtx c).st 14 = false
  sup : bit (t.getCtx c).st 11 = true
  canonical : needCanonical c (t.getCtx c).stk.sp .read t = .ok () t
  aligned : (t.getCtx c).stk.sp.toNat % 8 = 0
  stack : needStack c (t.getCtx c).stk.sp 64 t = .ok () t
  ddc : needDdc c .read (t.getCtx c).stk.sp 64 false t = .ok () t
  read : frameRead c (t.getCtx c).stk.sp 8 t = .ok ws u

/-- What RFE does with the frame that it read. -/
theorem rfeInstr_of_frame {ws : List TWord} (h : FrameReadable c t ws u) : rfeInstr 0 c t =
    (if frameTagsOk (frameWord ws) then do
        needReturn u (t.getCtx c) (frameImage u (frameWord ws) (t.getCtx c).stk.sp)
        modC c (rfeRestore u (frameWord ws))
      else throw (.illegal 5 false) : M Unit) u := by
  have hdef : needDef ((0 : BitVec 24) == 0 && !(t.getCtx c).fib) t = .ok () t := by
    have : (t.getCtx c).fib = false := h.fib
    rw [this]
    rfl
  have hpriv : needPriv (t.getCtx c).sup t = .ok () t := by
    have : (t.getCtx c).sup = true := h.sup
    rw [this]
    rfl
  have halign : needAligned (t.getCtx c).stk.sp 8 t = .ok () t := by
    unfold needAligned
    rw [if_pos h.aligned]
    rfl
  unfold rfeInstr
  rw [run_bind_ok (run_getC c t), run_bind_ok hdef, run_bind_ok hpriv, run_bind_ok h.canonical, run_bind_ok halign,
    run_bind_ok h.stack, run_bind_ok h.ddc, run_bind_ok h.read]
  change (if !frameTagsOk (frameWord ws) then _ else _ : M Unit) u = _
  cases frameTagsOk (frameWord ws) <;> rfl

/-- The tags and the alignment of R384 step 2. -/
theorem frameTagsOk_iff (w : Nat → TWord) : frameTagsOk w = true ↔
    (w 0).tag = Tag.cptr ∧ (w 2).tag = Tag.dptr ∧ isPlain (w 1).tag = true ∧
      (w 0).val.toNat % (if bit (w 1).val 15 then 2 else 4) = 0 := by
  simp [frameTagsOk, and_assoc]

/-- A frame with the tags and alignment of R384 and no illegal check is restored. -/
theorem rfeInstr_restores {ws : List TWord} (h : FrameReadable c t ws u) (hok : frameTagsOk (frameWord ws) = true)
    (hcheck : returnCheck u (t.getCtx c) (frameImage u (frameWord ws) (t.getCtx c).stk.sp) = none) :
    rfeInstr 0 c t = .ok () (u.modCtx c (rfeRestore u (frameWord ws))) := by
  have hret : needReturn u (t.getCtx c) (frameImage u (frameWord ws) (t.getCtx c).stk.sp) u = .ok () u := by
    unfold needReturn
    rw [hcheck]
    rfl
  rw [rfeInstr_of_frame h, if_pos hok, run_bind_ok hret]
  rfl

/-- A return that fails a check of R385 is illegal; a PCC whose CHK is wrong counts as forged (R394). -/
theorem needReturn_fails {k : Ctx} {r : ReturnImage} {n : BitVec 8} (h : returnCheck s k r = some n) :
    needReturn s k r t = .error (.illegal n (n == 4 && capTagged r.pcc && !capValid s r.pcc)) t := by
  unfold needReturn
  rw [h]
  rfl

/-! ### Escalation of an illegal return -/

theorem OnlyPerf.spad (h : OnlyPerf s t) : t.spad = s.spad := by rw [h.1]
theorem OnlyPerf.caches (h : OnlyPerf s t) : t.caches = s.caches := by rw [h.1]
theorem OnlyPerf.boot (h : OnlyPerf s t) : t.boot = s.boot := by rw [h.1]

/-- From s to t, what an escalation's records and the accounting after it may change: WAITING contexts may be woken, and the rest of the
contexts, the scratchpad, the caches and the boot state stay. -/
def OnlyRecords (s t : State) : Prop :=
  (∀ d, SameOrWoken (s.getCtx d) (t.getCtx d)) ∧ t.spad = s.spad ∧ t.caches = s.caches ∧ t.boot = s.boot

theorem OnlyRecords.of_eq (hc : t.ctx = s.ctx) (hs : t.spad = s.spad) (hk : t.caches = s.caches) (hb : t.boot = s.boot) :
    OnlyRecords s t :=
  ⟨fun _ => .inl (by unfold State.getCtx; rw [hc]), hs, hk, hb⟩

theorem OnlyRecords.trans (h : OnlyRecords s t) (g : OnlyRecords t u) : OnlyRecords s u := by
  obtain ⟨hc, hs, hk, hb⟩ := h
  obtain ⟨gc, gs, gk, gb⟩ := g
  exact ⟨fun d => (hc d).trans (gc d), gs.trans hs, gk.trans hk, gb.trans hb⟩

theorem OnlyPerf.records (h : OnlyPerf s t) : OnlyRecords s t := ⟨h.2, h.spad, h.caches, h.boot⟩

theorem Alarmed.records (h : Alarmed s t) : OnlyRecords s t := by
  refine .of_eq ?_ ?_ ?_ ?_ <;> rw [h]

theorem traceRec_records (typ : BitVec 6) (ctx : Option (CtxId × W32)) (p0 p1 : W64) (s : State) :
    OnlyRecords s (traceRec typ ctx p0 p1 s) := by
  refine .of_eq ?_ ?_ ?_ ?_ <;> rw [traceRec_eq]

theorem entryRecords_records (c : CtxId) (k : Ctx) (esc : Bool) (e p : W64) (s : State) : OnlyRecords s (entryRecords c k esc e p s) := by
  have h := fun cause => (traceRec_records 3 (some (c, (s.getCtx c).sys.markr)) e p s).trans
    (countEvent_eq 0 7 1 cause (.ctx c) none _).records
  unfold entryRecords
  dsimp only
  split
  · exact (h _).trans (countEvent_eq ..).records
  · exact h _

theorem freezeTrigger_records (n : Nat) (s : State) : OnlyRecords s (freezeTrigger n s) := by
  refine .of_eq ?_ ?_ ?_ ?_ <;> rw [freezeTrigger_eq]

theorem snapTrigger_records (n : BitVec 4) (s : State) : OnlyRecords s (snapTrigger n s) := by
  unfold snapTrigger
  dsimp only
  repeat' split
  all_goals exact .of_eq rfl rfl rfl rfl

/-- What follows the entry in the step: the alarm, the accounting, and the answers that the context no longer needs. -/
theorem afterEntry_records (a b : State) (s : State) : OnlyRecords s (dropFills c (accountChange a (fireAlarm b s))) :=
  (fireAlarm_alarmed b s).records.trans ((accountChange_eq a _).records.trans (.of_eq rfl rfl rfl rfl))

/-- The lame state (R380, R381). -/
theorem goLame_lame (cause : BitVec 3) (b : State) {y : State} (h : OnlyRecords (goLame cause c b) y) : Lame c cause b y := by
  let r : State := { b with
    ctx := b.ctx.map fun k => { k with run := RunState.stopped }
    boot := { b.boot with lame := true, lameCause := cause, lameCtx := c, lameWb := true } }
  have hr : OnlyRecords r (goLame cause c b) := by
    have hrec := fun detail => ((accountChange_eq b r).records.trans (wayside_alarmed 1 (some c) detail _).records).trans (freezeTrigger_records 19 _)
    unfold goLame
    dsimp only
    split
    · exact (hrec _).trans (snapTrigger_records 3 _)
    · exact hrec _
  obtain ⟨hctx, hspad, hcaches, hboot⟩ := hr.trans h
  refine ⟨hboot, fun d => ?_, hspad, hcaches⟩
  have hrun : (r.getCtx d).run = .stopped := by
    rcases ctxId_cases d with rfl | rfl | rfl | rfl <;> rfl
  rw [(hctx d).eq_of (by rw [hrun]; decide)]
  exact hrun

/-- The frame that an escalation stores is that of R377. -/
theorem frameWords_eq (b : State) (k : Ctx) (r : EntryReq) (e : W64) (ofib : Bool) :
    frameWords b k r e ofib = savedFrame b k r.retPc e r.far ofib := by
  have himg : stImage k ofib = (k.st.setWidth 64 ||| ((fld k.st 8 3).setWidth 64 <<< 32) |||
      ((BitVec.ofBool (bit k.st 11)).setWidth 64 <<< 35) ||| ((BitVec.ofBool (bit k.st 12)).setWidth 64 <<< 36) |||
      ((BitVec.ofBool (ofib && bit k.st 14)).setWidth 64 <<< 37) : W64) := by
    simp only [stImage, at', bAt_eq_ofBool]
    rfl
  unfold frameWords savedFrame
  rw [himg]
  cases capsConf b <;> rfl

/-- The frame of an escalation is usable in the statement's words (R378). -/
theorem escFrameOk_iff (b : State) (k : Ctx) : escFrameOk b k = true ↔
    64 ≤ k.sys.esp.toNat ∧ k.sys.esplo.toNat ≤ (k.sys.esp - 64).toNat ∧ k.sys.esp.toNat % 16 = 0 ∧
    ∀ i < 8, mapDevice b ((k.sys.esp - 64 + BitVec.ofNat 64 (8 * i)).setWidth 52) = false ∧
      inSpadHole ((k.sys.esp - 64 + BitVec.ofNat 64 (8 * i)).setWidth 52) = false := by
  simp [escFrameOk, and_assoc]

/-- The entry of an illegal return (R385). -/
def illegalEntry (k : Ctx) (n : BitVec 8) : EntryReq :=
  { vec := 0, code := n, stl := false, world := k.world, level := none, retPc := k.pc, pc := 0, irq := false, far := ⟨0, Tag.int⟩ }

/-- The state in which an illegal return escalates: it is counted, as a forged capability too (R385, R394). -/
def illegalBase (s : State) (forged : Bool) : State :=
  if forged then countViolation 0 (countViolation 1 s) else countViolation 1 s

theorem escalate_inEsc {r : EntryReq} {e : BitVec 4} {v : BitVec 6} (h : bit (s.getCtx c).st 26 = true) :
    escalate c r e v s = .ok () (goLame 3 c s) := by
  have h : (s.getCtx c).inEsc = true := h
  unfold escalate
  rw [run_bind_ok (run_get s)]
  simp only [h, if_true]
  rfl

/-- An illegal return escalates from the state in which it is counted, and then the alarm may fire. -/
theorem takeIllegal_run (n : BitVec 8) (forged : Bool) (s : State) : takeIllegal c n forged s =
    (escalate c (illegalEntry ((illegalBase s forged).getCtx c) n) 4 0 >>= fun _ => modify (fireAlarm s) : M Unit)
      (illegalBase s forged) := by
  have hesc (b : State) : (do
      let b ← get
      if (b.getCtx c).inEsc then
        set (goLame 3 c b)
        modify (fireAlarm s)
      else
        escalate c (illegalEntry (b.getCtx c) n) 4 0
        modify (fireAlarm s) : M Unit) b =
      (escalate c (illegalEntry (b.getCtx c) n) 4 0 >>= fun _ => modify (fireAlarm s) : M Unit) b := by
    rw [run_bind_ok (run_get b)]
    cases h : (b.getCtx c).inEsc with
    | true => exact by rw [run_bind_ok (escalate_inEsc h)]; rfl
    | false => rfl
  unfold takeIllegal
  rw [run_bind_ok (run_get s), run_bind_ok (run_modify _ s)]
  cases forged with
  | false => exact hesc (countViolation 1 s)
  | true => exact (run_bind_ok (run_modify _ _)).trans (hesc (countViolation 0 (countViolation 1 s)))

/-- A return that is illegal and escalates into v leaves v, with the alarm and the accounting of the step. -/
theorem afterStop_illegal {n : BitVec 8} {forged : Bool} (hn : NoInterruptFirst c s)
    (h : escalate c (illegalEntry ((illegalBase (rollback s t) forged).getCtx c) n) 4 0 (illegalBase (rollback s t) forged) = .ok () v) :
    afterStop c s t (.illegal n forged) = dropFills c (accountChange s (fireAlarm (rollback s t) v)) := by
  have hint : (atBoundary (s.getCtx c) && (bestVector s c).isSome) = false := by
    cases hb : atBoundary (s.getCtx c) with
    | false => rfl
    | true => rw [hn hb]; rfl
  have htake : takeIllegal c n forged (rollback s t) = .ok () (fireAlarm (rollback s t) v) :=
    (takeIllegal_run n forged _).trans (run_bind_ok h)
  unfold afterStop
  simp only [hint, Bool.false_eq_true, if_false, htake]

/-- The escalation bank and handler are in force (R378, R379). -/
theorem escalate_enters {b x : State} {r : EntryReq} {esr : BitVec 4} {v : BitVec 6} {ws : List (Phys × WPath)}
    (hesc : bit (b.getCtx c).st 26 = false) (hvec : bit b.intr.evec 0 = true) (hframe : escFrameOk b (b.getCtx c) = true)
    (hprep : prepWords c ((List.range 8).map fun i =>
      let a := (b.getCtx c).sys.esp - 64 + BitVec.ofNat 64 (8 * i)
      ⟨a, a.setWidth 52, false, false, false, false⟩) b = .ok ws u) (hpath : ws.all (pathOk u) = true)
    (hcommit : commitWords none c ws (frameWords b (b.getCtx c) r (ecauseWord r.code r.vec r.stl esr v) true) u = .ok () x) :
    escalate c r esr v b = .ok () (entryRecords c (b.getCtx c) true (ecauseWord r.code r.vec r.stl esr v) r.retPc
      (x.modCtx c (enterEsc b ((b.getCtx c).sys.esp - 64) (ecauseWord r.code r.vec r.stl esr v)))) := by
  have hesc : (b.getCtx c).inEsc = false := hesc
  have hneed : needPaths ws u = .ok () u := by
    unfold needPaths
    rw [run_bind_ok (run_get u), hpath]
    rfl
  unfold escalate
  rw [run_bind_ok (run_get b)]
  simp only [hesc, hvec, hframe, Bool.not_true, Bool.false_eq_true, if_false]
  rw [run_bind_ok hprep, run_bind_ok hneed, run_bind_ok hcommit]
  rfl

theorem escalate_noVector {b : State} {r : EntryReq} {esr : BitVec 4} {v : BitVec 6}
    (hesc : bit (b.getCtx c).st 26 = false) (hvec : bit b.intr.evec 0 = false) : escalate c r esr v b = .ok () (goLame 1 c b) := by
  have hesc : (b.getCtx c).inEsc = false := hesc
  unfold escalate
  rw [run_bind_ok (run_get b)]
  simp only [hesc, hvec, Bool.not_false, Bool.false_eq_true, if_false, if_true]
  rfl

theorem escalate_noFrame {b : State} {r : EntryReq} {esr : BitVec 4} {v : BitVec 6}
    (hesc : bit (b.getCtx c).st 26 = false) (hvec : bit b.intr.evec 0 = true) (hframe : escFrameOk b (b.getCtx c) = false) :
    escalate c r esr v b = .ok () (goLame 2 c b) := by
  have hesc : (b.getCtx c).inEsc = false := hesc
  unfold escalate
  rw [run_bind_ok (run_get b)]
  simp only [hesc, hvec, hframe, Bool.not_false, Bool.not_true, Bool.false_eq_true, if_false, if_true]
  rfl

/-- The context that has entered the escalation handler, in the statement's words (R379). -/
theorem enterEsc_eq (b : State) (e : W64) (k : Ctx) (f : W64) : enterEsc b f e k = { k with
    pc := (fld b.intr.evec 2 50).setWidth 64 <<< 2
    st := (k.st &&& 0x03FB000F#32) ||| 0x04000F00#32 ||| (if twoWorlds b then 0x1000#32 else 0)
    sys := { k.sys with ecause := e }
    esc := { k.esc with stk := ⟨f, k.sys.esplo, k.sys.esp⟩ }
    pcc := if capsConf b then rootCap b else k.pcc
    ddc := if capsConf b then rootCap b else k.ddc
    skipPair := false } := rfl

theorem SameOrWoken.caps {k k' : Ctx} (h : SameOrWoken k k') : k'.pcc = k.pcc ∧ k'.ddc = k.ddc := by
  rcases h with rfl | ⟨-, now, rfl⟩
  · exact ⟨rfl, rfl⟩
  · unfold Ctx.wokenByIrq
    split <;> exact ⟨rfl, rfl⟩

/-- What the records and the accounting leave of an escalation, in the statement's words (R378, R379). -/
theorem escalated_of_entered {b x y : State} {f e : W64} (h : OnlyRecords (x.modCtx c (enterEsc b f e)) y) :
    let k0 := x.getCtx c
    let k' := y.getCtx c
    SameOrWoken { k0 with
      pc := (fld b.intr.evec 2 50).setWidth 64 <<< 2
      st := (k0.st &&& 0x03FB000F#32) ||| 0x04000F00#32 ||| (if twoWorlds b then 0x1000#32 else 0)
      sys := { k0.sys with ecause := e }
      esc := { k0.esc with stk := ⟨f, k0.sys.esplo, k0.sys.esp⟩ }
      pcc := k'.pcc, ddc := k'.ddc, skipPair := false } k' ∧
    (k'.pcc, k'.ddc) = (if capsConf b then (rootCap b, rootCap b) else (k0.pcc, k0.ddc)) ∧
    (∀ d, d ≠ c → SameOrWoken (x.getCtx d) (y.getCtx d)) ∧ y.spad = x.spad ∧ y.caches = x.caches ∧ y.boot = x.boot := by
  intro k0 k'
  obtain ⟨hctx, hspad, hcaches, hboot⟩ := h
  have hc : SameOrWoken (enterEsc b f e k0) k' := by
    have h := hctx c
    rwa [getCtx_modCtx] at h
  obtain ⟨hpcc, hddc⟩ := hc.caps
  refine ⟨?_, ?_, fun d hd => ?_, hspad, hcaches, hboot⟩
  · rw [hpcc, hddc]
    exact hc
  · rw [hpcc, hddc]
    unfold enterEsc
    cases capsConf b <;> rfl
  · have h := hctx d
    rwa [getCtx_modCtx_ne x _ hd] at h

/-- What an illegal return leaves escalates, or makes the core lame (R378 to R380, R385). -/
theorem takeIllegal_escalated {n : BitVec 8} {forged : Bool} (hn : NoInterruptFirst c s) :
    let b := illegalBase (rollback s t) forged
    Escalated c b (b.getCtx c).pc (ecauseOf n 0 false 4 0) ⟨0, Tag.int⟩ (afterStop c s t (.illegal n forged)) := by
  intro b
  have hlame (cause : BitVec 3) (h : escalate c (illegalEntry (b.getCtx c) n) 4 0 b = .ok () (goLame cause c b)) :
      Lame c cause b (afterStop c s t (.illegal n forged)) := by
    rw [afterStop_illegal hn h]
    exact goLame_lame cause b (afterEntry_records ..)
  have hcause : ecauseWord n 0 false 4 0 = ecauseOf n 0 false 4 0 := by
    simp only [ecauseWord, ecauseOf, at', bAt_eq_ofBool, BitVec.shiftLeft_zero]
  refine ⟨fun h => hlame 3 (escalate_inEsc h), fun h hvec => hlame 1 (escalate_noVector h hvec), fun h hvec hus => ?_,
    fun h hvec hus ws v x hprep hpath hcommit => ?_⟩
  · have hframe : escFrameOk b (b.getCtx c) = false := by
      rw [← Bool.not_eq_true, escFrameOk_iff]
      exact hus
    exact hlame 2 (escalate_noFrame h hvec hframe)
  · have hrun := escalate_enters (r := illegalEntry (b.getCtx c) n) (esr := 4) (v := 0) h hvec ((escFrameOk_iff ..).mpr hus) hprep hpath
      (x := x) (by rw [frameWords_eq]; exact hcause ▸ hcommit)
    rw [afterStop_illegal hn hrun, ← hcause]
    exact escalated_of_entered ((entryRecords_records _ _ _ _ _ _).trans (afterEntry_records s (rollback s t) _))

/-! ### What RFE restores -/

theorem clearSlotErrs_win (k : Ctx) (p : Nat → Bool) : (k.clearSlotErrs p).win = k.win := by
  unfold Ctx.clearSlotErrs
  split <;> rfl

theorem setStk_win (k : Ctx) (b : StackBank) : (k.setStk b).win = k.win := by
  unfold Ctx.setStk
  split
  · rfl
  · split <;> rfl

theorem setSp_win (k : Ctx) (v : W64) : (k.setSp v).win = k.win := setStk_win ..

theorem setA_win (k : Ctx) (w : TWord) : (k.setA w).win = k.win := by
  unfold Ctx.setA
  split
  · exact clearSlotErrs_win ..
  · split
    · exact clearSlotErrs_win ..
    · rfl

theorem setX_win (k : Ctx) (w : TWord) : (k.setX w).win = k.win := by
  unfold Ctx.setX
  split
  · exact clearSlotErrs_win ..
  · split
    · exact clearSlotErrs_win ..
    · rfl

theorem setY_win (k : Ctx) (w : TWord) : (k.setY w).win = k.win := by
  unfold Ctx.setY
  split
  · exact clearSlotErrs_win ..
  · split
    · exact clearSlotErrs_win ..
    · rfl

/-- The registers that a frame restores, without the PC and the windows (R384 steps 4 to 7). -/
def frameRegs (s : State) (w : Nat → TWord) (k : Ctx) : Ctx :=
  let sps := ({ k.setSp (k.stk.sp + 64) with st := rfeSt s k (w 1).val }).setSp (w 2).val
  if capsConf s then { sps with pcc := ⟨w 4, w 5⟩, ddc := ⟨w 6, w 7⟩ } else ((sps.setA (w 3)).setX (w 4)).setY (w 5)

theorem frameRegs_win (s : State) (w : Nat → TWord) (k : Ctx) : (frameRegs s w k).win = k.win := by
  have hsps (st : W32) (v : W64) : (({ k.setSp (k.stk.sp + 64) with st := st } : Ctx).setSp v).win = k.win :=
    (setSp_win ..).trans (setSp_win ..)
  unfold frameRegs
  dsimp only
  split
  · exact hsps ..
  · rw [setY_win, setX_win, setA_win]
    exact hsps ..

theorem rfeRestore_eq (s : State) (w : Nat → TWord) (k : Ctx) : rfeRestore s w k = { frameRegs s w k with
    win := if bit k.st 26 then k.win else releaseWindow k.win
    pc := if bit (w 1).val 15 then (w 0).val &&& ~~~(2 : W64) else (w 0).val } := by
  rw [← frameRegs_win s w k]
  rfl

/-- The checks before RFI compares the latched origin pass. -/
theorem rfiInstr_of_bank (hfib : bit (t.getCtx c).st 14 = true) (hsup : bit (t.getCtx c).st 11 = true) : rfiInstr 0 c t =
    (do
      let k := t.getCtx c
      needReturn t k ⟨k.fast.fbst, k.fast.orig, false, k.fast.fbpcc, true⟩
      modC c fun k => { k with
        pc := k.fast.fbpc &&& ~~~(3 : W64), st := k.fast.fbst
        pcc := if capsConf t then k.fast.fbpcc else k.pcc
        ddc := if capsConf t then k.fast.fbddc else k.ddc } : M Unit) t := by
  have hdef : needDef ((0 : BitVec 24) == 0 && (t.getCtx c).fib) t = .ok () t := by
    have : (t.getCtx c).fib = true := hfib
    rw [this]
    rfl
  have hpriv : needPriv (t.getCtx c).sup t = .ok () t := by
    have : (t.getCtx c).sup = true := hsup
    rw [this]
    rfl
  unfold rfiInstr
  rw [run_bind_ok (run_get t), run_bind_ok hdef, run_bind_ok hpriv]

theorem forged_iff (n : BitVec 8) (pcc : CapPair) (s : State) : (n == 4 && capTagged pcc && !capValid s pcc) = true ↔
    n = 4 ∧ capTagged pcc = true ∧ capValid s pcc = false := by
  simp [and_assoc]

/-- A stopped return escalates from the state in which it is counted, in the statement's words. -/
theorem illegal_escalates {n : BitVec 8} {pcc : CapPair} {forged : Bool} (hn : NoInterruptFirst c s)
    (hforged : forged = true ↔ n = 4 ∧ capTagged pcc = true ∧ capValid u pcc = false) :
    let b := countViolation 1 (rollback s t)
    let b := if n = 4 ∧ capTagged pcc = true ∧ capValid u pcc = false then countViolation 0 b else b
    Escalated c b (b.getCtx c).pc (ecauseOf n 0 false 4 0) ⟨0, Tag.int⟩ (afterStop c s t (.illegal n forged)) := by
  have h := takeIllegal_escalated (t := t) (n := n) (forged := forged) hn
  unfold illegalBase at h
  simp only [hforged] at h
  exact h

end

/-- Settles O25: a return restores its image or escalates, and `illegalCheck` says which. -/
theorem returns : Obligations.Returns := by
  unfold Obligations.Returns
  constructor
  · intro c s t u hb k hsup m
    constructor
    · intro hfib hcan hal hst hddc w0 w1 w2 w3 w4 w5 w6 w7 hf hconf h0 h2 h1 hpc hcheck
      have hm : restoreMask u = m := restoreMask_of_conf hconf
      have hframe : FrameReadable c t [w0, w1, w2, w3, w4, w5, w6, w7] u := ⟨hfib, hsup, hcan, hal, hst, hddc, hf⟩
      let w := frameWord [w0, w1, w2, w3, w4, w5, w6, w7]
      have himg : frameImage u w k.stk.sp = ⟨w1.val.setWidth 32 &&& m, ⟨bit w1.val 35, bit w1.val 36, fld w1.val 32 3⟩, bit w1.val 37,
          ⟨w4, w5⟩, k.stk.sp.toNat % 16 == 0⟩ := frameImage_eq hconf ..
      have hrun := rfeInstr_restores hframe ((frameTagsOk_iff w).mpr ⟨h0, h2, h1, hpc⟩)
        (by rw [himg, returnCheck_eq]; exact hcheck)
      refine ⟨_, runInstr_ends hb hrun, ?_⟩
      obtain ⟨hrel, hnone, hlink⟩ := releaseWindow_spec (u.getCtx c).win
      intro k0 k' st sps axy
      have hk : k' = rfeRestore u w k0 := getCtx_modCtx ..
      have haxy : axy = frameRegs u w k0 := by
        unfold frameRegs
        rw [hconf, rfeSt_eq, hm]
        rfl
      have hwin : k'.win = if bit k0.st 26 then k0.win else releaseWindow k0.win := by
        rw [hk, rfeRestore_eq]
      refine ⟨?_, ?_, fun hesc => ?_, fun hesc => ?_⟩
      · rw [hk]; rfl
      · rw [haxy, hwin, hk, rfeRestore_eq]
        rfl
      · rw [hwin, hesc]; rfl
      · rw [hesc] at hwin
        rw [hwin]
        exact ⟨hrel, hnone, fun i hi h _ => hlink i hi h⟩
    · intro hfib hcheck
      refine runInstr_ends hb ?_
      have hret : needReturn t k ⟨k.fast.fbst, k.fast.orig, false, k.fast.fbpcc, true⟩ t = .ok () t := by
        unfold needReturn
        rw [show returnCheck t k ⟨k.fast.fbst, k.fast.orig, false, k.fast.fbpcc, true⟩ = none from (returnCheck_eq ..).trans hcheck]
        rfl
      exact (rfiInstr_of_bank hfib hsup).trans (run_bind_ok hret)
  · intro c s t u hb hn k hsup m illegal
    constructor
    · intro hfib hcan hal hst hddc w0 w1 w2 w3 w4 w5 w6 w7 hf hconf tagsOk n hbad
      have hframe : FrameReadable c t [w0, w1, w2, w3, w4, w5, w6, w7] u := ⟨hfib, hsup, hcan, hal, hst, hddc, hf⟩
      let w := frameWord [w0, w1, w2, w3, w4, w5, w6, w7]
      rcases hbad with ⟨hbad, rfl⟩ | ⟨hok, hcheck⟩
      · have hrun : rfeInstr 0 c t = .error (.illegal 5 false) u := by
          rw [rfeInstr_of_frame hframe, if_neg fun h => hbad ((frameTagsOk_iff w).mp h)]
          rfl
        exact ⟨_, runInstr_stop hb hrun, illegal_escalates hn (by simp)⟩
      · have himg : frameImage u w k.stk.sp = ⟨w1.val.setWidth 32 &&& m, ⟨bit w1.val 35, bit w1.val 36, fld w1.val 32 3⟩, bit w1.val 37,
            ⟨w4, w5⟩, k.stk.sp.toNat % 16 == 0⟩ := frameImage_eq hconf ..
        have hrun := (rfeInstr_of_frame hframe).trans ((congrFun (if_pos ((frameTagsOk_iff w).mpr hok)) u).trans
          (run_bind_error (needReturn_fails (n := n) (by rw [himg, returnCheck_eq]; exact hcheck))))
        exact ⟨_, runInstr_stop hb hrun, illegal_escalates hn (forged_iff ..)⟩
    · intro hfib n hcheck
      have hrun := (rfiInstr_of_bank hfib hsup).trans (run_bind_error (needReturn_fails ((returnCheck_eq ..).trans hcheck)))
      exact ⟨_, runInstr_stop hb hrun, illegal_escalates hn (forged_iff ..)⟩

end Sys2Proof.Machine

namespace Sys2Proof.Machine
open Sys2Proof

/-! ## Loads (R103, R111, R133, R136, R310, R316, R390) -/

section
variable {c : CtxId} {s t u : State} {m : BitVec 3} {d : BitVec 22} {w : TWord} {p : Phys}

/-- The effect of a 64-bit load on its context (R133). -/
theorem loadReg_run {r : Axy} (hr : Reads c m d t w u) :
    loadReg r m d c t = .ok () (u.modCtx c fun k => (incY m d k).setAxy r w) := by
  obtain ⟨⟨hmode, hbase⟩, hop⟩ := hr
  unfold loadReg
  rw [run_bind_ok hmode, run_bind_ok hbase, run_bind_ok hop, run_bind_ok (run_postIncrement c m d u), run_modC, modCtx_modCtx]

/-- What a load delivers of the bytes that it reads: their value, extended (R136). -/
theorem pickBytes_eq {n : Nat} (hn : 0 < n ∧ 8 * n ≤ 64) (a : Nat) (signed : Bool) (v : W64) : pickBytes a n signed v =
    if signed then ((v >>> (8 * (a % 8))).setWidth (8 * n)).signExtend 64 else ((v >>> (8 * (a % 8))).setWidth (8 * n)).setWidth 64 := by
  unfold pickBytes
  generalize v >>> (8 * (a % 8)) = x
  obtain ⟨k, hk⟩ : ∃ k, k = 64 - 8 * n := ⟨_, rfl⟩
  have hkn : 8 * n = 64 - k := by omega
  rw [← hk, hkn]
  cases signed with
  | true =>
    simp only [if_true]
    apply BitVec.eq_of_getLsbD_eq
    intro i hi
    simp only [BitVec.getLsbD_sshiftRight, BitVec.getLsbD_signExtend, BitVec.getLsbD_shiftLeft, BitVec.getLsbD_setWidth,
      BitVec.msb_eq_getLsbD_last]
    by_cases h : i < 64 - k
    · have h1 : k + i < 64 := by omega
      have h2 : ¬ k + i < k := by omega
      have h3 : k + i - k = i := by omega
      simp [h, h1, h3, hi]
    · have h1 : ¬ k + i < 64 := by omega
      have h4 : ¬ 63 < k := by omega
      have h5 : 64 - k - 1 = 63 - k := by omega
      have h6 : 63 - k < 64 - k := by omega
      have h7 : ¬ 64 ≤ i := by omega
      simp [h, h1, hi, h4, h5, h6, h7]
  | false =>
    simp only [Bool.false_eq_true, if_false]
    apply BitVec.eq_of_getLsbD_eq
    intro i hi
    simp only [BitVec.getLsbD_ushiftRight, BitVec.getLsbD_shiftLeft, BitVec.getLsbD_setWidth]
    have h3 : k + i - k = i := by omega
    by_cases h : i < 64 - k
    · have h1 : k + i < 64 := by omega
      simp [h, h1, h3, hi]
    · have h1 : ¬ k + i < 64 := by omega
      simp [h, h1]

theorem fldN_low3 (a : W64) : fldN a 0 3 = a.toNat % 8 := by
  simp

/-- The effect of a sub-word load on its context (R103, R136). -/
theorem loadSub_run {n off : Nat} {signed : Bool} (hr : ReadsBytes c n m d t w off u) :
    loadSub n signed m d c t = .ok () (u.modCtx c fun k => (incY m d k).setA
      ⟨pickBytes off n signed w.val, if w.tag = Tag.poison then Tag.poison else Tag.int⟩) := by
  obtain ⟨⟨hmode, hbase⟩, hop⟩ := hr
  have hfin (a : Nat) : (do
      postIncrement c m d
      modC c fun k => k.setA ⟨pickBytes a n signed w.val, if w.tag == Tag.poison then Tag.poison else Tag.int⟩ : M Unit) u =
      .ok () (u.modCtx c fun k => (incY m d k).setA
        ⟨pickBytes a n signed w.val, if w.tag = Tag.poison then Tag.poison else Tag.int⟩) := by
    rw [run_bind_ok (run_postIncrement c m d u), run_modC, modCtx_modCtx]
    simp only [beq_iff_eq]
  unfold loadSub
  rw [run_bind_ok hmode, run_bind_ok hbase]
  rcases hop with ⟨hm, rfl, hop⟩ | ⟨hm, rfl, hrows, hload⟩
  · have hm : (m == 0 || m == 4) = true := by simpa using hm
    have hread : (do
        let w ← readOperand c m d
        return ⟨pickBytes 0 n signed w.val, w.tag⟩ : M TWord) t = .ok ⟨pickBytes 0 n signed w.val, w.tag⟩ u := run_bind_ok hop
    simp only [hm, if_true]
    exact (run_bind_ok hread).trans (hfin 0)
  · have hm : (m == 0 || m == 4) = false := by simpa using hm
    have hread : (do
        let a ← addrOf c m d
        needRows c .read a n (m == 3) false
        let w ← loadAt c a n
        return ⟨pickBytes (fldN a 0 3) n signed w.val, w.tag⟩ : M TWord) t =
        .ok ⟨pickBytes (fldN (eaOf c m d t) 0 3) n signed w.val, w.tag⟩ u := by
      rw [run_bind_ok (run_addrOf c m d t), run_bind_ok hrows, run_bind_ok hload]
      rfl
    simp only [hm, Bool.false_eq_true, if_false]
    rw [run_bind_ok hread, ← fldN_low3]
    exact hfin _

/-! ### What a load through memory reads -/

theorem takeTag_eq (s : State) (c : CtxId) (w : TWord) : takeTag s c w =
    if capsConf s = true ∧ bit (s.getCtx c).ddc.hi.val 57 = false ∧ w.tag ∈ [Tag.caph, Tag.capl, Tag.sealed]
      then (⟨w.val, Tag.raw⟩ : TWord) else w := by
  simp [takeTag, CapPair.perm, and_assoc, or_assoc]

theorem OnlyPerf.takeTag (h : OnlyPerf s t) (c : CtxId) (w : TWord) : takeTag t c w = takeTag s c w := by
  have hconf : capsConf t = capsConf s := by rw [h.1]; rfl
  have hddc : (t.getCtx c).ddc = (s.getCtx c).ddc := by
    rcases h.2 c with e | ⟨-, now, e⟩
    · rw [e]
    · rw [e]
      unfold Ctx.wokenByIrq
      split <;> rfl
  rw [takeTag_eq, takeTag_eq, hconf, hddc]

theorem countCtx_eq (cls evt n : Nat) (c : CtxId) (a : Option W64) (s : State) : OnlyPerf s (countCtx cls evt n c a s) :=
  countEvent_eq ..

theorem deliver_of_tag (h : isReserved w.tag = false) : deliver w = w := by
  unfold deliver
  rw [h]
  rfl

/-- A scratchpad word is read where it stands (R310). -/
theorem readPhys_spad {n : Nat} (htile : tileOn u c (lineNo p.pa) = false) (hlat : u.rel.latent = []) (hs : inSpad p.pa = true)
    (hw : SMap.find? u.spad (spadIndex p.pa) = some w) (htag : isReserved w.tag = false) :
    readPhys c p n u = .ok w (countCtx 1 10 1 c (some p.va) u) := by
  have hperf : OnlyPerf u (countCtx 1 10 1 c (some p.va) u) := countCtx_eq ..
  have hlat' : (countCtx 1 10 1 c (some p.va) u).rel.latent = [] := by rw [hperf.1]; exact hlat
  have hw' : SMap.find? (countCtx 1 10 1 c (some p.va) u).spad (spadIndex p.pa) = some w := by rw [hperf.1]; exact hw
  unfold readPhys
  rw [run_bind_ok (run_get u)]
  simp only [htile, hs, Bool.false_eq_true, if_false, if_true]
  rw [run_bind_ok (run_modify _ u), run_bind_ok (run_spadRead_held hlat' hw' false), deliver_of_tag htag]
  rfl

theorem cacheUninit_of_on {id : CacheId} (h : cacheOn u id = true) : cacheUninit u id = false := by
  unfold cacheOn at h
  unfold cacheUninit
  simp only [Bool.and_eq_true] at h
  rw [h.2]
  simp

/-- Where no cache is uninitialized, no access hits in one (R320). -/
theorem run_uninitHit {ids : List CacheId} (h : ∀ id ∈ ids, cacheUninit u id = false) : uninitHit ids u = .ok false u := by
  have : (ids.any fun id => cacheUninit u id) = false := by simpa using h
  unfold uninitHit
  rw [run_bind_ok (run_get u), this]
  rfl

/-- An access that L1D answers is counted as one lookup (R458). -/
theorem countLooks_found {key n : Nat} {l : CLine} {a : W64} (hon : cacheOn u .l1d = true) (hfind : cacheFind u .l1d n = some (key, l))
    (x : State) : countLooks (.ctx c) .l1d a n u x = countCtx 1 1 1 c (some a) x := by
  unfold countLooks
  simp only [hon, hfind, Option.isSome_some, Bool.and_self, Bool.not_true, Bool.false_and, Bool.and_false, Bool.false_eq_true, if_false]
  rfl

/-- A line that L1D holds is read there, and becomes the youngest of its set (R316, R317). -/
theorem readLine_l1d {key : Nat} {l : CLine} {n : Nat} {a : W64} {stream : Bool} (hlat : u.rel.latent = [])
    (hfill : findFill u (.ctx c) n = none) (hon : cacheOn u .l1d = true) (hl2 : cacheUninit u .l2 = false)
    (hfind : cacheFind u .l1d n = some (key, l)) : readLine (.ctx c) .scalar stream a n u =
      .ok (some l.data) (countCtx 1 1 1 c (some a) (cachePut u .l1d key { l with age := 0 })) := by
  have hmeet : meetRead .scalar n u = u := by
    have hfirst : ReadMode.scalar.first = .l1d := rfl
    unfold meetRead
    simp only [hfirst, hon, if_true, meetLine_of_none hlat, hfind, Option.isSome_some, Bool.and_self, Bool.true_or]
  have hcached : cachedLine .scalar stream n u = .ok (some l.data) (cachePut u .l1d key { l with age := 0 }) := by
    have hfirst : ReadMode.scalar.first = .l1d := rfl
    unfold cachedLine
    rw [run_bind_ok (run_get u)]
    simp only [hfirst, hon, if_true, hfind]
    rfl
  unfold readLine
  rw [run_bind_ok (run_uninitHit (by
    intro id hid
    simp only [List.mem_cons, List.not_mem_nil, or_false] at hid
    rcases hid with rfl | rfl
    · exact cacheUninit_of_on hon
    · exact hl2))]
  simp only [Bool.false_eq_true, if_false]
  rw [run_bind_ok (run_get u)]
  simp only [hfill]
  rw [run_bind_ok (run_modify _ u), hmeet, run_bind_ok (run_get u), run_bind_ok hcached]
  exact (run_bind_ok (run_modify _ _)).trans (congrArg (EStateM.Result.ok _) (countLooks_found hon hfind _))

theorem readPhys_l1d {n key : Nat} {l : CLine} (htile : tileOn u c (lineNo p.pa) = false) (hlat : u.rel.latent = [])
    (hs : inSpad p.pa = false) (hdev : p.dev = false) (hrecall : recallDue u (lineNo p.pa) = false)
    (hfill : findFill u (.ctx c) (lineNo p.pa) = none) (hon : cacheOn u .l1d = true) (hl2 : cacheUninit u .l2 = false)
    (hfind : cacheFind u .l1d (lineNo p.pa) = some (key, l))
    (htag : isReserved (vget l.data (p.pa.toNat / 8 % 8) TWord.poison).tag = false) :
    readPhys c p n u = .ok (vget l.data (p.pa.toNat / 8 % 8) TWord.poison)
      (countCtx 1 1 1 c (some p.va) (cachePut u .l1d key { l with age := 0 })) := by
  have hi : fldN p.pa 3 3 = p.pa.toNat / 8 % 8 := by simp [Nat.shiftRight_eq_div_pow]
  unfold readPhys
  rw [run_bind_ok (run_get u)]
  simp only [htile, hs, hdev, Bool.false_eq_true, if_false]
  rw [run_bind_ok (run_get u), run_bind_ok (readLine_l1d hlat hfill hon hl2 hfind)]
  simp only [hrecall, Bool.false_eq_true, if_false, hi, deliver_of_tag htag]
  rfl

/-- A 64-bit load through memory, from what its address reads. -/
theorem reads_memory {v : State} (hf : FormOk c .read m d t) (h0 : m ≠ 0) (h4 : m ≠ 4)
    (hrows : needRows c .read (eaOf c m d t) 8 (m == 3) false t = .ok () t)
    (htr : translateCtx c ⟨eaOf c m d t, .read, none, none, false⟩ t = .ok p u) (hread : readPhys c p 8 u = .ok w v) :
    Reads c m d t (takeTag v c w) v := by
  refine ⟨hf, ?_⟩
  have hload : loadWord c (eaOf c m d t) (m == 3) t = .ok (takeTag v c w) v := by
    unfold loadWord
    rw [run_bind_ok hrows]
    unfold loadAt
    rw [run_bind_ok htr, run_bind_ok hread]
    rfl
  unfold readOperand
  have hm : m = 1 ∨ m = 2 ∨ m = 3 ∨ m = 5 ∨ m = 6 ∨ m = 7 := by
    clear * - h0 h4
    revert m
    decide
  rcases hm with rfl | rfl | rfl | rfl | rfl | rfl <;>
    exact (run_bind_ok (rfl : addrOf c _ d t = .ok (eaOf c _ d t) t)).trans hload

end

/-- Settles O8: a load delivers its operand, and what a word of memory is follows from the rules of the scratchpad and of L1D. -/
theorem loadInstructions : Obligations.LoadInstructions := by
  have hexec : ∀ row ∈ [(Instr.ld, Axy.a), (Instr.ldx, Axy.x), (Instr.ldy, Axy.y)], ∀ m d ecc s,
      exec (row.1 m d ecc) s = runEcc ecc (loadReg row.2 m d) s := by
    intro row hrow m d ecc s
    simp only [List.mem_cons, List.not_mem_nil, or_false] at hrow
    rcases hrow with rfl | rfl | rfl <;> rfl
  refine ⟨fun row hrow c s t u m d ecc w hi hb hr => ?_, fun row hrow c s t u m d ecc w off hi hb hr => ?_,
    fun row hrow c s t u m d p hb hf h0 h4 hrows htr htile hlat => ?_⟩
  · rw [hexec row hrow, runEcc_ends hi hb (loadReg_run hr)]
  · have hsub : exec (row.1 m d ecc) s = runEcc ecc (loadSub row.2.1 row.2.2 m d) s ∧ 0 < row.2.1 ∧ 8 * row.2.1 ≤ 64 := by
      simp only [subLoadRows, List.mem_cons, List.not_mem_nil, or_false] at hrow
      rcases hrow with rfl | rfl | rfl | rfl | rfl | rfl <;> exact ⟨rfl, by decide⟩
    obtain ⟨hsub, hn⟩ := hsub
    have hoff : off % 8 = off := by
      rcases hr.2 with ⟨-, rfl, -⟩ | ⟨-, rfl, -⟩
      · rfl
      · exact Nat.mod_mod _ 8
    rw [hsub, runEcc_ends hi hb (loadSub_run hr), pickBytes_eq hn, hoff]
  · have hload {v : State} {w : TWord} (hread : readPhys c p 8 u = .ok w v) :
        exec (row.1 m d none) s = .next (ends c s (v.modCtx c fun k => (incY m d k).setAxy row.2 (takeTag v c w))) :=
      (hexec row hrow m d none s).trans (runEcc_ends hb.1 hb (loadReg_run (reads_memory hf h0 h4 hrows htr hread)))
    refine ⟨fun w hs htag hw => ?_, fun key l hs hdev hrecall hfill hon hl2 hfind htag => ?_⟩
    · rw [hload (readPhys_spad htile hlat hs hw htag), (countCtx_eq ..).takeTag, takeTag_eq]
    · rw [hload (readPhys_l1d htile hlat hs hdev hrecall hfill hon hl2 hfind htag), (countCtx_eq ..).takeTag, takeTag_eq]
      rfl

end Sys2Proof.Machine

namespace Sys2Proof.Machine
open Sys2Proof

/-! ## The bytes that a store writes -/

section
variable {old new : Line} {w x y : W64} {pa : PAddr}

theorem bit_byteMask (b n k : Nat) : bit (byteMask b n) k = (decide (k < 64) && (decide (b ≤ k) && decide (k < b + n))) := by
  have h : decide (k - b < n) = decide (k < b + n) ∨ ¬ b ≤ k := by
    by_cases hk : b ≤ k
    · left
      congr 1
      simp only [eq_iff_iff]
      omega
    · exact .inr hk
  simp only [bit, byteMask, BitVec.getLsbD_ofNat, Nat.testBit_mul_two_pow, Nat.testBit_two_pow_sub_one]
  rcases h with h | h
  · rw [h]
  · simp [h]

theorem byteOf_or (x y : W64) (j : Nat) : byteOf (x ||| y) j = byteOf x j ||| byteOf y j := fld_or ..

theorem byteOf_at' (b : BitVec 8) (i : Nat) {j : Nat} (hj : j < 8) : byteOf (at' (8 * i) b) j = if j = i then b else 0 := by
  apply BitVec.eq_of_getLsbD_eq
  intro k hk
  have hlt : 8 * j + k < 64 := by omega
  by_cases h : j = i
  · subst h
    simp [byteOf, at', hk, hlt]
  · rw [if_neg h]
    by_cases hji : j < i
    · simp [byteOf, at', show 8 * j + k < 8 * i by omega]
    · have : b.getLsbD (8 * j + k - 8 * i) = false := BitVec.getLsbD_of_ge _ _ (by omega)
      simp [byteOf, at', this]

theorem byteOf_wordOfBytes (f : Nat → BitVec 8) {j : Nat} (h : j < 8) : byteOf (wordOfBytes f) j = f j := by
  have hw : wordOfBytes f = 0 ||| at' (8 * 0) (f 0) ||| at' (8 * 1) (f 1) ||| at' (8 * 2) (f 2) ||| at' (8 * 3) (f 3) |||
      at' (8 * 4) (f 4) ||| at' (8 * 5) (f 5) ||| at' (8 * 6) (f 6) ||| at' (8 * 7) (f 7) := rfl
  have hz : byteOf 0 j = 0 := by simp [byteOf]
  have hj : j = 0 ∨ j = 1 ∨ j = 2 ∨ j = 3 ∨ j = 4 ∨ j = 5 ∨ j = 6 ∨ j = 7 := by omega
  rw [hw]
  simp only [byteOf_or, byteOf_at' _ _ h, hz]
  rcases hj with rfl | rfl | rfl | rfl | rfl | rfl | rfl | rfl <;> simp

/-- A word is its bytes. -/
theorem eq_of_byteOf (h : ∀ j < 8, byteOf x j = byteOf y j) : x = y := by
  ext i hi
  have hb := congrArg (fun z => z.getLsbD (i % 8)) (h (i / 8) (by omega))
  have hi' : 8 * (i / 8) + i % 8 = i := Nat.div_add_mod i 8
  have hm : i % 8 < 8 := Nat.mod_lt _ (by decide)
  simpa [byteOf, hi', hm, hi] using hb

theorem TWord.ext_bytes {x y : TWord} (hval : ∀ j < 8, byteOf x.val j = byteOf y.val j) (htag : x.tag = y.tag) : x = y := by
  have hval := eq_of_byteOf hval
  obtain ⟨vx, tx⟩ := x
  obtain ⟨vy, ty⟩ := y
  simp only at hval htag
  rw [hval, htag]

theorem bit_byteOf (x : W64) (j : Nat) {i : Nat} (h : i < 8) : bit (byteOf x j) i = bit x (8 * j + i) := by
  simp [byteOf, h]

/-- The bytes of a value that is placed from byte a on. -/
theorem byteOf_placeBytes (a : Nat) (v : W64) {j : Nat} (h : a % 8 ≤ j) (hj : j < 8) :
    byteOf (placeBytes a v) j = byteOf v (j - a % 8) := by
  apply BitVec.eq_of_getLsbD_eq
  intro i hi
  have h1 := bit_byteOf (placeBytes a v) j hi
  have h2 := bit_byteOf v (j - a % 8) hi
  have h3 : 8 * j + i - 8 * (a % 8) = 8 * (j - a % 8) + i := by omega
  have h4 : ¬ 8 * j + i < 8 * (a % 8) := by omega
  have h5 : 8 * j + i < 64 := by omega
  refine h1.trans (Eq.trans ?_ h2.symm)
  have h6 : 8 * (j - a % 8) + i < 64 := by omega
  simp [placeBytes, h3, h4, h5, BitVec.getLsbD_eq_getElem h6]

theorem byteOf_placed {a : W64} {v : W64} {b n j : Nat} (ha : a.toNat % 8 = b) (hj : j < 8) (o : BitVec 8) :
    (if b ≤ j ∧ j < b + n then byteOf (placeBytes a.toNat v) j else o) = if b ≤ j ∧ j < b + n then byteOf v (j - b) else o := by
  by_cases h : b ≤ j ∧ j < b + n
  · rw [if_pos h, if_pos h, byteOf_placeBytes _ _ (ha ▸ h.1) hj, ha]
  · rw [if_neg h, if_neg h]

theorem vget_mergeLine (old new : Line) (mask : W64) {j : Nat} (h : j < 8) : vget (mergeLine old new mask) j TWord.zero =
    if fld mask (8 * j) 8 = 0 then vget old j TWord.zero
    else ⟨wordOfBytes fun b => if bit (fld mask (8 * j) 8) b then byteOf (vget new j TWord.zero).val b
      else byteOf (vget old j TWord.zero).val b, (vget new j TWord.zero).tag⟩ := by
  simp [vget, mergeLine, h]

/-- The part of a store's mask for one word of the line. -/
theorem fld_byteMask (pa : PAddr) {n : Nat} (hn : pa.toNat % 8 + n ≤ 8) (j : Nat) {b : Nat} (hb : b < 8) :
    bit (fld (byteMask (fldN pa 0 6) n) (8 * j) 8) b =
      (decide (j = pa.toNat / 8 % 8) && (decide (pa.toNat % 8 ≤ b) && decide (b < pa.toNat % 8 + n))) := by
  have h6 : fldN pa 0 6 = pa.toNat % 64 := by simp
  have h : bit (fld (byteMask (fldN pa 0 6) n) (8 * j) 8) b = bit (byteMask (fldN pa 0 6) n) (8 * j + b) := by simp [hb]
  rw [h, bit_byteMask, h6, ← Bool.decide_and, ← Bool.decide_and, ← Bool.decide_and, ← Bool.decide_and]
  congr 1
  simp only [eq_iff_iff]
  omega

theorem fld_byteMask_ne (pa : PAddr) {n : Nat} (hn : pa.toNat % 8 + n ≤ 8) {j : Nat} (hj : j ≠ pa.toNat / 8 % 8) :
    fld (byteMask (fldN pa 0 6) n) (8 * j) 8 = 0 := by
  apply BitVec.eq_of_getLsbD_eq
  intro b hb
  refine (fld_byteMask pa hn j hb).trans ?_
  simp [hj]

theorem fld_byteMask_word (pa : PAddr) {n : Nat} (h0 : 0 < n) (hn : pa.toNat % 8 + n ≤ 8) :
    fld (byteMask (fldN pa 0 6) n) (8 * (pa.toNat / 8 % 8)) 8 ≠ 0 := by
  intro h
  have hb := fld_byteMask pa hn (pa.toNat / 8 % 8) (b := pa.toNat % 8) (Nat.mod_lt _ (by decide))
  rw [h] at hb
  simp [h0] at hb

/-- What a store of n bytes leaves of a line: the bytes that it writes, with the new tag, and nothing else. -/
theorem mergeLine_store (old : Line) (pa : PAddr) (w : TWord) {n : Nat} (h0 : 0 < n) (hn : pa.toNat % 8 + n ≤ 8) :
    let i := pa.toNat / 8 % 8
    let l := mergeLine old (wordLine pa w) (byteMask (fldN pa 0 6) n)
    (∀ j < 8, j ≠ i → vget l j TWord.zero = vget old j TWord.zero) ∧ (vget l i TWord.zero).tag = w.tag ∧
    (∀ j < 8, byteOf (vget l i TWord.zero).val j = if pa.toNat % 8 ≤ j ∧ j < pa.toNat % 8 + n then byteOf w.val j
      else byteOf (vget old i TWord.zero).val j) := by
  intro i l
  have hi : i < 8 := Nat.mod_lt _ (by decide)
  have hword : vget (wordLine pa w) i TWord.zero = w := by
    have h3 : fldN pa 3 3 = i := by simp [i, Nat.shiftRight_eq_div_pow]
    unfold wordLine
    rw [h3]
    exact vget_vset_same _ hi _ _
  have hne := fld_byteMask_word pa h0 hn
  have hat : vget l i TWord.zero = _ := (vget_mergeLine old (wordLine pa w) _ hi).trans (if_neg hne)
  refine ⟨fun j hj hji => ?_, ?_, fun j hj => ?_⟩
  · have hz := fld_byteMask_ne pa hn hji
    exact (vget_mergeLine old (wordLine pa w) _ hj).trans (if_pos hz)
  · rw [hat, hword]
  · rw [hat, hword]
    dsimp only
    rw [byteOf_wordOfBytes _ hj, fld_byteMask pa hn i hj]
    simp [i]

end

/-! ## Stores (R102, R104, R111, R133, R136, R310, R316, R324) -/

section
variable {c : CtxId} {s t u v : State} {m : BitVec 3} {d : BitVec 22} {w : TWord} {p : Phys} {n : Nat}

theorem storeReg_slot {r : Axy} (hf : FormOk c .write 4 d t) :
    storeReg r 4 d c t = .ok () (t.modCtx c fun k => k.setSlot (d.setWidth 5) (k.axy r)) := by
  obtain ⟨hmode, hbase⟩ := hf
  have hd : fld d 0 5 = d.setWidth 5 := by
    ext i hi
    simp
  unfold storeReg
  rw [run_bind_ok hmode, run_bind_ok hbase, run_bind_ok (run_getC c t)]
  simp only [beq_self_eq_true, if_true, hd]
  rfl

theorem storeReg_memory {r : Axy} (hf : FormOk c .write m d t) (hm : m ≠ 4)
    (hs : storeWord c (eaOf c m d t) (m == 3) ((t.getCtx c).axy r) t = .ok () u) :
    storeReg r m d c t = .ok () (u.modCtx c (incY m d)) := by
  obtain ⟨hmode, hbase⟩ := hf
  have hm : (m == 4) = false := by simpa using hm
  unfold storeReg
  rw [run_bind_ok hmode, run_bind_ok hbase, run_bind_ok (run_getC c t)]
  simp only [hm, Bool.false_eq_true, if_false]
  rw [run_bind_ok (run_addrOf c m d t), run_bind_ok hs]
  exact run_postIncrement c m d u

theorem storeSubReg_memory (hf : FormOk c .write m d t) (hm : m ≠ 4)
    (hs : storeSub c (eaOf c m d t) n (m == 3) (t.getCtx c).getA t = .ok () u) :
    storeSubReg n m d c t = .ok () (u.modCtx c (incY m d)) := by
  obtain ⟨hmode, hbase⟩ := hf
  have hm : (m == 4) = false := by simpa using hm
  unfold storeSubReg
  rw [run_bind_ok hmode, run_bind_ok hbase, run_bind_ok (run_getC c t)]
  simp only [hm, Bool.false_eq_true, if_false]
  rw [run_bind_ok (run_addrOf c m d t), run_bind_ok hs]
  exact run_postIncrement c m d u

/-- The slot after a sub-word store: its low bytes are replaced. -/
def subSlot (n : Nat) (old w : TWord) : TWord :=
  ⟨(old.val &&& ~~~(BitVec.ofNat 64 (2 ^ (8 * n) - 1))) ||| (w.val &&& BitVec.ofNat 64 (2 ^ (8 * n) - 1)), subTag old.tag w.tag⟩

theorem bit_subSlot (n : Nat) (old w : TWord) {i : Nat} (hi : i < 64) :
    (subSlot n old w).val.getLsbD i = if i < 8 * n then w.val.getLsbD i else old.val.getLsbD i := by
  have hlow : (BitVec.ofNat 64 (2 ^ (8 * n) - 1)).getLsbD i = decide (i < 8 * n) := by
    rw [BitVec.getLsbD_ofNat, Nat.testBit_two_pow_sub_one]
    simp [hi]
  simp only [subSlot, BitVec.getLsbD_or, BitVec.getLsbD_and, BitVec.getLsbD_not, hlow]
  by_cases h : i < 8 * n <;> simp [h, hi]

theorem subTag_eq (old reg : Tag) : subTag old reg = if reg = Tag.poison then Tag.poison else if isPlain old then old else Tag.raw := by
  simp [subTag]

theorem storeSubReg_slot {old : TWord} (hf : FormOk c .write 4 d t) (hread : readSlot c (d.setWidth 5) t = .ok old u) :
    storeSubReg n 4 d c t = .ok () (u.modCtx c fun k => k.setSlot (d.setWidth 5) (subSlot n old (t.getCtx c).getA)) := by
  obtain ⟨hmode, hbase⟩ := hf
  have hd : fld d 0 5 = d.setWidth 5 := by
    ext i hi
    simp
  unfold storeSubReg
  rw [run_bind_ok hmode, run_bind_ok hbase, run_bind_ok (run_getC c t)]
  simp only [beq_self_eq_true, if_true, hd]
  rw [run_bind_ok hread]
  rfl

/-- A prepared store of a word ends in the state after it is committed. -/
theorem storeWord_run {a : W64} {sp : Bool} {path : WPath}
    (hrows : needRows c .write a 8 sp (w.tag == Tag.caph || w.tag == Tag.capl) t = .ok () t)
    (htr : translateCtx c ⟨a, .write, none, none, false⟩ t = .ok p u) (hprep : prepPhys c p 8 u = .ok path v) :
    storeWord c a sp w t = .ok () (countStore path c p.va v
      (commitLine (.ctx c) (some c) path p.pa (byteMask (fldN p.pa 0 6) 8) (wordLine p.pa w) v)) := by
  unfold storeWord
  rw [run_bind_ok hrows, run_bind_ok htr, run_bind_ok hprep]
  rfl

theorem cacheLost_of_none (h : u.rel.latent = []) (pa : PAddr) : cacheLost u pa = false := by
  have hl (id : CacheId) : lostIn u id pa = false := by
    simp [lostIn, latentAt, h]
  simp [cacheLost, hl]

/-- A prepared sub-word store whose old word is known ends in the state after it is committed. -/
theorem storeSub_run {a : W64} {sp : Bool} {path : WPath} {old : TWord} {x : State} (hlat : u.rel.latent = []) (hdev : p.dev = false)
    (hrows : needRows c .write a n sp false t = .ok () t)
    (htr : translateCtx c ⟨a, .write, none, none, false⟩ t = .ok p u) (hprep : prepPhys c p n u = .ok path v)
    (hold : oldWord c path p v = .ok (some (old, false)) x) (hts : p.ts = true → isPlain old.tag = true) :
    storeSub c a n sp w t = .ok () (countStore path c p.va x (commitLine (.ctx c) (some c) path p.pa (byteMask (fldN p.pa 0 6) n)
      (wordLine p.pa ⟨placeBytes a.toNat w.val, subTag old.tag w.tag⟩) x)) := by
  have hraise : (p.ts && !false && !isPlain old.tag) = false := by
    cases h : p.ts with
    | false => rfl
    | true => rw [hts h]; rfl
  have hplace : placeBytes (fldN a 0 3) w.val = placeBytes a.toNat w.val := by
    simp [placeBytes]
  unfold storeSub
  rw [run_bind_ok hrows, run_bind_ok htr, run_bind_ok (run_get u), run_bind_ok hprep]
  simp only [hdev, Bool.false_eq_true, if_false]
  rw [run_bind_ok hold]
  simp only [cacheLost_of_none hlat, Bool.false_and, Bool.or_false, hraise, Bool.false_eq_true, if_false, hplace]
  rfl

/-! ### Into the scratchpad -/

/-- A fold whose steps change nothing but at one place is the step there. -/
theorem foldl_only {σ : Type} {f : σ → Nat → σ} {i : Nat} (h : ∀ j, j ≠ i → ∀ s, f s j = s) (l : List Nat) (hl : l.Nodup) (hi : i ∈ l)
    (s : σ) : l.foldl f s = f s i := by
  have hrest : ∀ (l : List Nat) (s : σ), i ∉ l → l.foldl f s = s := by
    intro l
    induction l with
    | nil => intro s _; rfl
    | cons a l ih =>
      intro s hnot
      rw [List.mem_cons, not_or] at hnot
      rw [List.foldl_cons, h a (Ne.symm hnot.1), ih s hnot.2]
  induction l generalizing s with
  | nil => cases hi
  | cons a l ih =>
    rw [List.nodup_cons] at hl
    rw [List.foldl_cons]
    rcases List.mem_cons.1 hi with rfl | hi
    · exact hrest l _ hl.1
    · rw [h a (fun e => hl.1 (e ▸ hi)), ih hl.2 hi]

theorem spadIndex_word {pa : PAddr} (h : inSpad pa = true) : spadIndex (lineAddr (lineNo pa)) + pa.toNat / 8 % 8 = spadIndex pa := by
  have hlt := pa.isLt
  have hb : spadBase ≤ pa.toNat := by
    simp only [inSpad, Bool.and_eq_true, decide_eq_true_eq] at h
    exact h.1
  have ha : (lineAddr (lineNo pa)).toNat = 64 * (pa.toNat / 64) := by
    rw [lineAddr, lineNo, BitVec.toNat_ofNat, Nat.mod_eq_of_lt (by omega)]
  unfold spadIndex
  rw [ha]
  unfold spadBase at hb ⊢
  omega

/-- The word that a store of n bytes leaves where the old word stood. -/
def storedWord (old : TWord) (pa : PAddr) (n : Nat) (w : TWord) : TWord :=
  vget (mergeLine (Vector.replicate 8 old) (wordLine pa w) (byteMask (fldN pa 0 6) n)) (pa.toNat / 8 % 8) TWord.zero

theorem vget_fullLine (old : TWord) {i : Nat} (h : i < 8) : vget (Vector.replicate 8 old) i TWord.zero = old := by
  simp [vget, h]

theorem storedWord_spec (old : TWord) (pa : PAddr) (w : TWord) (h0 : 0 < n) (hn : pa.toNat % 8 + n ≤ 8) :
    (storedWord old pa n w).tag = w.tag ∧ ∀ j < 8, byteOf (storedWord old pa n w).val j =
      if pa.toNat % 8 ≤ j ∧ j < pa.toNat % 8 + n then byteOf w.val j else byteOf old.val j := by
  obtain ⟨-, htag, hbytes⟩ := mergeLine_store (Vector.replicate 8 old) pa w h0 hn
  refine ⟨htag, fun j hj => ?_⟩
  have := hbytes j hj
  rwa [vget_fullLine old (Nat.mod_lt _ (by decide))] at this

/-- A store of a whole word leaves it. -/
theorem storedWord_word (old : TWord) {pa : PAddr} (w : TWord) (h : pa.toNat % 8 = 0) : storedWord old pa 8 w = w := by
  obtain ⟨htag, hbytes⟩ := storedWord_spec (n := 8) old pa w (by decide) (by omega)
  exact TWord.ext_bytes (fun j hj => (hbytes j hj).trans (if_pos (by omega))) htag

/-- What a write finds at a place of the scratchpad. -/
def spadOld (s : State) (i : Nat) : TWord := match spadLook s i with | .clean w => w | .corrected w => w | .uncorrectable => TWord.poison

/-- A store into the scratchpad writes one word (R310). -/
theorem commitLine_spad {who : Requester} {own : Option CtxId} {pa : PAddr} (hs : inSpad pa = true) (h0 : 0 < n)
    (hn : pa.toNat % 8 + n ≤ 8) (w : TWord) (s : State) :
    commitLine who own .spad pa (byteMask (fldN pa 0 6) n) (wordLine pa w) s =
      hitWatch own (lineNo pa) (spadPut s (spadIndex pa) (storedWord (spadOld s (spadIndex pa)) pa n w)) := by
  have hi : pa.toNat / 8 % 8 < 8 := Nat.mod_lt _ (by decide)
  unfold commitLine
  dsimp only
  rw [if_neg (by decide)]
  congr 1
  refine (foldl_only (i := pa.toNat / 8 % 8) (fun j hj t => if_pos (fld_byteMask_ne pa hn hj)) _ List.nodup_range
    (List.mem_range.2 hi) s).trans ?_
  rw [if_neg (fld_byteMask_word pa h0 hn), spadIndex_word hs]
  rfl

theorem prepPhys_spad (htile : tileOn u c (lineNo p.pa) = false) (hs : inSpad p.pa = true) : prepPhys c p n u = .ok .spad u := by
  unfold prepPhys
  rw [run_bind_ok (run_get u)]
  simp only [htile, hs, Bool.false_eq_true, if_false, if_true]
  rfl

/-- What a committed store into the scratchpad leaves there. -/
theorem find?_commit_spad {own : Option CtxId} (hs : inSpad p.pa = true) (h0 : 0 < n) (hn : p.pa.toNat % 8 + n ≤ 8) (w : TWord) (s : State) :
    let x := countStore .spad c p.va s (commitLine (.ctx c) own .spad p.pa (byteMask (fldN p.pa 0 6) n) (wordLine p.pa w) s)
    (∀ i, SMap.find? x.spad i = if i = spadIndex p.pa then some (deliver (storedWord (spadOld s (spadIndex p.pa)) p.pa n w))
      else SMap.find? s.spad i) ∧ x.caches = s.caches := by
  intro x
  let y := spadPut s (spadIndex p.pa) (storedWord (spadOld s (spadIndex p.pa)) p.pa n w)
  have hx : x = countCtx 2 0 1 c (some p.va) (hitWatch own (lineNo p.pa) y) :=
    congrArg (countCtx 2 0 1 c (some p.va)) (commitLine_spad hs h0 hn w s)
  have hperf := countCtx_eq 2 0 1 c (some p.va) (hitWatch own (lineNo p.pa) y)
  have hspad : x.spad = y.spad := by rw [hx, hperf.spad, hitWatch_eq]
  have hcaches : x.caches = y.caches := by rw [hx, hperf.caches, hitWatch_eq]
  refine ⟨fun i => ?_, by rw [hcaches, spadPut_caches]⟩
  rw [hspad]
  by_cases h : i = spadIndex p.pa
  · rw [if_pos h, h]
    exact spadPut_same ..
  · rw [if_neg h]
    exact spadPut_ne _ _ h

theorem oldWord_spad {old : TWord} (hlat : u.rel.latent = []) (h : SMap.find? u.spad (spadIndex p.pa) = some old) :
    oldWord c .spad p u = .ok (some (old, false)) u := by
  have hlook : spadLook u (spadIndex p.pa) = .clean old := by simp [spadLook, latentAt, hlat, spadHeld, h]
  unfold oldWord
  dsimp only
  rw [run_bind_ok (run_get u), hlook]
  rfl

end

theorem ends_spad (c : CtxId) (s v : State) (f : Ctx → Ctx) : (ends c s (v.modCtx c f)).spad = v.spad := retire_spad ..
theorem ends_caches (c : CtxId) (s v : State) (f : Ctx → Ctx) : (ends c s (v.modCtx c f)).caches = v.caches := retire_caches ..

theorem exec_storeRow {row : (BitVec 3 → BitVec 22 → Instr) × Axy} (h : row ∈ [(Instr.st, Axy.a), (Instr.stx, Axy.x), (Instr.sty, Axy.y)])
    (m : BitVec 3) (d : BitVec 22) (s : State) : exec (row.1 m d) s = runSeq (storeReg row.2 m d) s := by
  simp only [List.mem_cons, List.not_mem_nil, or_false] at h
  rcases h with rfl | rfl | rfl <;> rfl

theorem exec_subStoreRow {row : (BitVec 3 → BitVec 22 → Option EccEvent → Instr) × Nat} (h : row ∈ subStoreRows) :
    (∀ m d ecc s, exec (row.1 m d ecc) s = runEcc ecc (storeSubReg row.2 m d) s) ∧ 0 < row.2 := by
  simp only [subStoreRows, List.mem_cons, List.not_mem_nil, or_false] at h
  rcases h with rfl | rfl | rfl <;> exact ⟨fun _ _ _ _ => rfl, by decide⟩

/-- The word that a sub-word store leaves: its bytes, and the tag of R104. -/
theorem storedWord_sub {old w : TWord} {pa : PAddr} {a : W64} {n : Nat} (h0 : 0 < n) (hn : pa.toNat % 8 + n ≤ 8) (ha : a.toNat % 8 = pa.toNat % 8) :
    let x := storedWord old pa n ⟨placeBytes a.toNat w.val, subTag old.tag w.tag⟩
    x.tag = (if w.tag = Tag.poison then Tag.poison else if isPlain old.tag then old.tag else Tag.raw) ∧
    ∀ j < 8, byteOf x.val j = if pa.toNat % 8 ≤ j ∧ j < pa.toNat % 8 + n then byteOf w.val (j - pa.toNat % 8) else byteOf old.val j := by
  intro x
  obtain ⟨htag, hbytes⟩ := storedWord_spec old pa ⟨placeBytes a.toNat w.val, subTag old.tag w.tag⟩ h0 hn
  refine ⟨htag.trans (subTag_eq ..), fun j hj => (hbytes j hj).trans (byteOf_placed ha hj _)⟩

theorem subTag_delivered (old reg : Tag) : isReserved (subTag old reg) = false := by
  rw [subTag_eq]
  split
  · rfl
  · split
    · rename_i h
      revert h
      revert old
      decide
    · rfl

/-- Settles O10: the store's path is the scratchpad, where it writes one word. -/
theorem storeScratchpad : Obligations.StoreScratchpad := by
  unfold Obligations.StoreScratchpad
  constructor
  · intro row hrow c s t u m d p hb hf hm _ w hrows htr hs hal htile
    have hrun := storeReg_memory hf hm (storeWord_run hrows htr (prepPhys_spad htile hs))
    obtain ⟨hfind, hcaches⟩ := find?_commit_spad (c := c) (own := some c) hs (n := 8) (by decide) (by omega) w u
    rw [storedWord_word _ w hal] at hfind
    refine ⟨_, (exec_storeRow hrow m d s).trans (runSeq_ends hb hrun), fun i => ?_, (ends_caches ..).trans hcaches⟩
    rw [ends_spad]
    exact hfind i
  · intro row hrow c s t u m d p old hb hf hm _ hlat w b hrows htr hs hdev htile hea hn hold hts
    obtain ⟨hexec, h0⟩ := exec_subStoreRow hrow
    have hrun := storeSubReg_memory hf hm (storeSub_run hlat hdev hrows htr (prepPhys_spad htile hs) (oldWord_spad hlat hold) hts)
    have hlook : spadOld u (spadIndex p.pa) = old := by simp [spadOld, spadLook, latentAt, hlat, spadHeld, hold]
    obtain ⟨hfind, hcaches⟩ := find?_commit_spad (c := c) (own := some c) hs h0 hn
      ⟨placeBytes (eaOf c m d t).toNat w.val, subTag old.tag w.tag⟩ u
    obtain ⟨htag, hbytes⟩ := storedWord_sub (old := old) (w := w) (pa := p.pa) h0 hn hea
    rw [hlook, deliver_of_tag (by rw [(storedWord_spec old p.pa _ h0 hn).1]; exact subTag_delivered _ _)] at hfind
    refine ⟨_, _, (hexec m d none s).trans (runEcc_ends hb.1 hb hrun), fun i => ?_, (ends_caches ..).trans hcaches, htag, hbytes⟩
    rw [ends_spad]
    exact hfind i

end Sys2Proof.Machine

namespace Sys2Proof.Machine
open Sys2Proof

/-! ### Into a line that L1D holds -/

section
variable {c : CtxId} {s t u v : State} {m : BitVec 3} {d : BitVec 22} {w : TWord} {p : Phys} {n key : Nat} {l : CLine}

theorem meetTag_of_none (h : s.rel.latent = []) (id : CacheId) (n : Nat) : meetTag id n s = s := by
  unfold meetTag meetErrors
  dsimp only
  rw [clearLatent_of_none h, h]
  rfl

/-- In v a line of u that L1D holds is found at its key, with its data; nothing else of the caches, of the scratchpad or of the
undiscovered errors has changed. -/
structure FoundAt (u : State) (n key : Nat) (l : CLine) (v : State) : Prop where
  spad : v.spad = u.spad
  latent : v.rel.latent = u.rel.latent
  found : ∃ age, cacheFind v .l1d n = some (key, { l with age := age })
  rest : ∀ k, k ≠ key → SMap.find? v.caches.l1d k = SMap.find? u.caches.l1d k
  l2 : v.caches.l2 = u.caches.l2

theorem FoundAt.refl (h : cacheFind u .l1d n = some (key, l)) : FoundAt u n key l u :=
  ⟨rfl, rfl, ⟨l.age, h⟩, fun _ _ => rfl, rfl⟩

theorem FoundAt.touch (h : cacheFind u .l1d n = some (key, l)) (age : BitVec 2) :
    FoundAt u n key l (cachePut u .l1d key { l with age := age }) :=
  ⟨rfl, rfl, ⟨age, cacheFind_cachePut_found h (mem_of_cacheFind h).2⟩, fun _ hk => SMap.find?_put_ne _ _ hk, rfl⟩

theorem FoundAt.perf (h : FoundAt u n key l s) (g : OnlyPerf s t) : FoundAt u n key l t := by
  have hrel : t.rel = s.rel := by rw [g.1]
  obtain ⟨age, hf⟩ := h.found
  exact ⟨g.spad.trans h.spad, by rw [hrel]; exact h.latent, ⟨age, (cacheFind_congr g.caches (by rw [hrel]) _ _).trans hf⟩,
    fun k hk => by rw [g.caches]; exact h.rest k hk, by rw [g.caches]; exact h.l2⟩

/-- A store that hits a line that it may write is prepared at once (R316, R317, R324). -/
theorem prepScalarLine_l1d {stream : Bool} {a : W64} (hlat : u.rel.latent = []) (hfly : storesInFlight u (.ctx c) = false)
    (hon : cacheOn u .l1d = true) (hl2 : cacheUninit u .l2 = false) (hfind : cacheFind u .l1d n = some (key, l)) (hst : l.st ≠ .shared) :
    ∃ v, prepScalarLine (.ctx c) stream a n u = .ok .l1d v ∧ FoundAt u n key l v := by
  obtain ⟨v, hhit, hv⟩ : ∃ v, storeHit (.ctx c) .l1d n u = .ok () v ∧ FoundAt u n key l v := by
    unfold storeHit
    rw [run_bind_ok (run_get u)]
    simp only [hfind]
    cases filledFor u (.ctx c) n with
    | true => exact ⟨u, rfl, .refl hfind⟩
    | false => exact ⟨_, rfl, .touch hfind 0⟩
  have hprom : promoteLine (.ctx c) n l.st .l1d v = .ok .l1d v := by
    have hne : (l.st != .shared) = true := by simpa using hst
    unfold promoteLine
    rw [if_pos hne]
    rfl
  obtain ⟨x, hlook, hx⟩ : ∃ x, lookedFor (.ctx c) (.ctx c) a n u (promoteLine (.ctx c) n l.st .l1d) v = .ok .l1d x ∧
      FoundAt u n key l x := by
    unfold lookedFor
    rw [run_bind_ok hprom]
    cases filledFor u (.ctx c) n with
    | true => exact ⟨v, rfl, hv⟩
    | false =>
      refine ⟨_, rfl, hv.perf ?_⟩
      rw [countLooks_found hon hfind]
      exact countCtx_eq ..
  refine ⟨x, ?_, hx⟩
  unfold prepScalarLine
  rw [run_bind_ok (run_get u)]
  simp only [hfly, Bool.false_eq_true, if_false]
  rw [run_bind_ok (run_uninitHit (by
    intro id hid
    simp only [List.mem_cons, List.not_mem_nil, or_false] at hid
    rcases hid with rfl | rfl
    · exact cacheUninit_of_on hon
    · exact hl2))]
  have hmeet (id : CacheId) : (if cacheOn u id then meetTag id n u else u) = u := by
    rw [meetTag_of_none hlat]
    exact ite_self u
  simp only [Bool.false_eq_true, if_false]
  rw [run_bind_ok (run_modify _ u), hmeet .l1d, run_bind_ok (run_modify _ u), hmeet .l2, run_bind_ok (run_get u)]
  simp only [hon, if_true, hfind]
  rw [run_bind_ok hhit]
  exact hlook

theorem prepPhys_l1d (htile : tileOn u c (lineNo p.pa) = false) (hlat : u.rel.latent = []) (hs : inSpad p.pa = false)
    (hdev : p.dev = false) (hfly : storesInFlight u (.ctx c) = false) (hon : cacheOn u .l1d = true) (hl2 : cacheUninit u .l2 = false)
    (hfind : cacheFind u .l1d (lineNo p.pa) = some (key, l)) (hst : l.st ≠ .shared) :
    ∃ v, prepPhys c p n u = .ok .l1d v ∧ FoundAt u (lineNo p.pa) key l v := by
  obtain ⟨v, hprep, hv⟩ := prepScalarLine_l1d (stream := p.str) (a := p.va) hlat hfly hon hl2 hfind hst
  unfold prepPhys
  rw [run_bind_ok (run_get u)]
  simp only [htile, hs, hdev, Bool.false_eq_true, if_false]
  rw [run_bind_ok (run_get u), run_bind_ok hprep]
  cases recallDue u (lineNo p.pa) with
  | true => exact ⟨_, rfl, hv.perf (countCtx_eq ..)⟩
  | false => exact ⟨_, rfl, hv⟩

/-- What a committed store leaves of the line: its bytes are written, and it is dirty (R324). -/
theorem commit_l1d {own : Option CtxId} (hlat : u.rel.latent = []) (hv : FoundAt u (lineNo p.pa) key l v) (w : TWord) :
    let x := countStore .l1d c p.va v (commitLine (.ctx c) own .l1d p.pa (byteMask (fldN p.pa 0 6) n) (wordLine p.pa w) v)
    x.spad = u.spad ∧ (∃ age, SMap.find? x.caches.l1d key = some ⟨lineNo p.pa, .modified, age,
        mergeLine l.data (wordLine p.pa w) (byteMask (fldN p.pa 0 6) n)⟩) ∧
      (∀ k, k ≠ key → SMap.find? x.caches.l1d k = SMap.find? u.caches.l1d k) ∧ x.caches.l2 = u.caches.l2 := by
  intro x
  obtain ⟨age, hfound⟩ := hv.found
  let y := cachePut v .l1d key ⟨lineNo p.pa, .modified, age, mergeLine l.data (wordLine p.pa w) (byteMask (fldN p.pa 0 6) n)⟩
  have hcommit : commitLine (.ctx c) own .l1d p.pa (byteMask (fldN p.pa 0 6) n) (wordLine p.pa w) v = hitWatch own (lineNo p.pa) y := by
    unfold commitLine
    dsimp only
    rw [if_neg (by decide), hfound]
    exact congrArg _ (clearLatent_of_none (s := y) (hv.latent.trans hlat) _ _)
  have hx : x = countCtx 2 0 1 c (some p.va) (hitWatch own (lineNo p.pa) y) := congrArg (countCtx 2 0 1 c (some p.va)) hcommit
  have hperf := countCtx_eq 2 0 1 c (some p.va) (hitWatch own (lineNo p.pa) y)
  have hspad : x.spad = y.spad := by rw [hx, hperf.spad, hitWatch_eq]
  have hcaches : x.caches = y.caches := by rw [hx, hperf.caches, hitWatch_eq]
  refine ⟨hspad.trans hv.spad, ⟨age, ?_⟩, fun k hk => ?_, ?_⟩
  · rw [hcaches]
    exact SMap.find?_put_same ..
  · rw [hcaches]
    exact (SMap.find?_put_ne _ _ hk).trans (hv.rest k hk)
  · rw [hcaches]
    exact hv.l2

theorem oldWord_l1d {old : TWord} (hlat : v.rel.latent = []) (h : cacheFind v .l1d (lineNo p.pa) = some (key, l))
    (hold : vget l.data (p.pa.toNat / 8 % 8) TWord.zero = old) (htag : isReserved old.tag = false) :
    oldWord c .l1d p v = .ok (some (old, false)) v := by
  have hi : fldN p.pa 3 3 = p.pa.toNat / 8 % 8 := by simp [Nat.shiftRight_eq_div_pow]
  have hword : vget l.data (p.pa.toNat / 8 % 8) TWord.poison = old := by
    rw [← hold]
    have : p.pa.toNat / 8 % 8 < 8 := Nat.mod_lt _ (by decide)
    simp [vget, this]
  unfold oldWord
  dsimp only
  have hmeet : meetLine .l1d (lineNo p.pa) (meetLine .l1d (lineNo p.pa) v) = v := by
    rw [meetLine_of_none hlat, meetLine_of_none hlat]
  rw [run_bind_ok (run_modify _ v)]
  simp only [beq_self_eq_true, if_true]
  rw [hmeet, run_bind_ok (run_get v), h]
  simp only [hi, hword, deliver_of_tag htag]
  rfl

end

/-- A store of a whole word leaves it in its place. -/
theorem mergeLine_word (old : Line) {pa : PAddr} (w : TWord) (h : pa.toNat % 8 = 0) {j : Nat} (hj : j < 8) :
    vget (mergeLine old (wordLine pa w) (byteMask (fldN pa 0 6) 8)) j TWord.zero =
      if j = pa.toNat / 8 % 8 then w else vget old j TWord.zero := by
  obtain ⟨hkeep, htag, hbytes⟩ := mergeLine_store (n := 8) old pa w (by decide) (by omega)
  by_cases hji : j = pa.toNat / 8 % 8
  · subst hji
    rw [if_pos rfl]
    exact TWord.ext_bytes (fun k hk => (hbytes k hk).trans (if_pos (by omega))) htag
  · rw [if_neg hji]
    exact hkeep j hj hji

/-- Settles O9: a store's path in L1D is the line that it finds there. -/
theorem storeInstructions : Obligations.StoreInstructions := by
  unfold Obligations.StoreInstructions
  refine ⟨?_, ?_, ?_⟩
  · intro row hrow c s t m d hb hf
    refine ⟨fun hm => ?_, fun hm u hs => ?_⟩
    · subst hm
      exact (exec_storeRow hrow 4 d s).trans (runSeq_ends hb (storeReg_slot hf))
    · exact (exec_storeRow hrow m d s).trans (runSeq_ends hb (storeReg_memory hf hm hs))
  · intro row hrow c s t m d ecc hi hb hf
    obtain ⟨hexec, -⟩ := exec_subStoreRow hrow
    refine ⟨fun hm old u hread => ?_, fun hm u hs => ?_⟩
    · subst hm
      exact ⟨subSlot row.2 old (t.getCtx c).getA, (hexec 4 d ecc s).trans (runEcc_ends hi hb (storeSubReg_slot hf hread)),
        fun i hi => bit_subSlot row.2 old _ hi, subTag_eq ..⟩
    · exact (hexec m d ecc s).trans (runEcc_ends hi hb (storeSubReg_memory hf hm hs))
  · intro c s t u m d p key l hb hf hm htr htile hlat hs hdev hfly hon hl2 hfind hst _ i b
    have hi : i < 8 := Nat.mod_lt _ (by decide)
    constructor
    · intro row hrow w hrows hb0
      obtain ⟨v, hprep, hv⟩ := prepPhys_l1d (n := 8) htile hlat hs hdev hfly hon hl2 hfind hst
      have hrun := storeReg_memory hf hm (storeWord_run hrows htr hprep)
      obtain ⟨hspad, ⟨age, hline⟩, hrest, hl2'⟩ := commit_l1d (n := 8) (own := some c) hlat hv w
      refine ⟨_, ⟨lineNo p.pa, .modified, age, mergeLine l.data (wordLine p.pa w) (byteMask (fldN p.pa 0 6) 8)⟩,
        (exec_storeRow hrow m d s).trans (runSeq_ends hb hrun), (ends_spad ..).trans hspad, ?_, rfl, rfl,
        fun j hj => mergeLine_word l.data w hb0 hj, fun k hk => ?_, ?_⟩
      · rw [ends_caches]
        exact hline
      · rw [ends_caches]
        exact hrest k hk
      · rw [ends_caches]
        exact hl2'
    · intro row hrow w old hrows hea hn htag hts
      obtain ⟨hexec, h0⟩ := exec_subStoreRow hrow
      obtain ⟨v, hprep, hv⟩ := prepPhys_l1d (n := row.2) htile hlat hs hdev hfly hon hl2 hfind hst
      obtain ⟨age', hfound⟩ := hv.found
      have hrun := storeSubReg_memory hf hm (storeSub_run hlat hdev hrows htr hprep
        (oldWord_l1d (hv.latent.trans hlat) hfound rfl htag) hts)
      let x : TWord := ⟨placeBytes (eaOf c m d t).toNat w.val, subTag old.tag w.tag⟩
      obtain ⟨hspad, ⟨age, hline⟩, hrest, hl2'⟩ := commit_l1d (n := row.2) (own := some c) hlat hv x
      obtain ⟨hkeep, hwtag, hbytes⟩ := mergeLine_store l.data p.pa x h0 hn
      refine ⟨_, ⟨lineNo p.pa, .modified, age, mergeLine l.data (wordLine p.pa x) (byteMask (fldN p.pa 0 6) row.2)⟩,
        (hexec m d none s).trans (runEcc_ends hb.1 hb hrun), (ends_spad ..).trans hspad, ?_, rfl, rfl,
        fun j hj hji => hkeep j hj hji, hwtag.trans (subTag_eq ..), fun j hj => ?_⟩
      · rw [ends_caches]
        exact hline
      · exact (hbytes j hj).trans (byteOf_placed hea hj _)

end Sys2Proof.Machine

namespace Sys2Proof.Machine
open Sys2Proof

/-! ## The patterns of a format and their exact values (R120, R257)

A magnitude's pattern counts the finite numbers in their order. Its value in the rationals, with the exponent not limited from above, is
`patVal`; a number rounded to units of 2^q, for a q that its size allows, is the pattern `pack u q`. -/

section
variable {f : FpFmt} {u m n d b b0 : Nat} {q e : Int}

/-- The value of a magnitude's pattern, as if exponents went on. -/
def patVal (f : FpFmt) (b : Nat) : ℚ :=
  if b / 2 ^ f.mbits = 0 then b * 2 ^ f.qmin
  else ((b % 2 ^ f.mbits + 2 ^ f.mbits : ℕ) : ℚ) * 2 ^ (f.qmin + (b / 2 ^ f.mbits : ℕ) - 1)

/-- u units of 2^q make a normal number, or a subnormal one in the smallest unit. -/
def FpFmt.Fits (f : FpFmt) (u : Nat) (q : Int) : Prop := f.qmin ≤ q ∧ (2 ^ f.mbits ≤ u ∨ q = f.qmin)

theorem pack_of_lt (h : u < 2 ^ f.mbits) : f.pack u q = u := if_pos h

theorem pack_of_ge (h : 2 ^ f.mbits ≤ u) : f.pack u q = (q - f.qmin).toNat * 2 ^ f.mbits + u := if_neg (Nat.not_lt.2 h)

/-- The next unit is the next pattern. -/
theorem pack_succ (h : f.Fits u q) : f.pack (u + 1) q = f.pack u q + 1 := by
  obtain ⟨hq, hu⟩ := h
  rcases Nat.lt_or_ge u (2 ^ f.mbits) with hlt | hge
  · have hqm : q = f.qmin := hu.resolve_left (Nat.not_le.2 hlt)
    rw [pack_of_lt hlt]
    rcases Nat.lt_or_ge (u + 1) (2 ^ f.mbits) with h1 | h1
    · rw [pack_of_lt h1]
    · rw [pack_of_ge h1, hqm]
      simp
  · rw [pack_of_ge hge, pack_of_ge (Nat.le_succ_of_le hge)]
    rfl

/-- The value of a pattern is its units. -/
theorem patVal_pack (h : f.Fits u q) (hu : u ≤ 2 ^ (f.mbits + 1)) : patVal f (f.pack u q) = u * 2 ^ q := by
  obtain ⟨hq, hfit⟩ := h
  have hpos : 0 < 2 ^ f.mbits := Nat.two_pow_pos _
  rcases Nat.lt_or_ge u (2 ^ f.mbits) with hlt | hge
  · have hqm : q = f.qmin := hfit.resolve_left (Nat.not_le.2 hlt)
    rw [pack_of_lt hlt, patVal, if_pos (Nat.div_eq_of_lt hlt), hqm]
  · obtain ⟨k, hk⟩ : ∃ k : ℕ, q = f.qmin + k := ⟨(q - f.qmin).toNat, by omega⟩
    have hkn : (q - f.qmin).toNat = k := by omega
    rw [pack_of_ge hge, hkn]
    rcases Nat.lt_or_ge u (2 ^ (f.mbits + 1)) with h1 | h1
    · have hsub : u - 2 ^ f.mbits < 2 ^ f.mbits := by rw [Nat.pow_succ] at h1; omega
      have hb : k * 2 ^ f.mbits + u = (u - 2 ^ f.mbits) + (k + 1) * 2 ^ f.mbits := by rw [Nat.succ_mul]; omega
      have hdiv : (k * 2 ^ f.mbits + u) / 2 ^ f.mbits = k + 1 := by
        rw [hb, Nat.add_mul_div_right _ _ hpos, Nat.div_eq_of_lt hsub, Nat.zero_add]
      have hmod : (k * 2 ^ f.mbits + u) % 2 ^ f.mbits = u - 2 ^ f.mbits := by
        rw [hb, Nat.add_mul_mod_self_right, Nat.mod_eq_of_lt hsub]
      rw [patVal, hdiv, hmod, if_neg (Nat.succ_ne_zero k), Nat.sub_add_cancel hge, hk]
      congr 2
      push_cast
      ring
    · have hu2 : u = 2 * 2 ^ f.mbits := by rw [Nat.pow_succ] at hu h1; omega
      have hdiv : (k * 2 ^ f.mbits + u) / 2 ^ f.mbits = k + 2 := by
        rw [hu2, ← Nat.add_mul, Nat.mul_div_cancel _ hpos]
      have hmod : (k * 2 ^ f.mbits + u) % 2 ^ f.mbits = 0 := by
        rw [hu2, ← Nat.add_mul, Nat.mul_mod_left]
      rw [patVal, hdiv, hmod, if_neg (Nat.succ_ne_zero _), hk, hu2]
      have hexp : f.qmin + ((k + 2 : ℕ) : ℤ) - 1 = (f.qmin + k) + 1 := by push_cast; ring
      rw [hexp, zpow_add₀ (by norm_num : (2 : ℚ) ≠ 0)]
      push_cast
      ring

/-- Every pattern is a number of units below the next binade. -/
theorem exists_pack (f : FpFmt) (b : Nat) : ∃ u q, f.Fits u q ∧ u < 2 ^ (f.mbits + 1) ∧ b = f.pack u q := by
  have hpos : 0 < 2 ^ f.mbits := Nat.two_pow_pos _
  have hdm := Nat.div_add_mod b (2 ^ f.mbits)
  have hmod := Nat.mod_lt b hpos
  by_cases h : b / 2 ^ f.mbits = 0
  · have hb : b < 2 ^ f.mbits := (Nat.div_eq_zero_iff_lt hpos).1 h
    exact ⟨b, f.qmin, ⟨le_rfl, .inr rfl⟩, by rw [Nat.pow_succ]; omega, (pack_of_lt hb).symm⟩
  · obtain ⟨k, hk⟩ := Nat.exists_eq_succ_of_ne_zero h
    refine ⟨b % 2 ^ f.mbits + 2 ^ f.mbits, f.qmin + k, ⟨by omega, .inl (Nat.le_add_left ..)⟩, by rw [Nat.pow_succ]; omega, ?_⟩
    rw [pack_of_ge (Nat.le_add_left ..)]
    have hkn : (f.qmin + k - f.qmin).toNat = k := by omega
    rw [hkn]
    rw [hk, Nat.mul_comm, Nat.succ_mul] at hdm
    omega

/-- Patterns are in the order of their values. -/
theorem patVal_strictMono (f : FpFmt) : StrictMono (patVal f) := by
  refine strictMono_nat_of_lt_succ fun b => ?_
  obtain ⟨u, q, hfit, hu, rfl⟩ := exists_pack f b
  rw [← pack_succ hfit, patVal_pack hfit hu.le, patVal_pack ⟨hfit.1, hfit.2.imp_left Nat.le_succ_of_le⟩ hu]
  have hpow : (0 : ℚ) < 2 ^ q := by positivity
  exact mul_lt_mul_of_pos_right (by exact_mod_cast Nat.lt_succ_self u) hpow

theorem pack_mod_two (hm : 1 ≤ f.mbits) (u : Nat) (q : Int) : f.pack u q % 2 = u % 2 := by
  have h2 : 2 ∣ (q - f.qmin).toNat * 2 ^ f.mbits := Dvd.dvd.mul_left (dvd_pow_self 2 (by omega)) _
  rcases Nat.lt_or_ge u (2 ^ f.mbits) with h | h
  · rw [pack_of_lt h]
  · rw [pack_of_ge h]
    omega

theorem two_pow_toNat_sub (h : q ≤ e) : (2 : ℚ) ^ (e - q).toNat = 2 ^ e * 2 ^ (-q) := by
  rw [← zpow_natCast, ← zpow_add₀ (by norm_num)]
  congr 1
  omega

/-- In units of 2^q a pattern of the format has an integral magnitude. -/
theorem magUnits_cast (hb : b < 2 ^ (f.ebits + f.mbits)) (hq : q ≤ f.qmin) : (magUnits f q b : ℚ) = patVal f b * 2 ^ (-q) := by
  have hdiv : b / 2 ^ f.mbits < 2 ^ f.ebits := by
    rw [Nat.div_lt_iff_lt_mul (Nat.two_pow_pos _), ← Nat.pow_add]
    exact hb
  have hmod : b / 2 ^ f.mbits % 2 ^ f.ebits = b / 2 ^ f.mbits := Nat.mod_eq_of_lt hdiv
  unfold magUnits FpFmt.decodeFin patVal
  dsimp only
  rw [hmod]
  by_cases h : b / 2 ^ f.mbits = 0
  · rw [if_pos h, if_pos h]
    have hlt : b < 2 ^ f.mbits := (Nat.div_eq_zero_iff_lt (Nat.two_pow_pos _)).1 h
    dsimp only
    rw [Nat.mod_eq_of_lt hlt]
    push_cast
    rw [two_pow_toNat_sub hq]
    ring
  · rw [if_neg h, if_neg h]
    generalize b % 2 ^ f.mbits = r
    obtain ⟨k, hk⟩ := Nat.exists_eq_succ_of_ne_zero h
    rw [hk]
    dsimp only
    have he : f.qmin + ((k.succ : ℕ) : ℤ) - 1 = f.qmin + k := by push_cast; ring
    rw [he]
    push_cast
    rw [two_pow_toNat_sub (by omega)]
    ring

/-! ### The nearest pattern -/

/-- Of all patterns, mag is the one nearest to x, the even one of two that are as near. -/
def NearestPat (f : FpFmt) (x : ℚ) (mag : Nat) : Prop :=
  ∀ b, |patVal f mag - x| ≤ |patVal f b - x| ∧ (b ≠ mag → |patVal f b - x| = |patVal f mag - x| → mag % 2 = 0)

/-- Between two neighbours, the nearest pattern is the nearer one, and of two that are as near the even one. -/
theorem nearestPat_of_between {mag : Nat} {x : ℚ} (hlo : patVal f b0 ≤ x) (hhi : x < patVal f (b0 + 1))
    (hmag : mag = if patVal f b0 + patVal f (b0 + 1) < 2 * x ∨ patVal f b0 + patVal f (b0 + 1) = 2 * x ∧ b0 % 2 = 1 then b0 + 1 else b0) :
    NearestPat f x mag := by
  have hmono := patVal_strictMono f
  have hbelow {b : Nat} (h : b ≤ b0) : |patVal f b - x| = x - patVal f b := by
    rw [abs_of_nonpos (by linarith [hmono.monotone h])]
    ring
  have habove {b : Nat} (h : b0 + 1 ≤ b) : |patVal f b - x| = patVal f b - x :=
    abs_of_nonneg (by linarith [hmono.monotone h])
  intro b
  split at hmag <;> subst hmag
  case isTrue h =>
    rw [habove le_rfl]
    rcases Nat.lt_or_ge b0 b with hb | hb
    · rw [habove hb]
      refine ⟨by linarith [hmono.monotone (show b0 + 1 ≤ b from hb)], fun hne heq => ?_⟩
      have := hmono (show b0 + 1 < b by omega)
      linarith
    · rw [hbelow hb]
      have hle := hmono.monotone hb
      refine ⟨by rcases h with h | ⟨h, -⟩ <;> linarith, fun hne heq => ?_⟩
      rcases h with h | ⟨-, hodd⟩
      · linarith
      · omega
  case isFalse h =>
    rw [hbelow le_rfl]
    rw [not_or, not_and, not_lt] at h
    obtain ⟨h1, h2⟩ := h
    rcases Nat.lt_or_ge mag b with hb | hb
    · rw [habove hb]
      have hle := hmono.monotone (show mag + 1 ≤ b from hb)
      refine ⟨by linarith, fun hne heq => ?_⟩
      have := h2 (by linarith)
      omega
    · rw [hbelow hb]
      have hle := hmono.monotone hb
      refine ⟨by linarith, fun hne heq => ?_⟩
      have := hmono (show b < mag by omega)
      linarith

theorem infBits_lt (f : FpFmt) : f.infBits < 2 ^ (f.ebits + f.mbits) := by
  have h1 : 0 < 2 ^ f.ebits := Nat.two_pow_pos _
  have h2 : 0 < 2 ^ f.mbits := Nat.two_pow_pos _
  rw [FpFmt.infBits, Nat.pow_add, Nat.sub_mul]
  have : 0 < 2 ^ f.ebits * 2 ^ f.mbits := Nat.mul_pos h1 h2
  omega

theorem infBits_pos (he : 2 ≤ f.ebits) : 0 < f.infBits := by
  have h1 : 2 ^ 2 ≤ 2 ^ f.ebits := Nat.pow_le_pow_right (by decide) he
  exact Nat.mul_pos (by omega) (Nat.two_pow_pos _)

theorem infBits_even (hm : 1 ≤ f.mbits) : f.infBits % 2 = 0 := by
  have h2 : 2 ∣ f.infBits := Dvd.dvd.mul_left (dvd_pow_self 2 (by omega)) _
  omega

/-- The largest finite number and its neighbours are one unit apart. -/
theorem patVal_top (he : 2 ≤ f.ebits) (hm : 1 ≤ f.mbits) :
    patVal f f.infBits - patVal f f.maxBits = patVal f f.maxBits - patVal f (f.maxBits - 1) := by
  have h4 : 2 ^ 2 ≤ 2 ^ f.ebits := Nat.pow_le_pow_right (by decide) he
  have h2 : 2 ^ 1 ≤ 2 ^ f.mbits := Nat.pow_le_pow_right (by decide) hm
  obtain ⟨k, hk⟩ : ∃ k, 2 ^ f.ebits = k + 3 := ⟨2 ^ f.ebits - 3, by omega⟩
  let q : Int := f.qmin + k
  let u := 2 ^ (f.mbits + 1) - 2
  have hu : u + 2 = 2 ^ (f.mbits + 1) := by have := Nat.pow_succ 2 f.mbits; omega
  have hge : 2 ^ f.mbits ≤ u := by have := Nat.pow_succ 2 f.mbits; omega
  have hfit : ∀ j, f.Fits (u + j) q := fun j => ⟨by omega, .inl (by omega)⟩
  have hfit0 : f.Fits u q := hfit 0
  have hkn : (q - f.qmin).toNat = k := by omega
  have htop : f.pack u q = f.maxBits - 1 := by
    rw [pack_of_ge hge, hkn, FpFmt.maxBits, FpFmt.infBits, hk]
    have := Nat.pow_succ 2 f.mbits
    have h3 : (k + 3 - 1) * 2 ^ f.mbits = k * 2 ^ f.mbits + 2 * 2 ^ f.mbits := by
      rw [show k + 3 - 1 = k + 2 by omega, Nat.add_mul]
    omega
  have hinf := infBits_pos (f := f) he
  have hpos : 2 ≤ f.infBits := by have := infBits_even (f := f) hm; omega
  have hmax : f.pack (u + 1) q = f.maxBits := by
    rw [pack_succ hfit0, htop, FpFmt.maxBits]
    omega
  have hinfp : f.pack (u + 1 + 1) q = f.infBits := by
    rw [pack_succ (hfit 1), hmax, FpFmt.maxBits]
    omega
  rw [← hinfp, ← htop, ← hmax, patVal_pack (hfit 2) (by omega), patVal_pack (hfit 1) (by omega), patVal_pack hfit0 (by omega)]
  push_cast
  ring

/-- Which side of the middle between the largest number and the next a value is on (R120). -/
theorem infBits_le_iff (he : 2 ≤ f.ebits) (hm : 1 ≤ f.mbits) {mag : Nat} {x : ℚ} (h : NearestPat f x mag) :
    f.infBits ≤ mag ↔ patVal f f.maxBits + patVal f f.infBits ≤ 2 * x := by
  have hmono := patVal_strictMono f
  have hpos := infBits_pos he
  have heven := infBits_even hm
  have hmax : f.maxBits + 1 = f.infBits := by rw [FpFmt.maxBits]; omega
  have hgap := hmono (show f.maxBits < f.infBits by omega)
  refine ⟨fun hle => ?_, fun hle => ?_⟩
  · by_contra hlt
    rw [not_le] at hlt
    have hv := hmono.monotone hle
    have hnear := (h f.maxBits).1
    rw [abs_of_nonneg (by linarith)] at hnear
    rcases abs_cases (patVal f f.maxBits - x) with ⟨ha, -⟩ | ⟨ha, -⟩ <;> rw [ha] at hnear <;> linarith
  · by_contra hlt
    have hlt : mag ≤ f.maxBits := by omega
    have hv := hmono.monotone hlt
    obtain ⟨hnear, htie⟩ := h f.infBits
    rw [abs_of_nonpos (show patVal f mag - x ≤ 0 by linarith)] at hnear htie
    rcases abs_cases (patVal f f.infBits - x) with ⟨ha, -⟩ | ⟨ha, -⟩ <;> rw [ha] at hnear htie
    · have heq : patVal f mag = patVal f f.maxBits := by linarith
      have hmag := hmono.injective heq
      have := htie (by omega) (by linarith)
      omega
    · linarith

/-- Distances in units are distances of values. -/
theorem away_cast {x : ℚ} (hx : x * d = n * 2 ^ e) (hb : b < 2 ^ (f.ebits + f.mbits)) :
    ((magUnits f (min e f.qmin) b * d - (n : Int) * 2 ^ (e - min e f.qmin).toNat).natAbs : ℚ) =
      |patVal f b - x| * (d * 2 ^ (-(min e f.qmin))) := by
  have hd : (0 : ℚ) ≤ d * 2 ^ (-(min e f.qmin)) := by positivity
  rw [Nat.cast_natAbs, ← abs_of_nonneg hd, ← abs_mul]
  push_cast
  rw [magUnits_cast hb (min_le_right ..), two_pow_toNat_sub (min_le_left ..), ← mul_assoc (n : ℚ), ← hx]
  congr 1
  ring

/-- A pattern nearest to n / d × 2^e is its rounding in the statement's words: infinity from half a unit above the largest number. -/
theorem nearest_of_pat (he : 2 ≤ f.ebits) (hm : 1 ≤ f.mbits) (hd : 0 < d) {mag : Nat} {x : ℚ} (hx : x * d = n * 2 ^ e)
    (h : NearestPat f x mag) : Nearest f n d e (if f.infBits ≤ mag then f.infBits else mag) := by
  have hinf := infBits_lt f
  have hmax : f.maxBits + 1 = f.infBits := by have := infBits_pos he; rw [FpFmt.maxBits]; omega
  have hscale : (0 : ℚ) < d * 2 ^ (-(min e f.qmin)) := by positivity
  have htop : (2 * magUnits f (min e f.qmin) f.maxBits + (magUnits f (min e f.qmin) f.maxBits -
      magUnits f (min e f.qmin) (f.maxBits - 1))) * d ≤ 2 * (n : Int) * 2 ^ (e - min e f.qmin).toNat ↔ f.infBits ≤ mag := by
    rw [infBits_le_iff he hm h, ← @Int.cast_le ℚ]
    push_cast
    rw [magUnits_cast (by omega) (min_le_right ..), magUnits_cast (by omega) (min_le_right ..),
      two_pow_toNat_sub (min_le_left ..)]
    have htop := patVal_top he hm
    have hl : (2 * (patVal f f.maxBits * 2 ^ (-(min e f.qmin))) + (patVal f f.maxBits * 2 ^ (-(min e f.qmin)) -
        patVal f (f.maxBits - 1) * 2 ^ (-(min e f.qmin)))) * d =
        (patVal f f.maxBits + patVal f f.infBits) * (d * 2 ^ (-(min e f.qmin))) := by
      linear_combination (-(d * 2 ^ (-(min e f.qmin))) : ℚ) * htop
    have hr : 2 * (n : ℚ) * (2 ^ e * 2 ^ (-(min e f.qmin))) = 2 * x * (d * 2 ^ (-(min e f.qmin))) := by
      linear_combination (-2 * 2 ^ (-(min e f.qmin)) : ℚ) * hx
    rw [hl, hr]
    exact mul_le_mul_iff_left₀ hscale
  unfold Nearest
  dsimp only
  by_cases hle : f.infBits ≤ mag
  · rw [if_pos (htop.mpr hle), if_pos hle]
  · rw [if_neg (mt htop.mp hle), if_neg hle]
    refine ⟨by omega, fun b hb => ?_⟩
    have hmag := away_cast (f := f) (b := mag) hx (by omega)
    have hbb := away_cast (f := f) (b := b) hx (by omega)
    obtain ⟨hnear, htie⟩ := h b
    refine ⟨?_, fun hne heq => htie hne ?_⟩
    · rw [← @Nat.cast_le ℚ, hmag, hbb]
      exact mul_le_mul_of_nonneg_right hnear hscale.le
    · have := congrArg (Nat.cast (R := ℚ)) heq
      rw [hmag, hbb] at this
      exact mul_right_cancel₀ hscale.ne' this

/-! ### One rounding -/

theorem lt_two_pow_bitLen (m : Nat) : m < 2 ^ bitLen m := by
  unfold bitLen
  split
  · subst m
    decide
  · exact Nat.lt_log2_self

theorem two_pow_le_of_bitLen (h : m ≠ 0) : 2 ^ (bitLen m - 1) ≤ m ∧ 1 ≤ bitLen m := by
  have hb : bitLen m = m.log2 + 1 := if_neg h
  rw [hb]
  exact ⟨Nat.log2_self_le h, Nat.le_add_left ..⟩

/-- A rounding to units of 2^q in exact numbers: between u units and u + 1, by the half and the direction. -/
theorem roundAt_eq (m : Nat) (e q : Int) : ∃ u : Nat, (u : ℚ) * 2 ^ q ≤ m * 2 ^ e ∧ (m : ℚ) * 2 ^ e < (u + 1) * 2 ^ q ∧
    ∀ r neg, roundAt r neg m e q =
      (if roundsUp r neg u (compare (2 * (m * 2 ^ e : ℚ)) ((2 * u + 1) * 2 ^ q)) (decide ((m : ℚ) * 2 ^ e = u * 2 ^ q)) then u + 1 else u,
        !decide ((m : ℚ) * 2 ^ e = u * 2 ^ q)) := by
  have h2 : (2 : ℚ) ≠ 0 := by norm_num
  by_cases hqe : q ≤ e
  · have hval : (m : ℚ) * 2 ^ e = ((m * 2 ^ (e - q).toNat : ℕ) : ℚ) * 2 ^ q := by
      push_cast
      rw [mul_assoc, ← zpow_natCast, ← zpow_add₀ h2]
      congr 2
      omega
    refine ⟨m * 2 ^ (e - q).toNat, hval.ge, ?_, fun r neg => ?_⟩
    · rw [hval]
      have : (0 : ℚ) < 2 ^ q := by positivity
      linarith
    · rw [roundAt, if_pos hqe, decide_eq_true hval]
      rfl
  · have hpos : 0 < 2 ^ (q - e).toNat := Nat.two_pow_pos _
    have hpow : (2 : ℚ) ^ q = ((2 ^ (q - e).toNat : ℕ) : ℚ) * 2 ^ e := by
      push_cast
      rw [← zpow_natCast, ← zpow_add₀ h2]
      congr 1
      omega
    have he : (0 : ℚ) < 2 ^ e := by positivity
    obtain ⟨N, hN⟩ : ∃ N, N = 2 ^ (q - e).toNat := ⟨_, rfl⟩
    have hdm : N * (m / N) + m % N = m := Nat.div_add_mod m N
    have hlt : m % N < N := Nat.mod_lt _ (hN ▸ hpos)
    have hunits (k : ℕ) : (k : ℚ) * 2 ^ q = ((N * k : ℕ) : ℚ) * 2 ^ e := by
      rw [hpow, ← hN]
      push_cast
      ring
    refine ⟨m / N, ?_, ?_, fun r neg => ?_⟩
    · rw [hunits]
      exact mul_le_mul_of_nonneg_right (by exact_mod_cast (by omega : N * (m / N) ≤ m)) he.le
    · have := hunits (m / N + 1)
      push_cast at this
      rw [this]
      refine mul_lt_mul_of_pos_right ?_ he
      have : m < N * (m / N + 1) := by rw [Nat.mul_succ]; omega
      exact_mod_cast this
    · have hexact : decide ((m : ℚ) * 2 ^ e = ((m / N : ℕ) : ℚ) * 2 ^ q) = (m % N == 0) := by
        rw [hunits, Bool.beq_eq_decide_eq]
        congr 1
        rw [eq_iff_iff, mul_left_inj' he.ne']
        constructor
        · intro h
          have h : m = N * (m / N) := by exact_mod_cast h
          omega
        · intro h
          have h : m = N * (m / N) := by omega
          exact_mod_cast h
      have hhalf : compare (2 * (m * 2 ^ e : ℚ)) ((2 * ((m / N : ℕ) : ℚ) + 1) * 2 ^ q) = compare (2 * (m % N)) N := by
        have h1 : (2 * ((m / N : ℕ) : ℚ) + 1) * 2 ^ q = ((N * (2 * (m / N) + 1) : ℕ) : ℚ) * 2 ^ e := by
          rw [← hunits]
          push_cast
          ring
        have h2 : 2 * ((m : ℚ) * 2 ^ e) = ((2 * m : ℕ) : ℚ) * 2 ^ e := by
          push_cast
          ring
        have hm : 2 * m = 2 * (N * (m / N)) + 2 * (m % N) := by omega
        have hn : N * (2 * (m / N) + 1) = 2 * (N * (m / N)) + N := by ring
        rw [h1, h2, ← cmp_eq_compare, cmp_mul_pos_right he, Nat.strictMono_cast.cmp_map_eq, hm, hn, cmp_add_left, cmp_eq_compare]
      rw [roundAt, if_neg hqe, hexact, hhalf]
      dsimp only
      rw [← hN]

/-- The unit of a rounding, and what the value's size makes of it. -/
def FpFmt.unitOf (f : FpFmt) (m : Nat) (e : Int) : Int := max (e + bitLen m - 1 - f.mbits) f.qmin

theorem value_lt (f : FpFmt) (m : Nat) (e : Int) : (m : ℚ) * 2 ^ e < 2 ^ (f.mbits + 1) * 2 ^ f.unitOf m e := by
  have h2 : (2 : ℚ) ≠ 0 := by norm_num
  have hm : (m : ℚ) < 2 ^ bitLen m := by exact_mod_cast lt_two_pow_bitLen m
  calc (m : ℚ) * 2 ^ e < 2 ^ bitLen m * 2 ^ e := mul_lt_mul_of_pos_right hm (by positivity)
    _ = 2 ^ ((bitLen m : ℤ) + e) := by rw [zpow_add₀ h2, zpow_natCast]
    _ ≤ 2 ^ (((f.mbits + 1 : ℕ) : ℤ) + f.unitOf m e) := zpow_le_zpow_right₀ (by norm_num) (by unfold FpFmt.unitOf; push_cast; omega)
    _ = _ := by rw [zpow_add₀ h2, zpow_natCast]

theorem le_value (f : FpFmt) (hm : m ≠ 0) (h : f.unitOf m e ≠ f.qmin) : (2 : ℚ) ^ f.mbits * 2 ^ f.unitOf m e ≤ m * 2 ^ e := by
  have h2 : (2 : ℚ) ≠ 0 := by norm_num
  obtain ⟨hle, h1⟩ := two_pow_le_of_bitLen hm
  have hle : (2 : ℚ) ^ (bitLen m - 1) ≤ m := by exact_mod_cast hle
  calc (2 : ℚ) ^ f.mbits * 2 ^ f.unitOf m e = 2 ^ ((f.mbits : ℤ) + f.unitOf m e) := by rw [zpow_add₀ h2, zpow_natCast]
    _ = 2 ^ (((bitLen m - 1 : ℕ) : ℤ) + e) := by
      congr 1
      unfold FpFmt.unitOf at h ⊢
      omega
    _ = 2 ^ (bitLen m - 1) * 2 ^ e := by rw [zpow_add₀ h2, zpow_natCast]
    _ ≤ m * 2 ^ e := mul_le_mul_of_nonneg_right hle (by positivity)

/-- A rounding to a format chooses between two neighbouring patterns, by the half and the direction. -/
theorem roundMag_eq (f : FpFmt) (hm : m ≠ 0) (e : Int) : ∃ u : Nat, f.Fits u (f.unitOf m e) ∧ u < 2 ^ (f.mbits + 1) ∧
    (u : ℚ) * 2 ^ f.unitOf m e ≤ m * 2 ^ e ∧ (m : ℚ) * 2 ^ e < (u + 1) * 2 ^ f.unitOf m e ∧
    ∀ r neg, let x : ℚ := m * 2 ^ e
      (f.roundMag r neg m e).1 = (if roundsUp r neg u (compare (2 * x) ((2 * u + 1) * 2 ^ f.unitOf m e))
        (decide (x = u * 2 ^ f.unitOf m e)) then f.pack u (f.unitOf m e) + 1 else f.pack u (f.unitOf m e)) ∧
      (f.roundMag r neg m e).2.1 = !decide (x = u * 2 ^ f.unitOf m e) := by
  obtain ⟨u, hlo, hhi, hround⟩ := roundAt_eq m e (f.unitOf m e)
  have hq : (0 : ℚ) < 2 ^ f.unitOf m e := by positivity
  have hlt : u < 2 ^ (f.mbits + 1) := by
    have := lt_of_mul_lt_mul_right (hlo.trans_lt (value_lt f m e)) hq.le
    exact_mod_cast this
  have hfit : f.Fits u (f.unitOf m e) := by
    refine ⟨le_max_right .., ?_⟩
    by_cases h : f.unitOf m e = f.qmin
    · exact .inr h
    · left
      have := lt_of_mul_lt_mul_right ((le_value f hm h).trans_lt hhi) hq.le
      have : 2 ^ f.mbits < u + 1 := by exact_mod_cast this
      omega
  refine ⟨u, hfit, hlt, hlo, hhi, fun r neg => ?_⟩
  have hmag : f.roundMag r neg m e = (f.pack (roundAt r neg m e (f.unitOf m e)).1 (f.unitOf m e), (roundAt r neg m e (f.unitOf m e)).2,
      (f.roundMag r neg m e).2.2) := rfl
  rw [hmag, hround r neg]
  refine ⟨?_, rfl⟩
  dsimp only
  split
  · exact pack_succ hfit
  · rfl

end
end Sys2Proof.Machine

namespace Sys2Proof.Machine
open Sys2Proof

/-! ### Rounding to nearest and toward zero -/

section
variable {f : FpFmt} {u m n d b b0 : Nat} {q e : Int} {x : ℚ} {neg : Bool} {r : FpRound}

theorem patVal_pack_succ (h : f.Fits u q) (hu : u < 2 ^ (f.mbits + 1)) : patVal f (f.pack u q + 1) = (u + 1) * 2 ^ q := by
  rw [← pack_succ h, patVal_pack ⟨h.1, h.2.imp_left Nat.le_succ_of_le⟩ hu]
  push_cast
  rfl

/-- x is on the same side as m × 2^e of every half unit of the rounding. -/
def SameSide (f : FpFmt) (m : Nat) (e : Int) (x : ℚ) : Prop :=
  ∀ k : Nat, compare (2 * x) (k * 2 ^ f.unitOf m e) = compare (2 * (m * 2 ^ e : ℚ)) (k * 2 ^ f.unitOf m e)

theorem SameSide.refl (f : FpFmt) (m : Nat) (e : Int) : SameSide f m e (m * 2 ^ e) := fun _ => rfl

/-- When a magnitude rounds up to the even neighbour or the nearer one (R120). -/
theorem roundsUp_nearest (neg : Bool) (u : Nat) {q : ℚ} (hq : 0 < q) (x : ℚ) :
    roundsUp .nearest neg u (compare (2 * x) ((2 * u + 1) * q)) (decide (x = u * q)) = true ↔
      (2 * u + 1) * q < 2 * x ∨ (2 * u + 1) * q = 2 * x ∧ u % 2 = 1 := by
  have hgt : (compare (2 * x) ((2 * u + 1) * q) == .gt) = true ↔ (2 * u + 1) * q < 2 * x := by
    rw [beq_iff_eq, compare_gt_iff_gt]
  have heq : (compare (2 * x) ((2 * u + 1) * q) == .eq) = true ↔ (2 * u + 1) * q = 2 * x := by
    rw [beq_iff_eq, compare_eq_iff_eq, eq_comm]
  have hodd : (u % 2 == 1) = true ↔ u % 2 = 1 := beq_iff_eq
  unfold roundsUp
  dsimp only
  rw [Bool.and_eq_true, Bool.or_eq_true, Bool.and_eq_true, hgt, heq, hodd, Bool.not_eq_true', decide_eq_false_iff_not]
  refine and_iff_right_of_imp fun h hx => ?_
  subst hx
  rcases h with h | ⟨h, -⟩ <;> linarith

/-- The result to nearest is the pattern nearest to the value, or to any value that the rounding cannot tell from it (R120). -/
theorem roundMag_nearest (h1 : 1 ≤ f.mbits) (hm : m ≠ 0) (h : SameSide f m e x) : NearestPat f x (f.roundMag .nearest neg m e).1 := by
  obtain ⟨u, hfit, hlt, hlo, hhi, hround⟩ := roundMag_eq f hm e
  obtain ⟨hmag, -⟩ := hround .nearest neg
  have hq : (0 : ℚ) < 2 ^ f.unitOf m e := by positivity
  have hv0 := patVal_pack hfit hlt.le
  have hv1 := patVal_pack_succ hfit hlt
  have hle : (u : ℚ) * 2 ^ f.unitOf m e ≤ x := by
    have hs := h (2 * u)
    push_cast at hs
    have h0 : compare (2 * (m * 2 ^ e : ℚ)) (2 * u * 2 ^ f.unitOf m e) ≠ .lt := by
      rw [Ne, compare_lt_iff_lt]
      linarith
    rw [← hs, Ne, compare_lt_iff_lt] at h0
    linarith
  have hltx : x < (u + 1) * 2 ^ f.unitOf m e := by
    have hs := h (2 * (u + 1))
    push_cast at hs
    have h0 : compare (2 * (m * 2 ^ e : ℚ)) (2 * (u + 1) * 2 ^ f.unitOf m e) = .lt := by
      rw [compare_lt_iff_lt]
      linarith
    rw [← hs, compare_lt_iff_lt] at h0
    linarith
  refine nearestPat_of_between (hv0.trans_le hle) (hltx.trans_eq hv1.symm) (hmag.trans ?_)
  have hsum : patVal f (f.pack u (f.unitOf m e)) + patVal f (f.pack u (f.unitOf m e) + 1) = (2 * u + 1) * 2 ^ f.unitOf m e := by
    rw [hv0, hv1]
    ring
  have hhalf := h (2 * u + 1)
  push_cast at hhalf
  have hup : (roundsUp .nearest neg u (compare (2 * (m * 2 ^ e : ℚ)) ((2 * u + 1) * 2 ^ f.unitOf m e))
      (decide ((m : ℚ) * 2 ^ e = u * 2 ^ f.unitOf m e)) = true) ↔
      (2 * u + 1) * 2 ^ f.unitOf m e < 2 * x ∨ (2 * u + 1) * 2 ^ f.unitOf m e = 2 * x ∧ u % 2 = 1 := by
    rw [roundsUp_nearest neg u hq, ← compare_gt_iff_gt (a := 2 * (m * 2 ^ e : ℚ)), ← hhalf, compare_gt_iff_gt,
      eq_comm (b := 2 * (m * 2 ^ e : ℚ)), ← compare_eq_iff_eq, ← hhalf, compare_eq_iff_eq, eq_comm (a := 2 * x)]
  rw [hsum, pack_mod_two h1]
  simp only [hup]

/-- A rounding is exact when its pattern has the value. -/
theorem roundMag_exact_iff (hm : m ≠ 0) (r : FpRound) (neg : Bool) (e : Int) :
    (f.roundMag r neg m e).2.1 = false ↔ patVal f (f.roundMag r neg m e).1 = m * 2 ^ e := by
  obtain ⟨u, hfit, hlt, hlo, hhi, hround⟩ := roundMag_eq f hm e
  obtain ⟨hmag, hexact⟩ := hround r neg
  have hv0 := patVal_pack hfit hlt.le
  have hv1 := patVal_pack_succ hfit hlt
  rw [hexact, hmag, Bool.not_eq_false', decide_eq_true_eq]
  constructor
  · intro h
    rw [if_neg (by rw [decide_eq_true h]; exact Bool.false_ne_true), hv0, h]
  · intro h
    split at h
    · linarith
    · linarith

/-- Whether a result that is too large becomes infinity (R120). -/
def toInf (r : FpRound) (neg : Bool) : Bool := match r with | .nearest => true | .zero => false | .up => !neg | .down => neg

/-- The rounding of a number that is not zero, by its magnitude. -/
theorem round_eq (f : FpFmt) (r : FpRound) (neg : Bool) (hm : m ≠ 0) (e : Int) : f.round r neg m e =
    if f.infBits ≤ (f.roundMag r neg m e).1 then
      (f.signed neg (if toInf r neg then f.infBits else f.maxBits), { nx := true, of := true })
    else (f.signed neg (f.roundMag r neg m e).1,
      { nx := (f.roundMag r neg m e).2.1, uf := (f.roundMag r neg m e).2.2 && (f.roundMag r neg m e).2.1 }) := by
  unfold FpFmt.round
  rw [if_neg hm]
  rfl

/-- The result to nearest of a number, or of any that the rounding cannot tell from it. -/
theorem round_nearest (he : 2 ≤ f.ebits) (h1 : 1 ≤ f.mbits) (hm : m ≠ 0) {e' : Int} (hd : 0 < d) (hx : x * d = n * 2 ^ e')
    (h : SameSide f m e x) : ∃ mag, (f.round .nearest neg m e).1 = f.signed neg mag ∧ Nearest f n d e' mag ∧
      mag = if f.infBits ≤ (f.roundMag .nearest neg m e).1 then f.infBits else (f.roundMag .nearest neg m e).1 := by
  refine ⟨_, ?_, nearest_of_pat he h1 hd hx (roundMag_nearest (neg := neg) h1 hm h), rfl⟩
  rw [round_eq f _ _ hm]
  split <;> rfl

theorem magUnits_le_iff (hb : b < 2 ^ (f.ebits + f.mbits)) :
    magUnits f (min e f.qmin) b ≤ (m : Int) * 2 ^ (e - min e f.qmin).toNat ↔ patVal f b ≤ m * 2 ^ e := by
  have hs : (0 : ℚ) < 2 ^ (-(min e f.qmin)) := by positivity
  rw [← @Int.cast_le ℚ]
  push_cast
  rw [magUnits_cast hb (min_le_right ..), two_pow_toNat_sub (min_le_left ..), ← mul_assoc]
  exact mul_le_mul_iff_left₀ hs

theorem magUnits_eq_iff (hb : b < 2 ^ (f.ebits + f.mbits)) :
    magUnits f (min e f.qmin) b = (m : Int) * 2 ^ (e - min e f.qmin).toNat ↔ patVal f b = m * 2 ^ e := by
  have hs : (0 : ℚ) < 2 ^ (-(min e f.qmin)) := by positivity
  rw [← @Int.cast_inj ℚ]
  push_cast
  rw [magUnits_cast hb (min_le_right ..), two_pow_toNat_sub (min_le_left ..), ← mul_assoc]
  exact mul_left_inj' hs.ne'

theorem magUnits_mono {c : Nat} (hc : c < 2 ^ (f.ebits + f.mbits)) (hq : q ≤ f.qmin) (h : b ≤ c) : magUnits f q b ≤ magUnits f q c := by
  rw [← @Int.cast_le ℚ, magUnits_cast (h.trans_lt hc) hq, magUnits_cast hc hq]
  exact mul_le_mul_of_nonneg_right ((patVal_strictMono f).monotone h) (by positivity)

/-- The result toward zero is the largest pattern that is not above the value (R120). -/
theorem round_towardZero (he : 2 ≤ f.ebits) (hm : m ≠ 0) (e : Int) :
    ∃ mag, (f.round .zero neg m e).1 = f.signed neg mag ∧ TowardZero f m e mag := by
  obtain ⟨u, hfit, hlt, hlo, hhi, hround⟩ := roundMag_eq f hm e
  obtain ⟨hmag, -⟩ := hround .zero neg
  have hdown : (f.roundMag .zero neg m e).1 = f.pack u (f.unitOf m e) :=
    hmag.trans (if_neg (by unfold roundsUp; simp))
  have hv0 := patVal_pack hfit hlt.le
  have hv1 := patVal_pack_succ hfit hlt
  have hinf := infBits_lt f
  have hpos := infBits_pos he
  have hmax : f.maxBits + 1 = f.infBits := by rw [FpFmt.maxBits]; omega
  have hmono := patVal_strictMono f
  refine ⟨if f.infBits ≤ f.pack u (f.unitOf m e) then f.maxBits else f.pack u (f.unitOf m e), ?_, ?_⟩
  · rw [round_eq f _ _ hm, hdown]
    split <;> rfl
  · unfold TowardZero
    dsimp only
    split
    case isTrue h =>
      refine ⟨le_rfl, ?_, fun b hb _ => magUnits_mono (by omega) (min_le_right ..) hb⟩
      rw [magUnits_le_iff (by omega)]
      exact (hmono.monotone (by omega)).trans (hv0.trans_le hlo)
    case isFalse h =>
      refine ⟨by omega, ?_, fun b hb hbx => ?_⟩
      · rw [magUnits_le_iff (by omega)]
        exact hv0.trans_le hlo
      · rw [magUnits_le_iff (by omega)] at hbx
        have := hmono.lt_iff_lt.1 (hbx.trans_lt (hhi.trans_eq hv1.symm))
        exact magUnits_mono (by omega) (min_le_right ..) (by omega)

/-! ### Patterns -/

/-- A finite pattern: its sign, its magnitude below infinity, and the value of that. -/
theorem decode_fin (hb : b < 2 ^ (f.signBit + 1)) (h : f.decode b = .fin neg m e) :
    ∃ mag, b = f.signed neg mag ∧ mag < f.infBits ∧ patVal f mag = m * 2 ^ e ∧ m < 2 ^ (f.mbits + 1) ∧ (m = 0 → mag = 0) := by
  have hsb : f.signBit = f.ebits + f.mbits := rfl
  have hpos : 0 < 2 ^ f.mbits := Nat.two_pow_pos _
  have hdiv : b % 2 ^ f.signBit / 2 ^ f.mbits = b / 2 ^ f.mbits % 2 ^ f.ebits := by
    rw [hsb, Nat.pow_add, Nat.mod_mul_left_div_self]
  have hmod : b % 2 ^ f.signBit % 2 ^ f.mbits = b % 2 ^ f.mbits := Nat.mod_mod_of_dvd _ (hsb ▸ pow_dvd_pow 2 (by omega))
  have hsign : b = f.signed (b / 2 ^ f.signBit % 2 == 1) (b % 2 ^ f.signBit) := by
    have hlt : b / 2 ^ f.signBit < 2 := by
      rw [Nat.div_lt_iff_lt_mul (Nat.two_pow_pos _), Nat.mul_comm, ← Nat.pow_succ]
      exact hb
    have hdm := Nat.div_add_mod b (2 ^ f.signBit)
    unfold FpFmt.signed
    have hcase : b / 2 ^ f.signBit = 0 ∨ b / 2 ^ f.signBit = 1 := by
      generalize b / 2 ^ f.signBit = z at hlt
      omega
    rcases hcase with hs | hs <;> rw [hs] at hdm ⊢ <;> simp at hdm ⊢ <;> omega
  have hmlt := Nat.mod_lt b hpos
  have helt := Nat.mod_lt (b / 2 ^ f.mbits) (Nat.two_pow_pos f.ebits)
  have hbelow (hne : b / 2 ^ f.mbits % 2 ^ f.ebits ≠ 2 ^ f.ebits - 1) : b % 2 ^ f.signBit < f.infBits := by
    have : b % 2 ^ f.signBit / 2 ^ f.mbits < 2 ^ f.ebits - 1 := by omega
    exact (Nat.div_lt_iff_lt_mul hpos).1 this
  unfold FpFmt.decode at h
  dsimp only at h
  split at h
  · split at h <;> contradiction
  · rename_i hne
    refine ⟨b % 2 ^ f.signBit, ?_, hbelow hne, ?_⟩
    · split at h <;> (cases h; exact hsign)
    · unfold patVal
      rw [hdiv, hmod]
      split at h
      · rename_i h0
        cases h
        have hlow : b % 2 ^ f.signBit = b % 2 ^ f.mbits := by
          rw [← hmod, Nat.mod_eq_of_lt ((Nat.div_eq_zero_iff_lt hpos).1 (hdiv.trans h0))]
        rw [if_pos h0, hlow]
        exact ⟨rfl, by rw [Nat.pow_succ]; omega, id⟩
      · rename_i h0
        cases h
        rw [if_neg h0]
        exact ⟨rfl, by rw [Nat.pow_succ]; omega, fun hz => absurd hz (by omega)⟩

/-- A finite pattern rounds to itself (R120). -/
theorem round_decode (hb : b < 2 ^ (f.signBit + 1)) (h : f.decode b = .fin neg m e) (r : FpRound) :
    f.round r neg m e = (b, {}) := by
  obtain ⟨mag, rfl, hmag, hval, -, hzero⟩ := decode_fin hb h
  by_cases hm : m = 0
  · subst hm
    rw [hzero rfl]
    unfold FpFmt.round
    rw [if_pos rfl]
    rfl
  · obtain ⟨u, hfit, hlt, hlo, hhi, hround⟩ := roundMag_eq f hm e
    obtain ⟨hround, -⟩ := hround r neg
    have hv0 := patVal_pack hfit hlt.le
    have hv1 := patVal_pack_succ hfit hlt
    have hmono := patVal_strictMono f
    have hle := hmono.le_iff_le.1 (hv0.trans_le (hlo.trans_eq hval.symm))
    have hlt' := hmono.lt_iff_lt.1 ((hval.trans_lt hhi).trans_eq hv1.symm)
    have hpack : f.pack u (f.unitOf m e) = mag := by omega
    have hexact : (m : ℚ) * 2 ^ e = u * 2 ^ f.unitOf m e := by rw [← hval, ← hpack, hv0]
    have hres : (f.roundMag r neg m e).1 = mag := by
      rw [hround, hpack, if_neg (by rw [decide_eq_true hexact]; exact Bool.false_ne_true)]
    have hnx : (f.roundMag r neg m e).2.1 = false := (roundMag_exact_iff hm r neg e).2 (by rw [hres, hval])
    rw [round_eq f r neg hm, hres, hnx, if_neg (Nat.not_le.2 hmag), Bool.and_false]

end

/-- A magnitude m divided by a unit n, as a direction rounds it. -/
def unitsOf (r : FpRound) (neg : Bool) (m n : Nat) : Nat :=
  if roundsUp r neg (m / n) (compare (2 * (m % n)) n) (m % n == 0) then m / n + 1 else m / n

theorem roundAt_units (r : FpRound) (neg : Bool) (m : Nat) {e q : Int} (h : e < q) :
    roundAt r neg m e q = (unitsOf r neg m (2 ^ (q - e).toNat), !(m % 2 ^ (q - e).toNat == 0)) :=
  if_neg (not_le.2 h)

/-- When a direction takes the unit above m instead of the one below (R120). -/
theorem roundsUp_units_iff (r : FpRound) (neg : Bool) (m n : Nat) :
    roundsUp r neg (m / n) (compare (2 * (m % n)) n) (m % n == 0) = true ↔ m % n ≠ 0 ∧ (match r with
      | .nearest => n < 2 * (m % n) ∨ n = 2 * (m % n) ∧ m / n % 2 = 1
      | .zero => False
      | .up => neg = false
      | .down => neg = true) := by
  unfold roundsUp
  cases r with
  | nearest =>
    dsimp only
    rw [Bool.and_eq_true, Bool.or_eq_true, Bool.and_eq_true, beq_iff_eq, beq_iff_eq, beq_iff_eq, Bool.not_eq_true', beq_eq_false_iff_ne,
      compare_gt_iff_gt, compare_eq_iff_eq, @eq_comm _ n]
  | zero => simp
  | up => simp
  | down => simp

/-- A directed rounding is within one unit on its side, and a rounding to nearest within half a unit (R120). -/
theorem unitsOf_spec (r : FpRound) (neg : Bool) (m : Nat) {n : Nat} (hpos : 0 < n) : let u := unitsOf r neg m n
    match r with
    | .nearest => 2 * (u * n) ≤ 2 * m + n ∧ 2 * m ≤ 2 * (u * n) + n ∧ (2 * (m % n) = n → u % 2 = 0)
    | .zero => u * n ≤ m ∧ m < u * n + n
    | .up => if neg then u * n ≤ m ∧ m < u * n + n else m ≤ u * n ∧ u * n < m + n
    | .down => if neg then m ≤ u * n ∧ u * n < m + n else u * n ≤ m ∧ m < u * n + n := by
  intro u
  have hdm : m / n * n + m % n = m := Nat.div_add_mod' m n
  have hlt : m % n < n := Nat.mod_lt _ hpos
  have hsucc : (m / n + 1) * n = m / n * n + n := Nat.succ_mul ..
  have hup := roundsUp_units_iff r neg m n
  have hu : u = m / n + 1 ∧ roundsUp r neg (m / n) (compare (2 * (m % n)) n) (m % n == 0) = true ∨
      u = m / n ∧ ¬ roundsUp r neg (m / n) (compare (2 * (m % n)) n) (m % n == 0) = true := by
    change (if _ then _ else _) = _ ∧ _ ∨ (if _ then _ else _) = _ ∧ _
    split
    case isTrue h => exact .inl ⟨rfl, h⟩
    case isFalse h => exact .inr ⟨rfl, h⟩
  rw [hup] at hu
  rcases hu with ⟨hu, h⟩ | ⟨hu, h⟩
  · rw [hu]
    cases r with
    | nearest => dsimp only at h ⊢; omega
    | zero => exact h.2.elim
    | up => obtain ⟨h, rfl⟩ := h; dsimp only; simp only [Bool.false_eq_true, if_false]; omega
    | down => obtain ⟨h, rfl⟩ := h; dsimp only; simp only [if_true]; omega
  · rw [hu]
    cases r with
    | nearest => dsimp only at h ⊢; omega
    | zero => dsimp only; omega
    | up => cases neg <;> simp at h ⊢ <;> omega
    | down => cases neg <;> simp at h ⊢ <;> omega

/-- The result to nearest with its exceptions (R120). -/
theorem round_nearest_flags (he : 2 ≤ f.ebits) (h1 : 1 ≤ f.mbits) (hm : m ≠ 0) (neg : Bool) (e : Int) :
    ∃ mag, let o := f.round .nearest neg m e
      o.1 = f.signed neg mag ∧ Nearest f m 1 e mag ∧ (o.2.of = true ↔ mag = f.infBits) ∧
      (o.2.nx = false ↔ mag ≠ f.infBits ∧ magUnits f (min e f.qmin) mag = (m : Int) * 2 ^ (e - min e f.qmin).toNat) ∧
      (o.2.uf = true → o.2.nx = true) ∧ o.2.dz = false ∧ o.2.nv = false := by
  obtain ⟨mag, hres, hnear, hmag⟩ := round_nearest (neg := neg) (n := m) (d := 1) (e' := e) (x := m * 2 ^ e) he h1 hm (by decide) (by simp)
    (SameSide.refl f m e)
  refine ⟨mag, hres, hnear, ?_⟩
  rw [round_eq f _ _ hm]
  have hinf := infBits_lt f
  by_cases h : f.infBits ≤ (f.roundMag .nearest neg m e).1
  · rw [if_pos h] at hmag ⊢
    subst hmag
    simp
  · rw [if_neg h] at hmag ⊢
    subst hmag
    rw [magUnits_eq_iff (by omega), ← roundMag_exact_iff hm]
    simp
    omega

/-- Settles O15: a rounding chooses between the two patterns around the value. -/
theorem floatRounding : Obligations.FloatRounding := by
  refine ⟨fun f neg m e he h1 hm => ⟨round_nearest_flags he h1 hm neg e, round_towardZero he hm e⟩, fun f hf r b m neg e hb h => ?_,
    fun r neg m e q h => ?_⟩
  · exact round_decode hb h r
  · rw [roundAt_units r neg m h]
    exact ⟨by simp, unitsOf_spec r neg m (Nat.two_pow_pos _)⟩

end Sys2Proof.Machine

namespace Sys2Proof.Machine
open Sys2Proof

/-! ### Square root and conversions -/

/-- The bits below 2^k complete a root to the integer square root. -/
theorem isqrtFrom_spec (n : Nat) {k r : Nat} (hlo : r * r ≤ n) (hhi : n < (r + 2 ^ k) * (r + 2 ^ k)) :
    isqrtFrom n k r * isqrtFrom n k r ≤ n ∧ n < (isqrtFrom n k r + 1) * (isqrtFrom n k r + 1) := by
  induction k generalizing r with
  | zero => exact ⟨hlo, hhi⟩
  | succ k ih =>
    unfold isqrtFrom
    split
    case isTrue h =>
      refine ih h (hhi.trans_eq ?_)
      ring
    case isFalse h => exact ih hlo (Nat.not_le.1 h)

theorem isqrt_spec (n : Nat) : let q := isqrtFrom n (bitLen n / 2 + 1) 0
    q * q ≤ n ∧ n < (q + 1) * (q + 1) := by
  refine isqrtFrom_spec n (Nat.zero_le _) ?_
  rw [Nat.zero_add, ← pow_add]
  exact (lt_two_pow_bitLen n).trans_le (Nat.pow_le_pow_right (by decide) (by omega))

section
variable {f g : FpFmt} {a m : Nat} {e : Int} {neg : Bool}

theorem nanResult_of_fin (h : f.decode a = .fin neg m e) : f.nanResult [a] true = (f.qnan, { nv := true }) := by
  simp [FpFmt.nanResult, FpFmt.firstNan, h]

/-- The root of a positive number (R143): the integer root of a scaled magnitude, with its last bit for what is lost. -/
theorem sqrt_pos (h : f.decode a = .fin false m e) (hm : m ≠ 0) (r : FpRound) : ∃ k q : Nat, let n := m * 2 ^ k
    q * q ≤ n ∧ n < (q + 1) * (q + 1) ∧ 2 ^ (f.mbits + 3) ≤ q ∧ (e - k) % 2 = 0 ∧
    f.sqrt r a = f.round r false (2 * q + if q * q = n then 0 else 1) ((e - k) / 2 - 1) := by
  let k := 2 * (f.mbits + 4) + (if e % 2 = 0 then 0 else 1)
  obtain ⟨hlo, hhi⟩ := isqrt_spec (m * 2 ^ k)
  refine ⟨k, isqrtFrom (m * 2 ^ k) (bitLen (m * 2 ^ k) / 2 + 1) 0, hlo, hhi, ?_, ?_, ?_⟩
  · have hn : 2 ^ (f.mbits + 4) * 2 ^ (f.mbits + 4) ≤ m * 2 ^ k := by
      rw [← pow_add]
      exact (Nat.pow_le_pow_right (by decide) (by grind)).trans (Nat.le_mul_of_pos_left _ (by omega))
    have hq := lt_of_mul_self_lt_mul_self₀ (Nat.zero_le _) (hn.trans_lt hhi)
    rw [Nat.pow_succ 2 (f.mbits + 3)] at hq
    omega
  · grind
  · unfold FpFmt.sqrt
    rw [h]
    simp only [hm, if_false, Bool.false_eq_true]
    rfl

theorem toInt_fin (h : f.decode a = .fin neg m e) (r : FpRound) {lo hi : Int} (hle : lo ≤ hi) : let u := roundAt r neg m e 0
    let i : Int := if neg then -(u.1 : Int) else u.1
    f.toInt r lo hi a = (max lo (min hi i), if i < lo ∨ hi < i then { nv := true } else { nx := u.2 }) := by
  intro u i
  have hval : f.toInteger r a = some (i, u.2) := by
    unfold FpFmt.toInteger
    rw [h]
  unfold FpFmt.toInt
  rw [hval]
  dsimp only
  by_cases hlo : i < lo
  · rw [if_pos hlo, if_pos (.inl hlo), max_eq_left (by omega)]
  by_cases hhi : hi < i
  · rw [if_neg hlo, if_pos hhi, if_pos (.inr hhi), min_eq_left hhi.le, max_eq_right hle]
  · rw [if_neg hlo, if_neg hhi, if_neg (by omega), min_eq_right (by omega), max_eq_right (by omega)]

end

section
variable {c : CtxId} {t : State} {accepts : Tag → Bool} {rz : Bool} {f : FpRound → W64 → W64 × FpFlags} {tg : Tag} {r : BitVec 21}

/-- The effect of an instruction of the FOP1 group (R143). -/
theorem fop1Instr_run (hdef : (fld r 0 20 == 0 && (rz || !bit r 20)) = true) (hacc : accepts (t.getCtx c).getA.tag = true) :
    let v := f (if bit r 20 then .zero else (t.getCtx c).rm) (t.getCtx c).getA.val
    fop1Instr accepts rz f tg r c t =
      .ok () (countCtx 0 10 1 c none (t.modCtx c fun k => (k.setSticky v.2).setA ⟨v.1, tg⟩)) := by
  intro v
  unfold fop1Instr
  rw [run_bind_ok (by rw [run_needDef, hdef]; rfl), run_bind_ok (run_getC c t)]
  simp only [hacc, Bool.not_true, Bool.false_eq_true, if_false]
  rfl

theorem rzField (rz : Bool) : fld ((BitVec.ofBool rz).setWidth 21 <<< 20) 0 20 = (0 : BitVec 20) ∧
    bit ((BitVec.ofBool rz).setWidth 21 <<< 20) 20 = rz := by
  revert rz; decide

theorem exec_fop1 : ∀ row ∈ fop1Rows, ∀ (r : BitVec 21) (s : State),
    exec (row.1 r) s = runSeq (fop1Instr row.2.1 row.2.2.1 row.2.2.2.1 row.2.2.2.2 r) s := by
  intro row hrow r s
  simp only [fop1Rows, List.mem_cons, List.not_mem_nil, or_false] at hrow
  rcases hrow with rfl | rfl | rfl | rfl | rfl | rfl | rfl | rfl | rfl | rfl | rfl | rfl <;> rfl

end

/-- Settles O14: the values of the operations, then the instruction that each row names. -/
theorem floatUnary : Obligations.FloatUnary := by
  refine ⟨fun f _ r a s m e h => ⟨fun hm => ?_, fun hm hs => ?_, fun hm hs => ?_, fun lo hi hle => toInt_fin h r hle, fun g _ => ?_⟩,
    fun row hrow c s t a rz hb ha hacc hrz => ?_⟩
  · unfold FpFmt.sqrt
    rw [h]
    exact if_pos hm
  · unfold FpFmt.sqrt
    rw [h]
    simp only [hm, hs, if_false, if_true]
    exact nanResult_of_fin h
  · subst hs
    exact sqrt_pos h hm r
  · unfold FpFmt.convert
    rw [h]
  · subst ha
    obtain ⟨hz, hbit⟩ := rzField rz
    have hdef : (row.2.2.1 || !rz) = true := by
      cases rz with
      | false => exact Bool.or_true _
      | true => rw [hrz rfl]; rfl
    rw [exec_fop1 row hrow, runSeq_ends hb (fop1Instr_run (by rw [hz, hbit, hdef]; rfl) hacc), hbit]
    rfl

end Sys2Proof.Machine

namespace Sys2Proof.Machine
open Sys2Proof

/-! ### Signs of patterns -/

/-- A value with another sign; a NaN has none. -/
def FpVal.withSign (s : Bool) : FpVal → FpVal
  | .nan p => .nan p
  | .inf _ => .inf s
  | .fin _ m e => .fin s m e

/-- A value with the other sign. -/
def FpVal.flip : FpVal → FpVal
  | .nan p => .nan p
  | .inf s => .inf (!s)
  | .fin s m e => .fin (!s) m e

section
variable {f : FpFmt} {a b c m m1 m2 : Nat} {e e1 e2 : Int} {neg s s1 s2 p : Bool} {r : FpRound}

/-- Two patterns that differ in the sign bit at most have the same value but for its sign. -/
theorem decode_of_mag_eq (h : b % 2 ^ f.signBit = c % 2 ^ f.signBit) : f.decode b = (f.decode c).withSign (f.isNeg b) := by
  have hsb : f.signBit = f.ebits + f.mbits := rfl
  have hexp (x : Nat) : x / 2 ^ f.mbits % 2 ^ f.ebits = x % 2 ^ f.signBit / 2 ^ f.mbits := by
    rw [hsb, Nat.pow_add, Nat.mod_mul_left_div_self]
  have hman (x : Nat) : x % 2 ^ f.mbits = x % 2 ^ f.signBit % 2 ^ f.mbits :=
    (Nat.mod_mod_of_dvd _ (hsb ▸ pow_dvd_pow 2 (by omega))).symm
  unfold FpFmt.decode
  dsimp only
  rw [hexp b, hman b, hexp c, hman c, h]
  split
  · split <;> rfl
  · split <;> rfl

theorem isNeg_of_fin (h : f.decode b = .fin s m e) : f.isNeg b = s := by
  have := decode_of_mag_eq (f := f) (b := b) rfl
  rw [h] at this
  exact (FpVal.fin.inj this).1.symm

theorem neg_of_nan (h : f.decode b = .nan p) : f.neg b = b := by
  unfold FpFmt.neg
  rw [h]

/-- Negation flips the sign and keeps the rest (R120). -/
theorem decode_neg (f : FpFmt) (b : Nat) : f.decode (f.neg b) = (f.decode b).flip := by
  have hpos : 0 < 2 ^ f.signBit := Nat.two_pow_pos _
  by_cases hnan : ∃ p, f.decode b = .nan p
  · obtain ⟨p, hp⟩ := hnan
    rw [neg_of_nan hp, hp]
    rfl
  · have hneg : f.neg b = if b / 2 ^ f.signBit % 2 = 1 then b - 2 ^ f.signBit else b + 2 ^ f.signBit := by
      unfold FpFmt.neg
      split
      case h_1 p hp => exact absurd ⟨p, hp⟩ hnan
      case h_2 => rfl
    have hmag : f.neg b % 2 ^ f.signBit = b % 2 ^ f.signBit := by
      rw [hneg]
      split
      case isTrue h =>
        have : 2 ^ f.signBit ≤ b := by
          by_contra hlt
          rw [Nat.div_eq_of_lt (Nat.not_le.1 hlt)] at h
          omega
        exact (Nat.mod_eq_sub_mod this).symm
      case isFalse => exact Nat.add_mod_right ..
    have hsign : f.isNeg (f.neg b) = !f.isNeg b := by
      unfold FpFmt.isNeg
      rw [hneg]
      split
      case isTrue h =>
        have hdiv : (b - 2 ^ f.signBit) / 2 ^ f.signBit = b / 2 ^ f.signBit - 1 := by
          simpa using Nat.sub_mul_div b (2 ^ f.signBit) 1
        rw [hdiv, Bool.eq_not]
        grind
      case isFalse h =>
        rw [Nat.add_div_right _ hpos, Bool.eq_not]
        grind
    rw [decode_of_mag_eq hmag, hsign]
    have hb := decode_of_mag_eq (f := f) (b := b) rfl
    cases hv : f.decode b with
    | nan p => rfl
    | inf s =>
      rw [hv] at hb
      rw [← FpVal.inf.inj hb]
      rfl
    | fin s m e =>
      rw [isNeg_of_fin hv]
      rfl

/-! ### Sums (R120) -/

/-- o is the exact sum of x and y, rounded once; an exact zero has the sign that IEEE 754 gives it. -/
def SumRounded (f : FpFmt) (r : FpRound) (x y : Bool × Nat × Int) (o : Nat × FpFlags) : Prop :=
  let q := min x.2.2 y.2.2
  ∃ s m, o = f.round r s m q ∧ inUnits q (s, m, q) = inUnits q x + inUnits q y ∧
    (m = 0 → s = if x.2.1 = 0 ∧ y.2.1 = 0 ∧ x.1 = y.1 then x.1 else decide (r = FpRound.down))

theorem inUnits_self (q t : Int) : inUnits q (decide (t < 0), t.natAbs, q) = t := by
  unfold inUnits
  dsimp only
  rw [sub_self, Int.toNat_zero, pow_zero, mul_one]
  by_cases h : t < 0
  · rw [if_pos (decide_eq_true h)]
    omega
  · rw [if_neg (by simpa using h)]
    omega

theorem addFin_rounded (f : FpFmt) (r : FpRound) (s1 : Bool) (m1 : Nat) (e1 : Int) (s2 : Bool) (m2 : Nat) (e2 : Int) :
    SumRounded f r (s1, m1, e1) (s2, m2, e2)
      (f.round r (addFin r s1 m1 e1 s2 m2 e2).1 (addFin r s1 m1 e1 s2 m2 e2).2.1 (addFin r s1 m1 e1 s2 m2 e2).2.2) := by
  let q := min e1 e2
  let t : Int := inUnits q (s1, m1, e1) + inUnits q (s2, m2, e2)
  have hadd : addFin r s1 m1 e1 s2 m2 e2 =
      if t = 0 then ((if m1 = 0 ∧ m2 = 0 ∧ s1 = s2 then s1 else decide (r = .down)), 0, q) else (decide (t < 0), t.natAbs, q) := rfl
  rw [hadd]
  by_cases ht : t = 0
  · rw [if_pos ht]
    refine ⟨_, _, rfl, ?_, fun _ => rfl⟩
    change _ = t
    rw [ht]
    simp [inUnits]
  · rw [if_neg ht]
    exact ⟨_, _, rfl, inUnits_self q t, fun h => absurd (Int.natAbs_eq_zero.1 h) ht⟩

theorem add_fin (ha : f.decode a = .fin s1 m1 e1) (hb : f.decode b = .fin s2 m2 e2) (r : FpRound) :
    SumRounded f r (s1, m1, e1) (s2, m2, e2) (f.add r a b) := by
  unfold FpFmt.add
  rw [ha, hb]
  exact addFin_rounded ..

theorem sub_fin (ha : f.decode a = .fin s1 m1 e1) (hb : f.decode b = .fin s2 m2 e2) (r : FpRound) :
    SumRounded f r (s1, m1, e1) (negOf (s2, m2, e2)) (f.sub r a b) :=
  add_fin ha (by rw [decode_neg, hb]; rfl) r

theorem fma_fin {s3 : Bool} {m3 : Nat} {e3 : Int} (hc : f.decode c = .fin s3 m3 e3) (ha : f.decode a = .fin s1 m1 e1)
    (hb : f.decode b = .fin s2 m2 e2) (r : FpRound) :
    SumRounded f r (s3, m3, e3) (timesOf (s1, m1, e1) (s2, m2, e2)) (f.fma r c a b) := by
  unfold FpFmt.fma
  rw [ha, hb, hc]
  exact addFin_rounded ..

theorem mul_fin (ha : f.decode a = .fin s1 m1 e1) (hb : f.decode b = .fin s2 m2 e2) (r : FpRound) :
    f.mul r a b = f.round r (s1 != s2) (m1 * m2) (e1 + e2) := by
  unfold FpFmt.mul
  rw [ha, hb]

/-! ### Order -/

theorem compare_fin (ha : f.decode a = .fin s1 m1 e1) (hb : f.decode b = .fin s2 m2 e2) :
    f.compare a b = compare (inUnits (min e1 e2) (s1, m1, e1)) (inUnits (min e1 e2) (s2, m2, e2)) := by
  unfold FpFmt.compare
  rw [ha, hb]
  rfl

/-- Whether a value is a signalling NaN (R121). -/
def FpVal.signals : FpVal → Bool
  | .nan p => p
  | _ => false

theorem firstNan_pair (f : FpFmt) (x y : Nat) : (f.firstNan [x, y]).isSome = ((f.decode x).isNan || (f.decode y).isNan) := by
  unfold FpFmt.firstNan
  cases hx : f.decode x <;> cases hy : f.decode y <;> simp [hx, hy, FpVal.isNan]

theorem anySignal_pair (f : FpFmt) (x y : Nat) : f.anySignal [x, y] = ((f.decode x).signals || (f.decode y).signals) := by
  have hone (v : FpVal) : (v == .nan true) = v.signals := by
    rcases v with ⟨_ | _⟩ | _ | _ <;> rfl
  simp [FpFmt.anySignal, hone]

theorem firstNan_fin (ha : f.decode a = .fin s1 m1 e1) (hb : f.decode b = .fin s2 m2 e2) : f.firstNan [a, b] = none := by
  refine Option.not_isSome_iff_eq_none.1 ?_
  rw [firstNan_pair, ha, hb]
  exact Bool.false_ne_true

/-- The minimum and the maximum, by whether the first operand comes before the second. -/
theorem minMax_fin (ha : f.decode a = .fin s1 m1 e1) (hb : f.decode b = .fin s2 m2 e2) (isMax : Bool) : f.minMax isMax a b =
    (if (match f.compare a b with | .lt => true | .gt => false | .eq => s1) != isMax then a else b, {}) := by
  unfold FpFmt.minMax
  rw [firstNan_fin ha hb, isNeg_of_fin ha]
  rfl

theorem minMax_of_before (ha : f.decode a = .fin s1 m1 e1) (hb : f.decode b = .fin s2 m2 e2)
    (h : BeforeOf (s1, m1, e1) (s2, m2, e2)) : f.minMax false a b = (a, {}) ∧ f.minMax true a b = (b, {}) := by
  rw [minMax_fin ha hb, minMax_fin ha hb, compare_fin ha hb]
  rcases h with h | ⟨h, -, -, hs, -⟩
  · rw [compare_lt_iff_lt.2 h]
    exact ⟨rfl, rfl⟩
  · rw [compare_eq_iff_eq.2 h, show s1 = true from hs]
    exact ⟨rfl, rfl⟩

theorem minMax_of_after (ha : f.decode a = .fin s1 m1 e1) (hb : f.decode b = .fin s2 m2 e2)
    (h : BeforeOf (s2, m2, e2) (s1, m1, e1)) : f.minMax false a b = (b, {}) ∧ f.minMax true a b = (a, {}) := by
  rw [minMax_fin ha hb, minMax_fin ha hb, compare_fin ha hb, min_comm]
  rcases h with h | ⟨h, -, -, -, hs⟩
  · rw [compare_gt_iff_gt.2 h]
    exact ⟨rfl, rfl⟩
  · rw [compare_eq_iff_eq.2 h.symm, show s1 = false from hs]
    exact ⟨rfl, rfl⟩

/-! ### Quotients -/

theorem compare_mul_right {x y z : ℚ} (h : 0 < z) : compare (x * z) (y * z) = compare x y := by
  rcases lt_trichotomy x y with hxy | rfl | hxy
  · rw [compare_lt_iff_lt.2 hxy, compare_lt_iff_lt]
    exact mul_lt_mul_of_pos_right hxy h
  · rw [compare_eq_iff_eq.2 (rfl : x = x), compare_eq_iff_eq]
  · rw [compare_gt_iff_gt.2 hxy, compare_gt_iff_gt]
    exact mul_lt_mul_of_pos_right hxy h

/-- A magnitude whose last bit says that something below it was lost rounds as the value does (R120). -/
theorem SameSide.of_sticky {q st : Nat} {x y : ℚ} (hx : x = y * 2 ^ e) (h : y = 2 * q ∧ st = 0 ∨ (2 * q < y ∧ y < 2 * q + 2) ∧ st = 1)
    (hunit : e + 2 ≤ f.unitOf (2 * q + st) e) : SameSide f (2 * q + st) e x := by
  intro k
  let l : Nat := k * 2 ^ (f.unitOf (2 * q + st) e - e - 2).toNat
  have hpos : (0 : ℚ) < 2 * 2 ^ e := by positivity
  have hk : (k : ℚ) * 2 ^ f.unitOf (2 * q + st) e = 2 * l * (2 * 2 ^ e) := by
    have hexp : f.unitOf (2 * q + st) e = ((f.unitOf (2 * q + st) e - e - 2).toNat : Int) + 2 + e := by omega
    have hpow : (2 : ℚ) ^ f.unitOf (2 * q + st) e = 2 ^ (f.unitOf (2 * q + st) e - e - 2).toNat * 2 ^ (2 : Int) * 2 ^ e := by
      rw [← zpow_natCast, ← zpow_add₀ (by norm_num), ← zpow_add₀ (by norm_num), ← hexp]
    rw [hpow]
    push_cast [l]
    ring
  rw [hk, hx, show 2 * (y * 2 ^ e) = y * (2 * 2 ^ e) by ring,
    show 2 * (((2 * q + st : Nat) : ℚ) * 2 ^ e) = ((2 * q + st : Nat) : ℚ) * (2 * 2 ^ e) by ring,
    compare_mul_right hpos, compare_mul_right hpos]
  rcases h with ⟨rfl, rfl⟩ | ⟨⟨hlo, hhi⟩, rfl⟩
  · push_cast
    rw [add_zero]
  · push_cast
    rcases Nat.lt_or_ge q l with hl | hl
    · have hl : (q : ℚ) + 1 ≤ l := by exact_mod_cast hl
      rw [compare_lt_iff_lt.2 (by linarith), compare_lt_iff_lt.2 (by linarith)]
    · have hl : (l : ℚ) ≤ q := by exact_mod_cast hl
      rw [compare_gt_iff_gt.2 (by linarith), compare_gt_iff_gt.2 (by linarith)]

/-- A magnitude of enough bits is rounded to units of at least four of its own. -/
theorem add_two_le_unitOf (h : 2 ^ (f.mbits + 3) ≤ m) : e + 2 ≤ f.unitOf m e := by
  have hlt := (Nat.pow_lt_pow_iff_right (by decide)).1 (h.trans_lt (lt_two_pow_bitLen m))
  refine le_max_of_le_left ?_
  omega

/-- The quotient of a division has bits enough to round once. -/
theorem quotient_bits (hm1 : m1 ≠ 0) (hm2 : m2 ≠ 0) (extra : Nat) :
    2 ^ extra ≤ m1 * 2 ^ (extra + 1 + bitLen m2 - bitLen m1) / m2 := by
  obtain ⟨hlo, h1⟩ := two_pow_le_of_bitLen hm1
  rw [Nat.le_div_iff_mul_le (Nat.pos_of_ne_zero hm2)]
  calc 2 ^ extra * m2 ≤ 2 ^ extra * 2 ^ bitLen m2 := Nat.mul_le_mul_left _ (lt_two_pow_bitLen m2).le
    _ = 2 ^ (extra + bitLen m2) := (pow_add ..).symm
    _ ≤ 2 ^ (bitLen m1 - 1 + (extra + 1 + bitLen m2 - bitLen m1)) := Nat.pow_le_pow_right (by decide) (by omega)
    _ = 2 ^ (bitLen m1 - 1) * 2 ^ (extra + 1 + bitLen m2 - bitLen m1) := pow_add ..
    _ ≤ _ := Nat.mul_le_mul_right _ hlo

theorem div_fin (ha : f.decode a = .fin s1 m1 e1) (hb : f.decode b = .fin s2 m2 e2) (hm2 : m2 ≠ 0) (r : FpRound) :
    f.div r a b = let k := f.mbits + 4 + bitLen m2 - bitLen m1
      let n := m1 * 2 ^ k
      f.round r (s1 != s2) (2 * (n / m2) + if n % m2 = 0 then 0 else 1) (e1 - e2 - k - 1) := by
  unfold FpFmt.div
  rw [ha, hb]
  exact if_neg hm2

/-- A quotient to nearest is the pattern nearest to the exact quotient (R120). -/
theorem div_nearest (he : 2 ≤ f.ebits) (h1 : 1 ≤ f.mbits) (ha : f.decode a = .fin s1 m1 e1) (hb : f.decode b = .fin s2 m2 e2)
    (hm1 : m1 ≠ 0) (hm2 : m2 ≠ 0) :
    ∃ mag, (f.div .nearest a b).1 = f.signed (s1 != s2) mag ∧ Nearest f m1 m2 (e1 - e2) mag := by
  rw [div_fin ha hb hm2]
  dsimp only
  have hq := quotient_bits hm1 hm2 (f.mbits + 3)
  change 2 ^ (f.mbits + 3) ≤ m1 * 2 ^ (f.mbits + 4 + bitLen m2 - bitLen m1) / m2 at hq
  have hpos : 0 < 2 ^ (f.mbits + 3) := Nat.two_pow_pos _
  generalize f.mbits + 4 + bitLen m2 - bitLen m1 = k at hq ⊢
  have hd : (m2 : ℚ) ≠ 0 := Nat.cast_ne_zero.2 hm2
  have hdpos : (0 : ℚ) < m2 := Nat.cast_pos.2 (Nat.pos_of_ne_zero hm2)
  have hdm : (m2 : ℚ) * (m1 * 2 ^ k / m2 : Nat) + (m1 * 2 ^ k % m2 : Nat) = m1 * 2 ^ k := by
    exact_mod_cast Nat.div_add_mod (m1 * 2 ^ k) m2
  have hrem : ((m1 * 2 ^ k % m2 : Nat) : ℚ) < m2 := by exact_mod_cast Nat.mod_lt _ (Nat.pos_of_ne_zero hm2)
  have hx : (m1 / m2 * 2 ^ (e1 - e2) : ℚ) = 2 * (m1 * 2 ^ k) / m2 * 2 ^ (e1 - e2 - k - 1) := by
    have hexp : (2 : ℚ) ^ (e1 - e2) = 2 ^ (e1 - e2 - k - 1) * 2 ^ k * 2 := by
      rw [← zpow_natCast, ← zpow_add₀ (by norm_num), ← zpow_add_one₀ (by norm_num)]
      congr 1
      omega
    rw [hexp]
    ring
  have hside : SameSide f (2 * (m1 * 2 ^ k / m2) + if m1 * 2 ^ k % m2 = 0 then 0 else 1) (e1 - e2 - k - 1) (m1 / m2 * 2 ^ (e1 - e2)) := by
    refine SameSide.of_sticky hx ?_ (add_two_le_unitOf (by omega))
    rw [← hdm]
    by_cases h0 : m1 * 2 ^ k % m2 = 0
    · rw [if_pos h0, h0]
      refine .inl ⟨?_, rfl⟩
      field_simp
      simp
    · rw [if_neg h0]
      have h0 : (0 : ℚ) < (m1 * 2 ^ k % m2 : Nat) := Nat.cast_pos.2 (Nat.pos_of_ne_zero h0)
      refine .inr ⟨⟨?_, ?_⟩, rfl⟩
      · rw [lt_div_iff₀ hdpos]
        nlinarith
      · rw [div_lt_iff₀ hdpos]
        nlinarith
  obtain ⟨mag, hres, hnear, -⟩ := round_nearest (neg := s1 != s2) (n := m1) (d := m2) (e' := e1 - e2) he h1 (by omega)
    (Nat.pos_of_ne_zero hm2) (by field_simp) hside
  exact ⟨mag, hres, hnear⟩

theorem div_zero_num (ha : f.decode a = .fin s1 0 e1) (hb : f.decode b = .fin s2 m2 e2) (hm2 : m2 ≠ 0) (r : FpRound) :
    f.div r a b = (f.signed (s1 != s2) 0, {}) := by
  rw [div_fin ha hb hm2]
  simp [FpFmt.round, FpFmt.signed]

theorem nanResult_invalid (ha : ∀ p, f.decode a ≠ .nan p) (hb : ∀ p, f.decode b ≠ .nan p) :
    f.nanResult [a, b] true = (f.qnan, { nv := true }) := by
  have hnot {v : FpVal} (h : ∀ p, v ≠ .nan p) : v.isNan = false := by
    cases v with
    | nan p => exact absurd rfl (h p)
    | _ => rfl
  have hnone : f.firstNan [a, b] = none := by
    refine Option.not_isSome_iff_eq_none.1 ?_
    rw [firstNan_pair, hnot ha, hnot hb]
    exact Bool.false_ne_true
  simp [FpFmt.nanResult, hnone]

theorem div_zero_den (ha : f.decode a = .fin s1 m1 e1) (hb : f.decode b = .fin s2 0 e2) (r : FpRound) :
    f.div r a b = if m1 = 0 then (f.qnan, { nv := true }) else (f.signed (s1 != s2) f.infBits, { dz := true }) := by
  unfold FpFmt.div
  rw [ha, hb]
  exact congrArg (if m1 = 0 then · else _) (nanResult_invalid (by simp [ha]) (by simp [hb]))

/-! ### NaN operands (R121) -/

theorem nanResult_left (ha : f.decode a = .nan p) : f.nanResult [a, b] false = (f.quiet a, { nv := p || f.decode b == .nan true }) := by
  cases p <;> simp [FpFmt.nanResult, FpFmt.firstNan, FpFmt.anySignal, ha]

theorem nanResult_right (ha : ∀ q, f.decode a ≠ .nan q) (hb : f.decode b = .nan p) :
    f.nanResult [a, b] false = (f.quiet b, { nv := p }) := by
  cases hva : f.decode a with
  | nan q => exact absurd hva (ha q)
  | inf s => cases p <;> simp [FpFmt.nanResult, FpFmt.firstNan, FpFmt.anySignal, hva, hb]
  | fin s m e => cases p <;> simp [FpFmt.nanResult, FpFmt.firstNan, FpFmt.anySignal, hva, hb]

/-- An operation on two operands, one of them a NaN, gives the NaN result of its operands. -/
theorem op_of_nan (f : FpFmt) (r : FpRound) (h : (∃ p, f.decode a = .nan p) ∨ ∃ p, f.decode b = .nan p) :
    ∀ op ∈ [f.add r, f.mul r, f.div r, f.minMax false, f.minMax true], op a b = f.nanResult [a, b] false := by
  have hsome : (f.firstNan [a, b]).isSome = true := by
    rw [firstNan_pair]
    rcases h with ⟨p, hp⟩ | ⟨p, hp⟩
    · rw [hp]
      rfl
    · rw [hp]
      exact Bool.or_true _
  intro op hop
  simp only [List.mem_cons, List.not_mem_nil, or_false] at hop
  rcases hop with rfl | rfl | rfl | rfl | rfl
  · unfold FpFmt.add
    rcases h with ⟨p, hp⟩ | ⟨p, hp⟩
    · rw [hp]
    · rw [hp]
      cases f.decode a <;> rfl
  · unfold FpFmt.mul
    rcases h with ⟨p, hp⟩ | ⟨p, hp⟩
    · rw [hp]
    · rw [hp]
      cases f.decode a <;> rfl
  · unfold FpFmt.div
    rcases h with ⟨p, hp⟩ | ⟨p, hp⟩
    · rw [hp]
    · rw [hp]
      cases f.decode a <;> rfl
  · exact if_pos hsome
  · exact if_pos hsome

theorem nanResult_neg (f : FpFmt) (a b : Nat) (h : (∃ p, f.decode a = .nan p) ∨ ∃ p, f.decode b = .nan p) :
    f.nanResult [a, f.neg b] false = f.nanResult [a, b] false := by
  by_cases hb : ∃ p, f.decode b = .nan p
  · obtain ⟨p, hp⟩ := hb
    rw [neg_of_nan hp]
  · obtain ⟨p, ha⟩ := h.resolve_right hb
    rw [nanResult_left ha, nanResult_left ha, decode_neg]
    cases hv : f.decode b with
    | nan q => exact absurd ⟨q, hv⟩ hb
    | inf s => rfl
    | fin s m e => rfl

theorem sub_of_nan (f : FpFmt) (r : FpRound) (h : (∃ p, f.decode a = .nan p) ∨ ∃ p, f.decode b = .nan p) :
    f.sub r a b = f.nanResult [a, b] false := by
  rw [← nanResult_neg f a b h]
  refine op_of_nan f r (h.imp_right fun ⟨p, hp⟩ => ⟨p, ?_⟩) _ List.mem_cons_self
  rw [neg_of_nan hp, hp]

end

end Sys2Proof.Machine

namespace Sys2Proof.Machine
open Sys2Proof

/-! ### Infinities -/

section
variable {f : FpFmt} {a b m1 m2 : Nat} {e1 e2 : Int} {s1 s2 : Bool}

theorem ops_inf_inf (ha : f.decode a = .inf s1) (hb : f.decode b = .inf s2) (r : FpRound) :
    f.add r a b = (if s1 = s2 then (a, {}) else (f.qnan, { nv := true })) ∧ f.div r a b = (f.qnan, { nv := true }) ∧
    f.compare a b = (if s1 = s2 then .eq else if s1 then .lt else .gt) := by
  have hinvalid : f.nanResult [a, b] true = (f.qnan, { nv := true }) := nanResult_invalid (by simp [ha]) (by simp [hb])
  refine ⟨?_, ?_, ?_⟩
  · unfold FpFmt.add
    rw [ha, hb, ← hinvalid]
  · unfold FpFmt.div
    rw [ha, hb, ← hinvalid]
  · unfold FpFmt.compare
    rw [ha, hb]
    cases s1 <;> cases s2 <;> rfl

theorem ops_inf_fin (ha : f.decode a = .inf s1) (hb : f.decode b = .fin s2 m2 e2) (r : FpRound) :
    f.add r a b = (a, {}) ∧ f.div r a b = (f.signed (s1 != s2) f.infBits, {}) ∧ f.div r b a = (f.signed (s1 != s2) 0, {}) ∧
    f.mul r a b = (if m2 = 0 then (f.qnan, { nv := true }) else (f.signed (s1 != s2) f.infBits, {})) ∧
    f.compare a b = if s1 then .lt else .gt := by
  have hinvalid : f.nanResult [a, b] true = (f.qnan, { nv := true }) := nanResult_invalid (by simp [ha]) (by simp [hb])
  refine ⟨?_, ?_, ?_, ?_, ?_⟩
  · unfold FpFmt.add
    rw [ha, hb]
  · unfold FpFmt.div
    rw [ha, hb]
  · unfold FpFmt.div
    rw [ha, hb, bne_comm]
  · unfold FpFmt.mul
    rw [ha, hb, ← hinvalid]
  · unfold FpFmt.compare
    rw [ha, hb]
    cases s1 <;> rfl

end

/-! ### The instructions (R142) -/

section
variable {c : CtxId} {s t u : State} {m : BitVec 3} {d : BitVec 22} {a b : TWord} {z : FpSize}

/-- The effect of an FP instruction of two operands (R120, R121, R142). -/
theorem fpInstr_run {f : FpRound → Nat → Nat → Nat × FpFlags} (hr : Reads c m d t b u) (ha : (t.getCtx c).getA = a)
    (hta : isFlt a.tag = true) (htb : isFlt b.tag = true) :
    let v := f (u.getCtx c).rm (z.unbox a.val) (z.unbox b.val)
    fpInstr z f m d c t =
      .ok () (countCtx 0 10 1 c none (u.modCtx c fun k => ((incY m d k).setSticky v.2).setA ⟨z.box v.1, Tag.flt⟩)) := by
  intro v
  unfold fpInstr
  rw [run_bind_ok (readPair_reads hr ha hta htb)]
  dsimp only
  rw [run_bind_ok (run_getC c u), run_bind_ok (run_postIncrement c m d u), run_bind_ok (run_modC ..), modCtx_modCtx]
  rfl

theorem run_needX {acc : Tag → Bool} (h : acc (t.getCtx c).getX.tag = true) : needX c acc t = .ok () t := by
  unfold needX
  rw [run_bind_ok (run_getC c t)]
  simp only [h]
  rfl

/-- The effect of FMAC (R142). -/
theorem fmacInstr_run (hr : Reads c m d t b u) (ha : (t.getCtx c).getA = a) (hta : isFlt a.tag = true) (htb : isFlt b.tag = true)
    (hxt : isFlt (t.getCtx c).getX.tag = true) (hxu : isFlt (u.getCtx c).getX.tag = true) :
    let v := z.fmt.fma (u.getCtx c).rm (z.unbox a.val) (z.unbox (u.getCtx c).getX.val) (z.unbox b.val)
    fmacInstr z m d c t =
      .ok () (countCtx 0 10 1 c none (u.modCtx c fun k => ((incY m d k).setSticky v.2).setA ⟨z.box v.1, Tag.flt⟩)) := by
  intro v
  unfold fmacInstr
  rw [run_bind_ok (readPair_ok hr ha hta htb (run_needX hxt) (run_needX hxu))]
  dsimp only
  rw [run_bind_ok (run_getC c u), run_bind_ok (run_postIncrement c m d u), run_bind_ok (run_modC ..), modCtx_modCtx]
  rfl

/-- The effect of a comparison (R122). -/
theorem fcmpInstr_run (ordered : Bool) (hr : Reads c m d t b u) (ha : (t.getCtx c).getA = a) (hta : isFlt a.tag = true)
    (htb : isFlt b.tag = true) :
    fcmpInstr z ordered m d c t = .ok () (countCtx 0 10 1 c none (u.modCtx c fun k =>
      let v := fpCompare z.fmt ordered k.st (z.unbox a.val) (z.unbox b.val)
      ({ incY m d k with st := v.1 } : Ctx).setSticky v.2)) := by
  unfold fcmpInstr
  rw [run_bind_ok (readPair_reads hr ha hta htb)]
  dsimp only
  rw [run_bind_ok (run_postIncrement c m d u), run_bind_ok (run_modC ..), modCtx_modCtx]
  simp only [incY_st]
  rfl

theorem exec_fp : ∀ row ∈ fpRows, ∀ (m : BitVec 3) (d : BitVec 22) (s : State),
    exec (row.1 m d) s = runSeq (fpInstr row.2.1 row.2.2 m d) s := by
  intro row hrow m d s
  simp only [fpRows, List.mem_cons, List.not_mem_nil, or_false] at hrow
  rcases hrow with rfl | rfl | rfl | rfl | rfl | rfl | rfl | rfl | rfl | rfl | rfl | rfl <;> rfl

theorem stFlags_unordered (st : W32) : stFlags st false false false true = (st &&& 0xFFFFFFF0#32) ||| 8#32 := by
  simp [stFlags, bAt]

theorem stFlags_equal (st : W32) : stFlags st false true false false = (st &&& 0xFFFFFFF0#32) ||| 2#32 := by
  simp [stFlags, bAt]

theorem stFlags_less (st : W32) : stFlags st false false true false = (st &&& 0xFFFFFFF0#32) ||| 4#32 := by
  simp [stFlags, bAt]

theorem stFlags_greater (st : W32) : stFlags st true false false false = (st &&& 0xFFFFFFF0#32) ||| 1#32 := by
  simp [stFlags, bAt]

/-- The flags and the sticky bit of a comparison as masks of ST (R97, R122). -/
theorem fpCompare_st (f : FpFmt) (ordered : Bool) (st : W32) (x y : Nat) :
    let nan := (f.decode x).isNan || (f.decode y).isNan
    let v := fpCompare f ordered st x y
    v.1 ||| v.2.sticky = (st &&& 0xFFFFFFF0#32) |||
        (if nan then 8#32 else match f.compare x y with | .gt => 1#32 | .eq => 2#32 | .lt => 4#32) |||
        (if nan && (ordered || (f.decode x).signals || (f.decode y).signals) then 0x00800000#32 else 0#32) := by
  dsimp only
  unfold fpCompare
  rw [firstNan_pair, anySignal_pair, ← Bool.or_assoc]
  have hnone : FpFlags.sticky {} = 0#32 := by decide
  cases (f.decode x).isNan || (f.decode y).isNan with
  | true =>
    simp only [if_true, Bool.true_and, stFlags_unordered]
    cases ordered || (f.decode x).signals || (f.decode y).signals <;> rfl
  | false =>
    simp only [Bool.false_eq_true, if_false, Bool.false_and]
    cases f.compare x y
    · simp only [stFlags_less, hnone]
    · simp only [stFlags_equal, hnone]
    · simp only [stFlags_greater, hnone]

end

/-- The operations that treat a NaN as R121 says, one of the operands a NaN. -/
theorem nanOps_eq {f : FpFmt} {x y : Nat} (r : FpRound) (h : (∃ p, f.decode x = .nan p) ∨ ∃ p, f.decode y = .nan p) :
    ∀ op ∈ [f.add r, f.sub r, f.mul r, f.div r, f.minMax false, f.minMax true], op x y = f.nanResult [x, y] false := by
  have hsub := sub_of_nan f r h
  have hops := op_of_nan f r h
  simp only [List.forall_mem_cons, List.not_mem_nil, IsEmpty.forall_iff, implies_true, and_true] at hops ⊢
  exact ⟨hops.1, hsub, hops.2⟩

/-- Settles O13: the values of the operations, then the instructions by their effect on the context. -/
theorem floatArithmetic : Obligations.FloatArithmetic := by
  refine ⟨fun f hf r a b _ _ => ⟨?_, fun s1 s2 ha hb => ops_inf_inf ha hb r, fun s1 s2 m2 e2 ha hb => ops_inf_fin ha hb r,
    fun op hop => ⟨?_, ?_⟩⟩, fun c s t u m d a b hbeg hr ha hta htb => ⟨?_, ?_⟩, ?_⟩
  · intro s1 m1 e1 s2 m2 e2 ha hb
    have hfmt : 2 ≤ f.ebits ∧ 1 ≤ f.mbits := by
      simp only [List.mem_cons, List.not_mem_nil, or_false] at hf
      rcases hf with rfl | rfl <;> decide
    refine ⟨add_fin ha hb r, sub_fin ha hb r, mul_fin ha hb r, fun hm1 hm2 => ⟨div_nearest hfmt.1 hfmt.2 ha hb hm1 hm2, _,
      quotient_bits hm1 hm2 (f.mbits + 3), div_fin ha hb hm2 r⟩, ?_, ?_, fun c s3 m3 e3 hc => fma_fin hc ha hb r, compare_fin ha hb,
      ?_, minMax_of_before ha hb, minMax_of_after ha hb⟩
    · rintro rfl hm2
      exact div_zero_num ha hb hm2 r
    · rintro rfl
      exact div_zero_den ha hb r
    · rintro rfl rfl
      rw [compare_fin ha hb]
      simp [inUnits]
  · intro p ha
    rw [nanOps_eq r (.inl ⟨p, ha⟩) op hop, nanResult_left ha]
  · intro p ha hb
    rw [nanOps_eq r (.inr ⟨p, hb⟩) op hop, nanResult_right ha hb]
  · intro row hrow
    rw [exec_fp row hrow, runSeq_ends hbeg (fpInstr_run hr ha (beq_iff_eq.2 hta) (beq_iff_eq.2 htb))]
    simp only [Ctx.setSticky, incY_st]
    rfl
  · intro row hrow x hxt hxu htx r
    have hexec : exec (row.1 m d) s = runSeq (fmacInstr row.2 m d) s := by
      simp only [List.mem_cons, List.not_mem_nil, or_false] at hrow
      rcases hrow with rfl | rfl <;> rfl
    rw [hexec, runSeq_ends hbeg (fmacInstr_run hr ha (beq_iff_eq.2 hta) (beq_iff_eq.2 htb) (hxt ▸ beq_iff_eq.2 htx)
      (hxu ▸ beq_iff_eq.2 htx)), hxu]
    simp only [Ctx.setSticky, incY_st]
    rfl
  · intro row hrow c s t u m d a b hbeg hr ha hta htb f x y nan sig fl nv
    have hexec : exec (row.1 m d) s = runSeq (fcmpInstr row.2.1 row.2.2 m d) s := by
      simp only [List.mem_cons, List.not_mem_nil, or_false] at hrow
      rcases hrow with rfl | rfl | rfl | rfl <;> rfl
    rw [hexec, runSeq_ends hbeg (fcmpInstr_run row.2.2 hr ha (beq_iff_eq.2 hta) (beq_iff_eq.2 htb))]
    simp only [Ctx.setSticky, fpCompare_st]
    rfl

end Sys2Proof.Machine
